-- ==== Sys2Proof/Word.lean ====
section
/-! DEFINITION. Word types of the Icesh and their plainest arithmetic (R3, R4, R6). -/

namespace Sys2Proof

/-- One byte of any byte-addressed store. -/
abbrev Byte := BitVec 8
/-- A 16-bit half. -/
abbrev W16 := BitVec 16
/-- A stream word, a slot word, an FP32 lane. -/
abbrev W32 := BitVec 32
/-- A scalar register, an address, a 64-bit system register. -/
abbrev W64 := BitVec 64
/-- A gallery line as 256 bytes, low byte first, is read and written as bytes; a view descriptor is one word. -/
abbrev Desc := BitVec 128

end Sys2Proof
end

