-- ==== Sys2Proof/Config.lean ====
section
/-! DEFINITION. What an implementation fixes and the free values of the model: constants without a body, of which no
proof can know a value (assumption log 1, 2, 3), and the numbers the spec fixes for the family. -/

namespace Sys2Proof

/-- Free value: the byte that undefined contents (R8) of generation `gen` hold at address `a` (log 1). -/
opaque Config.undefByte (gen a : Nat) : Byte

/-- A byte of a tape whose contents a change of its tables has left undefined (R155; log 2): by the tick, the tape, the record, who
reads and the byte's index. -/
opaque Config.tornByte (tick tape record who i : Nat) : Byte

/-- Free value: a 64-bit value the spec leaves open, drawn at counter `n` (log 2). -/
opaque Config.freeValue (n : Nat) : W64

/-- The identifier and the secret that tree `t` of the identity key of seed `seed` starts from: the spec does not say how a seed gives
them (R36; log 3). -/
opaque Config.hssTree (seed : W64) (t : Nat) : List Byte × List Byte

/-- The randomizer of a signature with index `q` at a level (R35; log 3). -/
opaque Config.hssRandom (seed : W64) (q level : Nat) : List Byte

/-- The key that exists only inside the root of trust (R32). -/
opaque Config.emramKey : List Byte

/-- The vendor root public key held in ROM, encoded (Table 2.2 step 1; log 3). -/
opaque Config.vendorKey : List Byte

/-- The version a firmware image carries; its layout is not in the spec (log 4). -/
opaque Config.imageVersion (bytes : List Byte) : Nat

/-- The signature part and the signed part of a firmware image or cfg blob; the layout is not in the spec (log 4). -/
opaque Config.splitSigned (bytes : List Byte) : List Byte × List Byte

/-- The seed of the identity key generated on the change OPEN to PROVISIONED (R37; log 3). -/
opaque Config.identitySeed (boot : Nat) : W64

/-- The digest of the settings applied at boot step 3 (Table 2.2, meas2; log 4). -/
opaque Config.settingsObject (bytes : List Byte) : List Byte

/-- Digests of the agent, I/O and management firmware carried by a firmware image (Table 2.2 step 4; log 4). -/
opaque Config.agentObject (bytes : List Byte) (k : Nat) : List Byte

/-- Whether the landing agent, I/O and management firmware that a firmware image carries verify (Table 2.2 step 4; log 4). -/
opaque Config.agentsGood (bytes : List Byte) : Bool

/-- Package ticks of 100 µs at 1.2 GHz (R24). -/
def Config.rxTimeout : Nat := 120000
/-- Ticks between keepalive flits (R23). -/
def Config.keepalive : Nat := 64
/-- Places of a transmitter's replay buffer (R22). -/
def Config.replayDepth : Nat := 512
/-- Ageing interval in ticks (R91). -/
def Config.ageing : Nat := 300000
/-- Pre-emption trigger in ticks (R92). -/
def Config.preempt : Nat := 60000
/-- Basin trigger in ticks (R93). -/
def Config.basinWait : Nat := 4096
/-- Cut timeout in ticks (R100). -/
def Config.cutTimeout : Nat := 6000000
/-- Retry interval of an abandoned pre-emption cut (R100). -/
def Config.cutRetry : Nat := 60000
/-- Ticks from acceptance to answer of a next-tile request (R88). -/
def Config.nexttReply : Nat := 14
/-- Ticks from the handrail's AND to the restart (R133). -/
def Config.handrail : Nat := 12
/-- Entries of the withhold buffer, of the undo log, of the replay buffer and poison tags of a core (R126, R104, R148). -/
def Config.withhold : Nat := 128
def Config.undoLines : Nat := 256
def Config.replayEntries : Nat := 64
def Config.poisonTags : Nat := 16
/-- Node records of the package (R72). -/
def Config.nodeRecords : Nat := 16384
/-- Device record buffer of a function (R60). -/
def Config.recordBuffer : Nat := 256
/-- Commands a context queues (R218). -/
def Config.queueDepth : Nat := 256
/-- Entries of a hall's extent cache and of a core's dictionary cache (R158, R269). -/
def Config.extentCache : Nat := 512
def Config.dictCache : Nat := 1024
/-- Fetch granularity of the instruction cache; the spec gives no line size (log 5). -/
def Config.icacheLine : Nat := 64

end Sys2Proof
end

