-- ==== Sys2Proof/Machine/Memory.lean ====
section
/-! DEFINITION. Byte memory: a sorted list of cells in one canonical form, and its reads and writes (R4, R8). One type
serves every byte-addressed store of the package. -/

namespace Sys2Proof.Machine

/-- A byte-addressed store. An unlisted byte reads 0 when `gen` is 0 (the choice of log 8), and as the undefined byte of
generation `gen` at its address otherwise (R8; log 1). -/
structure Mem where
  gen : Nat
  cells : List Host.Cell
  deriving DecidableEq, Repr

/-- What an unlisted address reads as. -/
def Mem.blank (gen a : Nat) : Byte := if gen = 0 then 0 else Config.undefByte gen a

/-- A store of which nothing has been written since it became undefined, or since reset. -/
def Mem.empty (gen : Nat) : Mem := ⟨gen, []⟩

/-- No cell equals what its address reads as unlisted; asked of generation 0 only, where that value is known. -/
def Mem.kept (gen : Nat) (v : Byte) : Bool := gen != 0 || v != 0

/-- The canonical form: addresses strictly rising, and no entry that an unlisted address would read as. -/
def Mem.wf (m : Mem) : Bool :=
  (m.cells.map Prod.fst).Pairwise (· < ·) && m.cells.all (fun c => Mem.kept m.gen c.2)

/-- The byte at `a`. -/
def Mem.readCells (gen : Nat) : List Host.Cell → Nat → Byte
  | [], a => Mem.blank gen a
  | (k, v) :: rest, a => if a < k then Mem.blank gen a else if a = k then v else Mem.readCells gen rest a

/-- The byte at `a`. -/
def Mem.read (m : Mem) (a : Nat) : Byte := Mem.readCells m.gen m.cells a

/-- The cells below `a` with `tail` behind them. -/
def Mem.below (a : Nat) : List Host.Cell → List Host.Cell → List Host.Cell
  | [], tail => tail
  | (k, v) :: rest, tail => if k < a then (k, v) :: Mem.below a rest tail else tail

/-- The cells from `a` upward. -/
def Mem.from (a : Nat) : List Host.Cell → List Host.Cell
  | [] => []
  | (k, v) :: rest => if k < a then Mem.from a rest else (k, v) :: rest

/-- Cells for the bytes `bs` from `a`, without those equal to the blank of generation 0. -/
def Mem.block (gen a : Nat) : List Byte → List Host.Cell
  | [] => []
  | b :: bs => if Mem.kept gen b then (a, b) :: Mem.block gen (a + 1) bs else Mem.block gen (a + 1) bs

/-- The store with the bytes `bs` from `a` upward. -/
def Mem.write (m : Mem) (a : Nat) (bs : List Byte) : Mem :=
  { m with cells := Mem.below a m.cells (Mem.block m.gen a bs ++ Mem.from (a + bs.length) m.cells) }

/-- The `n` bytes from the head of a cell list whose cells lie at `a` or above, from `a`. -/
def Mem.readRun (gen : Nat) : Nat → List Host.Cell → Nat → List Byte
  | 0, _, _ => []
  | n + 1, [], a => Mem.blank gen a :: Mem.readRun gen n [] (a + 1)
  | n + 1, (k, v) :: rest, a =>
    if a < k then Mem.blank gen a :: Mem.readRun gen n ((k, v) :: rest) (a + 1)
    else v :: Mem.readRun gen n rest (a + 1)

/-- The `n` bytes from `a`. -/
def Mem.bytes (m : Mem) (a n : Nat) : List Byte := Mem.readRun m.gen n (Mem.from a m.cells) a

/-- The little-endian number that `bs` holds (R4). -/
def leVal : List Byte → Nat
  | [] => 0
  | b :: bs => b.toNat + 256 * leVal bs

/-- `n` little-endian bytes of `v` (R4). -/
def leBytes (n v : Nat) : List Byte :=
  (List.range n).map (fun k => BitVec.ofNat 8 (v >>> (8 * k)))

/-- The `n`-byte little-endian value at `a` (R4). -/
def Mem.num (m : Mem) (a n : Nat) : Nat := leVal (m.bytes a n)

/-- The store with the `n`-byte little-endian value `v` at `a`. -/
def Mem.put (m : Mem) (a n v : Nat) : Mem := m.write a (leBytes n v)

end Sys2Proof.Machine
end

