-- ==== Sys2Proof/Machine/Hss.lean ====
section
/-! DEFINITION. The signature scheme the spec names (R35, Table 2.4a): HSS of two levels of LMS_SHA256_M32_H10 with
LMOTS_SHA256_N32_W4, and HMAC-SHA-256 (R32). The spec gives neither's inside: RFC 8554 and RFC 2104 (log 3). -/

namespace Sys2Proof.Machine

/-- A number as `n` bytes, the highest first, as RFC 8554 has every field. -/
def beBytes (n v : Nat) : List Byte := (leBytes n v).reverse
def beVal (bs : List Byte) : Nat := leVal bs.reverse

/-- `n` bytes of a string from `a`. -/
def part (bs : List Byte) (a n : Nat) : List Byte := (bs.drop a).take n

/-- Exactly `n` bytes. -/
def fitTo (n : Nat) (bs : List Byte) : List Byte := (bs ++ List.replicate n 0).take n

/-- HMAC-SHA-256 under a key of 32 bytes. -/
def hmac (key msg : List Byte) : List Byte :=
  let k := fitTo 64 key
  sha256 (k.map (fun b => b ^^^ 0x5C) ++ sha256 (k.map (fun b => b ^^^ 0x36) ++ msg))

/-! ## LM-OTS: 67 chains of 15 steps -/

/-- Digit `i` of 4 bits of a string. -/
def digit (bs : List Byte) (i : Nat) : Nat :=
  let b := (bs.getD (i / 2) 0).toNat
  if i % 2 = 0 then b / 16 else b % 16

/-- The 64 digits of a digest and the 3 of its checksum. -/
def otsDigits (q : List Byte) : List Nat :=
  let ds := (List.range 64).map (digit q)
  let sum := beBytes 2 ((ds.map (fun d => 15 - d)).sum * 16)
  ds ++ (List.range 3).map (digit sum)

/-- `n` steps of chain `i` from step `j`. -/
def otsChain (id : List Byte) (q i : Nat) : Nat → Nat → List Byte → List Byte
  | 0, _, x => x
  | n + 1, j, x => otsChain id q i n (j + 1) (sha256 (id ++ beBytes 4 q ++ beBytes 2 i ++ beBytes 1 j ++ x))

/-- The digits of a message under randomizer `c`. -/
def otsMessage (id : List Byte) (q : Nat) (c msg : List Byte) : List Nat :=
  otsDigits (sha256 (id ++ beBytes 4 q ++ [0x81, 0x81] ++ c ++ msg))

/-- A one-time public key: the digest of the ends of its chains. -/
def otsKey (id : List Byte) (q : Nat) (ends : List (List Byte)) : List Byte :=
  sha256 (id ++ beBytes 4 q ++ [0x80, 0x80] ++ ends.flatten)

/-- The one-time public key that a signature of a message leads to. -/
def otsCandidate (id : List Byte) (q : Nat) (sig msg : List Byte) : List Byte :=
  otsKey id q ((otsMessage id q (part sig 4 32) msg).zipIdx.map (fun d =>
    otsChain id q d.2 (15 - d.1) d.1 (part sig (36 + 32 * d.2) 32)))

/-! ## LMS: a tree of height 10 -/

/-- A leaf, and an inner node, of the tree of key `id`. -/
def lmsLeaf (id : List Byte) (n : Nat) (key : List Byte) : List Byte := sha256 (id ++ beBytes 4 n ++ [0x82, 0x82] ++ key)
def lmsInner (id : List Byte) (n : Nat) (l r : List Byte) : List Byte := sha256 (id ++ beBytes 4 n ++ [0x83, 0x83] ++ l ++ r)

/-- From node `n` of value `x` up to the root, with the siblings on the way. -/
def lmsClimb (id : List Byte) : List (List Byte) → Nat → List Byte → List Byte
  | [], _, x => x
  | p :: rest, n, x => lmsClimb id rest (n / 2) (if n % 2 = 1 then lmsInner id (n / 2) p x else lmsInner id (n / 2) x p)

/-- An LMS signature of 2,508 bytes verifies under a key of 56. -/
def lmsVerify (key sig msg : List Byte) : Bool :=
  let id := part key 8 16
  let q := beVal (part sig 0 4)
  key.length == 56 && part key 0 8 == beBytes 4 6 ++ beBytes 4 3 && sig.length == 2508 && decide (q < 1024) &&
  part sig 4 4 == beBytes 4 3 && part sig 2184 4 == beBytes 4 6 &&
  lmsClimb id ((List.range 10).map (fun i => part sig (2188 + 32 * i) 32)) (1024 + q)
    (lmsLeaf id (1024 + q) (otsCandidate id q (part sig 4 2180) msg)) == part key 24 32

/-- An HSS signature of 5,076 bytes verifies under a key of 60 (R35, Table 2.4a): the first level signs the second level's key, which
signs the message. -/
def hssVerify (key msg sig : List Byte) : Bool :=
  let second := part sig 2512 56
  key.length == 60 && part key 0 4 == beBytes 4 2 && sig.length == 5076 && part sig 0 4 == beBytes 4 1 &&
  lmsVerify (part key 4 56) (part sig 4 2508) second && lmsVerify second (part sig 2568 2508) msg

/-! ## Signing with the device identity key (R36) -/

/-- The start of chain `i` of one-time key `q`. -/
def otsStart (id seed : List Byte) (q i : Nat) : List Byte := sha256 (id ++ beBytes 4 q ++ beBytes 2 i ++ [0xFF] ++ seed)

/-- A node of the tree of a private key, `h` above its leaves. -/
def lmsNode (id seed : List Byte) : Nat → Nat → List Byte
  | 0, n => lmsLeaf id n (otsKey id (n - 1024) ((List.range 67).map (fun i => otsChain id (n - 1024) i 15 0 (otsStart id seed (n - 1024) i))))
  | h + 1, n => lmsInner id n (lmsNode id seed h (2 * n)) (lmsNode id seed h (2 * n + 1))

/-- The public key of a private one. -/
def lmsPublic (id seed : List Byte) : List Byte := beBytes 4 6 ++ beBytes 4 3 ++ id ++ lmsNode id seed 10 1

/-- The signature of a message with one-time key `q` under randomizer `c`. -/
def lmsSign (id seed : List Byte) (q : Nat) (c msg : List Byte) : List Byte :=
  beBytes 4 q ++ beBytes 4 3 ++ c ++
  ((otsMessage id q c msg).zipIdx.map (fun d => otsChain id q d.2 d.1 0 (otsStart id seed q d.2))).flatten ++ beBytes 4 6 ++
  ((List.range 10).map (fun i =>
    let n := (1024 + q) / 2 ^ i
    lmsNode id seed i (if n % 2 = 0 then n + 1 else n - 1))).flatten

/-- The identifier and the secret of the identity key's trees: 0 the first level's, `1 + t` the second level's number `t`. -/
def treeId (seed : W64) (t : Nat) : List Byte := fitTo 16 (Config.hssTree seed t).1
def treeSecret (seed : W64) (t : Nat) : List Byte := fitTo 32 (Config.hssTree seed t).2

/-- The device identity public key (R38), encoded. -/
def identityKey (seed : W64) : List Byte := beBytes 4 2 ++ lmsPublic (treeId seed 0) (treeSecret seed 0)

/-- The HSS signature with one-time-signature index `q`, of 2^20 (R35, R36). -/
def hssSign (seed : W64) (q : Nat) (msg : List Byte) : List Byte :=
  let t := 1 + q / 1024
  let second := lmsPublic (treeId seed t) (treeSecret seed t)
  beBytes 4 1 ++ lmsSign (treeId seed 0) (treeSecret seed 0) (q / 1024) (fitTo 32 (Config.hssRandom seed (q / 1024) 0)) second ++
  second ++ lmsSign (treeId seed t) (treeSecret seed t) (q % 1024) (fitTo 32 (Config.hssRandom seed q 1)) msg

end Sys2Proof.Machine
end

