-- ==== Sys2Proof/Syntax.lean ====
section
/-! DEFINITION. The ONE syntax of the machine: a constructor for every row of spec/opcode_table.json (INDEX.md; 95). The
slot instructions carry the fields of their slot word (Tables 14.5, 15.1 to 15.5, 16.1, 17.1, 17.4, 17.6, 18.1, 18.3), the
bundle rows their header and words or index and fill (Table 14.1), the events the plain data that tells the event. -/

namespace Sys2Proof

/-- An arm write of Table 3.3 as it arrives at BAR2 slot `slot` over `link`, but for its node field; `whole` is false for
a write that did not carry all 64 bytes in one request (R54, Table 3.4). -/
structure ArmWrite where
  fn : Nat
  link : Nat
  slot : Nat
  whole : Bool
  flightId : W16
  hostSeq : BitVec 48
  nArg : BitVec 8
  flags : BitVec 8
  reserved : W32
  args : List W32
  deriving DecidableEq, Repr

/-- A 64 KiB virtual page of a job's page table (R179): mapped when `present`, and writable or executable, never both.
The layout of page tables is not in the spec; `base` is the HBM address that the page maps to (log 6). -/
structure PageEntry where
  vpn : Nat
  present : Bool
  exec : Bool
  base : Nat
  deriving DecidableEq, Repr

/-- Mode and format fields of an instruction whose mode is 0 by its definition (Table 16.1): kept, since a slot that the feature test
turns away shows only at issue that another mode stood there (R301). -/
structure ModeFmt where
  mode : BitVec 3
  fmt : BitVec 4
  deriving DecidableEq, Repr

/-- Where an uncorrectable error was found (R116, R171): in storage, HBM or vaults, at a byte address; or elsewhere, in work of a run. -/
inductive ErrorSite where
  | storage (far : Bool) (address : Nat)
  | elsewhere (run : Nat)
  deriving DecidableEq, Repr

/-- Every operation and event of spec/opcode_table.json: the slot instructions, the bundles, then the events. -/
inductive Instr where
  /-- R275: d := a + b. -/
  | add (d : BitVec 6) (a : BitVec 6) (b : BitVec 6)
  /-- R275: d := a − b. -/
  | sub (d : BitVec 6) (a : BitVec 6) (b : BitVec 6)
  /-- R275: d := low 64 bits of a × b. -/
  | mul (d : BitVec 6) (a : BitVec 6) (b : BitVec 6)
  /-- R275: d := high 64 bits of the signed product. -/
  | mulh (d : BitVec 6) (a : BitVec 6) (b : BitVec 6)
  /-- R275: d := high 64 bits of the unsigned product. -/
  | mulhu (d : BitVec 6) (a : BitVec 6) (b : BitVec 6)
  /-- R275: d := unsigned quotient, all ones for b = 0. -/
  | divu (d : BitVec 6) (a : BitVec 6) (b : BitVec 6)
  /-- R275: d := unsigned remainder, a for b = 0. -/
  | remu (d : BitVec 6) (a : BitVec 6) (b : BitVec 6)
  /-- R275: Bitwise AND. -/
  | and (d : BitVec 6) (a : BitVec 6) (b : BitVec 6)
  /-- R275: Bitwise OR. -/
  | or (d : BitVec 6) (a : BitVec 6) (b : BitVec 6)
  /-- R275: Bitwise XOR. -/
  | xor (d : BitVec 6) (a : BitVec 6) (b : BitVec 6)
  /-- R275: Left shift by the low six bits of b. -/
  | shl (d : BitVec 6) (a : BitVec 6) (b : BitVec 6)
  /-- R275: Logical right shift by the low six bits of b. -/
  | shr (d : BitVec 6) (a : BitVec 6) (b : BitVec 6)
  /-- R275: Arithmetic right shift by the low six bits of b. -/
  | sar (d : BitVec 6) (a : BitVec 6) (b : BitVec 6)
  /-- R275: Signed minimum. -/
  | min (d : BitVec 6) (a : BitVec 6) (b : BitVec 6)
  /-- R275: Signed maximum. -/
  | max (d : BitVec 6) (a : BitVec 6) (b : BitVec 6)
  /-- R275: Unsigned minimum. -/
  | minu (d : BitVec 6) (a : BitVec 6) (b : BitVec 6)
  /-- R275: Unsigned maximum. -/
  | maxu (d : BitVec 6) (a : BitVec 6) (b : BitVec 6)
  /-- R275: Count of leading zero bits of a. -/
  | clz (d : BitVec 6) (a : BitVec 6)
  /-- R275: Count of one bits of a. -/
  | popc (d : BitVec 6) (a : BitVec 6)
  /-- R275: d := a if the predicate test passes, else b. -/
  | sel (d : BitVec 6) (a : BitVec 6) (b : BitVec 6) (p : BitVec 1) (n : BitVec 3)
  /-- R275: d := a + sign-extended imm12. -/
  | addi (d : BitVec 6) (a : BitVec 6) (i : BitVec 12)
  /-- R275: Bitwise AND with sign-extended imm12. -/
  | andi (d : BitVec 6) (a : BitVec 6) (i : BitVec 12)
  /-- R275: Bitwise OR with sign-extended imm12. -/
  | ori (d : BitVec 6) (a : BitVec 6) (i : BitVec 12)
  /-- R275: Bitwise XOR with sign-extended imm12. -/
  | xori (d : BitVec 6) (a : BitVec 6) (i : BitVec 12)
  /-- R275: Left shift by an immediate amount. -/
  | shli (d : BitVec 6) (a : BitVec 6) (n : BitVec 6)
  /-- R275: Logical right shift by an immediate amount. -/
  | shri (d : BitVec 6) (a : BitVec 6) (n : BitVec 6)
  /-- R275: Arithmetic right shift by an immediate amount. -/
  | sari (d : BitVec 6) (a : BitVec 6) (n : BitVec 6)
  /-- R275: Extract a zero-extended bit field. -/
  | bfx (d : BitVec 6) (a : BitVec 6) (p : BitVec 6) (l : BitVec 6)
  /-- R275: Insert the low bits of a into a field of d. -/
  | bfi (d : BitVec 6) (a : BitVec 6) (p : BitVec 6) (l : BitVec 6)
  /-- R275: d := zero-extended imm18. -/
  | movi (d : BitVec 6) (i : BitVec 18)
  /-- R275: d := (d << 18) or imm18. -/
  | movhi (d : BitVec 6) (i : BitVec 18)
  /-- R276: pD := a cc b on scalar registers. -/
  | cmpCc (d : BitVec 3) (a : BitVec 6) (b : BitVec 6) (c : BitVec 6)
  /-- R276: pD := pA and pB. -/
  | pand (d : BitVec 3) (a : BitVec 3) (b : BitVec 3)
  /-- R276: pD := pA or pB. -/
  | por (d : BitVec 3) (a : BitVec 3) (b : BitVec 3)
  /-- R276: pD := pA xor pB. -/
  | pxor (d : BitVec 3) (a : BitVec 3) (b : BitVec 3)
  /-- R276: pD := not pA. -/
  | pnot (d : BitVec 3) (a : BitVec 3)
  /-- R276: pD := a cc sign-extended imm12. -/
  | cmpiCc (c : BitVec 4) (d : BitVec 3) (a : BitVec 6) (i : BitVec 12)
  /-- R278: FP32 addition rounded in the mode. -/
  | faddS (d : BitVec 6) (a : BitVec 6) (b : BitVec 6) (m : BitVec 3)
  /-- R278: FP32 multiplication rounded in the mode. -/
  | fmulS (d : BitVec 6) (a : BitVec 6) (b : BitVec 6) (m : BitVec 3)
  /-- R278: d := a × b + d rounded once. -/
  | ffmaS (d : BitVec 6) (a : BitVec 6) (b : BitVec 6) (m : BitVec 3)
  /-- R278: FP32 minimum with −0 below +0. -/
  | fminS (d : BitVec 6) (a : BitVec 6) (b : BitVec 6)
  /-- R278: FP32 maximum with −0 below +0. -/
  | fmaxS (d : BitVec 6) (a : BitVec 6) (b : BitVec 6)
  /-- R278: pD := FP32 comparison a cc b. -/
  | fcmpCc (d : BitVec 3) (a : BitVec 6) (b : BitVec 6) (c : BitVec 6)
  /-- R278: Convert a 64-bit integer to FP32. -/
  | icvt (d : BitVec 6) (a : BitVec 6) (u : BitVec 1) (m : BitVec 3)
  /-- R278: Convert FP32 to a saturated 64-bit integer. -/
  | fcvt (d : BitVec 6) (a : BitVec 6) (u : BitVec 1) (m : BitVec 3)
  /-- R277: Load 1 byte of scratch, zero-extended. -/
  | ldB (d : BitVec 6) (a : BitVec 6) (i : BitVec 12)
  /-- R277: Load 2 bytes of scratch, zero-extended. -/
  | ldH (d : BitVec 6) (a : BitVec 6) (i : BitVec 12)
  /-- R277: Load 4 bytes of scratch, zero-extended. -/
  | ldW (d : BitVec 6) (a : BitVec 6) (i : BitVec 12)
  /-- R277: Load 8 bytes of scratch. -/
  | ldD (d : BitVec 6) (a : BitVec 6) (i : BitVec 12)
  /-- R277: Store 1 byte to scratch at issue. -/
  | stB (d : BitVec 6) (a : BitVec 6) (i : BitVec 12)
  /-- R277: Store 2 bytes to scratch at issue. -/
  | stH (d : BitVec 6) (a : BitVec 6) (i : BitVec 12)
  /-- R277: Store 4 bytes to scratch at issue. -/
  | stW (d : BitVec 6) (a : BitVec 6) (i : BitVec 12)
  /-- R277: Store 8 bytes to scratch at issue. -/
  | stD (d : BitVec 6) (a : BitVec 6) (i : BitVec 12)
  /-- R279: Read a system register into d. -/
  | rdsr (d : BitVec 6) (r : BitVec 18)
  /-- R279: Write a system register's RW fields, trapping 0x13 on RO registers. -/
  | wrsr (a : BitVec 6) (r : BitVec 18)
  /-- R281: Write a view descriptor and its %vt bit, valid if it passes its checks. -/
  | view (v : BitVec 6) (a : BitVec 6) (b : BitVec 6)
  /-- R282: Set %ftab and %bgeo.ft_lvl. -/
  | ftset (a : BitVec 6) (b : BitVec 6)
  /-- R283: Set %rngkey from a mixed key and clear %rngstep. -/
  | rngk (a : BitVec 6) (b : BitVec 6)
  /-- R339: Attach h7 to the remainder tape and enable spills. -/
  | revon (a : BitVec 6)
  /-- R341: Push or check a marker entry on the remainder stack. -/
  | rstag (d : BitVec 6) (c : BitVec 1) (m : BitVec 4)
  /-- R305: Lane-wise addition under a write mask. -/
  | vadd (d : BitVec 5) (a : BitVec 5) (b : BitVec 5) (q : BitVec 2) (m : BitVec 3) (f : BitVec 4)
  /-- R305: Lane-wise subtraction. -/
  | vsub (d : BitVec 5) (a : BitVec 5) (b : BitVec 5) (q : BitVec 2) (m : BitVec 3) (f : BitVec 4)
  /-- R305: Lane-wise multiplication. -/
  | vmul (d : BitVec 5) (a : BitVec 5) (b : BitVec 5) (q : BitVec 2) (m : BitVec 3) (f : BitVec 4)
  /-- R306: vd := va × vb + vc rounded once. -/
  | vfma (d : BitVec 5) (a : BitVec 5) (b : BitVec 5) (c : BitVec 5) (f : BitVec 4)
  /-- R306: vd := vc − va × vb rounded once. -/
  | vfms (d : BitVec 5) (a : BitVec 5) (b : BitVec 5) (c : BitVec 5) (f : BitVec 4)
  /-- R305: Lane-wise minimum. -/
  | vmin (d : BitVec 5) (a : BitVec 5) (b : BitVec 5) (q : BitVec 2) (m : BitVec 3) (f : BitVec 4)
  /-- R305: Lane-wise maximum. -/
  | vmax (d : BitVec 5) (a : BitVec 5) (b : BitVec 5) (q : BitVec 2) (m : BitVec 3) (f : BitVec 4)
  /-- R305: Lane-wise absolute value. -/
  | vabs (d : BitVec 5) (a : BitVec 5) (q : BitVec 2) (m : BitVec 3) (f : BitVec 4)
  /-- R305: Lane-wise negation. -/
  | vneg (d : BitVec 5) (a : BitVec 5) (q : BitVec 2) (m : BitVec 3) (f : BitVec 4)
  /-- R307: Stochastically rounded add that counts absorbed lanes in %absorb. -/
  | vaddSr (d : BitVec 5) (a : BitVec 5) (b : BitVec 5) (q : BitVec 2) (g : ModeFmt)
  /-- R308: Lane-wise compare into a lane mask. -/
  | vcmpCc (c : BitVec 4) (e : BitVec 2) (a : BitVec 5) (b : BitVec 5) (q : BitVec 2) (g : ModeFmt)
  /-- R311: Select lanes from va or vb by a mask. -/
  | vsel (d : BitVec 5) (a : BitVec 5) (b : BitVec 5) (q : BitVec 2)
  /-- R311: Bitwise AND of lanes. -/
  | vand (d : BitVec 5) (a : BitVec 5) (b : BitVec 5) (q : BitVec 2)
  /-- R311: Bitwise OR of lanes. -/
  | vor (d : BitVec 5) (a : BitVec 5) (b : BitVec 5) (q : BitVec 2)
  /-- R311: Bitwise XOR of lanes. -/
  | vxor (d : BitVec 5) (a : BitVec 5) (b : BitVec 5) (q : BitVec 2)
  /-- R312: Lane-wise left shift. -/
  | vshl (d : BitVec 5) (a : BitVec 5) (b : BitVec 5) (q : BitVec 2) (g : ModeFmt)
  /-- R312: Lane-wise logical right shift. -/
  | vshr (d : BitVec 5) (a : BitVec 5) (b : BitVec 5) (q : BitVec 2) (g : ModeFmt)
  /-- R312: Lane-wise arithmetic right shift. -/
  | vsar (d : BitVec 5) (a : BitVec 5) (b : BitVec 5) (q : BitVec 2) (g : ModeFmt)
  /-- R313: Convert lane elements between formats. -/
  | vcvt (d : BitVec 5) (a : BitVec 5) (t : BitVec 4) (s : BitVec 1) (q : BitVec 2) (m : BitVec 3) (f : BitVec 4)
  /-- R314: Quantise 64 FP32 lanes to a block-scaled format. -/
  | vqnt (d : BitVec 5) (a : BitVec 5) (m : BitVec 3) (f : BitVec 4)
  /-- R315: Dequantise a block-scaled vector to FP32. -/
  | vdqnt (d : BitVec 5) (a : BitVec 5) (g : ModeFmt)
  /-- R316: Approximate reciprocal square root. -/
  | vrsqrta (d : BitVec 5) (a : BitVec 5) (q : BitVec 2)
  /-- R316: Approximate reciprocal. -/
  | vrcpa (d : BitVec 5) (a : BitVec 5) (q : BitVec 2)
  /-- R316: Approximate base-2 exponential. -/
  | vexp2a (d : BitVec 5) (a : BitVec 5) (q : BitVec 2)
  /-- R316: Approximate base-2 logarithm. -/
  | vlog2a (d : BitVec 5) (a : BitVec 5) (q : BitVec 2)
  /-- R317: Tree sum of enabled lanes into lane 0. -/
  | vredsum (d : BitVec 5) (a : BitVec 5) (q : BitVec 2) (g : ModeFmt)
  /-- R317: Maximum of enabled lanes into lane 0. -/
  | vredmax (d : BitVec 5) (a : BitVec 5) (q : BitVec 2) (g : ModeFmt)
  /-- R318: Broadcast a scalar into enabled lanes. -/
  | vbcast (d : BitVec 5) (s : BitVec 5) (q : BitVec 2)
  /-- R318: Extract one lane element into a scalar register. -/
  | vextr (d : BitVec 5) (a : BitVec 5) (b : BitVec 5) (g : ModeFmt)
  /-- R318: Permute lanes by an index vector. -/
  | vperm (d : BitVec 5) (a : BitVec 5) (b : BitVec 5) (q : BitVec 2)
  /-- R318: Rotate lanes by a scalar amount. -/
  | vrot (d : BitVec 5) (a : BitVec 5) (b : BitVec 5) (q : BitVec 2)
  /-- R311: Copy va to vd under the mask. -/
  | vmov (d : BitVec 5) (a : BitVec 5) (q : BitVec 2)
  /-- R318: Write sA + l into each enabled lane l. -/
  | viota (d : BitVec 5) (s : BitVec 5) (q : BitVec 2)
  /-- R319: Load one 256-byte scratch line into a vector view. -/
  | vld (d : BitVec 5) (s : BitVec 5) (q : BitVec 2)
  /-- R319: Store a vector view's enabled lanes to scratch at issue. -/
  | vst (v : BitVec 5) (s : BitVec 5) (q : BitVec 2)
  /-- R320: Load a tile row into a vector view. -/
  | trowLd (d : BitVec 5) (t : BitVec 4) (b : BitVec 5) (q : BitVec 2) (g : ModeFmt)
  /-- R320: Store a vector view into a tile row. -/
  | trowSt (v : BitVec 5) (t : BitVec 4) (b : BitVec 5) (q : BitVec 2) (g : ModeFmt)
  /-- R320: Load a tile column into a vector view. -/
  | tcolLd (d : BitVec 5) (t : BitVec 4) (b : BitVec 5) (q : BitVec 2) (g : ModeFmt)
  /-- R320: Store a vector view into a tile column. -/
  | tcolSt (v : BitVec 5) (t : BitVec 4) (b : BitVec 5) (q : BitVec 2) (g : ModeFmt)
  /-- R309: qD := sA. -/
  | qmovToMask (e : BitVec 2) (s : BitVec 5)
  /-- R309: sD := qA. -/
  | qmovFromMask (d : BitVec 5) (e : BitVec 2)
  /-- R310: Combine lane masks by and, or, xor, andn or not. -/
  | qops (d : BitVec 2) (a : BitVec 2) (b : BitVec 2) (o : BitVec 4)
  /-- R342: Reversible lane addition modulo 2^w. -/
  | radd (d : BitVec 5) (a : BitVec 5) (b : BitVec 5) (q : BitVec 2) (f : BitVec 4)
  /-- R342: Reversible lane subtraction modulo 2^w. -/
  | rsub (d : BitVec 5) (a : BitVec 5) (b : BitVec 5) (q : BitVec 2) (f : BitVec 4)
  /-- R342: Reversible lane XOR. -/
  | rxor (d : BitVec 5) (a : BitVec 5) (b : BitVec 5) (q : BitVec 2) (f : BitVec 4)
  /-- R342: Fixed-point multiply pushing the discarded low bits. -/
  | rmulq (d : BitVec 5) (a : BitVec 5) (b : BitVec 5) (h : BitVec 5) (f : BitVec 4)
  /-- R342: Undo RMULQ, popping its remainder. -/
  | unmulq (d : BitVec 5) (a : BitVec 5) (b : BitVec 5) (h : BitVec 5) (f : BitVec 4)
  /-- R342: Right shift pushing the shifted-out bits. -/
  | rshr (d : BitVec 5) (a : BitVec 5) (h : BitVec 5) (f : BitVec 4)
  /-- R342: Undo RSHR. -/
  | unshr (d : BitVec 5) (a : BitVec 5) (h : BitVec 5) (f : BitVec 4)
  /-- R342: Leaky activation pushing remainders of negative lanes. -/
  | rleak (d : BitVec 5) (a : BitVec 5) (h : BitVec 5) (f : BitVec 4)
  /-- R342: Undo RLEAK. -/
  | unleak (d : BitVec 5) (a : BitVec 5) (h : BitVec 5) (f : BitVec 4)
  /-- R342: Narrow INT32 lanes pushing the dropped bits. -/
  | rnarw (d : BitVec 5) (a : BitVec 5) (h : BitVec 5) (f : BitVec 4)
  /-- R342: Undo RNARW, rebuilding INT32 lanes. -/
  | unnarw (d : BitVec 5) (a : BitVec 5) (h : BitVec 5) (f : BitVec 4)
  /-- R327: Multiply tiles A and B into an accumulator. -/
  | mmaTile (c : BitVec 3) (a : BitVec 4) (b : BitVec 4) (n : BitVec 5) (f : BitVec 4) (x : BitVec 1) (y : BitVec 1) (z : BitVec 1)
  /-- R329: Multiply A streamed from a head by tile B into an accumulator. -/
  | mmaStream (c : BitVec 3) (h : BitVec 3) (b : BitVec 4) (n : BitVec 5) (f : BitVec 4) (y : BitVec 1) (z : BitVec 1)
  /-- R327: Block-scaled matrix multiply into an accumulator. -/
  | mmas (c : BitVec 3) (a : BitVec 4) (b : BitVec 4) (n : BitVec 5) (f : BitVec 4) (x : BitVec 1) (y : BitVec 1) (z : BitVec 1)
  /-- R332: Zero an accumulator, optionally its status. -/
  | mzero (c : BitVec 3) (n : BitVec 5) (z : BitVec 1)
  /-- R332: Load a tile into an accumulator as FP32. -/
  | mload (c : BitVec 3) (a : BitVec 4) (n : BitVec 5) (f : BitVec 4) (t : BitVec 1)
  /-- R334: Convert an accumulator into a tile and OR its status into %fstat. -/
  | mdrain (c : BitVec 3) (a : BitVec 4) (n : BitVec 5) (f : BitVec 4) (t : BitVec 1) (s : BitVec 1) (z : BitVec 1)
  /-- R333: Exchange two accumulators and their status words. -/
  | mswap (c : BitVec 3) (e : BitVec 3) (n : BitVec 5)
  /-- R335: Read an accumulator's status word into a scalar. -/
  | mstat (c : BitVec 3) (d : BitVec 6) (n : BitVec 5)
  /-- R332: Add a tile into an accumulator. -/
  | maddt (c : BitVec 3) (a : BitVec 4) (n : BitVec 5) (f : BitVec 4) (t : BitVec 1)
  /-- R332: Scale an accumulator by an FP32 scalar. -/
  | mscl (c : BitVec 3) (b : BitVec 6) (n : BitVec 5) (s : BitVec 1)
  /-- R332: Transpose one accumulator into another. -/
  | mxpose (c : BitVec 3) (e : BitVec 3) (n : BitVec 5)
  /-- R357: Attach a head to a tape in a role and direction at a position. -/
  | hatt (h : BitVec 3) (a : BitVec 6) (w : BitVec 1) (b : BitVec 1)
  /-- R358: Detach a head and drop its window. -/
  | hdet (h : BitVec 3)
  /-- R359: Read the record under a head into a view. -/
  | hrd (h : BitVec 3) (v : BitVec 5) (k : BitVec 1)
  /-- R359: Read the record under a head and step by one. -/
  | hrds (h : BitVec 3) (v : BitVec 5) (k : BitVec 1)
  /-- R360: Rewrite the record under a head, held until release. -/
  | hwr (h : BitVec 3) (v : BitVec 5) (k : BitVec 1)
  /-- R361: Append a view at the fill count and step by one. -/
  | happ (h : BitVec 3) (v : BitVec 5) (k : BitVec 1)
  /-- R362: Move a head by a signed immediate. -/
  | hstep (h : BitVec 3) (n : BitVec 10)
  /-- R362: Move a head by a signed register value. -/
  | hstepr (h : BitVec 3) (a : BitVec 6)
  /-- R363: Set a mark to the head's position. -/
  | hmark (h : BitVec 3) (k : BitVec 2)
  /-- R363: Rewind a head to a mark. -/
  | hrew (h : BitVec 3) (k : BitVec 2)
  /-- R364: Read a head's position. -/
  | hpos (h : BitVec 3) (d : BitVec 6)
  /-- R364: Read the distance from a mark in the head's direction. -/
  | hdist (h : BitVec 3) (d : BitVec 6) (k : BitVec 2)
  /-- R364: Read the tape's length or fill count. -/
  | hlen (h : BitVec 3) (d : BitVec 6) (f : BitVec 1)
  /-- R364: Read the head's mode word. -/
  | hstat (h : BitVec 3) (d : BitVec 6)
  /-- R367: Contribute enabled lanes to cells, held until release. -/
  | cadd (v : BitVec 5) (a : BitVec 6) (m : BitVec 2) (b : BitVec 1)
  /-- R368: Read 64 cells into a vector view. -/
  | crd (v : BitVec 5) (a : BitVec 6) (m : BitVec 2) (b : BitVec 1)
  /-- R368: Read a cell array's descriptor into a scalar. -/
  | crdStat (a : BitVec 6) (d : BitVec 6)
  /-- R369: Clear a range of cells, held until release. -/
  | cclr (a : BitVec 6) (b : BitVec 6)
  /-- R366: Configure a cell array, held until release. -/
  | ccfg (a : BitVec 6) (b : BitVec 6)
  /-- R371: Send a tape copy command to a copy context. -/
  | cpy (t : BitVec 6) (b : BitVec 6) (l : BitVec 4)
  /-- R371: Send a host-window copy command to a copy context. -/
  | cpyh (t : BitVec 6) (b : BitVec 6) (l : BitVec 4)
  /-- R226: Send an all-reduce command to a collective context. -/
  | collAllred (t : BitVec 6) (b : BitVec 6) (l : BitVec 4)
  /-- R226: Send a reduce-scatter command to a collective context. -/
  | collRdscat (t : BitVec 6) (b : BitVec 6) (l : BitVec 4)
  /-- R226: Send an all-gather command to a collective context. -/
  | collAllgth (t : BitVec 6) (b : BitVec 6) (l : BitVec 4)
  /-- R373: Wait until a timeline counter reaches a value, acquiring those commands. -/
  | tlwait (a : BitVec 6) (l : BitVec 4)
  /-- R373: Read a timeline counter. -/
  | tlrd (d : BitVec 6) (l : BitVec 4)
  /-- R374: Request the next tile, reply readable 16 vc later. -/
  | nextt (d : BitVec 6)
  /-- R375: Store, OR or add into a run condition word, held until release. -/
  | flsig (v : BitVec 6) (o : BitVec 2) (w : BitVec 6)
  /-- R376: Report progress to the host by a kind 0x07 record at release. -/
  | erep (v : BitVec 6) (c : BitVec 8)
  /-- R286: Branch through the target table by the tree's leaf. -/
  | btree (a : BitVec 6) (b : BitVec 6) (c : BitVec 6) (d : BitVec 6)
  /-- R287: Jump by a signed word offset. -/
  | jmpRel (o : BitVec 22)
  /-- R287: Jump to a register value. -/
  | jmpReg (r : BitVec 6)
  /-- R287: Jump by offset and write the return address to s39. -/
  | callRel (o : BitVec 22)
  /-- R287: Jump to a register and write the return address to s39. -/
  | callReg (r : BitVec 6)
  /-- R287: Jump to s39 or a named register. -/
  | ret (r : BitVec 6)
  /-- R288: Push a zero-overhead loop entry or skip the body when n = 0. -/
  | loop (c : BitVec 6) (l : BitVec 6)
  /-- R288: Push a software-pipelined loop with stage predicates and register rotation. -/
  | loopSp (c : BitVec 6) (s : BitVec 2) (l : BitVec 6)
  /-- R290: Pop the innermost loop when its test passes. -/
  | lbrk (t : BitVec 4)
  /-- R133: Release held work, raise the handrail input and freeze until the line releases. -/
  | sync (n : BitVec 2)
  /-- R204: Checkpoint, publish reached writes to a scope and refill head windows. -/
  | phase (s : BitVec 2)
  /-- R134: At release, set the event pending bit of other domain members. -/
  | sev (n : BitVec 2)
  /-- R293: Raise trap 0x12 after the bundle's checkpoint when the test passes. -/
  | trap (t : BitVec 4) (i : BitVec 16)
  /-- R293: Raise breakpoint 0x11 after the bundle's checkpoint when the test passes. -/
  | bkpt (t : BitVec 4)
  /-- R295: Make a register value the pending dictionary base. -/
  | dset (r : BitVec 6)
  /-- R346: Open a solve region, saving carried tiles as iterate 0. -/
  | solve (r : BitVec 6)
  /-- R352: End an active solve region when the test passes. -/
  | solq (t : BitVec 4)
  /-- R352: Read solve state into a scalar. -/
  | solrd (d : BitVec 6) (s : BitVec 2)
  /-- R259: A literal bundle is fetched, decoded and checked, and all its slots issue in one vc, the tree choosing which commit. -/
  | literalBundle (h : BitVec 94) (ws : List W32)
  /-- R265: A one-word call expands a dictionary entry with fill bits into a bundle that then issues like a literal one. -/
  | shortCall (i : BitVec 12) (f : BitVec 18)
  /-- R265: A two-word call expands a dictionary entry with 50 fill bits into a bundle that then issues. -/
  | longCall (i : BitVec 12) (f : BitVec 50)
  /-- R26: An intact data flit arriving on a peer port is accepted, delivered or forwarded by the routing table, or discarded when hops are exhausted. -/
  | dataFlitReceive (port : Nat) (bytes : List Byte)
  /-- R21: An intact control flit is accepted on a peer port and its ack and pause fields take effect. -/
  | controlFlitReceive (port : Nat) (bytes : List Byte)
  /-- R22: An idle flit updates acknowledgement and pause state without advancing seq. -/
  | idleFlitReceive (port : Nat) (bytes : List Byte)
  /-- R22: A replay request makes the transmitter resend every flit from the named seq in order before any new flit. -/
  | replayRequestReceive (port : Nat) (bytes : List Byte)
  /-- R23: Every 64 ticks while a pause bit changes or is set, the receiver sends at least one flit, idle if nothing else. -/
  | pauseKeepaliveTimer (port : Nat)
  /-- R24: No intact flit for 100 µs takes the port down. -/
  | portRxTimeout (port : Nat)
  /-- R42: A pwr_req write with go and target P0 requests return to full speed, resuming frozen or cut work. -/
  | pwrReqP0 (fn : Nat) (k : BitVec 3)
  /-- R42: A pwr_req write with go and target P1 runs the arithmetic clock at one tick in k. -/
  | pwrReqP1 (fn : Nat) (k : BitVec 3)
  /-- R42: A pwr_req write with go and target P2 freezes every core in place and gates clocks, engines finishing their current command. -/
  | pwrReqP2 (fn : Nat) (k : BitVec 3)
  /-- R42: A pwr_req write with go and target P3 first cuts every resident job to its context image, then powers the cores off. -/
  | pwrReqP3 (fn : Nat) (k : BitVec 3)
  /-- R36: QUOTE signs the measurements and nonces with the identity key, burning one one-time-signature index. -/
  | msgQuote (fn : Nat)
  /-- R70: EXTEND extends meas6 or meas7 with a host digest, from a PF only. -/
  | msgExtend (fn : Nat)
  /-- R39: OPEN_SESSION opens a debug session of the named level and scope after checking the token. -/
  | msgOpenSession (fn : Nat)
  /-- R43: CLOSE_SESSION ends the session, resuming every core it holds halted. -/
  | msgCloseSession (fn : Nat)
  /-- R70: LOAD_FW reads a firmware image through a PF host window, verifies it and writes fw_a or fw_b. -/
  | msgLoadFw (fn : Nat)
  /-- R70: LOAD_CFG reads a configuration blob, verifies it and the state-change rule, and writes cfg. -/
  | msgLoadCfg (fn : Nat)
  /-- R70: READ_LOG returns up to 8,192 bytes of the measurement log from an offset. -/
  | msgReadLog (fn : Nat)
  /-- R56: An arm write with node 0xFFFF is checked and accepted, starting a run or queueing behind the active run. -/
  | armStart (w : ArmWrite)
  /-- R56: An arm write naming a wait node satisfies the earliest unarmed activation of it, at once or when it becomes active. -/
  | armWait (w : ArmWrite) (node : W16)
  /-- R63: An arm write with resume restores a faulted run's commit image and continues it. -/
  | armResume (w : ArmWrite) (node : W16)
  /-- R72: INSTALL reads a flight image through a host window, checks it and makes the flight resident. -/
  | flInstall (fn : Nat) (flight : BitVec 10)
  /-- R72: REMOVE frees an idle resident flight and its node records. -/
  | flRemove (fn : Nat) (flight : BitVec 10)
  /-- R72: STAGE copies the start of each kernel node's code and dictionary into the staging area of the function's vaults. -/
  | flStage (fn : Nat) (flight : BitVec 10)
  /-- R97: The CUT command of jc_cmd starts a cut of the named run. -/
  | jcCut (fn : Nat) (fnNo : BitVec 5) (flight : BitVec 10)
  /-- R112: RESUME_HELD settles the oldest trap held for the hypervisor by restarting its core at ck_pc. -/
  | jcResumeHeld (fn : Nat) (fnNo : BitVec 5) (flight : BitVec 10)
  /-- R112: FAULT_HELD settles the oldest held trap as a job fault with the trap's code. -/
  | jcFaultHeld (fn : Nat) (fnNo : BitVec 5) (flight : BitVec 10)
  /-- R109: READ_TRAP copies the indexed kept trap record into trap_buf. -/
  | jcReadTrap (fn : Nat) (fnNo : BitVec 5) (index : BitVec 8)
  /-- R38: The debug HALT operation freezes a core in place with its in-flight results in the replay buffer, code 0x41. -/
  | dbgHalt (fn : Nat)
  /-- R131: STEP issues one bundle on a halted core, advances one vc and lands replay entries that reach zero. -/
  | dbgStep (fn : Nat)
  /-- R115: RUN resumes a halted core with its replay, withhold and undo state intact. -/
  | dbgRun (fn : Nat)
  /-- R131: READ copies core state at image offsets into dbg_data, returning present contents of locked locations. -/
  | dbgRead (fn : Nat) (count : W16)
  /-- R131: WRITE writes halted-core state, refused with LOCKED where a replay entry locks a byte. -/
  | dbgWrite (fn : Nat) (count : W16)
  /-- R131: WRITE with replay discard drops covering replay entries, unlocks their destinations and writes. -/
  | dbgWriteDiscard (fn : Nat) (count : W16)
  /-- R60: A write to cq_head is accepted only when it lies within the ring's bounds, freeing ring space. -/
  | cqHeadWrite (fn : Nat) (v : W32)
  /-- R60: A write to cq_ctl sets enable, size and moderation fields and clears overflow by W1C. -/
  | cqCtlWrite (fn : Nat) (v : W32)
  /-- R25: A write to lnk_stat clears its W1C flags. -/
  | lnkStatWrite (fn port : Nat) (v : W32)
  /-- R45: A write to sec_stat clears meas_fail and sess_end by W1C. -/
  | secStatWrite (fn : Nat) (v : W32)
  /-- R26: A write to route_d sets the candidates for a destination, affecting only later transfers and updating sys_stat. -/
  | routeWrite (fn d : Nat) (v : W32)
  /-- R26: A write to sys_self sets this package's sys_id and valid bit. -/
  | sysSelfWrite (fn : Nat) (v : W32)
  /-- R67: The PF of link 0 writes feat_mask n, masking features of VD n except bit 0. -/
  | featMaskWrite (fn vd : Nat) (v : W32)
  /-- R50: A host write to a BAR0 register with no behaviour of its own stores its RW fields; unlisted offsets ignore writes. -/
  | registerWrite (fn off : Nat) (v : BitVec 128)
  /-- R60: A completion record is written into the ring when space allows, phase set, and its MSI-X vector raised after it. -/
  | completionRecordWrite (fn : Nat)
  /-- R61: mod_time units of 100 ns after the first unsignalled record, the vector is raised. -/
  | msiModerationTimer (fn : Nat)
  /-- R88: An agent accepts one next-tile request from its die per tick, in ascending core_no. -/
  | nexttRequestAccept (die pick : Nat)
  /-- R88: A next-tile reply, 14 ticks after acceptance, is written to the named register, ending any freeze waiting for it. -/
  | nexttReplyArrive (core : Nat)
  /-- R91: Each 300,000 ticks a ready node waits undispatched, its effective class falls by one. -/
  | ageingTimer (run node : Nat)
  /-- R92: A class-0 node ready but unplaced for 60,000 ticks makes the landing cut a lower-class run of the function. -/
  | preemptTimer (run node : Nat)
  /-- R93: When every unit of a job stays blocked for 4,096 ticks, the smallest full window is enlarged from the basin or the job faults. -/
  | basinTimer (run : Nat)
  /-- R100: A party not at its stopping point 6,000,000 ticks after the request faults the job, or for pre-emption abandons the cut. -/
  | cutTimeout (run : Nat)
  /-- R100: 60,000 ticks after an abandoned pre-emption cut the landing requests it again. -/
  | cutRetryTimer (run : Nat)
  /-- R127: Once earlier operations have landed, the checkpoint state is restored and the trap's policy applied. -/
  | trapRollbackComplete (core : Nat)
  /-- R121: A scalar, predicate or vector result lands at issue + L, unlocking its destination and setting flags. -/
  | resultLanding (core : Nat)
  /-- R356: A head or cell read lands its whole view 20 vc after issue, carrying poison tags. -/
  | headReadLanding (core : Nat)
  /-- R324: A matrix result lands 14 vc after its last beat, setting accumulator status flags. -/
  | matrixResultLanding (core : Nat)
  /-- R349: The SOLEND decision ends after 40 + 4m vc, writing history and carried tiles and taking the checkpoint. -/
  | solendDecisionEnd (core : Nat)
  /-- R129: On resume a replay entry lands at resume vc remain, applying its flags and counts. -/
  | replayEntryLanding (core : Nat)
  /-- R125: The checkpoint release of held work ends, the shadow is taken and the next bundle may issue. -/
  | checkpointReleaseEnd (core : Nat)
  /-- R98: The agents form M from the reported positions and resume cores below M to run to it. -/
  | cutMFormed (run : Nat)
  /-- R87: Agents of a system-wide job exchange their level-4 member shares over virtual lane 3 and check n_members. -/
  | domainShareExchange (run node dom : Nat) (before after : Nat)
  /-- R204: A phase boundary's publication to its scope and head-window refill end. -/
  | phasePublicationEnd (core : Nat)
  /-- R133: The AND of a handrail line's member inputs becomes true at tick R. -/
  | handrailLineTrue (line : Nat)
  /-- R133: At tick R + 12 every member issues its SYNC bundle with all its slots. -/
  | handrailRestart (line : Nat)
  /-- R134: An SEV sets the pending bit of a member, waking a core frozen in WFE. -/
  | eventArrival (core : Nat)
  /-- R170: A producer frozen on a full stream window resumes when the count falls. -/
  | streamProducerResume (core : Nat)
  /-- R170: A consumer frozen on an unreleased record resumes when it is released. -/
  | streamConsumerResume (core : Nat)
  /-- R24: Loss of physical-layer lock takes the port down. -/
  | phyLockLoss (port : Nat)
  /-- R24: The single retrain of a downed port ends; on success unacknowledged flits are replayed, on failure the port enters the failed state. -/
  | portRetrainEnd (port : Nat) (ok : Bool)
  /-- R85: A ready kernel node is placed once enough free cores, handrail lines and context area exist, its first tasks starting on one tick. -/
  | kernelNodePlace (run node : Nat) (pick : List Nat)
  /-- R84: After a non-persistent task ends and tiles remain, the same core starts its next task. -/
  | nextTaskStart (core pick : Nat)
  /-- R294: After HALT, once every in-flight result has landed and the release ended, the task ends and its sequencer state is discarded. -/
  | taskEnd (core : Nat)
  /-- R90: A ready transform node issues its command blocks in list order to the job's landing-held engine context. -/
  | transformNodeDispatch (run node : Nat)
  /-- R79: A dispatched conditional node tests its condition word and commits, taking succ_0–3 or succ_4–7. -/
  | conditionalNodeEval (run node : Nat)
  /-- R79: A while node, once no node of its loop range runs, tests its word and on true resets the range and counts an iteration. -/
  | whileNodeEval (run node : Nat)
  /-- R80: A dispatched notify node writes a kind 0x01 record and commits when it is written. -/
  | notifyNodeDispatch (run node : Nat)
  /-- R62: A node commits once its tasks, held work and engine commands are done, decrementing its successors and saving the commit image. -/
  | nodeCommit (run node : Nat)
  /-- R87: A fault notice from another package of a system-wide job gives the local run a REMOTE job fault. -/
  | remoteJobFault (run : Nat)
  /-- R133: A level-4 handrail completion arrives over the peer links and restarts the waiting members. -/
  | level4LineCompletion (line : Nat)
  /-- R98: The agents form S over the job's engine contexts, which complete commands up to step S. -/
  | cutSFormed (run : Nat)
  /-- R98: With every core at M and every context at S, the landing writes the context images and a kind 0x06 record and releases the cores. -/
  | cutImagesWritten (run : Nat)
  /-- R108: A cut run re-enters dispatch and is placed, each core loading its image and issuing pc on one tick. -/
  | cutRunResume (run : Nat)
  /-- R111: A handler task starts on a free core at hnd_code with the trap record in s1–s7. -/
  | handlerTaskStart (trapped : Nat)
  /-- R172: After re-fetching the record from its backing copy, repairing still-poisoned granules and tagged lines and dropping windows, the trapped core restarts. -/
  | poisonRepairComplete (core : Nat)
  /-- R180: A page-table change invalidates affected instruction-cache lines and dictionary entries on every core of the job. -/
  | translationShootdown (fn flight : Nat) (page : PageEntry)
  /-- R116: An unrecoverable soft error in core or engine state gives the job an UNCORRECTABLE fault. -/
  | softErrorDetected (site : ErrorSite)
  /-- R120: An instruction-cache line arrives, ending the freeze of a miss. -/
  | instructionCacheFill (core : Nat)
  /-- R269: A 64-byte dictionary entry arrives, ending the freeze stall of its fill. -/
  | dictionaryCacheFill (core : Nat)
  /-- R286: A 64-byte target-table line arrives through the dictionary cache. -/
  | targetTableLineFill (core : Nat)
  /-- R158: The hall walker fills an extent-cache entry or raises a translation trap. -/
  | extentWalkComplete (hall : Nat)
  /-- R164: A record fetched into a head window arrives, ending a read's freeze if one waits. -/
  | headRecordArrival (core head rec : Nat) (sel : List Nat)
  /-- R368: A cell read's value arrives from the vault, ending a freeze at issue + 20. -/
  | cellReadValueArrival (core : Nat) (pick : List Nat)
  /-- R338: A remainder-stack spill or fill through h7 ends its freeze stall. -/
  | remainderTransferEnd (core : Nat)
  /-- R205: A released tape write arrives at the record's home and takes its place in coherence order. -/
  | tapeWriteAtHome (wid : Nat)
  /-- R176: A cell add or clear arrives at the vault and is applied in order of arrival. -/
  | cellOpAtVault (wid : Nat)
  /-- R216: A hall engine, serving contexts round-robin, starts the next released command of the next context. -/
  | engineCommandStart (hall : Nat) (coll : Bool) (sel : List Nat)
  /-- R224: The k-th COLL of every member of a domain meets and is checked for agreement. -/
  | collectiveMatch (run dom : Nat) (remote : List (List W32))
  /-- R217: A command completes: its writes are published, the timeline counter set and the token written. -/
  | engineCommandComplete (ctx : Nat)
  /-- R55: A PCI Express function-level reset zeroes each arm slot's last_seq and sets the function's cq_head and cq_tail to 0. -/
  | functionLevelReset (fn : Nat)
  /-- R72: An INSTALL, REMOVE or STAGE operation ends after its host-window reads and checks: the flight becomes resident in one step, go clears and fl_stat is set. -/
  | flightOperationEnd (fn : Nat)
  /-- R87: A cut of a system-wide run, carried from another package of the job, arrives and starts the cut of the local run. -/
  | remoteCutRequest (run : Nat)
  /-- R33: Release of package reset runs the boot chain: firmware and configuration checks, measurement, training and readiness of the physical function. -/
  | packageReset
  /-- R40: Loss of power puts the package in P4, losing all volatile state and every debug session. -/
  | powerLoss
  /-- R41: A power transition completes: go clears, status is set, and on leaving P3 cfg is re-measured, on leaving P2 frozen cores resume. -/
  | powerTransitionEnd
  /-- R340: Detach h7 and end REVON, trapping 0x0A at non-zero depth. -/
  | revoff
  /-- R296: Do nothing. -/
  | nop
  /-- R134: Clear the event pending bit or freeze until an event arrives. -/
  | wfe
  /-- R294: Release held work and stop issuing, ending the task. -/
  | halt
  /-- R267: Make the pending dictionary base current. -/
  | dfence
  /-- R349: Release held work and start the convergence and mixing decision. -/
  | solend
  /-- R70: The root of trust finishes serving a request, writes the response and msg_stat, clears go, and starts the next request waiting in order of go. -/
  | messageRequestEnd
  /-- R29: Every 1 ms the management controller samples temperature and power and requests P1, releases P1 or forces P4. -/
  | mgmtSample (temps : List Nat) (milliwatts : Nat) (k : Nat)
  deriving DecidableEq, Repr

end Sys2Proof
end

