-- ==== Sys2Proof/WellFormed.lean ====
section
/-! DEFINITION. When an instruction is well formed: the value ranges its slot word must meet at decode (R263, R271, R276,
R278, R279, R281, R284, R299, R301, R304, R313, R342, R354, R370), a bundle's count of slot words (R257), and the ranges
of an event's numbers. What is checked at issue (R325, R321, FT formats) is no matter of form. -/

namespace Sys2Proof.WellFormed

/-- A format field that may stand in a slot word whose accepted constant codes are `codes`: one of them, or 14 (FT), which
is resolved at issue (R181, R190, R299). -/
def fmtIn (codes : List Nat) (f : BitVec 4) : Bool := codes.contains f.toNat || f.toNat == 14

/-- Format codes of the arithmetic group of Table 16.2. -/
def arithFmts : List Nat := [0, 1, 2, 6, 7, 8, 9]

/-- A format code names a floating-point format (Table 9.1). -/
def isFloat (f : Nat) : Bool := f ≤ 4

/-- The mode field of an arithmetic vector instruction against a constant format (R301); under FT the check is made at issue. -/
def arithMode (f : BitVec 4) (m : BitVec 3) : Bool :=
  if f.toNat == 14 then true else if isFloat f.toNat then m.toNat ≤ 5 else m.toNat ≤ 1

/-- The mode field where a floating-point format admits only 0 (Table 16.1: VMIN, VMAX, VABS, VNEG). -/
def zeroMode (f : BitVec 4) (m : BitVec 3) : Bool :=
  if f.toNat == 14 then true else if isFloat f.toNat then m == 0 else m.toNat ≤ 1

/-- A 3-bit rounding-mode field (R262). -/
def rmField (m : BitVec 3) : Bool := m.toNat ≤ 5

/-- A rounding-mode field beside a format field; under FT the check is made at issue (R301). -/
def rmUnder (f : BitVec 4) (m : BitVec 3) : Bool := f.toNat == 14 || rmField m

/-- A mode field that the table marks zero, beside a format field; under FT the check is made at issue (R301). -/
def zeroUnder (f : BitVec 4) (m : BitVec 3) : Bool := f.toNat == 14 || m == 0

/-- The element width of an integer format of the reversible class. -/
def revWidth (f : BitVec 4) : Nat := if f.toNat == 6 then 8 else if f.toNat == 7 then 16 else 32

/-- Formats and shift of a push or undo of w-bit lanes (R342). -/
def revShift (f : BitVec 4) (h : BitVec 5) : Bool :=
  fmtIn [6, 7, 8] f && (f.toNat == 14 || h.toNat < revWidth f)

/-- Formats and shift of RNARW and UNNARW (R342). -/
def revNarrow (f : BitVec 4) (h : BitVec 5) : Bool :=
  fmtIn [6, 7] f && (f.toNat == 14 || h.toNat + revWidth f ≤ 32)

/-- Matrix format fields: codes 10–13 and 15 are illegal at decode; acceptance by row is checked at issue (R181, R325). -/
def mxFmt (f : BitVec 4) : Bool := f.toNat ≤ 9 || f.toNat == 14

/-- The system register numbers of Table 15.4. -/
def sysRegs : List Nat :=
  [0x000, 0x001, 0x002, 0x003, 0x008, 0x009, 0x00A, 0x00B, 0x010, 0x011, 0x012, 0x013, 0x018, 0x019, 0x01A, 0x020,
   0x028, 0x029]

/-- View kind and view number of HRD, HRDS, HWR, HAPP: a tile view has bit 4 zero (R354). -/
def viewKind (k : BitVec 1) (v : BitVec 5) : Bool := k == 0 || v.toNat < 16

/-- How many slots a header presents: bits 91–84 of H (Table 14.2). -/
def presentCount (h : BitVec 94) : Nat :=
  ((List.range 8).filter (fun i => h.getLsbD (84 + i))).length

end Sys2Proof.WellFormed

namespace Sys2Proof

open WellFormed in
/-- The instruction's fields lie in the ranges its encoding admits. -/
def wellFormed : Instr → Bool
  | .bfx _ _ p l => p.toNat + l.toNat + 1 ≤ 64
  | .bfi _ _ p l => p.toNat + l.toNat + 1 ≤ 64
  | .cmpCc d _ _ c => d != 0 && c.toNat ≤ 9
  | .cmpiCc c d _ _ => d != 0 && c.toNat ≤ 9
  | .fcmpCc d _ _ c => d != 0 && c.toNat ≤ 5
  | .pand d _ _ => d != 0
  | .por d _ _ => d != 0
  | .pxor d _ _ => d != 0
  | .pnot d _ => d != 0
  | .faddS _ _ _ m => rmField m
  | .fmulS _ _ _ m => rmField m
  | .ffmaS _ _ _ m => rmField m
  | .icvt _ _ _ m => rmField m
  | .fcvt _ _ _ m => rmField m
  | .rdsr _ r => sysRegs.contains r.toNat
  | .wrsr _ r => sysRegs.contains r.toNat
  | .view v _ _ => v.toNat ≤ 55
  | .vadd _ _ _ _ m f => fmtIn arithFmts f && arithMode f m
  | .vsub _ _ _ _ m f => fmtIn arithFmts f && arithMode f m
  | .vmul _ _ _ _ m f => fmtIn arithFmts f && arithMode f m
  | .vfma _ _ _ _ f => fmtIn arithFmts f
  | .vfms _ _ _ _ f => fmtIn arithFmts f
  | .vmin _ _ _ _ m f => fmtIn arithFmts f && zeroMode f m
  | .vmax _ _ _ _ m f => fmtIn arithFmts f && zeroMode f m
  | .vabs _ _ _ m f => fmtIn arithFmts f && zeroMode f m
  | .vneg _ _ _ m f => fmtIn arithFmts f && zeroMode f m
  | .vaddSr _ _ _ _ g => fmtIn [0, 1, 2] g.fmt && zeroUnder g.fmt g.mode
  | .vcmpCc c e _ _ _ g => c.toNat ≤ 9 && e != 0 && fmtIn arithFmts g.fmt && zeroUnder g.fmt g.mode
  | .vshl _ _ _ _ g => fmtIn [6, 7, 8, 9] g.fmt && zeroUnder g.fmt g.mode
  | .vshr _ _ _ _ g => fmtIn [6, 7, 8, 9] g.fmt && zeroUnder g.fmt g.mode
  | .vsar _ _ _ _ g => fmtIn [6, 7, 8, 9] g.fmt && zeroUnder g.fmt g.mode
  | .vcvt _ _ t _ _ m f => [0, 1, 2, 3, 4, 6, 7, 8, 9].contains t.toNat && fmtIn [0, 1, 2, 3, 4, 6, 7, 8, 9] f && rmUnder f m
  | .vqnt _ _ m f => fmtIn [3, 4, 5] f && rmUnder f m
  | .vdqnt _ _ g => fmtIn [3, 4, 5] g.fmt && zeroUnder g.fmt g.mode
  | .vredsum _ _ _ g => fmtIn [0, 6, 7, 8, 9] g.fmt && zeroUnder g.fmt g.mode
  | .vredmax _ _ _ g => fmtIn arithFmts g.fmt && zeroUnder g.fmt g.mode
  | .vextr _ _ _ g => fmtIn [0, 1, 2, 3, 4, 6, 7, 8, 9] g.fmt && zeroUnder g.fmt g.mode
  | .trowLd _ _ _ _ g => fmtIn [0, 1, 2, 3, 4, 5, 6, 7, 8, 9] g.fmt && zeroUnder g.fmt g.mode
  | .trowSt _ _ _ _ g => fmtIn [0, 1, 2, 3, 4, 5, 6, 7, 8, 9] g.fmt && zeroUnder g.fmt g.mode
  | .tcolLd _ _ _ _ g => fmtIn [0, 1, 2, 3, 4, 5, 6, 7, 8, 9] g.fmt && zeroUnder g.fmt g.mode
  | .tcolSt _ _ _ _ g => fmtIn [0, 1, 2, 3, 4, 5, 6, 7, 8, 9] g.fmt && zeroUnder g.fmt g.mode
  | .qmovToMask e _ => e != 0
  | .qops d _ b o => d != 0 && o.toNat ≤ 4 && (o.toNat != 4 || b == 0)
  | .radd _ _ _ _ f => fmtIn [6, 7, 8] f
  | .rsub _ _ _ _ f => fmtIn [6, 7, 8] f
  | .rxor _ _ _ _ f => fmtIn [6, 7, 8] f
  | .rmulq _ _ _ h f => revShift f h
  | .unmulq _ _ _ h f => revShift f h
  | .rshr _ _ h f => revShift f h
  | .unshr _ _ h f => revShift f h
  | .rleak _ _ h f => revShift f h
  | .unleak _ _ h f => revShift f h
  | .rnarw _ _ h f => revNarrow f h
  | .unnarw _ _ h f => revNarrow f h
  | .mmaTile _ _ _ _ f _ _ _ => mxFmt f
  | .mmaStream _ _ _ _ f _ _ => mxFmt f
  | .mmas _ _ _ _ f _ _ _ => mxFmt f
  | .mload _ _ _ f _ => mxFmt f
  | .mdrain _ _ _ f _ _ _ => mxFmt f
  | .maddt _ _ _ f _ => mxFmt f
  | .hrd _ v k => viewKind k v
  | .hrds _ v k => viewKind k v
  | .hwr _ v k => viewKind k v
  | .happ _ v k => viewKind k v
  | .cpy _ _ l => l.toNat ≤ 3
  | .cpyh _ _ l => l.toNat ≤ 3
  | .collAllred _ _ l => 4 ≤ l.toNat && l.toNat ≤ 7
  | .collRdscat _ _ l => 4 ≤ l.toNat && l.toNat ≤ 7
  | .collAllgth _ _ l => 4 ≤ l.toNat && l.toNat ≤ 7
  | .tlwait _ l => l.toNat ≤ 7
  | .tlrd _ l => l.toNat ≤ 7
  | .nextt d => d != 0
  | .flsig _ o _ => o != 3
  | .literalBundle h ws => ws.length == presentCount h
  | .dataFlitReceive p b => p < 16 && b.length == 256
  | .controlFlitReceive p b => p < 16 && b.length == 256
  | .idleFlitReceive p b => p < 16 && b.length == 256
  | .replayRequestReceive p b => p < 16 && b.length == 256
  | .pauseKeepaliveTimer p => p < 16
  | .portRxTimeout p => p < 16
  | .phyLockLoss p => p < 16
  | .portRetrainEnd p _ => p < 16
  | .lnkStatWrite _ p _ => p < 16
  | .routeWrite _ d _ => d < 4096
  | .featMaskWrite _ n _ => n < 16
  | .armStart w => w.args.length == 12 && w.slot < 4096 && w.link < 2
  | .armWait w n => w.args.length == 12 && w.slot < 4096 && w.link < 2 && n != 0xFFFF
  | .armResume w _ => w.args.length == 12 && w.slot < 4096 && w.link < 2
  | .engineCommandStart h _ _ => h < 64
  | .extentWalkComplete h => h < 64
  | .nexttRequestAccept d _ => d < 4
  | .add .. | .sub .. | .mul .. | .mulh .. | .mulhu .. | .divu .. | .remu .. | .and .. | .or .. | .xor .. | .shl ..
  | .shr .. | .sar .. | .min .. | .max .. | .minu .. | .maxu .. | .clz .. | .popc .. | .sel .. | .addi .. | .andi ..
  | .ori .. | .xori .. | .shli .. | .shri .. | .sari .. | .movi .. | .movhi .. | .fminS .. | .fmaxS .. | .ldB ..
  | .ldH .. | .ldW .. | .ldD .. | .stB .. | .stH .. | .stW .. | .stD .. | .ftset .. | .rngk .. | .revon .. | .rstag ..
  | .vsel .. | .vand .. | .vor .. | .vxor .. | .vrsqrta .. | .vrcpa .. | .vexp2a .. | .vlog2a .. | .vbcast ..
  | .vperm .. | .vrot .. | .vmov .. | .viota .. | .vld .. | .vst .. | .qmovFromMask .. | .mzero .. | .mswap ..
  | .mstat .. | .mscl .. | .mxpose .. | .hatt .. | .hdet .. | .hstep .. | .hstepr .. | .hmark .. | .hrew .. | .hpos ..
  | .hdist .. | .hlen .. | .hstat .. | .cadd .. | .crd .. | .crdStat .. | .cclr .. | .ccfg .. | .erep .. | .btree ..
  | .jmpRel .. | .jmpReg .. | .callRel .. | .callReg .. | .ret .. | .loop .. | .loopSp .. | .lbrk .. | .sync ..
  | .phase .. | .sev .. | .trap .. | .bkpt .. | .dset .. | .solve .. | .solq .. | .solrd .. | .shortCall ..
  | .longCall .. | .pwrReqP0 .. | .pwrReqP1 .. | .pwrReqP2 .. | .pwrReqP3 .. | .msgQuote .. | .msgExtend ..
  | .msgOpenSession .. | .msgCloseSession .. | .msgLoadFw .. | .msgLoadCfg .. | .msgReadLog .. | .flInstall ..
  | .flRemove .. | .flStage .. | .jcCut .. | .jcResumeHeld .. | .jcFaultHeld .. | .jcReadTrap .. | .dbgHalt ..
  | .dbgStep .. | .dbgRun .. | .dbgRead .. | .dbgWrite .. | .dbgWriteDiscard .. | .cqHeadWrite .. | .cqCtlWrite ..
  | .secStatWrite .. | .sysSelfWrite .. | .registerWrite .. | .completionRecordWrite .. | .msiModerationTimer ..
  | .nexttReplyArrive .. | .ageingTimer .. | .preemptTimer .. | .basinTimer .. | .cutTimeout .. | .cutRetryTimer ..
  | .trapRollbackComplete .. | .resultLanding .. | .headReadLanding .. | .matrixResultLanding ..
  | .solendDecisionEnd .. | .replayEntryLanding .. | .checkpointReleaseEnd .. | .handrailLineTrue ..
  | .handrailRestart .. | .eventArrival .. | .streamProducerResume .. | .streamConsumerResume .. | .mgmtSample ..
  | .kernelNodePlace .. | .nextTaskStart .. | .taskEnd .. | .transformNodeDispatch .. | .conditionalNodeEval ..
  | .whileNodeEval .. | .notifyNodeDispatch .. | .nodeCommit .. | .remoteJobFault .. | .domainShareExchange ..
  | .level4LineCompletion .. | .cutMFormed .. | .cutSFormed .. | .cutImagesWritten .. | .cutRunResume ..
  | .handlerTaskStart .. | .poisonRepairComplete .. | .translationShootdown .. | .softErrorDetected ..
  | .instructionCacheFill .. | .dictionaryCacheFill .. | .targetTableLineFill .. | .headRecordArrival ..
  | .cellReadValueArrival .. | .remainderTransferEnd .. | .tapeWriteAtHome .. | .cellOpAtVault ..
  | .phasePublicationEnd .. | .collectiveMatch .. | .engineCommandComplete .. | .functionLevelReset ..
  | .flightOperationEnd .. | .remoteCutRequest .. | .packageReset .. | .powerLoss .. | .powerTransitionEnd ..
  | .revoff .. | .nop .. | .wfe .. | .halt .. | .dfence .. | .solend .. | .messageRequestEnd .. => true

end Sys2Proof
end

