-- ==== Sys2Proof/Decode.lean ====
section
/-! DEFINITION. The decoder, total on any bytes, and the encoder after it, written from the same tables: stream words
(Table 14.1), the header (Table 14.2), slot words (Tables 14.5, 14.10 to 14.15), dictionary entries and their expansion
(R264 to R266), arm writes (Table 3.3) and the BAR0 writes that have an operation of their own (Table 3.1). -/

namespace Sys2Proof

/-- Why a word is rejected; each is the illegal case of R263 or Table 14.1 that its name says. -/
inductive Reject where
  /-- the opcode is unassigned in its class (R263) -/
  | unassigned
  /-- the opcode is assigned but may not stand in this slot (R263, R118) -/
  | misplaced
  /-- a field that the instruction does not use is not zero (R263) -/
  | reserved
  /-- a field names a value outside its range, or an illegal format or mode (R263) -/
  | range
  /-- a stream word of kind 0b11 (R258) -/
  | streamKind
  /-- the words of the bundle are not all there -/
  | short
  deriving DecidableEq, Repr

/-- The field of `len` bits of `w` whose lowest bit is `lo` (R3). -/
def fld {n : Nat} (w : BitVec n) (lo len : Nat) : BitVec len := w.extractLsb' lo len

/-- The instruction a slot word of the scalar opcode space stands for: its opcode in bits 31–24 and the fixed zero
fields of its row (R262, R263, R271). -/
def decodeScalar (w : W32) : Except Reject Instr :=
  match (fld w 24 8).toNat with
  | 0x01 => if fld w 0 6 == 0 then .ok (.add (fld w 18 6) (fld w 12 6) (fld w 6 6)) else .error .reserved
  | 0x02 => if fld w 0 6 == 0 then .ok (.sub (fld w 18 6) (fld w 12 6) (fld w 6 6)) else .error .reserved
  | 0x03 => if fld w 0 6 == 0 then .ok (.mul (fld w 18 6) (fld w 12 6) (fld w 6 6)) else .error .reserved
  | 0x04 => if fld w 0 6 == 0 then .ok (.mulh (fld w 18 6) (fld w 12 6) (fld w 6 6)) else .error .reserved
  | 0x05 => if fld w 0 6 == 0 then .ok (.mulhu (fld w 18 6) (fld w 12 6) (fld w 6 6)) else .error .reserved
  | 0x06 => if fld w 0 6 == 0 then .ok (.divu (fld w 18 6) (fld w 12 6) (fld w 6 6)) else .error .reserved
  | 0x07 => if fld w 0 6 == 0 then .ok (.remu (fld w 18 6) (fld w 12 6) (fld w 6 6)) else .error .reserved
  | 0x08 => if fld w 0 6 == 0 then .ok (.and (fld w 18 6) (fld w 12 6) (fld w 6 6)) else .error .reserved
  | 0x09 => if fld w 0 6 == 0 then .ok (.or (fld w 18 6) (fld w 12 6) (fld w 6 6)) else .error .reserved
  | 0x0a => if fld w 0 6 == 0 then .ok (.xor (fld w 18 6) (fld w 12 6) (fld w 6 6)) else .error .reserved
  | 0x0b => if fld w 0 6 == 0 then .ok (.shl (fld w 18 6) (fld w 12 6) (fld w 6 6)) else .error .reserved
  | 0x0c => if fld w 0 6 == 0 then .ok (.shr (fld w 18 6) (fld w 12 6) (fld w 6 6)) else .error .reserved
  | 0x0d => if fld w 0 6 == 0 then .ok (.sar (fld w 18 6) (fld w 12 6) (fld w 6 6)) else .error .reserved
  | 0x0e => if fld w 0 6 == 0 then .ok (.min (fld w 18 6) (fld w 12 6) (fld w 6 6)) else .error .reserved
  | 0x0f => if fld w 0 6 == 0 then .ok (.max (fld w 18 6) (fld w 12 6) (fld w 6 6)) else .error .reserved
  | 0x10 => if fld w 0 6 == 0 then .ok (.minu (fld w 18 6) (fld w 12 6) (fld w 6 6)) else .error .reserved
  | 0x11 => if fld w 0 6 == 0 then .ok (.maxu (fld w 18 6) (fld w 12 6) (fld w 6 6)) else .error .reserved
  | 0x12 => if fld w 0 12 == 0 then .ok (.clz (fld w 18 6) (fld w 12 6)) else .error .reserved
  | 0x13 => if fld w 0 12 == 0 then .ok (.popc (fld w 18 6) (fld w 12 6)) else .error .reserved
  | 0x14 => if fld w 4 2 == 0 then .ok (.sel (fld w 18 6) (fld w 12 6) (fld w 6 6) (fld w 3 1) (fld w 0 3)) else .error .reserved
  | 0x18 => .ok (.addi (fld w 18 6) (fld w 12 6) (fld w 0 12))
  | 0x19 => .ok (.andi (fld w 18 6) (fld w 12 6) (fld w 0 12))
  | 0x1a => .ok (.ori (fld w 18 6) (fld w 12 6) (fld w 0 12))
  | 0x1b => .ok (.xori (fld w 18 6) (fld w 12 6) (fld w 0 12))
  | 0x1c => if fld w 6 6 == 0 then .ok (.shli (fld w 18 6) (fld w 12 6) (fld w 0 6)) else .error .reserved
  | 0x1d => if fld w 6 6 == 0 then .ok (.shri (fld w 18 6) (fld w 12 6) (fld w 0 6)) else .error .reserved
  | 0x1e => if fld w 6 6 == 0 then .ok (.sari (fld w 18 6) (fld w 12 6) (fld w 0 6)) else .error .reserved
  | 0x1f => .ok (.bfx (fld w 18 6) (fld w 12 6) (fld w 6 6) (fld w 0 6))
  | 0x20 => .ok (.bfi (fld w 18 6) (fld w 12 6) (fld w 6 6) (fld w 0 6))
  | 0x22 => .ok (.movi (fld w 18 6) (fld w 0 18))
  | 0x23 => .ok (.movhi (fld w 18 6) (fld w 0 18))
  | 0x28 => if fld w 21 3 == 0 then .ok (.cmpCc (fld w 18 3) (fld w 12 6) (fld w 6 6) (fld w 0 6)) else .error .reserved
  | 0x29 => if fld w 21 3 == 0 && fld w 15 3 == 0 && fld w 9 3 == 0 && fld w 0 6 == 0 then .ok (.pand (fld w 18 3) (fld w 12 3) (fld w 6 3)) else .error .reserved
  | 0x2a => if fld w 21 3 == 0 && fld w 15 3 == 0 && fld w 9 3 == 0 && fld w 0 6 == 0 then .ok (.por (fld w 18 3) (fld w 12 3) (fld w 6 3)) else .error .reserved
  | 0x2b => if fld w 21 3 == 0 && fld w 15 3 == 0 && fld w 9 3 == 0 && fld w 0 6 == 0 then .ok (.pxor (fld w 18 3) (fld w 12 3) (fld w 6 3)) else .error .reserved
  | 0x2c => if fld w 21 3 == 0 && fld w 15 3 == 0 && fld w 0 12 == 0 then .ok (.pnot (fld w 18 3) (fld w 12 3)) else .error .reserved
  | 0x30 | 0x31 | 0x32 | 0x33 | 0x34 | 0x35 | 0x36 | 0x37 | 0x38 | 0x39 => if fld w 21 3 == 0 then .ok (.cmpiCc (fld w 24 4) (fld w 18 3) (fld w 12 6) (fld w 0 12)) else .error .reserved
  | 0x40 => if fld w 3 3 == 0 then .ok (.faddS (fld w 18 6) (fld w 12 6) (fld w 6 6) (fld w 0 3)) else .error .reserved
  | 0x41 => if fld w 3 3 == 0 then .ok (.fmulS (fld w 18 6) (fld w 12 6) (fld w 6 6) (fld w 0 3)) else .error .reserved
  | 0x42 => if fld w 3 3 == 0 then .ok (.ffmaS (fld w 18 6) (fld w 12 6) (fld w 6 6) (fld w 0 3)) else .error .reserved
  | 0x43 => if fld w 0 6 == 0 then .ok (.fminS (fld w 18 6) (fld w 12 6) (fld w 6 6)) else .error .reserved
  | 0x44 => if fld w 0 6 == 0 then .ok (.fmaxS (fld w 18 6) (fld w 12 6) (fld w 6 6)) else .error .reserved
  | 0x45 => if fld w 21 3 == 0 then .ok (.fcmpCc (fld w 18 3) (fld w 12 6) (fld w 6 6) (fld w 0 6)) else .error .reserved
  | 0x46 => if fld w 4 8 == 0 then .ok (.icvt (fld w 18 6) (fld w 12 6) (fld w 3 1) (fld w 0 3)) else .error .reserved
  | 0x47 => if fld w 4 8 == 0 then .ok (.fcvt (fld w 18 6) (fld w 12 6) (fld w 3 1) (fld w 0 3)) else .error .reserved
  | 0x50 => .ok (.ldB (fld w 18 6) (fld w 12 6) (fld w 0 12))
  | 0x51 => .ok (.ldH (fld w 18 6) (fld w 12 6) (fld w 0 12))
  | 0x52 => .ok (.ldW (fld w 18 6) (fld w 12 6) (fld w 0 12))
  | 0x53 => .ok (.ldD (fld w 18 6) (fld w 12 6) (fld w 0 12))
  | 0x54 => .ok (.stB (fld w 18 6) (fld w 12 6) (fld w 0 12))
  | 0x55 => .ok (.stH (fld w 18 6) (fld w 12 6) (fld w 0 12))
  | 0x56 => .ok (.stW (fld w 18 6) (fld w 12 6) (fld w 0 12))
  | 0x57 => .ok (.stD (fld w 18 6) (fld w 12 6) (fld w 0 12))
  | 0x60 => .ok (.rdsr (fld w 18 6) (fld w 0 18))
  | 0x61 => .ok (.wrsr (fld w 18 6) (fld w 0 18))
  | 0x62 => if fld w 0 6 == 0 then .ok (.view (fld w 18 6) (fld w 12 6) (fld w 6 6)) else .error .reserved
  | 0x63 => if fld w 18 6 == 0 && fld w 0 6 == 0 then .ok (.ftset (fld w 12 6) (fld w 6 6)) else .error .reserved
  | 0x64 => if fld w 18 6 == 0 && fld w 0 6 == 0 then .ok (.rngk (fld w 12 6) (fld w 6 6)) else .error .reserved
  | 0x68 => if fld w 18 6 == 0 && fld w 0 12 == 0 then .ok (.revon (fld w 12 6)) else .error .reserved
  | 0x69 => if fld w 0 24 == 0 then .ok (.revoff) else .error .reserved
  | 0x6a => if fld w 9 9 == 0 && fld w 4 4 == 0 then .ok (.rstag (fld w 18 6) (fld w 8 1) (fld w 0 4)) else .error .reserved
  | _ => .error .unassigned

/-- The instruction a slot word of the vector opcode space stands for: its opcode in bits 31–24 and the fixed zero
fields of its row (R262, R263, R271). -/
def decodeVector (w : W32) : Except Reject Instr :=
  match (fld w 24 8).toNat with
  | 0x01 => .ok (.vadd (fld w 19 5) (fld w 14 5) (fld w 9 5) (fld w 7 2) (fld w 4 3) (fld w 0 4))
  | 0x02 => .ok (.vsub (fld w 19 5) (fld w 14 5) (fld w 9 5) (fld w 7 2) (fld w 4 3) (fld w 0 4))
  | 0x03 => .ok (.vmul (fld w 19 5) (fld w 14 5) (fld w 9 5) (fld w 7 2) (fld w 4 3) (fld w 0 4))
  | 0x04 => .ok (.vfma (fld w 19 5) (fld w 14 5) (fld w 9 5) (fld w 4 5) (fld w 0 4))
  | 0x05 => .ok (.vfms (fld w 19 5) (fld w 14 5) (fld w 9 5) (fld w 4 5) (fld w 0 4))
  | 0x06 => .ok (.vmin (fld w 19 5) (fld w 14 5) (fld w 9 5) (fld w 7 2) (fld w 4 3) (fld w 0 4))
  | 0x07 => .ok (.vmax (fld w 19 5) (fld w 14 5) (fld w 9 5) (fld w 7 2) (fld w 4 3) (fld w 0 4))
  | 0x08 => if fld w 9 5 == 0 then .ok (.vabs (fld w 19 5) (fld w 14 5) (fld w 7 2) (fld w 4 3) (fld w 0 4)) else .error .reserved
  | 0x09 => if fld w 9 5 == 0 then .ok (.vneg (fld w 19 5) (fld w 14 5) (fld w 7 2) (fld w 4 3) (fld w 0 4)) else .error .reserved
  | 0x0a => .ok (.vaddSr (fld w 19 5) (fld w 14 5) (fld w 9 5) (fld w 7 2) ⟨fld w 4 3, fld w 0 4⟩)
  | 0x10 | 0x11 | 0x12 | 0x13 | 0x14 | 0x15 | 0x16 | 0x17 | 0x18 | 0x19 => if fld w 21 3 == 0 then .ok (.vcmpCc (fld w 24 4) (fld w 19 2) (fld w 14 5) (fld w 9 5) (fld w 7 2) ⟨fld w 4 3, fld w 0 4⟩) else .error .reserved
  | 0x20 => if fld w 0 7 == 0 then .ok (.vsel (fld w 19 5) (fld w 14 5) (fld w 9 5) (fld w 7 2)) else .error .reserved
  | 0x21 => if fld w 0 7 == 0 then .ok (.vand (fld w 19 5) (fld w 14 5) (fld w 9 5) (fld w 7 2)) else .error .reserved
  | 0x22 => if fld w 0 7 == 0 then .ok (.vor (fld w 19 5) (fld w 14 5) (fld w 9 5) (fld w 7 2)) else .error .reserved
  | 0x23 => if fld w 0 7 == 0 then .ok (.vxor (fld w 19 5) (fld w 14 5) (fld w 9 5) (fld w 7 2)) else .error .reserved
  | 0x24 => .ok (.vshl (fld w 19 5) (fld w 14 5) (fld w 9 5) (fld w 7 2) ⟨fld w 4 3, fld w 0 4⟩)
  | 0x25 => .ok (.vshr (fld w 19 5) (fld w 14 5) (fld w 9 5) (fld w 7 2) ⟨fld w 4 3, fld w 0 4⟩)
  | 0x26 => .ok (.vsar (fld w 19 5) (fld w 14 5) (fld w 9 5) (fld w 7 2) ⟨fld w 4 3, fld w 0 4⟩)
  | 0x28 => .ok (.vcvt (fld w 19 5) (fld w 14 5) (fld w 10 4) (fld w 9 1) (fld w 7 2) (fld w 4 3) (fld w 0 4))
  | 0x29 => if fld w 7 7 == 0 then .ok (.vqnt (fld w 19 5) (fld w 14 5) (fld w 4 3) (fld w 0 4)) else .error .reserved
  | 0x2a => if fld w 7 7 == 0 then .ok (.vdqnt (fld w 19 5) (fld w 14 5) ⟨fld w 4 3, fld w 0 4⟩) else .error .reserved
  | 0x30 => if fld w 9 5 == 0 && fld w 0 7 == 0 then .ok (.vrsqrta (fld w 19 5) (fld w 14 5) (fld w 7 2)) else .error .reserved
  | 0x31 => if fld w 9 5 == 0 && fld w 0 7 == 0 then .ok (.vrcpa (fld w 19 5) (fld w 14 5) (fld w 7 2)) else .error .reserved
  | 0x32 => if fld w 9 5 == 0 && fld w 0 7 == 0 then .ok (.vexp2a (fld w 19 5) (fld w 14 5) (fld w 7 2)) else .error .reserved
  | 0x33 => if fld w 9 5 == 0 && fld w 0 7 == 0 then .ok (.vlog2a (fld w 19 5) (fld w 14 5) (fld w 7 2)) else .error .reserved
  | 0x38 => if fld w 9 5 == 0 then .ok (.vredsum (fld w 19 5) (fld w 14 5) (fld w 7 2) ⟨fld w 4 3, fld w 0 4⟩) else .error .reserved
  | 0x39 => if fld w 9 5 == 0 then .ok (.vredmax (fld w 19 5) (fld w 14 5) (fld w 7 2) ⟨fld w 4 3, fld w 0 4⟩) else .error .reserved
  | 0x40 => if fld w 9 5 == 0 && fld w 0 7 == 0 then .ok (.vbcast (fld w 19 5) (fld w 14 5) (fld w 7 2)) else .error .reserved
  | 0x41 => if fld w 7 2 == 0 then .ok (.vextr (fld w 19 5) (fld w 14 5) (fld w 9 5) ⟨fld w 4 3, fld w 0 4⟩) else .error .reserved
  | 0x42 => if fld w 0 7 == 0 then .ok (.vperm (fld w 19 5) (fld w 14 5) (fld w 9 5) (fld w 7 2)) else .error .reserved
  | 0x43 => if fld w 0 7 == 0 then .ok (.vrot (fld w 19 5) (fld w 14 5) (fld w 9 5) (fld w 7 2)) else .error .reserved
  | 0x44 => if fld w 9 5 == 0 && fld w 0 7 == 0 then .ok (.vmov (fld w 19 5) (fld w 14 5) (fld w 7 2)) else .error .reserved
  | 0x45 => if fld w 9 5 == 0 && fld w 0 7 == 0 then .ok (.viota (fld w 19 5) (fld w 14 5) (fld w 7 2)) else .error .reserved
  | 0x48 => if fld w 9 5 == 0 && fld w 0 7 == 0 then .ok (.vld (fld w 19 5) (fld w 14 5) (fld w 7 2)) else .error .reserved
  | 0x49 => if fld w 9 5 == 0 && fld w 0 7 == 0 then .ok (.vst (fld w 19 5) (fld w 14 5) (fld w 7 2)) else .error .reserved
  | 0x50 => if fld w 18 1 == 0 then .ok (.trowLd (fld w 19 5) (fld w 14 4) (fld w 9 5) (fld w 7 2) ⟨fld w 4 3, fld w 0 4⟩) else .error .reserved
  | 0x51 => if fld w 18 1 == 0 then .ok (.trowSt (fld w 19 5) (fld w 14 4) (fld w 9 5) (fld w 7 2) ⟨fld w 4 3, fld w 0 4⟩) else .error .reserved
  | 0x52 => if fld w 18 1 == 0 then .ok (.tcolLd (fld w 19 5) (fld w 14 4) (fld w 9 5) (fld w 7 2) ⟨fld w 4 3, fld w 0 4⟩) else .error .reserved
  | 0x53 => if fld w 18 1 == 0 then .ok (.tcolSt (fld w 19 5) (fld w 14 4) (fld w 9 5) (fld w 7 2) ⟨fld w 4 3, fld w 0 4⟩) else .error .reserved
  | 0x58 => if fld w 21 3 == 0 && fld w 0 14 == 0 then .ok (.qmovToMask (fld w 19 2) (fld w 14 5)) else if fld w 16 3 == 0 && fld w 0 14 == 1 then .ok (.qmovFromMask (fld w 19 5) (fld w 14 2)) else .error .reserved
  | 0x59 => if fld w 21 3 == 0 && fld w 16 3 == 0 && fld w 11 3 == 0 && fld w 4 5 == 0 then .ok (.qops (fld w 19 2) (fld w 14 2) (fld w 9 2) (fld w 0 4)) else .error .reserved
  | 0x80 => if fld w 4 3 == 0 then .ok (.radd (fld w 19 5) (fld w 14 5) (fld w 9 5) (fld w 7 2) (fld w 0 4)) else .error .reserved
  | 0x81 => if fld w 4 3 == 0 then .ok (.rsub (fld w 19 5) (fld w 14 5) (fld w 9 5) (fld w 7 2) (fld w 0 4)) else .error .reserved
  | 0x82 => if fld w 4 3 == 0 then .ok (.rxor (fld w 19 5) (fld w 14 5) (fld w 9 5) (fld w 7 2) (fld w 0 4)) else .error .reserved
  | 0x84 => .ok (.rmulq (fld w 19 5) (fld w 14 5) (fld w 9 5) (fld w 4 5) (fld w 0 4))
  | 0x85 => .ok (.unmulq (fld w 19 5) (fld w 14 5) (fld w 9 5) (fld w 4 5) (fld w 0 4))
  | 0x86 => if fld w 9 5 == 0 then .ok (.rshr (fld w 19 5) (fld w 14 5) (fld w 4 5) (fld w 0 4)) else .error .reserved
  | 0x87 => if fld w 9 5 == 0 then .ok (.unshr (fld w 19 5) (fld w 14 5) (fld w 4 5) (fld w 0 4)) else .error .reserved
  | 0x88 => if fld w 9 5 == 0 then .ok (.rleak (fld w 19 5) (fld w 14 5) (fld w 4 5) (fld w 0 4)) else .error .reserved
  | 0x89 => if fld w 9 5 == 0 then .ok (.unleak (fld w 19 5) (fld w 14 5) (fld w 4 5) (fld w 0 4)) else .error .reserved
  | 0x8a => if fld w 9 5 == 0 then .ok (.rnarw (fld w 19 5) (fld w 14 5) (fld w 4 5) (fld w 0 4)) else .error .reserved
  | 0x8b => if fld w 9 5 == 0 then .ok (.unnarw (fld w 19 5) (fld w 14 5) (fld w 4 5) (fld w 0 4)) else .error .reserved
  | _ => .error .unassigned

/-- The instruction a slot word of the matrix opcode space stands for: its opcode in bits 31–24 and the fixed zero
fields of its row (R262, R263, R271). -/
def decodeMatrix (w : W32) : Except Reject Instr :=
  match (fld w 24 8).toNat with
  | 0x01 => if fld w 1 1 == 0 then .ok (.mmaTile (fld w 21 3) (fld w 17 4) (fld w 13 4) (fld w 8 5) (fld w 4 4) (fld w 3 1) (fld w 2 1) (fld w 0 1)) else if fld w 20 1 == 0 && fld w 3 1 == 0 && fld w 1 1 == 1 then .ok (.mmaStream (fld w 21 3) (fld w 17 3) (fld w 13 4) (fld w 8 5) (fld w 4 4) (fld w 2 1) (fld w 0 1)) else .error .reserved
  | 0x02 => if fld w 1 1 == 0 then .ok (.mmas (fld w 21 3) (fld w 17 4) (fld w 13 4) (fld w 8 5) (fld w 4 4) (fld w 3 1) (fld w 2 1) (fld w 0 1)) else .error .reserved
  | 0x03 => if fld w 13 8 == 0 && fld w 1 7 == 0 then .ok (.mzero (fld w 21 3) (fld w 8 5) (fld w 0 1)) else .error .reserved
  | 0x04 => if fld w 13 4 == 0 && fld w 0 3 == 0 then .ok (.mload (fld w 21 3) (fld w 17 4) (fld w 8 5) (fld w 4 4) (fld w 3 1)) else .error .reserved
  | 0x05 => if fld w 13 4 == 0 && fld w 1 1 == 0 then .ok (.mdrain (fld w 21 3) (fld w 17 4) (fld w 8 5) (fld w 4 4) (fld w 3 1) (fld w 2 1) (fld w 0 1)) else .error .reserved
  | 0x06 => if fld w 20 1 == 0 && fld w 13 4 == 0 && fld w 0 8 == 0 then .ok (.mswap (fld w 21 3) (fld w 17 3) (fld w 8 5)) else .error .reserved
  | 0x07 => if fld w 13 2 == 0 && fld w 0 8 == 0 then .ok (.mstat (fld w 21 3) (fld w 15 6) (fld w 8 5)) else .error .reserved
  | 0x08 => if fld w 13 4 == 0 && fld w 0 3 == 0 then .ok (.maddt (fld w 21 3) (fld w 17 4) (fld w 8 5) (fld w 4 4) (fld w 3 1)) else .error .reserved
  | 0x09 => if fld w 13 2 == 0 && fld w 3 5 == 0 && fld w 0 2 == 0 then .ok (.mscl (fld w 21 3) (fld w 15 6) (fld w 8 5) (fld w 2 1)) else .error .reserved
  | 0x0a => if fld w 20 1 == 0 && fld w 13 4 == 0 && fld w 0 8 == 0 then .ok (.mxpose (fld w 21 3) (fld w 17 3) (fld w 8 5)) else .error .reserved
  | _ => .error .unassigned

/-- The instruction a slot word of the head opcode space stands for: its opcode in bits 31–24 and the fixed zero
fields of its row (R262, R263, R271). -/
def decodeHead (w : W32) : Except Reject Instr :=
  match (fld w 24 8).toNat with
  | 0x01 => if fld w 16 5 == 0 && fld w 2 8 == 0 then .ok (.hatt (fld w 21 3) (fld w 10 6) (fld w 1 1) (fld w 0 1)) else .error .reserved
  | 0x02 => if fld w 0 21 == 0 then .ok (.hdet (fld w 21 3)) else .error .reserved
  | 0x03 => if fld w 9 7 == 0 && fld w 0 8 == 0 then .ok (.hrd (fld w 21 3) (fld w 16 5) (fld w 8 1)) else .error .reserved
  | 0x04 => if fld w 9 7 == 0 && fld w 0 8 == 0 then .ok (.hrds (fld w 21 3) (fld w 16 5) (fld w 8 1)) else .error .reserved
  | 0x05 => if fld w 9 7 == 0 && fld w 0 8 == 0 then .ok (.hwr (fld w 21 3) (fld w 16 5) (fld w 8 1)) else .error .reserved
  | 0x06 => if fld w 9 7 == 0 && fld w 0 8 == 0 then .ok (.happ (fld w 21 3) (fld w 16 5) (fld w 8 1)) else .error .reserved
  | 0x07 => if fld w 10 11 == 0 then .ok (.hstep (fld w 21 3) (fld w 0 10)) else .error .reserved
  | 0x08 => if fld w 16 5 == 0 && fld w 0 10 == 0 then .ok (.hstepr (fld w 21 3) (fld w 10 6)) else .error .reserved
  | 0x09 => if fld w 2 19 == 0 then .ok (.hmark (fld w 21 3) (fld w 0 2)) else .error .reserved
  | 0x0a => if fld w 2 19 == 0 then .ok (.hrew (fld w 21 3) (fld w 0 2)) else .error .reserved
  | 0x0b => if fld w 16 5 == 0 && fld w 0 10 == 0 then .ok (.hpos (fld w 21 3) (fld w 10 6)) else .error .reserved
  | 0x0c => if fld w 16 5 == 0 && fld w 2 8 == 0 then .ok (.hdist (fld w 21 3) (fld w 10 6) (fld w 0 2)) else .error .reserved
  | 0x0d => if fld w 16 5 == 0 && fld w 1 9 == 0 then .ok (.hlen (fld w 21 3) (fld w 10 6) (fld w 0 1)) else .error .reserved
  | 0x0e => if fld w 16 5 == 0 && fld w 0 10 == 0 then .ok (.hstat (fld w 21 3) (fld w 10 6)) else .error .reserved
  | 0x20 => if fld w 21 3 == 0 && fld w 0 7 == 0 then .ok (.cadd (fld w 16 5) (fld w 10 6) (fld w 8 2) (fld w 7 1)) else .error .reserved
  | 0x21 => if fld w 21 3 == 0 && fld w 0 7 == 0 then .ok (.crd (fld w 16 5) (fld w 10 6) (fld w 8 2) (fld w 7 1)) else if fld w 16 8 == 0 && fld w 6 4 == 1 then .ok (.crdStat (fld w 10 6) (fld w 0 6)) else .error .reserved
  | 0x22 => if fld w 16 8 == 0 && fld w 6 4 == 0 then .ok (.cclr (fld w 10 6) (fld w 0 6)) else .error .reserved
  | 0x23 => if fld w 16 8 == 0 && fld w 6 4 == 0 then .ok (.ccfg (fld w 10 6) (fld w 0 6)) else .error .reserved
  | _ => .error .unassigned

/-- The instruction a slot word of the engine opcode space stands for: its opcode in bits 31–24 and the fixed zero
fields of its row (R262, R263, R271). -/
def decodeEngine (w : W32) : Except Reject Instr :=
  match (fld w 24 8).toNat with
  | 0x01 => if fld w 0 8 == 0 then .ok (.cpy (fld w 18 6) (fld w 12 6) (fld w 8 4)) else .error .reserved
  | 0x02 => if fld w 0 8 == 0 then .ok (.cpyh (fld w 18 6) (fld w 12 6) (fld w 8 4)) else .error .reserved
  | 0x10 => if fld w 0 8 == 0 then .ok (.collAllred (fld w 18 6) (fld w 12 6) (fld w 8 4)) else .error .reserved
  | 0x11 => if fld w 0 8 == 0 then .ok (.collRdscat (fld w 18 6) (fld w 12 6) (fld w 8 4)) else .error .reserved
  | 0x12 => if fld w 0 8 == 0 then .ok (.collAllgth (fld w 18 6) (fld w 12 6) (fld w 8 4)) else .error .reserved
  | 0x20 => if fld w 18 6 == 0 && fld w 0 8 == 0 then .ok (.tlwait (fld w 12 6) (fld w 8 4)) else .error .reserved
  | 0x21 => if fld w 12 6 == 0 && fld w 0 8 == 0 then .ok (.tlrd (fld w 18 6) (fld w 8 4)) else .error .reserved
  | 0x30 => if fld w 0 18 == 0 then .ok (.nextt (fld w 18 6)) else .error .reserved
  | 0x31 => if fld w 18 6 == 0 && fld w 8 4 == 0 then .ok (.flsig (fld w 12 6) (fld w 6 2) (fld w 0 6)) else .error .reserved
  | 0x32 => if fld w 18 6 == 0 && fld w 8 4 == 0 then .ok (.erep (fld w 12 6) (fld w 0 8)) else .error .reserved
  | _ => .error .unassigned

/-- The instruction a slot word of the branch opcode space stands for: its opcode in bits 31–24 and the fixed zero
fields of its row (R262, R263, R271). -/
def decodeBranch (w : W32) : Except Reject Instr :=
  match (fld w 24 8).toNat with
  | 0x01 => if fld w 0 24 == 0 then .ok (.nop) else .error .reserved
  | 0x02 => .ok (.btree (fld w 18 6) (fld w 12 6) (fld w 6 6) (fld w 0 6))
  | 0x03 => if fld w 22 2 == 0 then .ok (.jmpRel (fld w 0 22)) else if fld w 6 18 == 65536 then .ok (.jmpReg (fld w 0 6)) else .error .reserved
  | 0x04 => if fld w 22 2 == 0 then .ok (.callRel (fld w 0 22)) else if fld w 6 18 == 65536 then .ok (.callReg (fld w 0 6)) else .error .reserved
  | 0x05 => if fld w 6 18 == 0 then .ok (.ret (fld w 0 6)) else .error .reserved
  | 0x08 => if fld w 6 12 == 0 then .ok (.loop (fld w 18 6) (fld w 0 6)) else .error .reserved
  | 0x09 => if fld w 8 10 == 0 then .ok (.loopSp (fld w 18 6) (fld w 6 2) (fld w 0 6)) else .error .reserved
  | 0x0a => if fld w 4 20 == 0 then .ok (.lbrk (fld w 0 4)) else .error .reserved
  | 0x10 => if fld w 2 22 == 0 then .ok (.sync (fld w 0 2)) else .error .reserved
  | 0x11 => if fld w 2 22 == 0 then .ok (.phase (fld w 0 2)) else .error .reserved
  | 0x12 => if fld w 0 24 == 0 then .ok (.wfe) else .error .reserved
  | 0x13 => if fld w 2 22 == 0 then .ok (.sev (fld w 0 2)) else .error .reserved
  | 0x18 => if fld w 20 4 == 0 then .ok (.trap (fld w 16 4) (fld w 0 16)) else .error .reserved
  | 0x19 => if fld w 20 4 == 0 && fld w 0 16 == 0 then .ok (.bkpt (fld w 16 4)) else .error .reserved
  | 0x1a => if fld w 0 24 == 0 then .ok (.halt) else .error .reserved
  | 0x20 => if fld w 0 18 == 0 then .ok (.dset (fld w 18 6)) else .error .reserved
  | 0x21 => if fld w 0 24 == 0 then .ok (.dfence) else .error .reserved
  | 0x28 => if fld w 0 18 == 0 then .ok (.solve (fld w 18 6)) else .error .reserved
  | 0x29 => if fld w 0 24 == 0 then .ok (.solend) else .error .reserved
  | 0x2a => if fld w 4 20 == 0 then .ok (.solq (fld w 0 4)) else .error .reserved
  | 0x2b => if fld w 2 16 == 0 then .ok (.solrd (fld w 18 6) (fld w 0 2)) else .error .reserved
  | _ => .error .unassigned

/-- A scalar opcode may stand in SA: all but the SB-only rows (Table 14.10). -/
def scalarInSA (op : Nat) : Bool := op < 0x60
/-- A scalar opcode may stand in SB: all but the scratch accesses (Table 14.10). -/
def scalarInSB (op : Nat) : Bool := !(0x50 ≤ op && op ≤ 0x57)

/-- The decoder of a slot's opcode space (Table 6.1). -/
def decodeClass (slot : Nat) (w : W32) : Except Reject Instr :=
  match slot with
  | 0 | 1 => decodeScalar w
  | 2 => decodeVector w
  | 3 => decodeMatrix w
  | 4 | 5 => decodeHead w
  | 6 => decodeEngine w
  | _ => decodeBranch w

/-- The opcode of a scalar word may stand in this slot; the other classes have no narrower placement. -/
def placed (slot : Nat) (w : W32) : Bool :=
  match slot with
  | 0 => scalarInSA (fld w 24 8).toNat
  | 1 => scalarInSB (fld w 24 8).toNat
  | _ => true

/-- A slot word as it stands in slot `slot`: its class, its placement, its fields and their ranges (R263). -/
def decodeSlot (slot : Nat) (w : W32) : Except Reject Instr :=
  match decodeClass slot w with
  | .error e => .error e
  | .ok i => if !placed slot w then .error .misplaced else if wellFormed i then .ok i else .error .range

/-! ## The header (Table 14.2) -/

/-- Header bits 93, 92: checkpoint, slack. -/
def hdrCk (h : BitVec 94) : Bool := h.getLsbD 93
def hdrSl (h : BitVec 94) : Bool := h.getLsbD 92
/-- Slot `i` is present. -/
def hdrPresent (h : BitVec 94) (i : Nat) : Bool := h.getLsbD (84 + i)
/-- Path tag of slot `i`; the BR slot has none. -/
def hdrTag (h : BitVec 94) (i : Nat) : Nat := if i < 7 then (fld h (56 + 4 * i) 4).toNat else 0
/-- Read ports allotted to a slot; SA, SB and BR have no allotment (R144). -/
def hdrPort (h : BitVec 94) (i : Nat) : Nat :=
  match i with
  | 2 => (fld h 53 3).toNat
  | 3 => (fld h 50 3).toNat
  | 4 => (fld h 47 3).toNat
  | 5 => (fld h 44 3).toNat
  | 6 => (fld h 41 3).toNat
  | _ => 0
/-- Tree test `k`, 0 to 3: bit 3 polarity, bits 2–0 predicate. -/
def hdrTest (h : BitVec 94) (k : Nat) : BitVec 4 := fld h (37 - 4 * k) 4
/-- The cut number. -/
def hdrCut (h : BitVec 94) : W16 := fld h 9 16

/-- The present slots, ascending. -/
def hdrSlots (h : BitVec 94) : List Nat := (List.range 8).filter (hdrPresent h)

/-- The sum of the five allotments. -/
def hdrPortSum (h : BitVec 94) : Nat := hdrPort h 2 + hdrPort h 3 + hdrPort h 4 + hdrPort h 5 + hdrPort h 6

/-- A header with none of the illegal cases of R260. -/
def headerLegal (h : BitVec 94) : Bool :=
  fld h 0 9 == 0 && !(hdrSl h && !hdrCk h) && !(hdrSl h && hdrCut h == 0) && !(!hdrSl h && hdrCut h != 0) &&
  (List.range 8).all (fun i => hdrPresent h i || (hdrTag h i == 0 && hdrPort h i == 0)) &&
  (List.range 7).all (fun i => hdrTag h i ≤ 8) && hdrPortSum h ≤ 6

/-- Header words 0 to 2 of a literal bundle (R259). -/
def hdrWord (h : BitVec 94) (k : Nat) : W32 :=
  match k with
  | 0 => (0b10#2 ++ fld h 64 30 : W32)
  | 1 => fld h 32 32
  | _ => fld h 0 32

/-- The header that three words hold (R259). -/
def hdrOfWords (w0 w1 w2 : W32) : BitVec 94 := (fld w0 0 30 ++ w1 ++ w2 : BitVec 94)

/-! ## Stream words (R257, R258) -/

/-- Bits 31–30 of a first stream word. -/
def wordKind (w : W32) : Nat := (fld w 30 2).toNat

/-- The bundle that starts a list of stream words, and how many of them it takes (R257): its kind is told by the first word
alone. -/
def decodeWords : List W32 → Except Reject (Instr × Nat)
  | [] => .error .short
  | w :: rest =>
    match wordKind w with
    | 0 => .ok (.shortCall (fld w 18 12) (fld w 0 18), 1)
    | 1 =>
      match rest with
      | [] => .error .short
      | w2 :: _ => .ok (.longCall (fld w 18 12) (w2 ++ fld w 0 18 : BitVec 50), 2)
    | 2 =>
      match rest with
      | w1 :: w2 :: ws =>
        let h := hdrOfWords w w1 w2
        let n := WellFormed.presentCount h
        if ws.length < n then .error .short else .ok (.literalBundle h (ws.take n), 3 + n)
      | _ => .error .short
    | _ => .error .streamKind

/-- A 32-bit word from four bytes, little-endian (R4). -/
def wordOfBytes (b0 b1 b2 b3 : Byte) : W32 := (b3 ++ b2 ++ b1 ++ b0 : W32)

/-- The words of a byte list; a rest of fewer than four bytes is dropped. -/
def wordsOfBytes : List Byte → List W32
  | b0 :: b1 :: b2 :: b3 :: rest => wordOfBytes b0 b1 b2 b3 :: wordsOfBytes rest
  | _ => []

/-- The four bytes of a word, little-endian (R4). -/
def bytesOfWord (w : W32) : List Byte := [fld w 0 8, fld w 8 8, fld w 16 8, fld w 24 8]

/-- The decoder of bytes: the instruction and the bytes after it, or the reason there is none. -/
def decode (bs : List Byte) : Except Reject (Instr × List Byte) :=
  match decodeWords (wordsOfBytes bs) with
  | .ok (i, n) => .ok (i, bs.drop (4 * n))
  | .error e => .error e

/-! ## The encoder -/

/-- The words of an instruction, from the encodings of its table: one slot word, the words of a bundle or a call, none for
an event. -/
def encode : Instr → List W32
  | .literalBundle h ws => hdrWord h 0 :: hdrWord h 1 :: hdrWord h 2 :: ws
  | .shortCall i f => [(0b00#2 ++ i ++ f : W32)]
  | .longCall i f => [(0b01#2 ++ i ++ fld f 0 18 : W32), fld f 18 32]
  | .add d a b => [(0x1#8 ++ d ++ a ++ b ++ 0#6 : W32)]
  | .sub d a b => [(0x2#8 ++ d ++ a ++ b ++ 0#6 : W32)]
  | .mul d a b => [(0x3#8 ++ d ++ a ++ b ++ 0#6 : W32)]
  | .mulh d a b => [(0x4#8 ++ d ++ a ++ b ++ 0#6 : W32)]
  | .mulhu d a b => [(0x5#8 ++ d ++ a ++ b ++ 0#6 : W32)]
  | .divu d a b => [(0x6#8 ++ d ++ a ++ b ++ 0#6 : W32)]
  | .remu d a b => [(0x7#8 ++ d ++ a ++ b ++ 0#6 : W32)]
  | .and d a b => [(0x8#8 ++ d ++ a ++ b ++ 0#6 : W32)]
  | .or d a b => [(0x9#8 ++ d ++ a ++ b ++ 0#6 : W32)]
  | .xor d a b => [(0xa#8 ++ d ++ a ++ b ++ 0#6 : W32)]
  | .shl d a b => [(0xb#8 ++ d ++ a ++ b ++ 0#6 : W32)]
  | .shr d a b => [(0xc#8 ++ d ++ a ++ b ++ 0#6 : W32)]
  | .sar d a b => [(0xd#8 ++ d ++ a ++ b ++ 0#6 : W32)]
  | .min d a b => [(0xe#8 ++ d ++ a ++ b ++ 0#6 : W32)]
  | .max d a b => [(0xf#8 ++ d ++ a ++ b ++ 0#6 : W32)]
  | .minu d a b => [(0x10#8 ++ d ++ a ++ b ++ 0#6 : W32)]
  | .maxu d a b => [(0x11#8 ++ d ++ a ++ b ++ 0#6 : W32)]
  | .clz d a => [(0x12#8 ++ d ++ a ++ 0#12 : W32)]
  | .popc d a => [(0x13#8 ++ d ++ a ++ 0#12 : W32)]
  | .sel d a b p n => [(0x14#8 ++ d ++ a ++ b ++ 0#2 ++ p ++ n : W32)]
  | .addi d a i => [(0x18#8 ++ d ++ a ++ i : W32)]
  | .andi d a i => [(0x19#8 ++ d ++ a ++ i : W32)]
  | .ori d a i => [(0x1a#8 ++ d ++ a ++ i : W32)]
  | .xori d a i => [(0x1b#8 ++ d ++ a ++ i : W32)]
  | .shli d a n => [(0x1c#8 ++ d ++ a ++ 0#6 ++ n : W32)]
  | .shri d a n => [(0x1d#8 ++ d ++ a ++ 0#6 ++ n : W32)]
  | .sari d a n => [(0x1e#8 ++ d ++ a ++ 0#6 ++ n : W32)]
  | .bfx d a p l => [(0x1f#8 ++ d ++ a ++ p ++ l : W32)]
  | .bfi d a p l => [(0x20#8 ++ d ++ a ++ p ++ l : W32)]
  | .movi d i => [(0x22#8 ++ d ++ i : W32)]
  | .movhi d i => [(0x23#8 ++ d ++ i : W32)]
  | .cmpCc d a b c => [(0x28#8 ++ 0#3 ++ d ++ a ++ b ++ c : W32)]
  | .pand d a b => [(0x29#8 ++ 0#3 ++ d ++ 0#3 ++ a ++ 0#3 ++ b ++ 0#6 : W32)]
  | .por d a b => [(0x2a#8 ++ 0#3 ++ d ++ 0#3 ++ a ++ 0#3 ++ b ++ 0#6 : W32)]
  | .pxor d a b => [(0x2b#8 ++ 0#3 ++ d ++ 0#3 ++ a ++ 0#3 ++ b ++ 0#6 : W32)]
  | .pnot d a => [(0x2c#8 ++ 0#3 ++ d ++ 0#3 ++ a ++ 0#12 : W32)]
  | .cmpiCc c d a i => [(0x3#4 ++ c ++ 0#3 ++ d ++ a ++ i : W32)]
  | .faddS d a b m => [(0x40#8 ++ d ++ a ++ b ++ 0#3 ++ m : W32)]
  | .fmulS d a b m => [(0x41#8 ++ d ++ a ++ b ++ 0#3 ++ m : W32)]
  | .ffmaS d a b m => [(0x42#8 ++ d ++ a ++ b ++ 0#3 ++ m : W32)]
  | .fminS d a b => [(0x43#8 ++ d ++ a ++ b ++ 0#6 : W32)]
  | .fmaxS d a b => [(0x44#8 ++ d ++ a ++ b ++ 0#6 : W32)]
  | .fcmpCc d a b c => [(0x45#8 ++ 0#3 ++ d ++ a ++ b ++ c : W32)]
  | .icvt d a u m => [(0x46#8 ++ d ++ a ++ 0#8 ++ u ++ m : W32)]
  | .fcvt d a u m => [(0x47#8 ++ d ++ a ++ 0#8 ++ u ++ m : W32)]
  | .ldB d a i => [(0x50#8 ++ d ++ a ++ i : W32)]
  | .ldH d a i => [(0x51#8 ++ d ++ a ++ i : W32)]
  | .ldW d a i => [(0x52#8 ++ d ++ a ++ i : W32)]
  | .ldD d a i => [(0x53#8 ++ d ++ a ++ i : W32)]
  | .stB d a i => [(0x54#8 ++ d ++ a ++ i : W32)]
  | .stH d a i => [(0x55#8 ++ d ++ a ++ i : W32)]
  | .stW d a i => [(0x56#8 ++ d ++ a ++ i : W32)]
  | .stD d a i => [(0x57#8 ++ d ++ a ++ i : W32)]
  | .rdsr d r => [(0x60#8 ++ d ++ r : W32)]
  | .wrsr a r => [(0x61#8 ++ a ++ r : W32)]
  | .view v a b => [(0x62#8 ++ v ++ a ++ b ++ 0#6 : W32)]
  | .ftset a b => [(0x63#8 ++ 0#6 ++ a ++ b ++ 0#6 : W32)]
  | .rngk a b => [(0x64#8 ++ 0#6 ++ a ++ b ++ 0#6 : W32)]
  | .revon a => [(0x68#8 ++ 0#6 ++ a ++ 0#12 : W32)]
  | .revoff => [(0x69#8 ++ 0#24 : W32)]
  | .rstag d c m => [(0x6a#8 ++ d ++ 0#9 ++ c ++ 0#4 ++ m : W32)]
  | .vadd d a b q m f => [(0x1#8 ++ d ++ a ++ b ++ q ++ m ++ f : W32)]
  | .vsub d a b q m f => [(0x2#8 ++ d ++ a ++ b ++ q ++ m ++ f : W32)]
  | .vmul d a b q m f => [(0x3#8 ++ d ++ a ++ b ++ q ++ m ++ f : W32)]
  | .vfma d a b c f => [(0x4#8 ++ d ++ a ++ b ++ c ++ f : W32)]
  | .vfms d a b c f => [(0x5#8 ++ d ++ a ++ b ++ c ++ f : W32)]
  | .vmin d a b q m f => [(0x6#8 ++ d ++ a ++ b ++ q ++ m ++ f : W32)]
  | .vmax d a b q m f => [(0x7#8 ++ d ++ a ++ b ++ q ++ m ++ f : W32)]
  | .vabs d a q m f => [(0x8#8 ++ d ++ a ++ 0#5 ++ q ++ m ++ f : W32)]
  | .vneg d a q m f => [(0x9#8 ++ d ++ a ++ 0#5 ++ q ++ m ++ f : W32)]
  | .vaddSr d a b q g => [(0xa#8 ++ d ++ a ++ b ++ q ++ g.mode ++ g.fmt : W32)]
  | .vcmpCc c e a b q g => [(0x1#4 ++ c ++ 0#3 ++ e ++ a ++ b ++ q ++ g.mode ++ g.fmt : W32)]
  | .vsel d a b q => [(0x20#8 ++ d ++ a ++ b ++ q ++ 0#7 : W32)]
  | .vand d a b q => [(0x21#8 ++ d ++ a ++ b ++ q ++ 0#7 : W32)]
  | .vor d a b q => [(0x22#8 ++ d ++ a ++ b ++ q ++ 0#7 : W32)]
  | .vxor d a b q => [(0x23#8 ++ d ++ a ++ b ++ q ++ 0#7 : W32)]
  | .vshl d a b q g => [(0x24#8 ++ d ++ a ++ b ++ q ++ g.mode ++ g.fmt : W32)]
  | .vshr d a b q g => [(0x25#8 ++ d ++ a ++ b ++ q ++ g.mode ++ g.fmt : W32)]
  | .vsar d a b q g => [(0x26#8 ++ d ++ a ++ b ++ q ++ g.mode ++ g.fmt : W32)]
  | .vcvt d a t s q m f => [(0x28#8 ++ d ++ a ++ t ++ s ++ q ++ m ++ f : W32)]
  | .vqnt d a m f => [(0x29#8 ++ d ++ a ++ 0#7 ++ m ++ f : W32)]
  | .vdqnt d a g => [(0x2a#8 ++ d ++ a ++ 0#7 ++ g.mode ++ g.fmt : W32)]
  | .vrsqrta d a q => [(0x30#8 ++ d ++ a ++ 0#5 ++ q ++ 0#7 : W32)]
  | .vrcpa d a q => [(0x31#8 ++ d ++ a ++ 0#5 ++ q ++ 0#7 : W32)]
  | .vexp2a d a q => [(0x32#8 ++ d ++ a ++ 0#5 ++ q ++ 0#7 : W32)]
  | .vlog2a d a q => [(0x33#8 ++ d ++ a ++ 0#5 ++ q ++ 0#7 : W32)]
  | .vredsum d a q g => [(0x38#8 ++ d ++ a ++ 0#5 ++ q ++ g.mode ++ g.fmt : W32)]
  | .vredmax d a q g => [(0x39#8 ++ d ++ a ++ 0#5 ++ q ++ g.mode ++ g.fmt : W32)]
  | .vbcast d s q => [(0x40#8 ++ d ++ s ++ 0#5 ++ q ++ 0#7 : W32)]
  | .vextr d a b g => [(0x41#8 ++ d ++ a ++ b ++ 0#2 ++ g.mode ++ g.fmt : W32)]
  | .vperm d a b q => [(0x42#8 ++ d ++ a ++ b ++ q ++ 0#7 : W32)]
  | .vrot d a b q => [(0x43#8 ++ d ++ a ++ b ++ q ++ 0#7 : W32)]
  | .vmov d a q => [(0x44#8 ++ d ++ a ++ 0#5 ++ q ++ 0#7 : W32)]
  | .viota d s q => [(0x45#8 ++ d ++ s ++ 0#5 ++ q ++ 0#7 : W32)]
  | .vld d s q => [(0x48#8 ++ d ++ s ++ 0#5 ++ q ++ 0#7 : W32)]
  | .vst v s q => [(0x49#8 ++ v ++ s ++ 0#5 ++ q ++ 0#7 : W32)]
  | .trowLd d t b q g => [(0x50#8 ++ d ++ 0#1 ++ t ++ b ++ q ++ g.mode ++ g.fmt : W32)]
  | .trowSt v t b q g => [(0x51#8 ++ v ++ 0#1 ++ t ++ b ++ q ++ g.mode ++ g.fmt : W32)]
  | .tcolLd d t b q g => [(0x52#8 ++ d ++ 0#1 ++ t ++ b ++ q ++ g.mode ++ g.fmt : W32)]
  | .tcolSt v t b q g => [(0x53#8 ++ v ++ 0#1 ++ t ++ b ++ q ++ g.mode ++ g.fmt : W32)]
  | .qmovToMask e s => [(0x58#8 ++ 0#3 ++ e ++ s ++ 0#14 : W32)]
  | .qmovFromMask d e => [(0x58#8 ++ d ++ 0#3 ++ e ++ 1#14 : W32)]
  | .qops d a b o => [(0x59#8 ++ 0#3 ++ d ++ 0#3 ++ a ++ 0#3 ++ b ++ 0#5 ++ o : W32)]
  | .radd d a b q f => [(0x80#8 ++ d ++ a ++ b ++ q ++ 0#3 ++ f : W32)]
  | .rsub d a b q f => [(0x81#8 ++ d ++ a ++ b ++ q ++ 0#3 ++ f : W32)]
  | .rxor d a b q f => [(0x82#8 ++ d ++ a ++ b ++ q ++ 0#3 ++ f : W32)]
  | .rmulq d a b h f => [(0x84#8 ++ d ++ a ++ b ++ h ++ f : W32)]
  | .unmulq d a b h f => [(0x85#8 ++ d ++ a ++ b ++ h ++ f : W32)]
  | .rshr d a h f => [(0x86#8 ++ d ++ a ++ 0#5 ++ h ++ f : W32)]
  | .unshr d a h f => [(0x87#8 ++ d ++ a ++ 0#5 ++ h ++ f : W32)]
  | .rleak d a h f => [(0x88#8 ++ d ++ a ++ 0#5 ++ h ++ f : W32)]
  | .unleak d a h f => [(0x89#8 ++ d ++ a ++ 0#5 ++ h ++ f : W32)]
  | .rnarw d a h f => [(0x8a#8 ++ d ++ a ++ 0#5 ++ h ++ f : W32)]
  | .unnarw d a h f => [(0x8b#8 ++ d ++ a ++ 0#5 ++ h ++ f : W32)]
  | .mmaTile c a b n f x y z => [(0x1#8 ++ c ++ a ++ b ++ n ++ f ++ x ++ y ++ 0#1 ++ z : W32)]
  | .mmaStream c h b n f y z => [(0x1#8 ++ c ++ 0#1 ++ h ++ b ++ n ++ f ++ 0#1 ++ y ++ 1#1 ++ z : W32)]
  | .mmas c a b n f x y z => [(0x2#8 ++ c ++ a ++ b ++ n ++ f ++ x ++ y ++ 0#1 ++ z : W32)]
  | .mzero c n z => [(0x3#8 ++ c ++ 0#8 ++ n ++ 0#7 ++ z : W32)]
  | .mload c a n f t => [(0x4#8 ++ c ++ a ++ 0#4 ++ n ++ f ++ t ++ 0#3 : W32)]
  | .mdrain c a n f t s z => [(0x5#8 ++ c ++ a ++ 0#4 ++ n ++ f ++ t ++ s ++ 0#1 ++ z : W32)]
  | .mswap c e n => [(0x6#8 ++ c ++ 0#1 ++ e ++ 0#4 ++ n ++ 0#8 : W32)]
  | .mstat c d n => [(0x7#8 ++ c ++ d ++ 0#2 ++ n ++ 0#8 : W32)]
  | .maddt c a n f t => [(0x8#8 ++ c ++ a ++ 0#4 ++ n ++ f ++ t ++ 0#3 : W32)]
  | .mscl c b n s => [(0x9#8 ++ c ++ b ++ 0#2 ++ n ++ 0#5 ++ s ++ 0#2 : W32)]
  | .mxpose c e n => [(0xa#8 ++ c ++ 0#1 ++ e ++ 0#4 ++ n ++ 0#8 : W32)]
  | .hatt h a w b => [(0x1#8 ++ h ++ 0#5 ++ a ++ 0#8 ++ w ++ b : W32)]
  | .hdet h => [(0x2#8 ++ h ++ 0#21 : W32)]
  | .hrd h v k => [(0x3#8 ++ h ++ v ++ 0#7 ++ k ++ 0#8 : W32)]
  | .hrds h v k => [(0x4#8 ++ h ++ v ++ 0#7 ++ k ++ 0#8 : W32)]
  | .hwr h v k => [(0x5#8 ++ h ++ v ++ 0#7 ++ k ++ 0#8 : W32)]
  | .happ h v k => [(0x6#8 ++ h ++ v ++ 0#7 ++ k ++ 0#8 : W32)]
  | .hstep h n => [(0x7#8 ++ h ++ 0#11 ++ n : W32)]
  | .hstepr h a => [(0x8#8 ++ h ++ 0#5 ++ a ++ 0#10 : W32)]
  | .hmark h k => [(0x9#8 ++ h ++ 0#19 ++ k : W32)]
  | .hrew h k => [(0xa#8 ++ h ++ 0#19 ++ k : W32)]
  | .hpos h d => [(0xb#8 ++ h ++ 0#5 ++ d ++ 0#10 : W32)]
  | .hdist h d k => [(0xc#8 ++ h ++ 0#5 ++ d ++ 0#8 ++ k : W32)]
  | .hlen h d f => [(0xd#8 ++ h ++ 0#5 ++ d ++ 0#9 ++ f : W32)]
  | .hstat h d => [(0xe#8 ++ h ++ 0#5 ++ d ++ 0#10 : W32)]
  | .cadd v a m b => [(0x20#8 ++ 0#3 ++ v ++ a ++ m ++ b ++ 0#7 : W32)]
  | .crd v a m b => [(0x21#8 ++ 0#3 ++ v ++ a ++ m ++ b ++ 0#7 : W32)]
  | .crdStat a d => [(0x21#8 ++ 0#8 ++ a ++ 1#4 ++ d : W32)]
  | .cclr a b => [(0x22#8 ++ 0#8 ++ a ++ 0#4 ++ b : W32)]
  | .ccfg a b => [(0x23#8 ++ 0#8 ++ a ++ 0#4 ++ b : W32)]
  | .cpy t b l => [(0x1#8 ++ t ++ b ++ l ++ 0#8 : W32)]
  | .cpyh t b l => [(0x2#8 ++ t ++ b ++ l ++ 0#8 : W32)]
  | .collAllred t b l => [(0x10#8 ++ t ++ b ++ l ++ 0#8 : W32)]
  | .collRdscat t b l => [(0x11#8 ++ t ++ b ++ l ++ 0#8 : W32)]
  | .collAllgth t b l => [(0x12#8 ++ t ++ b ++ l ++ 0#8 : W32)]
  | .tlwait a l => [(0x20#8 ++ 0#6 ++ a ++ l ++ 0#8 : W32)]
  | .tlrd d l => [(0x21#8 ++ d ++ 0#6 ++ l ++ 0#8 : W32)]
  | .nextt d => [(0x30#8 ++ d ++ 0#18 : W32)]
  | .flsig v o w => [(0x31#8 ++ 0#6 ++ v ++ 0#4 ++ o ++ w : W32)]
  | .erep v c => [(0x32#8 ++ 0#6 ++ v ++ 0#4 ++ c : W32)]
  | .nop => [(0x1#8 ++ 0#24 : W32)]
  | .btree a b c d => [(0x2#8 ++ a ++ b ++ c ++ d : W32)]
  | .jmpRel o => [(0x3#8 ++ 0#2 ++ o : W32)]
  | .jmpReg r => [(0x3#8 ++ 65536#18 ++ r : W32)]
  | .callRel o => [(0x4#8 ++ 0#2 ++ o : W32)]
  | .callReg r => [(0x4#8 ++ 65536#18 ++ r : W32)]
  | .ret r => [(0x5#8 ++ 0#18 ++ r : W32)]
  | .loop c l => [(0x8#8 ++ c ++ 0#12 ++ l : W32)]
  | .loopSp c s l => [(0x9#8 ++ c ++ 0#10 ++ s ++ l : W32)]
  | .lbrk t => [(0xa#8 ++ 0#20 ++ t : W32)]
  | .sync n => [(0x10#8 ++ 0#22 ++ n : W32)]
  | .phase s => [(0x11#8 ++ 0#22 ++ s : W32)]
  | .wfe => [(0x12#8 ++ 0#24 : W32)]
  | .sev n => [(0x13#8 ++ 0#22 ++ n : W32)]
  | .trap t i => [(0x18#8 ++ 0#4 ++ t ++ i : W32)]
  | .bkpt t => [(0x19#8 ++ 0#4 ++ t ++ 0#16 : W32)]
  | .halt => [(0x1a#8 ++ 0#24 : W32)]
  | .dset r => [(0x20#8 ++ r ++ 0#18 : W32)]
  | .dfence => [(0x21#8 ++ 0#24 : W32)]
  | .solve r => [(0x28#8 ++ r ++ 0#18 : W32)]
  | .solend => [(0x29#8 ++ 0#24 : W32)]
  | .solq t => [(0x2a#8 ++ 0#20 ++ t : W32)]
  | .solrd d s => [(0x2b#8 ++ d ++ 0#16 ++ s : W32)]
  | .packageReset => []
  | .dataFlitReceive _ _ => []
  | .controlFlitReceive _ _ => []
  | .idleFlitReceive _ _ => []
  | .replayRequestReceive _ _ => []
  | .pauseKeepaliveTimer _ => []
  | .portRxTimeout _ => []
  | .phyLockLoss _ => []
  | .portRetrainEnd _ _ => []
  | .mgmtSample _ _ _ => []
  | .powerLoss => []
  | .pwrReqP0 _ _ => []
  | .pwrReqP1 _ _ => []
  | .pwrReqP2 _ _ => []
  | .pwrReqP3 _ _ => []
  | .powerTransitionEnd => []
  | .msgQuote _ => []
  | .msgExtend _ => []
  | .msgOpenSession _ => []
  | .msgCloseSession _ => []
  | .msgLoadFw _ => []
  | .msgLoadCfg _ => []
  | .msgReadLog _ => []
  | .armStart _ => []
  | .armWait _ _ => []
  | .armResume _ _ => []
  | .flInstall _ _ => []
  | .flRemove _ _ => []
  | .flStage _ _ => []
  | .jcCut _ _ _ => []
  | .jcResumeHeld _ _ _ => []
  | .jcFaultHeld _ _ _ => []
  | .jcReadTrap _ _ _ => []
  | .dbgHalt _ => []
  | .dbgStep _ => []
  | .dbgRun _ => []
  | .dbgRead _ _ => []
  | .dbgWrite _ _ => []
  | .dbgWriteDiscard _ _ => []
  | .cqHeadWrite _ _ => []
  | .cqCtlWrite _ _ => []
  | .lnkStatWrite _ _ _ => []
  | .secStatWrite _ _ => []
  | .routeWrite _ _ _ => []
  | .sysSelfWrite _ _ => []
  | .featMaskWrite _ _ _ => []
  | .registerWrite _ _ _ => []
  | .completionRecordWrite _ => []
  | .msiModerationTimer _ => []
  | .kernelNodePlace _ _ _ => []
  | .nextTaskStart _ _ => []
  | .taskEnd _ => []
  | .transformNodeDispatch _ _ => []
  | .conditionalNodeEval _ _ => []
  | .whileNodeEval _ _ => []
  | .notifyNodeDispatch _ _ => []
  | .nodeCommit _ _ => []
  | .remoteJobFault _ => []
  | .domainShareExchange _ _ _ _ _ => []
  | .level4LineCompletion _ => []
  | .nexttRequestAccept _ _ => []
  | .nexttReplyArrive _ => []
  | .ageingTimer _ _ => []
  | .preemptTimer _ _ => []
  | .basinTimer _ => []
  | .cutMFormed _ => []
  | .cutSFormed _ => []
  | .cutImagesWritten _ => []
  | .cutTimeout _ => []
  | .cutRetryTimer _ => []
  | .cutRunResume _ => []
  | .handlerTaskStart _ => []
  | .poisonRepairComplete _ => []
  | .translationShootdown _ _ _ => []
  | .softErrorDetected .. => []
  | .trapRollbackComplete _ => []
  | .resultLanding _ => []
  | .headReadLanding _ => []
  | .matrixResultLanding _ => []
  | .solendDecisionEnd _ => []
  | .replayEntryLanding _ => []
  | .instructionCacheFill _ => []
  | .dictionaryCacheFill _ => []
  | .targetTableLineFill _ => []
  | .extentWalkComplete _ => []
  | .headRecordArrival _ _ _ _ => []
  | .cellReadValueArrival _ _ => []
  | .remainderTransferEnd _ => []
  | .checkpointReleaseEnd _ => []
  | .tapeWriteAtHome _ => []
  | .cellOpAtVault _ => []
  | .phasePublicationEnd _ => []
  | .handrailLineTrue _ => []
  | .handrailRestart _ => []
  | .eventArrival _ => []
  | .streamProducerResume _ => []
  | .streamConsumerResume _ => []
  | .engineCommandStart _ _ _ => []
  | .collectiveMatch _ _ _ => []
  | .engineCommandComplete _ => []
  | .functionLevelReset _ => []
  | .flightOperationEnd _ => []
  | .messageRequestEnd => []
  | .remoteCutRequest _ => []

/-! ## The dictionary (R264 to R266) -/

/-- A dictionary entry of Table 14.7 as its parts. -/
structure DictEntry where
  hdr : BitVec 96
  slotW : List W32
  holes : List W32
  eflags : W32
  deriving DecidableEq, Repr

/-- The entry that sixteen little-endian words hold. -/
def dictEntryOf (ws : List W32) : DictEntry where
  hdr := (ws.getD 2 0 ++ ws.getD 1 0 ++ ws.getD 0 0 : BitVec 96)
  slotW := (ws.drop 3).take 8
  holes := (ws.drop 11).take 4
  eflags := ws.getD 15 0

/-- Fields of a hole word (Table 14.8). -/
def holeTarget (h : W32) : Nat := (fld h 28 4).toNat
def holeLsb (h : W32) : Nat := (fld h 23 5).toNat
def holeWid (h : W32) : Nat := (fld h 18 5).toNat + 1
def holeOffset (h : W32) : Nat := (fld h 12 6).toNat
def holeUsed (h : W32) : Bool := h.getLsbD 11

/-- A hole word with none of the illegal cases of R266, against the unpatched header. -/
def holeLegal (hdr : BitVec 94) (h : W32) : Bool :=
  if !holeUsed h then h == 0
  else fld h 0 11 == 0 && holeTarget h ≤ 10 && holeLsb h + holeWid h ≤ 32 && holeOffset h + holeWid h ≤ 50 &&
    !(holeTarget h == 8 && 30 < holeLsb h + holeWid h) && (8 ≤ holeTarget h || hdrPresent hdr (holeTarget h))

/-- The header template of an entry. -/
def entryHdr (e : DictEntry) : BitVec 94 := fld e.hdr 0 94

/-- A valid entry that is well formed (R266). -/
def entryLegal (e : DictEntry) : Bool :=
  fld e.hdr 94 2 == 0 && e.holes.all (holeLegal (entryHdr e))

/-- Word `w` with the `width` bits from `lsb` replaced by the low bits of `v`. -/
def patch (w : W32) (lsb width : Nat) (v : BitVec 50) : W32 :=
  let m : W32 := ((1#32 <<< width) - 1#32) <<< lsb
  (w &&& ~~~m) ||| ((v.setWidth 32 <<< lsb) &&& m)

/-- One hole applied to the header words and slot words (R265). -/
def applyHole (fill : BitVec 50) (ws : List W32) (h : W32) : List W32 :=
  if holeUsed h then
    let k := if holeTarget h < 8 then 3 + holeTarget h else holeTarget h - 8
    ws.set k (patch (ws.getD k 0) (holeLsb h) (holeWid h) (fill >>> holeOffset h))
  else ws

/-- The bundle a call expands to: header words and slot words with the holes applied in ascending order, and the words of
the slots that the patched header presents (R265). -/
def expand (e : DictEntry) (fill : BitVec 50) : BitVec 94 × List W32 :=
  let ws := e.holes.foldl (applyHole fill)
    (hdrWord (entryHdr e) 0 :: hdrWord (entryHdr e) 1 :: hdrWord (entryHdr e) 2 :: e.slotW)
  let h := hdrOfWords (ws.getD 0 0) (ws.getD 1 0) (ws.getD 2 0)
  (h, (hdrSlots h).map (fun i => ws.getD (3 + i) 0))

/-! ## Words as the opcode table numbers them -/

/-- A row of the slot encodings: fixed bits, their values, and a slot its class may stand in (Tables 14.10 to 14.15). -/
structure SlotRow where
  mask : W32
  value : W32
  slot : Nat
  deriving DecidableEq, Repr

/-- Rows of the slot encodings, part 0, from the most to the least fixed bits. -/
def slotRows0 : List SlotRow :=
  [⟨0xffffffff, 0x69000000, 1⟩,
   ⟨0xffffffff, 0x01000000, 7⟩,
   ⟨0xffffffff, 0x12000000, 7⟩,
   ⟨0xffffffff, 0x1a000000, 7⟩,
   ⟨0xffffffff, 0x21000000, 7⟩,
   ⟨0xffffffff, 0x29000000, 7⟩,
   ⟨0xfffffffc, 0x10000000, 7⟩,
   ⟨0xfffffffc, 0x11000000, 7⟩,
   ⟨0xfffffffc, 0x13000000, 7⟩,
   ⟨0xff1fffff, 0x02000000, 4⟩,
   ⟨0xfffffff0, 0x0a000000, 7⟩,
   ⟨0xfff0ffff, 0x19000000, 7⟩,
   ⟨0xfffffff0, 0x2a000000, 7⟩,
   ⟨0xff1ffffc, 0x09000000, 4⟩,
   ⟨0xff1ffffc, 0x0a000000, 4⟩,
   ⟨0xffe38fff, 0x2c000000, 0⟩,
   ⟨0xfffc0fff, 0x68000000, 1⟩,
   ⟨0xff03ffff, 0x30000000, 6⟩,
   ⟨0xffffffc0, 0x03400000, 7⟩,
   ⟨0xffffffc0, 0x04400000, 7⟩,
   ⟨0xffffffc0, 0x05000000, 7⟩,
   ⟨0xff03ffff, 0x20000000, 7⟩,
   ⟨0xff03ffff, 0x28000000, 7⟩,
   ⟨0xffe03fff, 0x58000000, 2⟩,
   ⟨0xff073fff, 0x58000001, 2⟩,
   ⟨0xff03fffc, 0x2b000000, 7⟩,
   ⟨0xffe38e3f, 0x29000000, 0⟩,
   ⟨0xffe38e3f, 0x2a000000, 0⟩,
   ⟨0xffe38e3f, 0x2b000000, 0⟩,
   ⟨0xff1fe0fe, 0x03000000, 3⟩]

/-- Rows of the slot encodings, part 1, from the most to the least fixed bits. -/
def slotRows1 : List SlotRow :=
  [⟨0xff00feff, 0x03000000, 4⟩,
   ⟨0xff00feff, 0x04000000, 4⟩,
   ⟨0xff00feff, 0x05000000, 4⟩,
   ⟨0xff00feff, 0x06000000, 4⟩,
   ⟨0xff1f03ff, 0x08000000, 4⟩,
   ⟨0xff1f03ff, 0x0b000000, 4⟩,
   ⟨0xff1f03ff, 0x0e000000, 4⟩,
   ⟨0xffe739f0, 0x59000000, 2⟩,
   ⟨0xff1f03fe, 0x0d000000, 4⟩,
   ⟨0xfffc00ff, 0x20000000, 6⟩,
   ⟨0xff03f0ff, 0x21000000, 6⟩,
   ⟨0xff03fef0, 0x6a000000, 1⟩,
   ⟨0xff11e0ff, 0x06000000, 3⟩,
   ⟨0xff11e0ff, 0x0a000000, 3⟩,
   ⟨0xff1f03fc, 0x01000000, 4⟩,
   ⟨0xff1f03fc, 0x0c000000, 4⟩,
   ⟨0xff000fff, 0x12000000, 0⟩,
   ⟨0xff000fff, 0x13000000, 0⟩,
   ⟨0xfffc003f, 0x63000000, 1⟩,
   ⟨0xfffc003f, 0x64000000, 1⟩,
   ⟨0xff003e7f, 0x30000000, 2⟩,
   ⟨0xff003e7f, 0x31000000, 2⟩,
   ⟨0xff003e7f, 0x32000000, 2⟩,
   ⟨0xff003e7f, 0x33000000, 2⟩,
   ⟨0xff003e7f, 0x40000000, 2⟩,
   ⟨0xff003e7f, 0x44000000, 2⟩,
   ⟨0xff003e7f, 0x45000000, 2⟩,
   ⟨0xff003e7f, 0x48000000, 2⟩,
   ⟨0xff003e7f, 0x49000000, 2⟩,
   ⟨0xffff03c0, 0x21000040, 4⟩]

/-- Rows of the slot encodings, part 2, from the most to the least fixed bits. -/
def slotRows2 : List SlotRow :=
  [⟨0xffff03c0, 0x22000000, 4⟩,
   ⟨0xffff03c0, 0x23000000, 4⟩,
   ⟨0xff03ffc0, 0x08000000, 7⟩,
   ⟨0xff1ffc00, 0x07000000, 4⟩,
   ⟨0xff003ff0, 0x2a000000, 2⟩,
   ⟨0xff0060ff, 0x07000000, 3⟩,
   ⟨0xffe0007f, 0x20000000, 4⟩,
   ⟨0xffe0007f, 0x21000000, 4⟩,
   ⟨0xfffc0f00, 0x31000000, 6⟩,
   ⟨0xfffc0f00, 0x32000000, 6⟩,
   ⟨0xff03ff00, 0x09000000, 7⟩,
   ⟨0xff0060fb, 0x09000000, 3⟩,
   ⟨0xff000ff0, 0x46000000, 0⟩,
   ⟨0xff000ff0, 0x47000000, 0⟩,
   ⟨0xff003e70, 0x38000000, 2⟩,
   ⟨0xff003e70, 0x39000000, 2⟩,
   ⟨0xff0000ff, 0x01000000, 6⟩,
   ⟨0xff0000ff, 0x02000000, 6⟩,
   ⟨0xff0000ff, 0x10000000, 6⟩,
   ⟨0xff0000ff, 0x11000000, 6⟩,
   ⟨0xff0000ff, 0x12000000, 6⟩,
   ⟨0xff00007f, 0x20000000, 2⟩,
   ⟨0xff00007f, 0x21000000, 2⟩,
   ⟨0xff00007f, 0x22000000, 2⟩,
   ⟨0xff00007f, 0x23000000, 2⟩,
   ⟨0xff003f80, 0x29000000, 2⟩,
   ⟨0xff00007f, 0x42000000, 2⟩,
   ⟨0xff00007f, 0x43000000, 2⟩,
   ⟨0xff01e007, 0x04000000, 3⟩,
   ⟨0xff01e007, 0x08000000, 3⟩]

/-- Rows of the slot encodings, part 3, from the most to the least fixed bits. -/
def slotRows3 : List SlotRow :=
  [⟨0xff00003f, 0x01000000, 0⟩,
   ⟨0xff00003f, 0x02000000, 0⟩,
   ⟨0xff00003f, 0x03000000, 0⟩,
   ⟨0xff00003f, 0x04000000, 0⟩,
   ⟨0xff00003f, 0x05000000, 0⟩,
   ⟨0xff00003f, 0x06000000, 0⟩,
   ⟨0xff00003f, 0x07000000, 0⟩,
   ⟨0xff00003f, 0x08000000, 0⟩,
   ⟨0xff00003f, 0x09000000, 0⟩,
   ⟨0xff00003f, 0x0a000000, 0⟩,
   ⟨0xff00003f, 0x0b000000, 0⟩,
   ⟨0xff00003f, 0x0c000000, 0⟩,
   ⟨0xff00003f, 0x0d000000, 0⟩,
   ⟨0xff00003f, 0x0e000000, 0⟩,
   ⟨0xff00003f, 0x0f000000, 0⟩,
   ⟨0xff00003f, 0x10000000, 0⟩,
   ⟨0xff00003f, 0x11000000, 0⟩,
   ⟨0xff000fc0, 0x1c000000, 0⟩,
   ⟨0xff000fc0, 0x1d000000, 0⟩,
   ⟨0xff000fc0, 0x1e000000, 0⟩,
   ⟨0xff00003f, 0x43000000, 0⟩,
   ⟨0xff00003f, 0x44000000, 0⟩,
   ⟨0xff00003f, 0x62000000, 1⟩,
   ⟨0xff003e00, 0x08000000, 2⟩,
   ⟨0xff003e00, 0x09000000, 2⟩,
   ⟨0xff0001f0, 0x41000000, 2⟩,
   ⟨0xff003e00, 0x86000000, 2⟩,
   ⟨0xff003e00, 0x87000000, 2⟩,
   ⟨0xff003e00, 0x88000000, 2⟩,
   ⟨0xff003e00, 0x89000000, 2⟩]

/-- Rows of the slot encodings, part 4, from the most to the least fixed bits. -/
def slotRows4 : List SlotRow :=
  [⟨0xff003e00, 0x8a000000, 2⟩,
   ⟨0xff003e00, 0x8b000000, 2⟩,
   ⟨0xff01e002, 0x05000000, 3⟩,
   ⟨0xff040070, 0x50000000, 2⟩,
   ⟨0xff040070, 0x51000000, 2⟩,
   ⟨0xff040070, 0x52000000, 2⟩,
   ⟨0xff040070, 0x53000000, 2⟩,
   ⟨0xfff00000, 0x18000000, 7⟩,
   ⟨0xffe00000, 0x28000000, 0⟩,
   ⟨0xff000038, 0x40000000, 0⟩,
   ⟨0xff000038, 0x41000000, 0⟩,
   ⟨0xff000038, 0x42000000, 0⟩,
   ⟨0xffe00000, 0x45000000, 0⟩,
   ⟨0xff000070, 0x0a000000, 2⟩,
   ⟨0xff000070, 0x24000000, 2⟩,
   ⟨0xff000070, 0x25000000, 2⟩,
   ⟨0xff000070, 0x26000000, 2⟩,
   ⟨0xff000070, 0x80000000, 2⟩,
   ⟨0xff000070, 0x81000000, 2⟩,
   ⟨0xff000070, 0x82000000, 2⟩,
   ⟨0xff10000a, 0x01000002, 3⟩,
   ⟨0xff000030, 0x14000000, 0⟩,
   ⟨0xf0e00070, 0x10000000, 2⟩,
   ⟨0xffc00000, 0x03000000, 7⟩,
   ⟨0xffc00000, 0x04000000, 7⟩,
   ⟨0xff000002, 0x01000000, 3⟩,
   ⟨0xff000002, 0x02000000, 3⟩,
   ⟨0xff000000, 0x18000000, 0⟩,
   ⟨0xff000000, 0x19000000, 0⟩,
   ⟨0xff000000, 0x1a000000, 0⟩]

/-- Rows of the slot encodings, part 5, from the most to the least fixed bits. -/
def slotRows5 : List SlotRow :=
  [⟨0xff000000, 0x1b000000, 0⟩,
   ⟨0xff000000, 0x1f000000, 0⟩,
   ⟨0xff000000, 0x20000000, 0⟩,
   ⟨0xff000000, 0x22000000, 0⟩,
   ⟨0xff000000, 0x23000000, 0⟩,
   ⟨0xff000000, 0x50000000, 0⟩,
   ⟨0xff000000, 0x51000000, 0⟩,
   ⟨0xff000000, 0x52000000, 0⟩,
   ⟨0xff000000, 0x53000000, 0⟩,
   ⟨0xff000000, 0x54000000, 0⟩,
   ⟨0xff000000, 0x55000000, 0⟩,
   ⟨0xff000000, 0x56000000, 0⟩,
   ⟨0xff000000, 0x57000000, 0⟩,
   ⟨0xff000000, 0x60000000, 1⟩,
   ⟨0xff000000, 0x61000000, 1⟩,
   ⟨0xff000000, 0x01000000, 2⟩,
   ⟨0xff000000, 0x02000000, 2⟩,
   ⟨0xff000000, 0x03000000, 2⟩,
   ⟨0xff000000, 0x04000000, 2⟩,
   ⟨0xff000000, 0x05000000, 2⟩,
   ⟨0xff000000, 0x06000000, 2⟩,
   ⟨0xff000000, 0x07000000, 2⟩,
   ⟨0xff000000, 0x28000000, 2⟩,
   ⟨0xff000000, 0x84000000, 2⟩,
   ⟨0xff000000, 0x85000000, 2⟩,
   ⟨0xff000000, 0x02000000, 7⟩,
   ⟨0xf0e00000, 0x30000000, 0⟩]

/-- All slot encodings. -/
def slotRows : List SlotRow := slotRows0 ++ slotRows1 ++ slotRows2 ++ slotRows3 ++ slotRows4 ++ slotRows5

/-- The row a bare 32-bit word is read as when no slot is given with it: the first with all its fixed bits whose instruction
is well formed. Six opcode spaces share the 32-bit words, so the row with the most fixed bits is taken (log 7). -/
def tableRow (w : W32) : Option SlotRow :=
  slotRows.find? (fun r => (w &&& r.mask) == r.value && (decodeSlot r.slot w).toOption.isSome)

/-- The words of a number of `nbits` bits, first word lowest, with zero words after them. -/
def wordsOfNat (w : Nat) : List W32 := (List.range 12).map (fun k => BitVec.ofNat 32 (w >>> (32 * k)))

/-- The instruction the decoder reads from an instruction whose bits are `w`: a slot word as the slot word its row names, a
stream word as the bundle it starts. -/
def decodeTableWord (nbits w : Nat) : Option Instr :=
  let x := BitVec.ofNat 32 w
  match if nbits ≤ 32 then tableRow x else none with
  | some r => (decodeSlot r.slot x).toOption
  | none => ((decodeWords (wordsOfNat w)).toOption).map Prod.fst

/-! ## Host writes -/

/-- A value of `n` bytes of a byte list at `off`, little-endian (R4). -/
def leNat (bs : List Byte) (off : Nat) : Nat → Nat
  | 0 => 0
  | n + 1 => (bs.getD off 0).toNat + 256 * leNat bs (off + 1) n

/-- The event of a 64-byte arm write (Table 3.3): its resume flag and its node field tell which (R56, R63). A write that is
not whole has no fields (R55). -/
def decodeArm (fn link slot : Nat) (bytes : List Byte) : Instr :=
  let whole := bytes.length == 64
  let w : ArmWrite :=
    { fn := fn, link := link, slot := slot, whole := whole
      flightId := BitVec.ofNat 16 (leNat bytes 0 2), hostSeq := BitVec.ofNat 48 (leNat bytes 2 6)
      nArg := BitVec.ofNat 8 (leNat bytes 8 1), flags := BitVec.ofNat 8 (leNat bytes 9 1)
      reserved := BitVec.ofNat 32 (leNat bytes 12 4)
      args := (List.range 12).map (fun k => BitVec.ofNat 32 (leNat bytes (16 + 4 * k) 4)) }
  let node : W16 := BitVec.ofNat 16 (leNat bytes 10 2)
  if !whole then .armStart w
  else if w.flags.getLsbD 3 then .armResume w node
  else if node == 0xFFFF then .armStart w else .armWait w node

/-- The event of a received flit, by its kind byte (Table 1.3); other kinds fail their check like a bad data flit. -/
def decodeFlit (port : Nat) (bytes : List Byte) : Instr :=
  match (bytes.getD 0 0).toNat with
  | 2 => .controlFlitReceive port bytes
  | 3 => .idleFlitReceive port bytes
  | 4 => .replayRequestReceive port bytes
  | _ => .dataFlitReceive port bytes

/-- The event of a pwr_req write with go set (Table 2.7); targets 4 to 7 are refused by the register itself. -/
def decodePwrReq (fn : Nat) (v : W32) : Option Instr :=
  if !v.getLsbD 31 then none else
  match (fld v 0 3).toNat with
  | 0 => some (.pwrReqP0 fn (fld v 8 3))
  | 1 => some (.pwrReqP1 fn (fld v 8 3))
  | 2 => some (.pwrReqP2 fn (fld v 8 3))
  | 3 => some (.pwrReqP3 fn (fld v 8 3))
  | _ => none

/-- The event of an fl_cmd write with go set (Table 4.2); other operations end with BAD_OP in the register itself. -/
def decodeFlCmd (fn : Nat) (v : W32) : Option Instr :=
  if !v.getLsbD 31 then none else
  match (fld v 28 3).toNat with
  | 1 => some (.flInstall fn (fld v 0 10))
  | 2 => some (.flRemove fn (fld v 0 10))
  | 3 => some (.flStage fn (fld v 0 10))
  | _ => none

/-- The event of a jc_cmd write with go set (Table 5.9). -/
def decodeJcCmd (fn : Nat) (v : W32) : Option Instr :=
  if !v.getLsbD 31 then none else
  match (fld v 28 3).toNat with
  | 1 => some (.jcCut fn (fld v 21 5) (fld v 0 10))
  | 2 => some (.jcResumeHeld fn (fld v 21 5) (fld v 0 10))
  | 3 => some (.jcFaultHeld fn (fld v 21 5) (fld v 0 10))
  | 4 => some (.jcReadTrap fn (fld v 21 5) (fld v 10 8))
  | _ => none

/-- The event of a dbg_cmd write with go set (Table 5.6). -/
def decodeDbgCmd (fn : Nat) (v : W32) : Option Instr :=
  if !v.getLsbD 31 then none else
  match (fld v 28 3).toNat with
  | 1 => some (.dbgHalt fn)
  | 2 => some (.dbgStep fn)
  | 3 => some (.dbgRun fn)
  | 4 => some (.dbgRead fn (fld v 12 16))
  | 5 => some (.dbgWrite fn (fld v 12 16))
  | 6 => some (.dbgWriteDiscard fn (fld v 12 16))
  | _ => none

/-- The event of a msg_ctl write with go set, by the kind in the request buffer (Table 3.12). -/
def decodeMsg (fn kind : Nat) (v : W32) : Option Instr :=
  if !v.getLsbD 31 then none else
  match kind with
  | 1 => some (.msgQuote fn)
  | 2 => some (.msgExtend fn)
  | 3 => some (.msgOpenSession fn)
  | 4 => some (.msgCloseSession fn)
  | 5 => some (.msgLoadFw fn)
  | 6 => some (.msgLoadCfg fn)
  | 7 => some (.msgReadLog fn)
  | _ => none

/-- The event of a BAR0 write of function `fn` at byte offset `off` (Table 3.1): an operation of its own where the register
has one, and a plain register write elsewhere. `kind` is the kind that the function's request buffer holds. -/
def decodeBar0 (fn kind off : Nat) (v : BitVec 128) : Instr :=
  let v32 : W32 := fld v 0 32
  let plain := Instr.registerWrite fn off v
  if off == 0x00010000 then .cqCtlWrite fn v32
  else if off == 0x00010010 then .cqHeadWrite fn v32
  else if off == 0x00020000 then (decodeFlCmd fn v32).getD plain
  else if 0x00040000 ≤ off && off < 0x00041000 && off % 0x100 == 0 then .lnkStatWrite fn ((off - 0x40000) / 0x100) v32
  else if off == 0x00050000 then .secStatWrite fn v32
  else if off == 0x00060000 then (decodeMsg fn kind v32).getD plain
  else if 0x00070004 ≤ off && off < 0x00070044 && off % 4 == 0 then .featMaskWrite fn ((off - 0x70004) / 4) v32
  else if off == 0x00080000 then (decodePwrReq fn v32).getD plain
  else if off == 0x00090000 then .sysSelfWrite fn v32
  else if 0x00091000 ≤ off && off < 0x00095000 && off % 4 == 0 then .routeWrite fn ((off - 0x91000) / 4) v32
  else if off == 0x00100000 then (decodeJcCmd fn v32).getD plain
  else if off == 0x00101000 then (decodeDbgCmd fn v32).getD plain
  else plain

end Sys2Proof
end

