-- ==== Sys2Proof/Machine/Numeric.lean ====
section
/-! DEFINITION. Numbers: exact values, the formats of Tables 9.1 and 9.2, rounding (R191 to R194), conversions (Table
9.5), sums (R183, R198) and the mixing function (R193). Every operation is computed exactly and rounded once at the end. -/

namespace Sys2Proof.Machine

/-- An exact value: NaN and infinity with a sign, or a signed ratio of naturals (the sign matters for zeros, R183). -/
inductive Val where
  | nan (neg : Bool)
  | inf (neg : Bool)
  | num (neg : Bool) (n d : Nat)
  deriving DecidableEq, Repr

/-- A rounding mode of R191; stochastic rounding carries the r of R193. -/
inductive Rm where
  | rne | rz | ru | rd
  | sr (r : Nat)
  deriving DecidableEq, Repr

/-- The fields of a binary floating-point format (Table 9.2): significand bits, bias, and the largest finite value as
`maxSig * 2^maxExp`. -/
structure FFmt where
  m : Nat
  bias : Nat
  width : Nat
  maxSig : Nat
  maxExp : Int
  hasInf : Bool
  nanCode : Nat
  deriving DecidableEq, Repr

def fp32 : FFmt := ⟨23, 127, 32, 16777215, 104, true, 0x7FC00000⟩
def bf16 : FFmt := ⟨7, 127, 16, 255, 120, true, 0x7FC0⟩
def fp16 : FFmt := ⟨10, 15, 16, 2047, 5, true, 0x7E00⟩
def e4m3 : FFmt := ⟨3, 7, 8, 14, 5, false, 0x7F⟩
def e5m2 : FFmt := ⟨2, 15, 8, 7, 13, true, 0x7E⟩
def e2m1 : FFmt := ⟨1, 1, 4, 3, 1, false, 0⟩

/-- The floating-point format of a code of Table 9.1; other codes are not floating point. -/
def floatFmt (code : Nat) : FFmt :=
  match code with
  | 0 => fp32
  | 1 => bf16
  | 2 => fp16
  | 3 => e4m3
  | 4 => e5m2
  | _ => e2m1

/-- Codes of floating-point formats without block scales. -/
def isFloatCode (code : Nat) : Bool := code ≤ 4
/-- Codes of integer formats. -/
def isIntCode (code : Nat) : Bool := 6 ≤ code && code ≤ 9

/-- Element width of a format code in bits (Table 9.1). -/
def fmtWidth (code : Nat) : Nat :=
  match code with
  | 0 | 8 => 32
  | 1 | 2 | 7 => 16
  | 5 => 4
  | _ => 8

/-- Range of an integer format code (R184). -/
def intMin (code : Nat) : Int := if code = 9 then 0 else -((2 ^ (fmtWidth code - 1) : Nat) : Int)
def intMax (code : Nat) : Int := if code = 9 then 255 else (2 ^ (fmtWidth code - 1) : Nat) - 1

/-! ## Flags: the layout of %fstat bits 5–0 (Table 9.6) -/

abbrev Flags := BitVec 6
def fOvf : Flags := 1
def fSat : Flags := 2
def fInv : Flags := 4
def fUnf : Flags := 8
def fInx : Flags := 16
def fDz : Flags := 32
/-- A flag that is set when `b` holds. -/
def flagIf (b : Bool) (f : Flags) : Flags := if b then f else 0

/-! ## Decoding a code into its value -/

/-- `n * 2^e` as a ratio. -/
def scaled (neg : Bool) (n : Nat) (e : Int) : Val :=
  if 0 ≤ e then .num neg (n * 2 ^ e.toNat) 1 else .num neg n (2 ^ (-e).toNat)

/-- The value of a floating-point code (R182). -/
def FFmt.decode (f : FFmt) (c : Nat) : Val :=
  let neg := c.testBit (f.width - 1)
  let a := c % 2 ^ (f.width - 1)
  let e := a / 2 ^ f.m
  let s := a % 2 ^ f.m
  let top := 2 ^ (f.width - 1 - f.m) - 1
  if f.hasInf && e == top then (if s = 0 then .inf neg else .nan neg)
  else if f.width == 8 && !f.hasInf && a == 0x7F then .nan neg
  else if e = 0 then scaled neg s (1 - (f.bias : Int) - f.m)
  else scaled neg (s + 2 ^ f.m) ((e : Int) - f.bias - f.m)

/-- The value of an integer. -/
def Val.ofInt (i : Int) : Val := .num (i < 0) i.natAbs 1

/-- The signed reading of the low `w` bits of `c` (R184). -/
def signedOf (w c : Nat) : Int :=
  let a := c % 2 ^ w
  if a.testBit (w - 1) then (a : Int) - (2 ^ w : Nat) else a

/-- The integer that a code of an integer format holds (R184). -/
def intOf (code c : Nat) : Int := if code = 9 then (c % 256 : Nat) else signedOf (fmtWidth code) c

/-- The value a lane's low bits hold in a format code 0–4 or 6–9. -/
def valOf (code c : Nat) : Val :=
  if isFloatCode code then (floatFmt code).decode (c % 2 ^ fmtWidth code) else .ofInt (intOf code c)

/-! ## Rounding -/

/-- floor(log2(n / d)) of a positive ratio. -/
def ratioLog (n d : Nat) : Int :=
  let e : Int := (n.log2 : Int) - d.log2
  let fits := if 0 ≤ e then d * 2 ^ e.toNat ≤ n else d ≤ n * 2 ^ (-e).toNat
  if fits then e else e - 1

/-- `n / d` in units of `2^q`: whole part, remainder and divisor. -/
def units (n d : Nat) (q : Int) : Nat × Nat × Nat :=
  let n' := if 0 ≤ q then n else n * 2 ^ (-q).toNat
  let d' := if 0 ≤ q then d * 2 ^ q.toNat else d
  (n' / d', n' % d', d')

/-- Whether a magnitude of whole part `lo` and fraction `rem / den` goes away from zero in the mode (R191, R193). -/
def roundsUp (mode : Rm) (neg : Bool) (lo rem den : Nat) : Bool :=
  match mode with
  | .rne => den < 2 * rem || (2 * rem == den && lo % 2 == 1)
  | .rz => false
  | .ru => !neg && rem != 0
  | .rd => neg && rem != 0
  | .sr r => decide (r < rem * 2 ^ 32 / den)

/-- A rounded magnitude: its integer in units of `2^q`, the unit, and whether rounding changed the value. -/
structure Rounded where
  r : Nat
  q : Int
  inexact : Bool
  deriving DecidableEq, Repr

/-- A positive magnitude rounded to the precision of a format with its exponent unbounded above (R192). -/
def FFmt.roundMag (f : FFmt) (mode : Rm) (neg : Bool) (n d : Nat) : Rounded :=
  let q := max (ratioLog n d) (1 - (f.bias : Int)) - f.m
  let (lo, rem, den) := units n d q
  ⟨if roundsUp mode neg lo rem den then lo + 1 else lo, q, rem != 0⟩

/-- The rounded magnitude exceeds the largest finite value. -/
def FFmt.over (f : FFmt) (x : Rounded) : Bool :=
  f.maxExp ≤ x.q && f.maxSig < x.r * 2 ^ (x.q - f.maxExp).toNat

/-- The code with a sign bit. -/
def FFmt.signed (f : FFmt) (neg : Bool) (c : Nat) : Nat := if neg then c + 2 ^ (f.width - 1) else c

/-- Codes of the largest finite value and of infinity, unsigned. -/
def FFmt.maxCode (f : FFmt) : Nat := ((f.maxExp + f.m + f.bias - 1).toNat) * 2 ^ f.m + f.maxSig
def FFmt.infCode (f : FFmt) : Nat := f.maxCode + 1

/-- A rounded result and the flags it raises. -/
structure FRes where
  code : Nat
  flags : Flags
  deriving DecidableEq, Repr

/-- What an overflow gives (R192). -/
def FFmt.overflow (f : FFmt) (mode : Rm) (sat neg : Bool) : FRes :=
  if sat then ⟨f.signed neg f.maxCode, fSat ||| fInx⟩
  else if !f.hasInf then ⟨f.signed neg f.nanCode, fOvf ||| fInx⟩
  else
    let toInf : Bool := match mode with
      | .rne => true
      | .rz => false
      | .ru => !neg
      | .rd => neg
      | .sr _ => true
    ⟨f.signed neg (if toInf then f.infCode else f.maxCode), fOvf ||| fInx⟩

/-- A value rounded into a floating-point format (R183, R191, R192, Table 9.5). A NaN keeps its sign: an operation passes
one without sign. -/
def FFmt.round (f : FFmt) (mode : Rm) (sat : Bool) (v : Val) : FRes :=
  match v with
  | .nan neg => ⟨f.signed neg f.nanCode, 0⟩
  | .inf neg =>
    if sat then ⟨f.signed neg f.maxCode, fSat⟩
    else if f.hasInf then ⟨f.signed neg f.infCode, 0⟩ else ⟨f.signed neg f.nanCode, fInv⟩
  | .num neg n d =>
    if n = 0 then ⟨f.signed neg 0, 0⟩
    else
      let x := f.roundMag mode neg n d
      if f.over x then f.overflow mode sat neg
      else
        let c := (x.q + f.m + f.bias - 1).toNat * 2 ^ f.m + x.r
        ⟨f.signed neg c, flagIf x.inexact fInx ||| flagIf (x.inexact && x.r < 2 ^ f.m) fUnf⟩

/-- A ratio rounded to an integer in the mode, and whether that changed it. -/
def roundInt (mode : Rm) (neg : Bool) (n d : Nat) : Int × Bool :=
  let lo := n / d
  let r := if roundsUp mode neg lo (n % d) d then lo + 1 else lo
  (if neg then -(r : Int) else r, n % d != 0)

/-- An integer clamped to a range, with sat and inx where it was outside (R192). -/
def clampInt (lo hi i : Int) (inexact : Bool) : Int × Flags :=
  if i < lo then (lo, fSat ||| fInx) else if hi < i then (hi, fSat ||| fInx) else (i, flagIf inexact fInx)

/-- A value converted to an integer range (Table 9.5). -/
def toIntRange (lo hi : Int) (mode : Rm) (v : Val) : Int × Flags :=
  match v with
  | .nan _ => (0, fInv)
  | .inf neg => (if neg then lo else hi, fSat)
  | .num neg n d => let (i, x) := roundInt mode neg n d; clampInt lo hi i x

/-- The bits of an integer in `w` bits. -/
def bitsOf (w : Nat) (i : Int) : Nat := (i % (2 ^ w : Nat)).toNat

/-- A value converted into a format code 0–4 or 6–9 (Table 9.5, whose flags an engine's token takes too, log 87). A finite value that a clamp changes sets sat and inx,
an integer source too (R192). -/
def convert (code : Nat) (mode : Rm) (sat : Bool) (v : Val) : FRes :=
  if isFloatCode code then (floatFmt code).round mode sat v
  else
    let (i, fl) := toIntRange (intMin code) (intMax code) mode v
    ⟨bitsOf (fmtWidth code) i, fl⟩

/-! ## Exact arithmetic (R183) -/

def Val.neg : Val → Val
  | .nan s => .nan s
  | .inf s => .inf !s
  | .num s n d => .num (!s) n d

def Val.abs : Val → Val
  | .nan _ => .nan false
  | .inf _ => .inf false
  | .num _ n d => .num false n d

def Val.isNan : Val → Bool
  | .nan _ => true
  | _ => false

def Val.isFinite : Val → Bool
  | .num .. => true
  | _ => false

def Val.isZero : Val → Bool
  | .num _ n _ => n == 0
  | _ => false

def Val.isNeg : Val → Bool
  | .nan s => s
  | .inf s => s
  | .num s _ _ => s

/-- An exact result and whether it is an invalid operation's NaN. -/
abbrev XRes := Val × Bool

/-- The exact sum; an exact zero of operands of opposite sign is −0 only in RD (R183). -/
def Val.add (a b : Val) (rd : Bool) : XRes :=
  match a, b with
  | .nan _, _ => (.nan false, false)
  | _, .nan _ => (.nan false, false)
  | .inf s, .inf t => if s == t then (.inf s, false) else (.nan false, true)
  | .inf s, _ => (.inf s, false)
  | _, .inf t => (.inf t, false)
  | .num s n d, .num t m e =>
    let x : Int := (if s then -((n * e : Nat) : Int) else ((n * e : Nat) : Int)) + (if t then -((m * d : Nat) : Int) else ((m * d : Nat) : Int))
    if x = 0 then (.num (if s == t then s else rd) 0 1, false)
    else if n = 0 then (.num t m e, false)
    else if m = 0 then (.num s n d, false)
    else (.num (x < 0) x.natAbs (d * e), false)

/-- The exact product. -/
def Val.mul (a b : Val) : XRes :=
  match a, b with
  | .nan _, _ => (.nan false, false)
  | _, .nan _ => (.nan false, false)
  | .inf s, .inf t => (.inf (s != t), false)
  | .inf s, .num t n _ => if n = 0 then (.nan false, true) else (.inf (s != t), false)
  | .num s n _, .inf t => if n = 0 then (.nan false, true) else (.inf (s != t), false)
  | .num s n d, .num t m e => (.num (s != t) (n * m) (d * e), false)

/-- The exact a × b + c, rounded once by its user. 0 × ∞ is invalid unless the addend is NaN: a NaN operand never sets inv. -/
def Val.fma (a b c : Val) (rd : Bool) : XRes :=
  let (p, i) := a.mul b
  if i && !c.isNan then (.nan false, true) else p.add c rd

/-- Exact division of finite values by a finite value that is not zero. -/
def Val.div (a b : Val) : Val :=
  match a, b with
  | .num s n d, .num t m e => .num (s != t) (n * e) (d * m)
  | _, _ => .nan false

/-- Signed numerator of a finite value over a common divisor, for comparison. -/
def Val.lt (a b : Val) : Bool :=
  match a, b with
  | .nan _, _ => false
  | _, .nan _ => false
  | .inf s, .inf t => s && !t
  | .inf s, _ => s
  | _, .inf t => !t
  | .num s n d, .num t m e =>
    decide ((if s then -((n * e : Nat) : Int) else (n * e : Nat) : Int) < (if t then -((m * d : Nat) : Int) else ((m * d : Nat) : Int)))

/-- Equality of values; NaN equals nothing, and zeros are equal. -/
def Val.eq (a b : Val) : Bool := !a.isNan && !b.isNan && !a.lt b && !b.lt a

/-- The lesser of two values that are not NaN; −0 lies below +0. -/
def Val.minOf (a b : Val) : Val :=
  if a.isNan || b.isNan then .nan false
  else if a.lt b then a else if b.lt a then b else if a.isNeg then a else b

def Val.maxOf (a b : Val) : Val :=
  if a.isNan || b.isNan then .nan false
  else if a.lt b then b else if b.lt a then a else if a.isNeg then b else a

/-- The condition codes of Table 14.6 over values: a comparison with NaN is false, except ne. -/
def condVal (cc : Nat) (a b : Val) : Bool :=
  match cc with
  | 0 => a.eq b
  | 1 => !a.eq b
  | 2 => a.lt b
  | 3 => a.lt b || a.eq b
  | 4 => b.lt a
  | _ => b.lt a || a.eq b

/-! ## FP32 shorthands (RNE) -/

def f32 (c : Nat) : Val := fp32.decode (c % 2 ^ 32)

/-- round(a + b, FP32, RNE) on codes, with flags. -/
def addRne (a b : Nat) : FRes :=
  let (v, i) := (f32 a).add (f32 b) false
  let r := fp32.round .rne false v
  ⟨r.code, r.flags ||| flagIf i fInv⟩

def mulRne (a b : Nat) : FRes :=
  let (v, i) := (f32 a).mul (f32 b)
  let r := fp32.round .rne false v
  ⟨r.code, r.flags ||| flagIf i fInv⟩

def subRne (a b : Nat) : FRes :=
  let (v, i) := (f32 a).add (f32 b).neg false
  let r := fp32.round .rne false v
  ⟨r.code, r.flags ||| flagIf i fInv⟩

/-- One level of the balanced tree: neighbours added in RNE, an odd last entry passed up (R198, R227). -/
def treeLevel : List Nat → List Nat × Flags
  | a :: b :: rest =>
    let r := addRne a b
    let (l, f) := treeLevel rest
    (r.code :: l, r.flags ||| f)
  | l => (l, 0)

/-- The balanced tree sum of `2^k` entries, `k` levels (R198). -/
def treeSum : Nat → List Nat → Flags → Nat × Flags
  | 0, l, f => (l.getD 0 0, f)
  | k + 1, l, f => let (l', g) := treeLevel l; treeSum k l' (f ||| g)

/-- Integer square root by bits: the largest s with s² ≤ n, below 2^k. -/
def isqrt (n : Nat) : Nat → Nat → Nat
  | 0, s => s
  | k + 1, s => let t := s + 2 ^ k; isqrt n k (if t * t ≤ n then t else s)

/-- A positive ratio's square root to 40 bits and a sticky bit below them: rounds as the exact root does in RNE. -/
def sqrtVal (n d : Nat) : Val :=
  let e := ratioLog n d
  let k : Int := 40 - e / 2
  let (lo, rem, _) := units n d (-2 * k)
  let s := isqrt lo 44 0
  let sticky := if s * s = lo && rem = 0 then 0 else 1
  scaled false (2 * s + sticky) (-k - 1)

/-- round(sqrt(x)) on an FP32 code: NaN below zero, which is invalid. -/
def sqrtRne (a : Nat) : FRes :=
  match f32 a with
  | .nan _ => ⟨fp32.nanCode, 0⟩
  | .inf s => if s then ⟨fp32.nanCode, fInv⟩ else ⟨a % 2 ^ 32, 0⟩
  | .num s n d =>
    if n = 0 then ⟨a % 2 ^ 32, 0⟩ else if s then ⟨fp32.nanCode, fInv⟩ else fp32.round .rne false (sqrtVal n d)

/-! ## Stochastic rounding (R193) -/

/-- mix64 of R193. -/
def mix64 (z : W64) : W64 :=
  let z := (z ^^^ (z >>> 31)) * 0xB5D31A6F4C2E9D87
  let z := (z ^^^ (z >>> 29)) * 0x93C467E37DB0C7A5
  z ^^^ (z >>> 32)

/-- The r of R193 for element position `e`. -/
def srBits (seed key step : W64) (e : Nat) : Nat :=
  let k := mix64 (seed ^^^ mix64 key)
  ((mix64 (k ^^^ (step <<< 9) ^^^ BitVec.ofNat 64 e)).toNat) % 2 ^ 32

/-! ## Block scales (R185, R189) -/

/-- A quantised block: its codes in element order, the metadata word, and flags inv, inx, sat. -/
structure Block where
  codes : List Nat
  metaW : Nat
  flags : Flags
  deriving DecidableEq, Repr

/-- The value of a code under a metadata word (R185, R186). -/
def blockVal (fmt : Nat) (metaW code : Nat) : Val :=
  let scale := metaW % 256
  if scale = 255 then .nan false
  else
    let v := if fmt = 5 && code = 8 then e4m3.decode (metaW / 256) else (floatFmt fmt).decode code
    match v with
    | .num s n d => if 127 ≤ scale then .num s (n * 2 ^ (scale - 127)) d else .num s n (d * 2 ^ (127 - scale))
    | w => w

/-- Largest of magnitudes, as a ratio. -/
def maxMag : List Val → Nat × Nat → Nat × Nat
  | [], m => m
  | .num _ n d :: rest, (a, b) => maxMag rest (if a * d < n * b then (n, d) else (a, b))
  | _ :: rest, m => maxMag rest m

/-- y = x × 2^−e, for finite x. -/
def unscale (e : Int) : Val → Val
  | .num s n d => if 0 ≤ e then .num s n (d * 2 ^ e.toNat) else .num s (n * 2 ^ (-e).toNat) d
  | v => v

/-- |a − b| of finite values, as a ratio. -/
def absDiff (a b : Val) : Nat × Nat :=
  match (a.add b.neg false).1 with
  | .num _ n d => (n, d)
  | _ => (0, 1)

/-- Index of the largest ratio, the lowest on ties. -/
def maxErr : List (Nat × Nat) → Nat → Nat × (Nat × Nat) → Nat × (Nat × Nat)
  | [], _, m => m
  | (n, d) :: rest, i, (j, (a, b)) =>
    maxErr rest (i + 1) (if a * d < n * b then (i, (n, d)) else (j, (a, b)))

/-- Quantisation of a block of elements to E2M1X (5), E4M3 (3) or E5M2 (4), with each element's rounding mode (R189). Every element of a
NaN block decodes to NaN: one that is no NaN differs from it, and a NaN does not, by the model's choice (log 99). -/
def quantBlock (fmt : Nat) (modes : List Rm) (xs : List Val) : Block :=
  if xs.any (fun x => !x.isFinite) then
    ⟨xs.map (fun _ => 0), 0xFF + (if fmt = 5 then 0x7F00 else 0), fInv ||| flagIf (xs.any (fun x => !x.isNan)) fInx⟩
  else
    let (an, ad) := maxMag xs (0, 1)
    let sub : Int := if fmt = 5 then 2 else if fmt = 3 then 8 else 15
    let e : Int := if an = 0 then -127 else max (-127) (ratioLog an ad - sub)
    let scale := (e + 127).toNat
    let f := floatFmt fmt
    let ys := xs.map (unscale e)
    let qs := (ys.zip modes).map (fun p => f.round p.2 true p.1)
    let clamped := qs.any (fun r => r.flags &&& fSat != 0)
    let plain := qs.map (fun r => if r.code = 8 && fmt = 5 then 0 else r.code)
    let errs := (ys.zip qs).map (fun p => absDiff p.1 (f.decode p.2.code))
    let (k, (mn, _)) := maxErr errs 0 (0, (0, 1))
    let yk := ys.getD k (.num false 0 1)
    let s0 := e4m3.round .rne true yk
    let s : Nat := if 0x4F < s0.code % 128 then (s0.code / 128) * 128 + 0x4F else s0.code
    let isE2m1 := (List.range 16).any (fun c => (e2m1.decode c).eq (e4m3.decode s))
    let (codes, spare) :=
      if fmt = 5 && mn != 0 && !isE2m1 then (plain.set k 8, s) else (plain, 0)
    let metaW := scale + 256 * spare
    let inx := (xs.zip codes).any (fun p => !(blockVal fmt metaW p.2).eq p.1)
    ⟨codes, metaW, flagIf inx fInx ||| flagIf clamped fSat⟩

end Sys2Proof.Machine
end

