-- ==== Sys2Proof/Machine/CoreState.lean ====
section
/-! DEFINITION. The state of one core: what a rollback restores (Table 6.4), the gallery with its poison and dirty bits,
scratch, the results in flight, the held work, and the sequencer's own state (06, 07, 08, 17, 18). -/

namespace Sys2Proof.Machine

/-- The kind of a loop-stack entry (Table 5.3): LOOP or LOOP.SP. -/
inductive LoopKind where
  | plain
  | pipelined
  deriving DecidableEq, Repr

/-- A loop-stack entry (Table 5.3). The rotation offset is one for the core and stands in `Arch.rot`. -/
structure LoopEntry where
  start : W64
  count : W32
  /-- kernel iterations issued so far: up to n + S − 2, which R11 keeps exact where it passes 32 bits -/
  index : BitVec 33
  kind : LoopKind
  stagesM1 : BitVec 2
  lenM1 : BitVec 6
  deriving DecidableEq, Repr

/-- A head (R161, Table 5.5). `used` counts, on a stream consumer, the first record not consumed (R169). -/
structure Head where
  attached : Bool
  tape : BitVec 20
  mode : W32
  pos : BitVec 40
  marks : List (Option (BitVec 40))
  used : BitVec 40
  deriving DecidableEq, Repr

/-- The solve control block (Table 5.5a) and whether a region is active (R346). `shape` keeps the rows and columns of the
carried views at SOLVE and `loops` the depth of the loop stack there, which SOLEND compares (R349). -/
structure Solve where
  active : Bool
  start : W64
  carried : List Byte
  thr : BitVec 6
  beta : BitVec 6
  ceiling : Nat
  depth : Nat
  traps : Bool
  iter : Nat
  fill : Nat
  norm : W32
  shape : List (Nat × Nat)
  loops : Nat
  deriving DecidableEq, Repr

/-- What a rollback restores from the shadow (Table 6.4). -/
structure Arch where
  /-- s0–s63 by physical place: s40–s63 are named through `rot` (R238) -/
  x : List W64
  /-- rotation offset of s40–s63, 0–23 (Table 5.3) -/
  rot : Nat
  /-- p0–p7 as bits 0–7; bit 0 reads true (R273) -/
  p : BitVec 8
  /-- lane masks q0–q3; q0 reads all ones (R300) -/
  q : List W64
  /-- the 56 view descriptors (R136); `%vt` is their valid bits -/
  views : List Desc
  heads : List Head
  /-- the loop stack, innermost first (R130) -/
  loops : List LoopEntry
  pc : W64
  dictBase : W64
  /-- the base a DSET left pending (R267) -/
  pendBase : Option W64
  rsDepth : W32
  /-- REVON in force, with the base record of the remainder tape (R339) -/
  revOn : Bool
  revBase : BitVec 40
  /-- bytes of the remainder stack that are spilled (R338) -/
  rsSp : Nat
  rsLimit : W32
  solve : Solve
  ftab : W64
  bgeo : W64
  rngSeed : W64
  rngKey : W64
  rngStep : W64
  absorb : W32
  fstat : W32
  cpos : W64
  /-- the sticky event pending bit (R134) -/
  event : Bool
  /-- stream attachments given up in this span, free at the next checkpoint (R358): tape, and a consumer's first record not
  consumed -/
  detached : List (BitVec 20 × Option (BitVec 40))
  deriving DecidableEq, Repr

/-- A poison tag of a gallery line (R148): record bytes `lo` to `hi` of the record landed in it, the first of them at line byte
`off`. `parts` says where each of them landed, as R149 writes them again: record byte, line byte, length. `by_` tells the
landing: its issue vc and slot. -/
structure Tag where
  line : Nat
  tape : BitVec 20
  record : Nat
  lo : Nat
  hi : Nat
  off : Nat
  parts : List (Nat × Nat × Nat)
  by_ : Nat × Nat
  deriving DecidableEq, Repr

/-- A bundle as the sequencer holds it decoded: its address, its length in the stream, its header and its slot words. -/
structure Decoded where
  pc : W64
  len : Nat
  h : BitVec 94
  words : List W32
  deriving DecidableEq, Repr

/-- What a landing writes. Registers are named by physical place. -/
inductive Dest where
  | none
  | reg (n : Nat)
  | pred (n : Nat)
  | mask (n : Nat)
  /-- gallery byte ranges (offset, length), in the order the data fills them -/
  | bytes (segs : List (Nat × Nat))
  deriving DecidableEq, Repr

/-- The class of a result in flight: the replay class of Table 5.5b, and the ones no replay entry holds. -/
inductive Kind where
  | scalar | vector | slice | head | tile | pred | matrix | mma
  deriving DecidableEq, Repr

/-- One lane of a cell read (R368): the cell, whether an own held CCFG or CCLR covers it, and the own held adds that count,
as words with their format. -/
structure CellLane where
  lane : Nat
  cell : Nat
  cleared : Bool
  own : List (Bool × W32)
  deriving DecidableEq, Repr

/-- What a result still waits for before it can land: nothing, a record for its window (R165), a cell value (R368) or a
next-tile reply (R88). -/
inductive Need where
  | ready
  /-- `len` bytes of record `record` through head `head`: the core's own writes from number `bound` on are younger than the read
  (R166), and so is a read that has returned version `cap`; `floor` is the latest version that an earlier read of its phase has
  returned, and `phase` the writes that had reached the core by the start of its phase, once that has ended (R205) -/
  | record (head : Nat) (tape : BitVec 20) (record : Nat) (len bound : Nat) (cap : Option Nat) (floor : Nat) (phase : Option (List Nat))
  /-- cells of array `array`: writes from number `bound` on are younger than the read; `frac` of a held CCFG -/
  | cells (array bound : Nat) (frac : Option Nat) (bf16 : Bool) (lanes : List CellLane)
  | status (array : Nat)
  /-- the answer of the task's next-tile request of this number -/
  | tile (n : Nat)
  deriving DecidableEq, Repr

/-- A result in flight (R121): due at virtual cycle `due`, its value, and the flags, absorbed lanes and accumulator flags
its landing sets (R128, R141). `lock` holds the gallery bytes that stay locked, written or not (R121, R300). -/
structure Pend where
  issue : Nat
  due : Nat
  slot : Nat
  kind : Kind
  dest : Dest
  lock : List (Nat × Nat)
  val : W64
  data : List Byte
  flags : BitVec 6
  absorb : Nat
  accView : Option Nat
  accFlags : W32
  /-- clears the accumulator's status word first (R332) -/
  accClear : Bool
  /-- poisoned record ranges (first byte, length) and the record they come from (R148) -/
  poison : List (Nat × Nat)
  source : Option (BitVec 20 × Nat)
  need : Need
  /-- issued at or before the checkpoint (R127) -/
  preCk : Bool
  /-- the trap an enabled flag raises names the bundle's slot and pc (R201) -/
  pc : W64
  /-- record byte of the first byte of `data`, and whether it lands from the replay buffer (R128, R129) -/
  at_ : Nat
  replay : Bool
  /-- it has landed at a freeze for want of a replay entry: its destination alone stays locked until `due` (R128) -/
  spent : Bool := false
  deriving DecidableEq, Repr

/-- Occupancy of MX or VX: the slot, the first free virtual cycle, the bays held and the instruction's own name (R123, R143). -/
structure Busy where
  slot : Nat
  until_ : Nat
  bays : List Nat
  deriving DecidableEq, Repr

/-- A held operation of the withhold buffer (R126); its order is the buffer's. -/
inductive Held where
  /-- rewrite of a whole record (R360) -/
  | rewrite (tape : BitVec 20) (record : Nat) (data : List Byte)
  /-- a rewrite of a record onto which the core has spilled stack bytes since (R389) -/
  | overtaken (tape : BitVec 20) (record : Nat) (data : List Byte)
  /-- append of a record on an append tape, and on a stream tape (R361) -/
  | append (tape : BitVec 20) (head : Nat) (data : List Byte)
  | streamAppend (tape : BitVec 20) (data : List Byte)
  /-- contributions of the listed lanes: cell offset and the lane's word (R367) -/
  | cellAdd (array cell : Nat) (bf16 : Bool) (lanes : List (Nat × W32))
  | cellClear (array cell n : Nat)
  | cellConfig (array : Nat) (desc : W64)
  /-- an engine command on timeline `tl`, its block, and the physical register of its token (R371, R372) -/
  | command (tl : Nat) (block : List Byte) (token : Option Nat)
  | flsig (op : Nat) (word : Nat) (v : W32)
  | event (dom : Nat)
  | report (code : Byte) (v : W32)
  deriving DecidableEq, Repr

/-- One entry of the undo log: the line or 256-byte ring block, its old bytes, and a line's poison bit and tag (R126, R148). -/
structure Undo where
  ring : Bool
  index : Nat
  old : List Byte
  poison : Bool
  tag : Option Tag
  deriving DecidableEq, Repr

/-- A next-tile request in flight: its core's issue vc, and the tick its answer arrives once accepted (R88). -/
structure TileReq where
  issue : Nat
  answer : Option (Nat × W64)
  deriving DecidableEq, Repr

/-- A record held in a head window: its bytes, its poisoned granules, and the latest and earliest write of the record that is in it
(R164, R205). -/
structure WinRec where
  record : Nat
  data : List Byte
  poison : List Nat
  version : Nat
  oldest : Nat
  deriving DecidableEq, Repr

/-- The asynchronous stops that freeze a core (R128). -/
inductive StopKind where
  | cut | halt | power
  deriving DecidableEq, Repr

/-- Causes of a freeze stall (Table 6.3). -/
inductive Cause where
  | icache (line : Nat)
  | dict (entry : Nat)
  | targets (line : Nat)
  | extent (tape : BitVec 20) (index : Nat)
  | record
  | token (reg : Nat)
  | tile
  | handrail (line : Nat)
  | event
  | timeline (tl : Nat) (v : W64)
  | streamFull (tape : BitVec 20)
  | streamEmpty (tape : BitVec 20)
  | remainder
  | release
  | publication
  | cell
  deriving DecidableEq, Repr

/-- What a SOLEND decision reads at issue (R349): the carried tiles, the threshold and β; the bundle's length; and the byte ranges
its results land in, captured at issue (R136, R392). -/
structure Decision where
  g : List W32
  thr : W32
  beta : W32
  len : Nat
  segs : List (Nat × Nat)
  deriving DecidableEq, Repr

/-- What follows the release of a checkpoint bundle. -/
inductive After where
  | go
  /-- the bundle's HALT ends the task (R294); s1 as read at its issue -/
  | halt (s1 : W64)
  /-- TRAP or BKPT: code and info0 (R293) -/
  | trap (code : Nat) (info0 : W64) (pc : W64)
  /-- the bundle's WFE found no event (R134) -/
  | event
  /-- PHASE: publication over the scope code (R204) -/
  | phase (scope : Nat)
  /-- SOLEND: the decision over what was read at issue follows (R349) -/
  | decide (d : Decision)
  /-- a SYNC bundle that has reached issue: earlier work goes, then the input is raised (R133) -/
  | sync (line : Nat)
  deriving DecidableEq, Repr

/-- What one synchronous trap carries (Table 5.7). -/
structure TrapInfo where
  code : Nat
  slot : Nat
  info0 : W64
  info1 : W64
  pc : W64
  /-- the poisoned lines that the access covered (R149) -/
  lines : List Nat
  deriving DecidableEq, Repr

/-- A trap record (Table 5.7). -/
structure TrapRec where
  tick : Nat
  src : W16
  code : Nat
  slot : Nat
  tflags : W16
  flight : W16
  pc : W64
  ckPc : W64
  dict : W64
  info0 : W64
  info1 : W64
  node : W16
  deriving DecidableEq, Repr

/-- Where a core stands. -/
inductive Stage where
  /-- no task -/
  | idle
  | run
  /-- frozen before the next bundle issues, or before a landing that is not ready -/
  | frozen (cause : Cause)
  /-- the stall of a remainder spill or fill has ended: the next bundle issues with it (R338) -/
  | transferred
  | releasing (after : After)
  /-- the SYNC input is raised -/
  | waitLine (line : Nat)
  /-- the SYNC bundle issues now: its line has released (R133) -/
  | syncIssue
  | publishing (scope : Nat)
  /-- the phase has begun; these records of the windows, by head, are still to be fetched again (R167, R204) -/
  | refilling (want : List (Nat × Nat))
  /-- frozen after a WFE bundle (R134), which was a checkpoint or not -/
  | waitEvent (ck : Bool)
  /-- a SOLEND decision has `left` virtual cycles to go (R349); a trap raised in its window waits for its end -/
  | deciding (left : Nat) (d : Decision) (trap : Option TrapInfo)
  /-- a synchronous trap is being rolled back (R127) -/
  | trapping (t : TrapInfo) (dict : W64) (tick : Nat)
  /-- the trap's policy has not yet let the core go on (R111, R112); the records are those that the repair of R149 writes, as the
  access found them -/
  | trapped (r : TrapRec) (records : List (BitVec 20 × Nat))
  /-- HALT has issued; the task ends when its results have landed (R294) -/
  | halting (s1 : W64)
  deriving DecidableEq, Repr

/-- Scopes of R203 by code, and a published set: what had reached a core at its last boundary of a scope (R207). -/
structure Published where
  scope : Nat
  writes : List Nat
  deriving DecidableEq, Repr

/-- Where the core that acted stood when it acted, and where the others stood then: after a resume a core can have another number,
in another hall, and a scope still reaches those that it reached at that moment (R207, R211; log 54). -/
structure Spot where
  /-- the number of the core that acted, then -/
  at_ : Nat
  /-- cores that have moved since: the number of each now, and the one it had then -/
  seen : List (Nat × Nat)
  deriving DecidableEq, Repr

/-- What a release action carries: who performed it, by its number now, its own scope, its boundaries so far, and where it was
performed (R206, R207). -/
structure Carried where
  from_ : Nat
  scope : Nat
  pubs : List Published
  spot : Spot
  deriving DecidableEq, Repr

/-- Writes a core has acquired but not yet begun a phase for: they reach it at a boundary whose scope includes `from_` (R207). -/
structure Acquired where
  from_ : Nat
  writes : List Nat
  deriving DecidableEq, Repr

/-- A core that holds a task. A core not listed in `State.cores` is idle. -/
structure Core where
  no : Nat
  run : Nat
  node : Nat
  stage : Stage
  /-- the stops that hold the core (R128), which moves only with none, and those that take effect at its next bundle
  boundary -/
  stops : List StopKind
  asks : List StopKind
  /-- %pcyc of the last freeze (Table 5.3) -/
  frozenAt : Nat
  /-- vc at which a debug STEP let the core issue one bundle (R131) -/
  stepVc : Option Nat
  vc : Nat
  arch : Arch
  shadow : Arch
  gallery : Mem
  /-- poisoned lines, ascending, and their tags (R148) -/
  poison : List Nat
  tags : List Tag
  dirty : BitVec 256
  scratch : Mem
  /-- the 32 KiB remainder ring and the 112 KiB solve history (R337, R348) -/
  ring : Mem
  history : Mem
  pend : List Pend
  busy : List Busy
  held : List Held
  undo : List Undo
  /-- registers reserved or pending for tokens: physical register, timeline, command number once released (R372) -/
  tokens : List (Nat × Nat × Option Nat)
  /-- registers that hold a token not yet read, with the writes its reader acquires (R206, R210) -/
  tokensIn : List (Nat × List Nat)
  /-- the same as a rollback restores it, with the words (R127) -/
  tokensCk : List (Nat × List Nat)
  /-- provisional tiles by number, how many numbers the span has taken, the number its first one has, the number the next
  answer gets, and the span's NEXTT count (R88, R89) -/
  tiles : List (Nat × W64)
  tilesTaken : Nat
  tileBase : Nat
  tileCount : Nat
  nextts : Nat
  nullSeen : Bool
  tileReq : List TileReq
  /-- the replay buffer (Table 5.5b), in issue order: an entry's `remain` is its due vc less the core's vc -/
  replay : List Pend
  /-- head windows (R164), by head -/
  windows : List (List WinRec)
  /-- presence of instruction-cache lines and of dictionary-cache entries and target-table lines (R269) -/
  icache : List Nat
  dcache : List Nat
  /-- the loop buffer: bundles of the outermost active body, expanded (R130, R288) -/
  loopBuf : List Decoded
  /-- the SYNC bundle that has raised its input and issues when its line releases, and the extents that its checks found in the
  hall's cache (R133) -/
  synced : Option Decoded
  syncExtents : List (BitVec 20 × Nat)
  dom : List W32
  /-- the trapped core a handler task serves (R111) -/
  handlerOf : Option Nat
  /-- the task's tile, for the count of tiles handed out -/
  coreId : W64
  /-- writes that have reached the core; those of the start of its phase; its published and acquired sets (R205, R207) -/
  reached : List Nat
  phase : List Nat
  published : List Published
  acquired : List Acquired
  /-- releases whose publication still lacks a phase: cell adds since the last boundary (Table 10.2) -/
  cellAdds : List Nat
  /-- the task has released a write (R396) -/
  wrote : Bool
  /-- what each SEV that set the pending bit carried: the tick of its arrival, sender and its published sets (R206); and the tick
  at which the bit last rose (R134) -/
  eventFrom : List (Nat × Carried)
  eventSince : Nat
  /-- the core's last released write of (tape, record) since its phase began, with its bytes (R166) -/
  ownWrites : List (Nat × Nat × Nat × List Byte)
  /-- earliest version a read of (tape, record) may return in this phase (R205) -/
  floors : List (Nat × Nat × Nat)
  /-- collective sequence counts per domain (R224) -/
  collSeq : List Nat
  deriving DecidableEq, Repr

end Sys2Proof.Machine
end

