-- ==== Sys2Proof/Machine/PackageState.lean ====
section
/-! DEFINITION. The state of the package outside its cores: ports, routing, root of trust, power, host functions, flights,
runs, tapes and cells, engine contexts, handrail lines (01 to 05, 08, 10, 11). -/

namespace Sys2Proof.Machine

/-! ## Flights and runs -/

/-- Kinds of node (Table 4.5). -/
inductive NodeKind where
  | kernel | transform | conditional | while_ | wait | notify
  deriving DecidableEq, Repr

/-- A node record (Tables 4.5, 4.6); a field of another kind is zero. -/
structure Node where
  kind : NodeKind
  isEnd : Bool
  useClass : Bool
  cls : Nat
  persistent : Bool
  depInit : Nat
  succ : List Nat
  codeVa : W64
  dictVa : W64
  featReq : W32
  xdim : Nat
  ydim : Nat
  zdim : Nat
  nCore : Nat
  domUse : BitVec 8
  listTape : BitVec 20
  nCmd : Nat
  engine : Nat
  condNo : Nat
  condMask : W32
  loopFirst : Nat
  loopLast : Nat
  maxIter : Nat
  value : W32
  fromCond : Bool
  deriving DecidableEq, Repr

/-- A domain descriptor of a flight header (Table 4.4). -/
structure DomDesc where
  level : Nat
  members : Nat
  deriving DecidableEq, Repr

/-- Whether a node may be dispatched and where it stands (R76, R80). -/
inductive NodeStage where
  | waiting | ready | active | running
  deriving DecidableEq, Repr

/-- One node of a run: its counter, stage, the tick it became ready, its iterations, and since its counter was last set:
dispatched, committed (R62). For a kernel node the tiles handed out, ascending, and for a transform node its commands
issued. -/
structure NodeState where
  counter : Nat
  stage : NodeStage
  readyTick : Nat
  iterations : Nat
  dispatched : Bool
  committed : Bool
  handed : List Nat
  cmds : Nat
  /-- cores of the node's placement, in ascending order -/
  cores : List Nat
  /-- placed, and its tasks wait for the shares of the job's other packages (R87): the tiles picked for them -/
  placing : Option (List Nat)
  /-- the 50 µs trigger has already been used for this readiness (R92), and the steps it has aged (R91) -/
  triggered : Bool
  aged : Nat
  deriving DecidableEq, Repr

/-- What the landing keeps at a commit (R62). -/
structure CommitImage where
  node : Nat
  counters : List Nat
  conds : List W32
  args : List W32
  iterations : List Nat
  dispatched : List Bool
  committed : List Bool
  endDone : Bool
  deriving DecidableEq, Repr

/-- A write performed, or on its way, to a record's home: its number, writer core, and the record's whole new contents.
Number 0 stands for the contents when the run began. -/
structure TapeWrite where
  wid : Nat
  core : Nat
  tape : BitVec 20
  record : Nat
  data : List Byte
  deriving DecidableEq, Repr

/-- A cell operation on its way to, or applied at, the vault (R174, R176). -/
inductive CellOp where
  | add (array cell : Nat) (bf16 : Bool) (v : W32)
  | clear (array cell n : Nat)
  deriving DecidableEq, Repr

/-- Released work that has not arrived: tape writes and cell operations, in release order. -/
inductive Flying where
  | tape (w : TapeWrite)
  | cell (wid core : Nat) (ops : List CellOp)
  deriving DecidableEq, Repr

/-- A cell: the sum of settled contributions and each contribution with its number and core (R174, R209). -/
structure Cell where
  index : Nat
  adds : List (Nat × Nat × Int)
  deriving DecidableEq, Repr

/-- A configured cell array (Table 8.7), the vault slots it holds and its cells that are not zero; and the nodes not committed whose
work has written it (R62). -/
structure CellArray where
  id : Nat
  desc : W64
  slots : List Nat
  cells : List Cell
  by_ : List Nat
  deriving DecidableEq, Repr

/-- What a tape of the run carries beside its records (R168, R169). -/
structure TapeState where
  id : BitVec 20
  /-- nodes not committed whose released work has appended to it (R62) -/
  by_ : List Nat
  /-- released fill count of an append tape; released appends of a stream tape -/
  fill : Nat
  /-- records of a stream tape freed by its consumer -/
  freed : Nat
  /-- window size of a stream tape in records once it has been enlarged from the basin (R93), else 0 -/
  window : Nat
  /-- appended records of a stream tape: index, bytes, and what its release carried (R206) -/
  records : List (Nat × List Byte × Carried)
  /-- records of a stream tape that stand in its ring, appended by a node not committed: index and node (R62) -/
  fresh : List (Nat × Nat)
  deriving DecidableEq, Repr

/-- What the landing keeps of a faulted run (R62, R63): its number, arm and acceptance order, its commits, the images, the fill counts of
its tapes and its cell arrays, which hold no slots while it is kept (R173; log 61). -/
structure Kept where
  rid : Nat
  arm : ArmWrite
  order : Nat
  commits : Nat
  lastNode : W16
  images : List CommitImage
  tapes : List TapeState
  arrays : List CellArray
  /-- tapes that hold undefined contents for the rest of the run (R155) -/
  torn : List Nat
  deriving DecidableEq, Repr

/-- A resident flight's own part (Table 4.4) and its job's page table (log 6). -/
structure Flight where
  id : Nat
  defClass : Nat
  tapeDir : W64
  dom : List DomDesc
  hashMask : W64
  sysJob : W32
  nPkg : Nat
  pkgIndex : Nat
  pkgList : W64
  nodes : List Node
  pages : List PageEntry
  /-- queued start arms with their acceptance order, and wait arms (with their node) held for an activation, with the run they belong to (R56) -/
  queue : List (Nat × ArmWrite)
  heldWaits : List (ArmWrite × Nat × Option Nat)
  /-- the faulted run whose commit images are kept (R63) -/
  kept : Option Kept
  deriving DecidableEq, Repr

/-- Why a run is cut (R97). -/
inductive CutReason where
  | preempt | power | command
  deriving DecidableEq, Repr

/-- A cut in progress (Table 5.1): step 2, 4, 5 or 6; its clock, which stands while a trap is delivered (R101). -/
structure Cut where
  reason : CutReason
  step : Nat
  left : Nat
  /-- ticks since the last report of step 2 (step 3) -/
  waited : Nat
  m : W64
  s : Nat
  /-- attempts already abandoned (R100) -/
  abandoned : Nat
  /-- a pre-emption asks for it, first or with others (R92) -/
  preempts : Bool
  deriving DecidableEq, Repr

/-- A trap held for the hypervisor (R112): its core, record and stamp. -/
structure HeldTrap where
  core : Nat
  code : Nat
  tick : Nat
  deriving DecidableEq, Repr

/-- Where a run stands. -/
inductive RunStage where
  | active
  /-- its images are written; it waits to be resumed (R108) -/
  | cutOut
  /-- its last record waits to be written -/
  | ended
  deriving DecidableEq, Repr

/-- A context area of a run: the core's place in its node's placement, the image's bytes (Table 5.2), and the core as it stood,
for what the landing keeps beside the image (R106). -/
structure CoreImage where
  node : Nat
  place : Nat
  bytes : Mem
  core : Core
  deriving DecidableEq, Repr

/-- What a core of a run takes from one task of the run to its next (R207): what has reached it, what it has published and acquired,
and its cell adds that lack a phase boundary. -/
structure Known where
  core : Nat
  reached : List Nat
  published : List Published
  acquired : List Acquired
  cellAdds : List Nat
  deriving DecidableEq, Repr

/-- A run of a flight (04). -/
structure Run where
  id : Nat
  fn : Nat
  flight : Nat
  arm : ArmWrite
  armTick : Nat
  /-- acceptance order of its start arm -/
  order : Nat
  args : List W32
  conds : List W32
  nodes : List NodeState
  endDone : Bool
  commits : Nat
  lastNode : W16
  images : List CommitImage
  stage : RunStage
  cut : Option Cut
  /-- class and tick a cut run carries into dispatch (R92), and the tick a retry is due (R100) -/
  cutClass : Nat
  cutTick : Nat
  retryAt : Option (Nat × Nat)
  saved : List CoreImage
  /-- the images of its engine contexts, by context (R103, Table 11.3) -/
  engines : List (Nat × Mem)
  heldTraps : List HeldTrap
  tapes : List TapeState
  arrays : List CellArray
  /-- performed writes in coherence order, oldest first (R205) -/
  writes : List TapeWrite
  flying : List Flying
  /-- what the boundary after each cell add carries, once it has been performed (Table 10.2) -/
  cellReleases : List (Nat × Carried)
  nextWid : Nat
  /-- the node whose work released each write (R396) -/
  widNodes : List (Nat × Nat)
  /-- writes of commands of a scope below pkg: number, scope and where the issuing core stood, which alone they can reach (R203, R210,
  R215) -/
  confined : List (Nat × Nat × Spot)
  /-- what had reached each task and command of a node that wrote, when it ended, by node: its commit carries that on (R396) -/
  gained : List (Nat × List Nat)
  /-- what cores that hold no task of the run now knew when their last one ended (R207) -/
  known : List Known
  /-- tapes of which a valid entry has been changed while the run was active (R155) -/
  torn : List Nat
  /-- basin bytes taken, and the tick since which every unit is blocked (R93) -/
  basin : Nat
  blockedSince : Option Nat
  /-- writes that commits have carried: all parties have them (R396) -/
  committedWrites : List Nat
  /-- shares of level-4 domains exchanged: node, domain, members on lower packages, members on higher (R87) -/
  shares : List (Nat × Nat × Nat × Nat)
  /-- bytes of HBM reserved as context areas, by node (R103) -/
  areas : List (Nat × Nat)
  deriving DecidableEq, Repr

/-! ## Engines -/

/-- A queued command (R217, Table 11.2): what it captured at its release, and what it has read once started. -/
structure Command where
  num : Nat
  block : List Byte
  token : Option Nat
  windows : List (BitVec 128)
  /-- writes that had reached its issuer at release (R210) -/
  reached : List Nat
  collSeq : Nat
  /-- matched with its collective, and the logical rank it has there (R224) -/
  matched : Bool
  rank : Nat
  /-- its source has been read; and its result stands -/
  started : Bool
  ready : Bool
  /-- bytes to write, by destination offset, once the result stands; before, for a collective, the vectors at hand by rank -/
  out : List (Nat × List Byte)
  /-- the stream record that each byte to write comes from (R222) -/
  sources : List (Nat × Nat)
  /-- the node whose work it is (R396) -/
  node : Nat
  flags : BitVec 4
  deriving DecidableEq, Repr

/-- An engine context (R216, R230): timeline `tl` of a core's task, or the landing-held copy (0) or collective (4) context. -/
structure Context where
  id : Nat
  run : Nat
  node : Nat
  core : Option Nat
  /-- its task has ended; its outstanding commands continue (R294) -/
  ended : Bool
  tl : Nat
  counter : W64
  last : W64
  step : W16
  /-- step of the last command released (R220) -/
  lastStep : W16
  queue : List Command
  collSeq : List Nat
  /-- what the completion of each command carries to an acquirer: number and published writes (R206) -/
  done : List (Nat × List Nat)
  deriving DecidableEq, Repr

/-- A handrail line in use (R132, R133). -/
structure Line where
  no : Nat
  run : Nat
  node : Nat
  dom : Nat
  level : Nat
  members : List Nat
  raised : List Nat
  /-- what each member's SYNC carries as a release (R206) -/
  carried : List Carried
  /-- members whose task has ended hold their input raised -/
  ended : List Nat
  trueTick : Option Nat
  /-- completions of the other packages have arrived (R87) -/
  remote : Bool
  deriving DecidableEq, Repr

/-! ## Host functions -/

/-- A completion record (Table 3.7) without its phase bit. -/
structure Rec where
  tick : Nat
  src : W16
  kind : Nat
  status : Nat
  flight : W16
  node : W16
  hostSeq : BitVec 48
  slot : W16
  detail : W32
  deriving DecidableEq, Repr

/-- A PCI Express function: its identity (Table 3.2), BAR0 registers (Table 3.1) and what the landing keeps for it. -/
structure Fn where
  no : Nat
  link : Nat
  groups : W16
  secured : Bool
  quota : Nat
  /-- the first of the 2 MiB extents of its quota (R51, R53; log 4) -/
  extent0 : Nat
  ports : W16
  -- completion ring (Tables 3.5, 3.5a)
  cqCtl : W32
  cqBase : W64
  cqHead : W32
  cqTail : W32
  msiMap : W64
  /-- the device record buffer, at most 256, and the records that wait in the landing (R60) -/
  buffer : List Rec
  waiting : List Rec
  /-- records written since the vectors last rose, by vector, and the tick of the first (Table 3.5a) -/
  unsignalled : List (Nat × Nat × Nat)
  /-- MSI-X vectors raised, oldest first: what the device has sent (R61) -/
  msiOut : List Nat
  -- flight installation (Tables 4.1 to 4.3)
  flCmd : W32
  flSrc : W64
  flStat : Nat
  flights : List Flight
  /-- staged flights, oldest first (R72) -/
  staged : List Nat
  -- host windows (Table 3.6)
  windows : List (BitVec 128)
  -- message interface (R69)
  msgGo : Bool
  msgStat : W32
  msgReq : Mem
  msgResp : Mem
  -- job control and debug window (Table 5.6)
  jcCmd : W32
  jcStat : Nat
  hndCode : W64
  hndDict : W64
  trapPol : W64
  trapBuf : List Byte
  dbgCmd : W32
  dbgAddr : W64
  dbgStat : Nat
  dbgData : Mem
  traps : List TrapRec
  /-- traps that wait for a handler core (R111) -/
  handlers : List Nat
  /-- last_seq of the arm slots (R55), where not 0 -/
  lastSeq : List (Nat × BitVec 48)
  /-- host memory as the function's I/O virtual addresses reach it, and pages that answer with an abort (R65) -/
  host : Mem
  hostAbort : List Nat
  basinUsed : Nat
  deriving DecidableEq, Repr

/-! ## Ports, root of trust, power -/

/-- States of a port (Table 1.4). -/
inductive PortStage where
  | down | training | up | failed
  deriving DecidableEq, Repr

/-- What a port sends as one flit that it keeps: its kind, 1 data or 2 control, virtual lane, sequence number once sent, payload, how
often it has been replayed, and the run of this package that owns it (R22, R24). -/
structure Transfer where
  kind : Nat
  lane : Nat
  seq : BitVec 12
  payload : List Byte
  tries : Nat
  owner : Option Nat
  deriving DecidableEq, Repr

/-- A peer port (R20 to R25). Flits on the wire are kept as their 256 bytes. -/
structure Port where
  stage : PortStage
  replayCount : Nat
  downEvent : Bool
  retrain : Bool
  replayLimit : Bool
  /-- pause bits received, and pause bits this port sends -/
  pauseRx : BitVec 4
  pauseTx : BitVec 4
  /-- pause bits changed since a flit last told the peer -/
  pauseSaid : BitVec 4
  txSeq : BitVec 12
  rxSeq : BitVec 12
  rxAck : BitVec 12
  /-- data and control flits sent and not acknowledged, oldest first, at most 512 (R22) -/
  replayBuf : List Transfer
  /-- those of the replay still to be sent (R22) -/
  replaying : List Transfer
  /-- a bad flit was seen: discard until the expected seq (R21); and its replay request waits behind a replay (R22) -/
  discarding : Bool
  asking : Bool
  lastIntact : Nat
  lastSent : Nat
  /-- transfers injected and not yet sent, oldest first; payloads received for this package with their lane, oldest first -/
  txQueue : List Transfer
  rxQueue : List (Nat × List Byte)
  /-- flits put on the wire, oldest first -/
  wire : List (List Byte)
  deriving DecidableEq, Repr

/-- An eMRAM region (Table 2.1): its bytes, the write counter and the authentication they were written with, and the counter that the
root of trust holds for the region (R32). -/
structure Region where
  bytes : List Byte
  writes : Nat
  tag : List Byte
  count : Nat
  deriving DecidableEq, Repr

/-- What a cfg blob settles (R33 step 3, R46 to R52); its byte layout is not in the spec (log 4). -/
structure Cfg where
  version : Nat
  secState : Nat
  split : Bool
  /-- owner of each of the sixteen groups: a function number -/
  owner : List Nat
  /-- functions: number, link, secured, HBM quota in 2 MiB extents, the first of its extents, ports -/
  fns : List (Nat × Nat × Bool × Nat × Nat × W16)
  sysSelf : W32
  /-- the debug-authority key, where it carries one (R39) -/
  debugKey : Option (List Byte)
  deriving DecidableEq, Repr, Inhabited

/-- What a blob settles: the layout of a blob is not in the spec (log 4). -/
opaque Config.cfgOf (bytes : List Byte) : Cfg

/-- A debug session (R38). -/
structure Session where
  fn : Nat
  halt : Bool
  /-- bound virtual device; none: the whole package -/
  vd : Option Nat
  deriving DecidableEq, Repr

/-- The root of trust (R31 to R39); cfg is the blob in force. -/
structure Rot where
  fwA : Region
  fwB : Region
  cfgBlob : Region
  idState : Region
  ctr : Region
  log : Region
  spare : Region
  cfg : Cfg
  booted : Bool
  recovery : Bool
  hasIdentity : Bool
  seed : W64
  qNext : Nat
  fwMin : Nat
  cfgMin : Nat
  bootCount : Nat
  meas : List (List Byte)
  /-- log entries: register, object kind, digest (R70) -/
  entries : List (Nat × Nat × List Byte)
  session : Option Session
  sessEnd : Bool
  measFail : Bool
  /-- message requests in order of go: function numbers; the first is being served, with its status and response (R69) -/
  queue : List Nat
  answer : Option (Nat × List Byte)
  deriving DecidableEq, Repr

/-- Power states (Table 2.5a). -/
inductive PowerState where
  | p0 | p1 | p2 | p3 | p4
  deriving DecidableEq, Repr

/-- The power sequencer (R40 to R42). -/
structure Power where
  state : PowerState
  k : Nat
  /-- the transition in progress and those that wait, with their k; true where pwr_req asked -/
  busy : Option (PowerState × Nat × Bool)
  queue : List (PowerState × Nat × Bool)
  /-- pwr_req (Table 2.7) -/
  req : W32
  status : Nat
  /-- last requested through pwr_req, and what the management controller asks for with its k -/
  asked : PowerState
  askedK : Nat
  managed : Option Nat
  deriving DecidableEq, Repr

/-- A walk in the queue of a hall's walker: what it looks for, and the windows, by core and head, that asked for it (R158). -/
structure Walk where
  run : Nat
  tape : BitVec 20
  index : Nat
  windows : List (Nat × Nat)
  deriving DecidableEq, Repr

/-- A hall's shared parts: the extent cache, least recently used first (run, tape, extent index), walks in order of
arrival, and where the two engines stand in their rotation (R158, R216). -/
structure Hall where
  no : Nat
  extents : List (Nat × BitVec 20 × Nat)
  walks : List Walk
  copyNext : Nat
  collNext : Nat
  deriving DecidableEq, Repr

end Sys2Proof.Machine
end

