-- ==== Sys2Proof/Machine/State.lean ====
section
/-! DEFINITION. The state of the package, why a step may stop, and the state right after package reset is released. -/

namespace Sys2Proof.Machine

/-- Why the machine stops. -/
inductive Fault where
  /-- a page table or extent entry names an HBM address at or beyond 384 GiB, which no stack answers (R2, R160). Raised by
  the code fetch and by the extent walker. Safe: the machine stops where the spec gives no effect. -/
  | hbmHole (address : Nat)
  deriving DecidableEq, Repr

/-- Why an instruction has no meaning here. -/
inductive Refusal where
  /-- no meaning has been given to the instruction. Raised by arms of `exec` alone. Safe. -/
  | notModelled (mnemonic : String)
  deriving DecidableEq, Repr

/-- Everything the spec gives the package. -/
structure State where
  /-- %pcyc (R19) -/
  pcyc : Nat
  /-- events that happen at a tick not fixed by the state: what comes from outside, and what the spec leaves open (log 9) -/
  agenda : List (Nat × Instr)
  /-- cores that have yet to act on this tick, ascending, and the core a slot instruction acts on (log 10) -/
  turn : List Nat
  cur : Nat
  /-- counters that number free values and undefined contents: the model's own (log 1, 2) -/
  free : Nat
  gens : Nat
  /-- last tick at which each source made a record: a function and its source id, or 32 and a package-wide one (R114) -/
  stamps : List ((Nat × W16) × Nat)
  power : Power
  rot : Rot
  ports : List Port
  sysSelf : W32
  /-- routes that are not zero, by destination (Table 1.8) -/
  routes : List (Nat × W32)
  featMask : List W32
  fns : List Fn
  runs : List Run
  nextRun : Nat
  /-- start arms accepted so far (Table 4.7 key 3) -/
  nextOrder : Nat
  cores : List Core
  /-- cores without a task as their last one left them (R294, R395), and the contents of the gallery and scratch of the others -/
  parked : List Core
  coreGen : Nat
  contexts : List Context
  nextContext : Nat
  halls : List Hall
  lines : List Line
  /-- events released and not yet at their core: target, sender's published sets (R134) -/
  events : List (Nat × Carried)
  /-- vault storage by vault × 2^26 + offset, and HBM by physical address, with their poisoned granules (R156, R160, R171) -/
  vaults : Mem
  hbm : Mem
  poison : List Nat
  deriving DecidableEq, Repr

/-! ## Reset -/

/-- A port as reset leaves it (Table 1.4). -/
def Port.reset : Port :=
  { stage := .down, replayCount := 0, downEvent := false, retrain := false, replayLimit := false, pauseRx := 0
    pauseTx := 0, pauseSaid := 0, txSeq := 0, rxSeq := 0, rxAck := 0xFFF, replayBuf := [], replaying := []
    discarding := false, asking := false, lastIntact := 0, lastSent := 0, txQueue := [], rxQueue := []
    wire := [] }

/-- The blob a part is delivered with (log 11): paired links, no virtual function, every group and every extent the PF's. -/
def Cfg.delivered : Cfg :=
  { version := 0, secState := 0, split := false, owner := List.replicate 16 0
    fns := [(0, 0, false, 196608, 0, 0xFFFF)], sysSelf := 0, debugKey := none }

/-- A region that has never been written: it is absent (R32). -/
def Region.blank : Region := ⟨[], 0, [], 0⟩

/-- The root of trust before the boot chain has run (Table 2.2; log 11). -/
def Rot.reset : Rot :=
  { fwA := Region.blank, fwB := Region.blank, cfgBlob := Region.blank, idState := Region.blank, ctr := Region.blank
    log := Region.blank, spare := Region.blank, cfg := Cfg.delivered, booted := false, recovery := false, hasIdentity := false
    seed := 0, qNext := 0, fwMin := 0, cfgMin := 0, bootCount := 0, meas := List.replicate 8 (List.replicate 32 0)
    entries := [], session := none, sessEnd := false, measFail := false, queue := [], answer := none }

/-- Power at reset: P0, nothing in progress; k of pwr_req resets to 2 (Table 2.7). -/
def Power.reset : Power :=
  { state := .p0, k := 1, busy := none, queue := [], req := 0x200, status := 0, asked := .p0, askedK := 1, managed := none }

/-- The package right after package reset is released: %pcyc 0 (R19), no function ready, no flight, no task, memories
without a value of their own (R40; log 8), and the boot chain about to run (R33; log 12). R67 gives feat_mask no reset value: 0 (log 20). -/
def State.reset : State :=
  { pcyc := 0, agenda := [(0, .packageReset)], turn := [], cur := 0, free := 0, gens := 1, stamps := [], power := Power.reset
    rot := Rot.reset, ports := List.replicate 16 Port.reset, sysSelf := 0, routes := [], featMask := List.replicate 16 0
    fns := [], runs := [], nextRun := 1, nextOrder := 0, cores := [], parked := [], coreGen := 0, contexts := [], nextContext := 1, halls := [], lines := []
    events := [], vaults := Mem.empty 0, hbm := Mem.empty 0, poison := [] }

end Sys2Proof.Machine
end

