-- ==== Sys2Proof/Machine/Ops.lean ====
section
/-! DEFINITION. The named operations over the state: cores, functions, runs and flights by number, identifiers (R13, R51 to
R53), registers with rotation, predicates and masks (R238, R273), code and data translation (R179), records and stamps
(R58, R60), taking a synchronous trap and going on after one (R109 to R113, R127). -/

namespace Sys2Proof.Machine

abbrev Out := Host.Outcome State Fault Refusal

/-! ## Looking things up -/

def State.coreAt (s : State) (c : Nat) : Option Core := s.cores.find? (fun k => k.no == c)

/-- The state with core `k` in place of the core of its number. -/
def State.setCore (s : State) (k : Core) : State :=
  { s with cores := s.cores.map (fun x => if x.no == k.no then k else x) }

/-- A list of cores, ascending, with `k` in its place. -/
def insertCore (k : Core) : List Core → List Core
  | [] => [k]
  | x :: xs => if k.no < x.no then k :: x :: xs else if k.no == x.no then k :: xs else x :: insertCore k xs

/-- The record lies within 64 KiB ahead of the head, the record under it included, or 16 KiB behind, in records of `size` bytes. -/
def Head.reaches (h : Head) (size record : Nat) : Bool :=
  let pos := h.pos.toNat
  let ahead := max 1 (65536 / size)
  let behind := 16384 / size
  if h.mode.getLsbD 9 then record ≤ pos + behind && pos < record + ahead else pos ≤ record + behind && record < pos + ahead

/-- Walks of core `c`'s hall are no longer walks of its head `n`'s window, or of any of its heads' (R161, R164). -/
def State.unwalk (s : State) (c : Nat) (n : Option Nat) : State :=
  { s with halls := s.halls.map (fun h => { h with walks := h.walks.map (fun w =>
      { w with windows := w.windows.filter (fun x => !(x.1 == c && n.getD x.2 == x.2)) }) }) }

/-- A core receives a task, or takes its place again. -/
def State.addCore (s : State) (k : Core) : State :=
  { s with cores := insertCore k s.cores, parked := s.parked.filter (fun x => x.no != k.no) }

/-- What a core whose task is over still holds: its registers, gallery and scratch; the loop stack, the remainder stack and any solve
state are discarded (R294, R395). -/
def Core.park (k : Core) : Core :=
  let a : Arch := { k.arch with loops := [], rsDepth := 0, rsSp := 0, revOn := false, solve := { k.arch.solve with active := false } }
  { k with
    run := 0, stage := .idle, stops := [], asks := [], stepVc := none, arch := a, shadow := a, pend := [], busy := [], held := [], undo := []
    tokens := [], tokensIn := [], tokensCk := [], tiles := [], tileReq := [], replay := [], windows := List.replicate 8 [], loopBuf := [], synced := none
    syncExtents := [], handlerOf := none, reached := [], phase := [], published := [], acquired := [], cellAdds := [], eventFrom := []
    ownWrites := [], floors := [] }

/-- The cores for which `p` holds are free. -/
def State.dropCores (s : State) (p : Core → Bool) : State :=
  let out := (s.cores.filter p).map Core.park
  { s with cores := s.cores.filter (fun k => !p k), parked := s.parked.filter (fun x => !out.any (fun k => k.no == x.no)) ++ out }

def State.dropCore (s : State) (c : Nat) : State := s.dropCores (fun k => k.no == c)

def State.mapCore (s : State) (c : Nat) (f : Core → Core) : State :=
  { s with cores := s.cores.map (fun x => if x.no == c then f x else x) }

def State.fnAt (s : State) (n : Nat) : Option Fn := s.fns.find? (fun f => f.no == n)
def State.mapFn (s : State) (n : Nat) (f : Fn → Fn) : State :=
  { s with fns := s.fns.map (fun x => if x.no == n then f x else x) }

def Fn.flightAt (f : Fn) (id : Nat) : Option Flight := f.flights.find? (fun x => x.id == id)
def Fn.mapFlight (f : Fn) (id : Nat) (g : Flight → Flight) : Fn :=
  { f with flights := f.flights.map (fun x => if x.id == id then g x else x) }

def State.runAt (s : State) (id : Nat) : Option Run := s.runs.find? (fun r => r.id == id)
def State.mapRun (s : State) (id : Nat) (g : Run → Run) : State :=
  { s with runs := s.runs.map (fun r => if r.id == id then g r else r) }

/-- The flight a run executes. -/
def State.flightOf (s : State) (r : Run) : Option Flight := (s.fnAt r.fn).bind (fun f => f.flightAt r.flight)

/-- The active run of a flight. -/
def State.activeRun (s : State) (fn flight : Nat) : Option Run :=
  s.runs.find? (fun r => r.fn == fn && r.flight == flight)

def State.contextAt (s : State) (id : Nat) : Option Context := s.contexts.find? (fun x => x.id == id)
def State.mapContext (s : State) (id : Nat) (g : Context → Context) : State :=
  { s with contexts := s.contexts.map (fun x => if x.id == id then g x else x) }

/-- The context behind timeline `tl` of the task on core `c`. -/
def State.contextOf (s : State) (run c tl : Nat) : Option Context :=
  s.contexts.find? (fun x => x.run == run && x.core == some c && x.tl == tl && !x.ended)

def State.hallAt (s : State) (h : Nat) : Hall :=
  (s.halls.find? (fun x => x.no == h)).getD ⟨h, [], [], 0, 0⟩
def State.setHall (s : State) (h : Hall) : State :=
  { s with halls := if s.halls.any (fun x => x.no == h.no)
      then s.halls.map (fun x => if x.no == h.no then h else x) else s.halls ++ [h] }

def State.lineAt (s : State) (n : Nat) : Option Line := s.lines.find? (fun l => l.no == n)
def State.mapLine (s : State) (n : Nat) (g : Line → Line) : State :=
  { s with lines := s.lines.map (fun l => if l.no == n then g l else l) }

def Run.tapeAt (r : Run) (t : BitVec 20) : TapeState :=
  (r.tapes.find? (fun x => x.id == t)).getD ⟨t, [], 0, 0, 0, [], []⟩
def Run.setTape (r : Run) (t : TapeState) : Run :=
  { r with tapes := if r.tapes.any (fun x => x.id == t.id)
      then r.tapes.map (fun x => if x.id == t.id then t else x) else r.tapes ++ [t] }

/-- An update of a run's tape state. -/
def Run.mapTape (r : Run) (t : BitVec 20) (g : TapeState → TapeState) : Run := r.setTape (g (r.tapeAt t))

/-! ## Identifiers -/

/-- Hall of a core, die of a hall (Table 1.2). -/
def hallOf (core : Nat) : Nat := core / 16
def dieOf (hall : Nat) : Nat := hall / 16

/-- Group of a hall: quadrant of its die (R51). -/
def groupOf (hall : Nat) : Nat := 4 * (hall / 16) + 2 * (hall % 16 / 4 / 2) + hall % 4 / 2

/-- A physical function, whose numbers are physical (R53). -/
def Fn.isPf (f : Fn) : Bool := f.no == 0 || f.no == 17
/-- The companion of link 1 in paired mode (R47). -/
def Fn.companion (f : Fn) : Bool := f.no == 31

/-- The halls a function owns, ascending. -/
def Fn.halls (f : Fn) : List Nat := (List.range 64).filter (fun h => f.groups.getLsbD (groupOf h))

/-- The cores a function owns, ascending; ascending virtual numbers too, since renumbering keeps order (R53). -/
def Fn.cores (f : Fn) : List Nat := f.halls.flatMap (fun h => (List.range 16).map (fun i => 16 * h + i))

/-- A hall's number in a function's own numbering (R53). -/
def Fn.virtualHall (f : Fn) (h : Nat) : Nat := if f.isPf then h else f.halls.idxOf h
def Fn.virtualCore (f : Fn) (c : Nat) : Nat := 16 * f.virtualHall (hallOf c) + c % 16

/-- The physical hall a function's number names, when it owns it (R157, R366). -/
def Fn.physicalHall (f : Fn) (v : Nat) : Option Nat :=
  if f.isPf then (if f.halls.contains v then some v else none) else f.halls[v]?

/-- A function whose BAR0 has the registers of Table 3.1: the companion has none of them that a write reaches (R47; the model's choice,
log 104), and in recovery mode only the security registers and the messages answer (R33). -/
def State.bar0 (s : State) (fn : Nat) : Option Fn := (s.fnAt fn).filter (fun f => !f.companion)
def State.answering (s : State) (fn : Nat) : Option Fn := if s.rot.recovery then none else s.bar0 fn

/-- Available features of a function (R67, R52): the Icesh's feat is 0xFF. -/
def State.features (s : State) (fn : Nat) : W32 :=
  if 1 ≤ fn && fn ≤ 16 then 0xFF &&& ~~~(s.featMask.getD (fn - 1) 0) else 0xFF

/-- A source identifier (R58). -/
def srcId (kind index : Nat) : W16 := BitVec.ofNat 16 (kind * 4096 + index % 4096)

/-! ## Registers (R238, R273) -/

/-- The physical place of the scalar register that bears name `n`. -/
def physReg (rot n : Nat) : Nat := if n < 40 then n else 40 + (n - 40 + 24 - rot % 24) % 24

/-- The name that a physical place bears. -/
def regName (rot p : Nat) : Nat := if p < 40 then p else 40 + (p - 40 + rot) % 24

/-- The value of the register named `n`; s0 reads 0. -/
def Arch.reg (a : Arch) (n : Nat) : W64 := if n = 0 then 0 else a.x.getD (physReg a.rot n) 0

/-- A write to a physical place; place 0, s0, discards it. -/
def Arch.setPlace (a : Arch) (p : Nat) (v : W64) : Arch := if p = 0 then a else { a with x := a.x.set p v }

/-- A write to the register named `n`. -/
def Arch.setReg (a : Arch) (n : Nat) (v : W64) : Arch := a.setPlace (physReg a.rot n) v

/-- A predicate; p0 reads true. -/
def Arch.pred (a : Arch) (n : Nat) : Bool := n == 0 || a.p.getLsbD n

/-- A write to a predicate; p0 stays. -/
def Arch.setPred (a : Arch) (n : Nat) (v : Bool) : Arch :=
  if n = 0 then a else { a with p := if v then a.p ||| (1#8 <<< n) else a.p &&& ~~~(1#8 <<< n) }

/-- A lane mask; q0 reads all ones (R303, R309). -/
def Arch.mask (a : Arch) (n : Nat) : W64 := if n = 0 then BitVec.allOnes 64 else a.q.getD n 0

def Arch.setMask (a : Arch) (n : Nat) (v : W64) : Arch := if n = 0 then a else { a with q := a.q.set n v }

/-- A test of polarity bit 3 and predicate bits 2–0 (R259). -/
def Arch.test (a : Arch) (t : BitVec 4) : Bool := a.pred (t.toNat % 8) != t.getLsbD 3

/-- %vt: the valid bits of the descriptors (R136). -/
def Arch.vt (a : Arch) : W64 :=
  BitVec.ofNat 64 ((List.range 56).foldl (fun n k => if (a.views.getD k 0).getLsbD 127 then n + 2 ^ k else n) 0)

/-! ## Translation (R179; log 6) -/

/-- 8 stacks of 48 GiB (R2). -/
def hbmSize : Nat := 412316860416

/-- The page of a virtual address. -/
def Flight.page (f : Flight) (va : Nat) : Option PageEntry := f.pages.find? (fun p => p.vpn == va / 65536)

/-- The HBM address of a mapped virtual address. -/
def Flight.phys (f : Flight) (va : Nat) : Option Nat :=
  match f.page va with
  | some p => if p.present then some (p.base + va % 65536) else none
  | none => none

/-- The HBM address of a code address: its page is mapped and executable. -/
def Flight.code (f : Flight) (va : Nat) : Option Nat :=
  match f.page va with
  | some p => if p.present && p.exec then some (p.base + va % 65536) else none
  | none => none

/-- `n` bytes of data at a virtual address, when all of its pages are mapped. -/
def State.vaNum (s : State) (f : Flight) (va n : Nat) : Option Nat :=
  match f.phys va with
  | some a => some (s.hbm.num a n)
  | none => none

/-- The stream word at a code address. -/
def State.codeWord (s : State) (f : Flight) (va : Nat) : Option W32 :=
  (f.code va).map (fun a => BitVec.ofNat 32 (s.hbm.num a 4))

/-! ## The body of a loop -/

/-- Length in bytes of the bundle whose first stream word is `w`; kind 0b11 counts as one word, as it never issues. -/
def bundleLen (w w0 : W32) : Nat :=
  match wordKind w with
  | 0 => 4
  | 1 => 8
  | 2 => 12 + 4 * WellFormed.presentCount (hdrOfWords w w0 0)
  | _ => 4

/-- The bundle at `va` that a core's loop buffer holds. -/
def looped (buf : List Decoded) (va : W64) : Option Decoded := buf.find? (fun d => d.pc == va)

/-- Length in bytes of the bundle at `va`: as the loop buffer holds it, else as its first word says. -/
def State.lengthAt (s : State) (f : Flight) (buf : List Decoded) (va : Nat) : Option Nat :=
  match looped buf (BitVec.ofNat 64 va) with
  | some d => some d.len
  | none => (s.codeWord f va).map (fun w => bundleLen w 0)

/-- Addresses of the next `n` bundles from `va` and the address behind them, as far as they can be told (R288). -/
def State.bundles (s : State) (f : Flight) (buf : List Decoded) : Nat → Nat → List Nat × Nat
  | 0, va => ([], va)
  | n + 1, va =>
    match s.lengthAt f buf va with
    | none => ([va], va)
    | some l =>
      let r := s.bundles f buf n (va + l)
      (va :: r.1, r.2)

/-! ## Records and stamps -/

/-- The ring's size (R60). -/
def Fn.ringSize (f : Fn) : Nat := 2 ^ (min ((fld f.cqCtl 20 4).toNat) 8 + 8)

/-- Whether a record can be written to the ring now. -/
def Fn.ringOpen (f : Fn) : Bool := f.cqCtl.getLsbD 31 && (f.cqTail - f.cqHead).toNat < f.ringSize

/-- The 32 bytes of record `r` written as index `i` of a ring (Table 3.7). -/
def Rec.bytes (r : Rec) (i size : Nat) : List Byte :=
  leBytes 8 r.tick ++ leBytes 2 r.src.toNat ++ leBytes 1 r.kind ++ leBytes 1 r.status ++ leBytes 2 r.flight.toNat ++
  leBytes 2 r.node.toNat ++ leBytes 6 r.hostSeq.toNat ++ leBytes 2 r.slot.toNat ++ leBytes 4 r.detail.toNat ++
  [0, 0, 0, BitVec.ofNat 8 ((i / size + 1) % 2)]

/-- A place in the device record buffer is free and no earlier record waits (R60). -/
def Fn.roomFor (f : Fn) : Bool := f.waiting.isEmpty && f.buffer.length < Config.recordBuffer

/-- A record enters the device buffer, or waits in the landing when that is full, which sets overflow (R60). -/
def Fn.post (f : Fn) (r : Rec) : Fn :=
  if f.roomFor then
    let b := f.buffer ++ [r]
    { f with buffer := b, cqCtl := if b.length = Config.recordBuffer then f.cqCtl ||| 0x40000000 else f.cqCtl }
  else { f with waiting := f.waiting ++ [r], cqCtl := f.cqCtl ||| 0x40000000 }

/-- The key of a record's source: cores, engines and arms are the function's own, and so are the agents as a virtual device numbers them
(R53); the others are one for the package. -/
def sourceKey (fn : Nat) (src : W16) : Nat × W16 :=
  if decide (((fld src 12 4).toNat = 3 ∧ (fn = 0 ∨ 17 ≤ fn)) ∨ 6 ≤ (fld src 12 4).toNat) then (32, src) else (fn, src)

/-- The tick at which a source last made a record. -/
def State.lastStamp (s : State) (fn : Nat) (src : W16) : Option Nat :=
  (s.stamps.find? (fun x => x.1 == sourceKey fn src)).map Prod.snd

/-- The stamp of a record that a source makes at `tick`, or the next tick it has free: one record per tick (R114). -/
def State.stamp (s : State) (fn : Nat) (src : W16) (tick : Nat) : Nat × State :=
  let t := match s.lastStamp fn src with
    | none => tick
    | some l => max tick (l + 1)
  (t, { s with stamps := (sourceKey fn src, t) :: s.stamps.filter (fun x => x.1 != sourceKey fn src) })

/-- A record of function `fn` is made now (R58, R60, R114). -/
def State.post (s : State) (fn : Nat) (r : Rec) : State :=
  let x := s.stamp fn r.src r.tick
  x.2.mapFn fn (fun f => f.post { r with tick := x.1 })

/-- The agent that makes a function's records: the one of the die of its lowest group (Table 4.8 step 2), as the PF sees it, and as the
function does, whose dies are those of its virtual halls (R53). -/
def Fn.agentPf (f : Fn) : W16 := srcId 3 (dieOf (f.halls.headD 0))
def Fn.agent (f : Fn) : W16 := srcId 3 (dieOf (f.virtualHall (f.halls.headD 0)))

/-- The physical function of a function's link (R48). -/
def State.pfOf (s : State) (f : Fn) : Nat := if s.rot.cfg.split && f.link == 1 then 17 else 0

/-- A record about a run (Table 3.7). -/
def State.runRec (s : State) (r : Run) (kind status : Nat) (node : W16) (detail : W32) : Rec :=
  { tick := s.pcyc, src := ((s.fnAt r.fn).map Fn.agent).getD 0x3000, kind := kind, status := status
    flight := BitVec.ofNat 16 r.flight, node := node, hostSeq := r.arm.hostSeq, slot := BitVec.ofNat 16 r.arm.slot
    detail := detail }

/-- The landing keeps the last 256 trap records of a function, newest first (R109). -/
def Fn.keepTrap (f : Fn) (t : TrapRec) : Fn := { f with traps := (t :: f.traps).take 256 }

/-! ## A new task (R83) -/

/-- A head that is detached. -/
def Head.detached : Head := ⟨false, 0, 0, 0, [none, none, none, none], 0⟩

/-- No solve region. -/
def Solve.none : Solve := ⟨false, 0, [0xFF, 0xFF, 0xFF, 0xFF], 0, 0, 1, 1, false, 0, 0, 0, [], 0⟩

/-- A PC is a multiple of 4 and a dictionary base a multiple of 64, whatever the register or record it comes from (R257, R264,
R285, R295; log 51). -/
def pcAligned (a : W64) : W64 := a &&& ~~~3#64
def baseAligned (a : W64) : W64 := a &&& ~~~63#64

/-- The shadowed state at task start: every register of it is zero but those R83 and the reset columns name. -/
def Arch.start (pc dict : W64) (args : List (Nat × W64)) : Arch :=
  { x := (List.range 64).map (fun n => ((args.find? (fun p => p.1 == n)).map Prod.snd).getD 0), rot := 0, p := 1
    q := List.replicate 4 (BitVec.allOnes 64), views := List.replicate 56 0, heads := List.replicate 8 Head.detached
    loops := [], pc := pcAligned pc, dictBase := baseAligned dict, pendBase := none, rsDepth := 0, revOn := false, revBase := 0, rsSp := 0
    rsLimit := 32768, solve := Solve.none, ftab := 0, bgeo := 0, rngSeed := 0, rngKey := 0, rngStep := 0, absorb := 0
    fstat := 0, cpos := 0, event := false, detached := [] }

/-- A core at the start of a task: gallery, scratch, ring and history hold undefined contents of generations from `gen`. -/
def Core.start (no run node : Nat) (a : Arch) (gen : Nat) (coreId : W64) (dom : List W32) (reached : List Nat) : Core :=
  { no := no, run := run, node := node, stage := .run, stops := [], asks := [], frozenAt := 0, stepVc := none, vc := 0, arch := a, shadow := a
    gallery := Mem.empty gen, poison := [], tags := [], dirty := BitVec.allOnes 256, scratch := Mem.empty (gen + 1)
    ring := Mem.empty (gen + 2), history := Mem.empty (gen + 3), pend := [], busy := [], held := [], undo := []
    tokens := [], tokensIn := [], tokensCk := [], tiles := [], tilesTaken := 0, tileBase := 0, tileCount := 0, nextts := 0, nullSeen := false, tileReq := [], replay := []
    windows := List.replicate 8 [], icache := [], dcache := [], loopBuf := [], synced := none, syncExtents := [], dom := dom, handlerOf := none
    coreId := coreId, reached := reached, phase := reached, published := [], acquired := [], cellAdds := [], wrote := false
    eventFrom := [], eventSince := 0, ownWrites := [], floors := [], collSeq := [0, 0, 0, 0] }

/-- A core that holds no task: as its last one left it, or as reset does. -/
def State.idleCore (s : State) (c : Nat) : Core :=
  (s.parked.find? (fun k => k.no == c)).getD
    (Core.park { Core.start c 0 0 (Arch.start 0 0 []) 0 0 [0, 0, 0, 0] [] with
      gallery := Mem.empty s.coreGen, scratch := Mem.empty (if s.coreGen = 0 then 0 else s.coreGen + 1), dirty := 0 })

/-- %coreid (Table 15.4a). -/
def Fn.coreIdOf (f : Fn) (c : Nat) : W64 :=
  BitVec.ofNat 64 (f.no * 2 ^ 27 + f.virtualHall (hallOf c) * 2 ^ 16 + f.virtualCore c)

/-! ## Gallery bytes, poison and dirty bits (R135, R147, R148) -/

/-- Lines that a byte range touches. -/
def linesOf (seg : Nat × Nat) : List Nat :=
  (List.range ((seg.1 + seg.2 + 255) / 256 - seg.1 / 256)).map (fun k => seg.1 / 256 + k)

/-- The distinct lines of ranges, in order of first touch. -/
def segLines (segs : List (Nat × Nat)) : List Nat := (segs.flatMap linesOf).eraseDups

/-- Whether two byte ranges meet. -/
def rangesMeet (a b : Nat × Nat) : Bool := a.1 < b.1 + b.2 && b.1 < a.1 + a.2

/-- The dirty bits with the blocks of a range set. -/
def dirtyWith (d : BitVec 256) (seg : Nat × Nat) : BitVec 256 :=
  (List.range ((seg.1 + seg.2 + 1023) / 1024 - seg.1 / 1024)).foldl (fun d k => d ||| (1#256 <<< (seg.1 / 1024 + k))) d

/-- Bytes of `segs` filled in order from `data`. -/
def splitData : List (Nat × Nat) → List Byte → List (Nat × List Byte)
  | [], _ => []
  | (o, n) :: rest, d => (o, d.take n) :: splitData rest (d.drop n)

/-- How far the ranges cover bytes without a gap from byte `lo` on, taken in at most this many strides. -/
def coverFrom (segs : List (Nat × Nat)) : Nat → Nat → Nat
  | 0, lo => lo
  | n + 1, lo =>
    let hi := segs.foldl (fun m s => if s.1 ≤ lo then max m (s.1 + s.2) else m) lo
    if hi = lo then lo else coverFrom segs n hi

/-- A line is covered whole by the ranges, which may overlap. -/
def coversLine (segs : List (Nat × Nat)) (line : Nat) : Bool :=
  decide (256 * line + 256 ≤ coverFrom segs segs.length (256 * line))

/-- A list of numbers, ascending without repeats, with one more. -/
def insertNat (n : Nat) : List Nat → List Nat
  | [] => [n]
  | x :: xs => if n < x then n :: x :: xs else if n == x then x :: xs else x :: insertNat n xs

/-- The union of ascending lists. -/
def unionNat (a b : List Nat) : List Nat := a.foldl (fun l n => insertNat n l) b

/-- Gallery bytes written by a landing without poison: the dirty bits rise, and lines written whole lose poison and tag. -/
def Core.land (k : Core) (segs : List (Nat × Nat)) (data : List Byte) : Core :=
  let parts := splitData segs data
  let whole := (segLines segs).filter (coversLine segs)
  { k with
    gallery := parts.foldl (fun g p => g.write p.1 p.2) k.gallery
    dirty := segs.foldl dirtyWith k.dirty
    poison := k.poison.filter (fun l => !whole.contains l)
    tags := k.tags.filter (fun t => !whole.contains t.line) }

/-- The gallery bytes of ranges, in order. -/
def Core.bytes (k : Core) (segs : List (Nat × Nat)) : List Byte := segs.flatMap (fun s => k.gallery.bytes s.1 s.2)

/-- Pieces of record bytes in gallery lines: line, record byte, line byte and length. `at_` is the record byte where the
ranges begin. -/
def linePieces : List (Nat × Nat) → Nat → List (Nat × Nat × Nat × Nat)
  | [], _ => []
  | (o, n) :: rest, at_ =>
    ((linesOf (o, n)).filterMap (fun l =>
      let lo := max o (256 * l)
      let hi := min (o + n) (256 * l + 256)
      if lo < hi then some (l, at_ + (lo - o), lo - 256 * l, hi - lo) else none)) ++ linePieces rest (at_ + n)

/-- The tag that a poisoned landing leaves on a line that received `parts`. -/
def tagOf (line : Nat) (src : BitVec 20 × Nat) (by_ : Nat × Nat) (parts : List (Nat × Nat × Nat)) : Tag :=
  let lo := parts.foldl (fun m x => min m x.1) ((parts.headD (0, 0, 0)).1)
  { line := line, tape := src.1, record := src.2, lo := lo
    hi := parts.foldl (fun m x => max m (x.1 + x.2.2 - 1)) 0
    off := ((parts.find? (fun x => x.1 == lo)).map (fun x => x.2.1)).getD 0
    parts := parts, by_ := by_ }

/-- A line gets a poisoned byte: its bit rises; with a source, a tag too while fewer than 16 are held, which takes in what an
earlier part of the same landing left there (R148). A landing on several lines tags them in order until 16 are held (log 73); the tag of
another landing on the line gives way to the new one (log 85). -/
def Core.poisonLine (k : Core) (src : Option (BitVec 20 × Nat)) (by_ : Nat × Nat) (line : Nat) (parts : List (Nat × Nat × Nat)) :
    Core :=
  let before := match k.tags.find? (fun t => t.line == line) with
    | some t => if some (t.tape, t.record) == src && t.by_ == by_ then t.parts else []
    | none => []
  let tags := k.tags.filter (fun t => t.line != line)
  { k with
    poison := insertNat line k.poison
    tags := match src with
      | none => tags
      | some s => if tags.length < Config.poisonTags then tags ++ [tagOf line s by_ (before ++ parts)] else tags }

/-- Poisoned record ranges that landed in `segs`, from record byte `at_`: every line that received a byte of them is poisoned. -/
def Core.poisonFrom (k : Core) (src : Option (BitVec 20 × Nat)) (by_ : Nat × Nat) (bad segs : List (Nat × Nat)) (at_ : Nat) : Core :=
  let ps := linePieces segs at_
  let hits := ((ps.filter (fun x => bad.any (rangesMeet (x.2.1, x.2.2.2)))).map Prod.fst).eraseDups
  hits.foldl (fun k l => k.poisonLine src by_ l ((ps.filter (fun x => x.1 == l)).map Prod.snd)) k

/-! ## The undo log (R126) -/

/-- The line or ring block stands in the undo log. -/
def Core.logged (k : Core) (ring : Bool) (i : Nat) : Bool := k.undo.any (fun u => u.ring == ring && u.index == i)

/-- The old contents of a line go to the undo log before its first write of the span. -/
def Core.logLine (k : Core) (line : Nat) : Core :=
  if k.logged false line then k
  else { k with undo := k.undo ++ [⟨false, line, k.gallery.bytes (256 * line) 256, k.poison.contains line,
                                     k.tags.find? (fun t => t.line == line)⟩] }

/-- The old contents of a ring block go to the undo log. -/
def Core.logRing (k : Core) (block : Nat) : Core :=
  if k.logged true block then k
  else { k with undo := k.undo ++ [⟨true, block, k.ring.bytes (256 * block) 256, false, none⟩] }

/-- The 256 bytes of old contents. -/
def Undo.block (u : Undo) : List Byte := (List.range 256).map (fun i => u.old.getD i 0)

/-- One undo entry applied: a restored line sets its dirty bit (R147) and has its old poison bit and tag back. -/
def Core.applyUndo (k : Core) (u : Undo) : Core :=
  if u.ring then { k with ring := k.ring.write (256 * u.index) u.block }
  else
    { k with
      gallery := k.gallery.write (256 * u.index) u.block
      dirty := dirtyWith k.dirty (256 * u.index, 256)
      poison := if u.poison then insertNat u.index k.poison else k.poison.filter (fun l => l != u.index)
      tags := k.tags.filter (fun t => t.line != u.index) ++ u.tag.toList }

/-- A landing's bytes written into old contents that the log holds (R127 step 3). -/
def Undo.absorb (u : Undo) (o : Nat) (bs : List Byte) : Undo :=
  if u.ring then u
  else
    { u with old := (List.range 256).map (fun i =>
        let a := 256 * u.index + i
        if o ≤ a && a < o + bs.length then bs.getD (a - o) 0 else u.old.getD i 0) }

/-! ## Taking a synchronous trap (R113, R127) -/

/-- Core `c` has had its turn of this tick. -/
def State.passTurn (s : State) (c : Nat) : State :=
  if s.turn.head? = some c then { s with turn := s.turn.tail } else s

/-- The core stops issuing and begins its rollback; its turn of this tick is over. A trap raised inside a SOLEND window
waits for the window's end (R349). -/
def State.trap (s : State) (k : Core) (t : TrapInfo) : State :=
  let stage : Stage := match k.stage with
    | .deciding n d none => .deciding n d (some t)
    | .deciding n d (some u) => .deciding n d (some u)
    | _ => .trapping t k.arch.dictBase s.pcyc
  (s.setCore { k with stage := stage }).passTurn k.no

/-- The core goes on from its checkpoint: how a settled trap ends (R111 resume, handler with 0, RESUME_HELD). -/
def Core.restart (k : Core) : Core := { k with stage := .run }

end Sys2Proof.Machine
end

