-- ==== Sys2Proof/Machine/Tape.lean ====
section
/-! DEFINITION. Tapes: the directory and extent tables (R153 to R157), where a record lies (R151), its home bytes and poison
(R171), its writes in coherence order and what a read may return of them (R205), head windows (R164), and the stream and
fill counts (R168, R169). -/

namespace Sys2Proof.Machine

/-- Attributes of Table 8.3. -/
def attrRo : Nat := 0
def attrAppend : Nat := 1
def attrUpdate : Nat := 2
def attrStream : Nat := 3

/-- A directory entry (Table 8.3). -/
structure Dir where
  length : Nat
  recLog : Nat
  far : Bool
  attr : Nat
  scope : Nat
  backed : Bool
  backing : BitVec 20
  extVa : Nat
  winRecs : Nat
  deriving DecidableEq, Repr

/-- The number of tapes of the job's directory (R153), none where its page is not mapped (the model's choice, log 109). -/
def State.tapeCount (s : State) (f : Flight) : Nat := (s.vaNum f f.tapeDir.toNat 4).getD 0

/-- The entry of a tape: none when its id is at or above n_tapes, or its valid bit is 0 (R159). Fields out of the range of
Table 8.1 are taken as they stand (the model's choice, log 97), and reserved bits that are not zero are ignored (log 102). -/
def State.dir (s : State) (f : Flight) (t : BitVec 20) : Option Dir :=
  if s.tapeCount f ≤ t.toNat then none
  else
    let at_ := f.tapeDir.toNat + 64 + 32 * t.toNat
    let n (o len : Nat) : Nat := (s.vaNum f (at_ + o) len).getD 0
    let fl := n 6 1
    if fl % 2 = 0 then none
    else some { length := n 0 5, recLog := n 5 1, far := fl.testBit 1, attr := fl / 4 % 4, scope := fl / 16 % 4
                backed := fl.testBit 6, backing := BitVec.ofNat 20 (n 16 4), extVa := n 8 8, winRecs := n 20 4 }

def Dir.recSize (d : Dir) : Nat := 2 ^ d.recLog
def Dir.extSize (d : Dir) : Nat := if d.far then 2097152 else 65536
def Dir.recsPerExtent (d : Dir) : Nat := d.extSize / d.recSize

/-- The record whose storage holds record `record`: a stream tape's records lie in its extents as a ring of win_recs (R169), of
one record where win_recs is 0 (log 97). -/
def Dir.ring (d : Dir) (record : Nat) : Nat := if d.attr = attrStream then record % max 1 d.winRecs else record

/-- The extent of a record (R151). The end position lies in the extent of the record it would be. -/
def Dir.extentOf (d : Dir) (record : Nat) : Nat := d.ring record / d.recsPerExtent

/-- The raw entry of an extent (Table 8.4). Its reserved bits have no effect (the model's choice, log 102), and one on a page that is not
mapped reads as 0, so as ev = 0 (log 109). -/
def State.extEntry (s : State) (f : Flight) (d : Dir) (i : Nat) : W64 :=
  BitVec.ofNat 64 ((s.vaNum f (d.extVa + 8 * i) 8).getD 0)

/-- A cell array of an active run holds the slot of the vault (R157, R366). -/
def State.slotHeld (s : State) (vault slot : Nat) : Bool :=
  s.runs.any (fun r => r.arrays.any (fun a =>
    a.slots.contains slot &&
    ((s.fnAt r.fn).bind (fun f => f.physicalHall (fld a.desc 41 6).toNat)) == some vault))

/-- A place in storage: HBM or vault, and the byte address there. -/
abbrev Place := Bool × Nat

/-- The 2 MiB extent is the function's to reach: a VF's is one of its own quota (R51, R53; log 4). A PF reaches every extent, those of
a virtual device's quota too (log 69). -/
def Fn.ownsExtent (f : Fn) (n : Nat) : Bool := f.isPf || (decide (f.extent0 ≤ n) && decide (n < f.extent0 + f.quota))

/-- Where an extent entry points: none when it acts as ev = 0 (R157, R159). So does a far entry at an extent of another virtual device
(R53; log 4), and one that names HBM at or beyond 384 GiB, on which the spec is silent (log 47). -/
def State.extPlace (s : State) (fn : Fn) (d : Dir) (e : W64) : Option Place :=
  if !e.getLsbD 63 then none
  else if d.far then
    let n := (fld e 10 18).toNat
    if n * 2097152 < hbmSize && fn.ownsExtent n then some (true, n * 2097152) else none
  else
    let slot := (fld e 0 10).toNat
    match fn.physicalHall (fld e 10 6).toNat with
    | none => none
    | some v => if 796 ≤ slot || s.slotHeld v slot then none else some (false, v * 67108864 + slot * 65536)

/-- The place of a record (R151). -/
def State.place (s : State) (fn : Fn) (f : Flight) (d : Dir) (record : Nat) : Option Place :=
  (s.extPlace fn d (s.extEntry f d (d.extentOf record))).map
    (fun p => (p.1, p.2 + d.ring record * d.recSize % d.extSize))

/-- Where a byte of HBM lies (R160): its stack, channel and pseudo-channel, and the byte there. -/
structure Channel where
  stack : Nat
  chan : Nat
  pseudo : Nat
  offset : Nat
  deriving DecidableEq, Repr

/-- The pseudo-channel and byte of physical address `pa` under a job's hash mask, whose bits 35 to 9 are used (R160). Nothing that
software reads depends on it. -/
def channelOf (mask : W64) (pa : Nat) : Channel :=
  let g := pa / 256
  let h := g &&& (mask.toNat / 512 * 512 % 2 ^ 36)
  let pc := (g % 512) ^^^ (h / 2 ^ 9 % 512) ^^^ (h / 2 ^ 18 % 512) ^^^ (h / 2 ^ 27 % 512)
  { stack := pc / 64, chan := pc / 2 % 32, pseudo := pc % 2, offset := g / 512 * 256 + pa % 256 }

/-- The channel of a record's first byte, when it lies in HBM. -/
def State.recordChannel (s : State) (fn : Fn) (f : Flight) (d : Dir) (record : Nat) : Option Channel :=
  match s.place fn f d record with
  | some (true, a) => some (channelOf f.hashMask a)
  | _ => none

/-! ## Changed tables (R155) -/

/-- Extents of a tape. -/
def Dir.extents (d : Dir) : Nat := (d.length + d.recsPerExtent - 1) / d.recsPerExtent

/-- A valid entry of the tape's tables has changed since the run began: its contents are undefined for the rest of it (R155). -/
def Run.isTorn (r : Run) (t : BitVec 20) : Bool := r.torn.contains t.toNat

/-- A valid entry of the tape's tables is not what it was in `s0`. -/
def State.tears (s s0 : State) (f : Flight) (t : BitVec 20) : Bool :=
  match s0.dir f t with
  | none => false
  | some d => s.dir f t != some d || (List.range d.extents).any (fun i =>
      let e := s0.extEntry f d i
      e.getLsbD 63 && s.extEntry f d i != e)

/-- Bytes of HBM that the flight's page table maps: its tables lie there. -/
def Flight.maps (f : Flight) (a n : Nat) : Bool := f.pages.any (fun p => rangesMeet (p.base, 65536) (a, n))

/-- `n` bytes of HBM at `a` have changed from what they were in `s0`: each run marks the tapes whose tables that changes (R155). -/
def State.tearTapes (s s0 : State) (a n : Nat) : State :=
  { s with runs := s.runs.map (fun r => match s.flightOf r with
      | none => r
      | some f =>
        if !f.maps a n then r
        else { r with torn := unionNat ((List.range (s0.tapeCount f)).filter (fun t => s.tears s0 f (BitVec.ofNat 20 t))) r.torn }) }

/-- What party `who` reads of a record of such a tape (R155). -/
def State.tornBytes (s : State) (d : Dir) (t : BitVec 20) (record who : Nat) : List Byte :=
  (List.range d.recSize).map (fun i => Config.tornByte s.pcyc t.toNat record who i)

/-- `n` bytes of storage, and the storage with bytes written. -/
def State.storeBytes (s : State) (p : Place) (n : Nat) : List Byte :=
  if p.1 then s.hbm.bytes p.2 n else s.vaults.bytes p.2 n
def State.storeWrite (s : State) (p : Place) (bs : List Byte) : State :=
  if p.1 then ({ s with hbm := s.hbm.write p.2 bs } : State).tearTapes s p.2 bs.length else { s with vaults := s.vaults.write p.2 bs }

/-- Number of the 64-byte granule at a place (R171). -/
def granule (p : Place) : Nat := (if p.1 then 17179869184 else 0) + p.2 / 64

/-- Granules that a write of `n` bytes replaces whole lose their poison (R171). -/
def State.cleanGranules (s : State) (p : Place) (n : Nat) : State :=
  { s with poison := s.poison.filter (fun g =>
      !(granule (p.1, p.2 + 63) ≤ g && g < granule (p.1, p.2 + n))) }

/-- Indices, within a record of `n` bytes, of its poisoned granules. -/
def State.badGranules (s : State) (p : Place) (n : Nat) : List Nat :=
  (List.range ((n + 63) / 64)).filter (fun g => s.poison.contains (granule (p.1, p.2 + 64 * g)))

/-! ## Coherence order (R205) -/

/-- The writes of a record, oldest first; version 0 is its contents when the run began. -/
def Run.versions (r : Run) (t : BitVec 20) (record : Nat) : List TapeWrite :=
  r.writes.filter (fun w => w.tape == t && w.record == record)

/-- A write arrives at the record's home: it is the last of the coherence order (R205, R171). -/
def State.perform (s : State) (rid : Nat) (w : TapeWrite) : State :=
  match s.runAt rid with
  | none => s
  | some r =>
    match s.fnAt r.fn, s.flightOf r with
    | some fn, some f =>
      match s.dir f w.tape with
      | none => s
      | some d =>
        match s.place fn f d w.record with
        | none => s
        | some p =>
          let first := r.versions w.tape w.record
          let pre : List TapeWrite :=
            if first.isEmpty then [⟨0, 0, w.tape, w.record, s.storeBytes p d.recSize⟩] else []
          let s := if r.isTorn w.tape then s else (s.storeWrite p w.data).cleanGranules p w.data.length
          s.mapRun rid (fun r => { r with writes := r.writes ++ pre ++ [w] })
    | _, _ => s

/-- Index of the last version among those that have reached the reader or are its own (R205 point 2). -/
def lastReached (vs : List TapeWrite) (reached : List Nat) (own : Nat) : Nat :=
  ((List.range vs.length).filter (fun i =>
    match vs[i]? with
    | some w => w.wid = 0 || reached.contains w.wid || w.core == own
    | none => false)).getLast?.getD 0

/-- A record composed granule by granule from versions `w` to `last`, as `sel` says (R205); and the earliest and latest version in
it. -/
def composeRecord (vs : List TapeWrite) (w last size : Nat) (sel : List Nat) : List Byte × Nat × Nat :=
  let pick (g : Nat) : Nat := min (w + sel.getD g 0) (max w (min last (vs.length - 1)))
  let n := (size + 63) / 64
  ((List.range n).flatMap (fun g =>
      ((((vs[pick g]?).map TapeWrite.data).getD []).drop (64 * g)).take (min 64 (size - 64 * g))),
   (List.range n).foldl (fun m g => min m (pick g)) (pick 0), (List.range n).foldl (fun m g => max m (pick g)) w)

/-- Who reads: the writes that have reached it, its own core number, the earliest version it may return, the number from which its
own writes are younger than the read, and the version that a later read of it has returned (R205). -/
structure Reader where
  reached : List Nat
  own : Nat
  floor : Nat
  bound : Option Nat
  cap : Option Nat

/-- Versions that are no younger writes of the reader's own (R166): those before the first of them. -/
def Reader.seen (x : Reader) (vs : List TapeWrite) : List TapeWrite :=
  match x.bound with
  | none => vs
  | some b => vs.takeWhile (fun w => !(w.core == x.own && b ≤ w.wid))

/-- What a read of a record by a party may return: its bytes, poisoned granules, and earliest and latest version (R205, R171). -/
def State.readRecord (s : State) (r : Run) (fn : Fn) (f : Flight) (d : Dir) (t : BitVec 20) (record : Nat)
    (x : Reader) (sel : List Nat) : Option (List Byte × List Nat × Nat × Nat) :=
  match s.place fn f d record with
  | none => none
  | some p =>
    let vs := x.seen (r.versions t record)
    let bad := s.badGranules p d.recSize
    if r.isTorn t then some (s.tornBytes d t record x.own, [], vs.length - 1, vs.length - 1)
    else if vs.isEmpty then some (s.storeBytes p d.recSize, bad, 0, 0)
    else
      let c := composeRecord vs (max (lastReached vs x.reached x.own) x.floor) (x.cap.getD (vs.length - 1)) d.recSize sel
      some (c.1, bad, c.2)

/-- Poisoned granules of a released stream record, while its place in the ring is its own (R169, R171). -/
def State.ringPoison (s : State) (r : Run) (fn : Fn) (f : Flight) (d : Dir) (t : BitVec 20) (record : Nat) : List Nat :=
  match s.place fn f d record with
  | none => []
  | some p => if (r.tapeAt t).fill ≤ record + d.winRecs then s.badGranules p d.recSize else []

/-- A stream record that is released now has its place in the ring; a window enlarged from the basin holds more (R93, R169). -/
def Dir.ringHolds (d : Dir) (st : TapeState) (record : Nat) : Bool := decide (record - st.freed < d.winRecs)

/-- A released stream record goes to its place in the ring (R169); a window enlarged from the basin holds there what the ring does
not (R93). -/
def State.ringStore (s : State) (r : Run) (fn : Fn) (f : Flight) (t : BitVec 20) (record : Nat) (data : List Byte) : State :=
  match s.dir f t with
  | none => s
  | some d =>
    match s.place fn f d record with
    | none => s
    | some p =>
      if r.isTorn t || !d.ringHolds (r.tapeAt t) record then s
      else (s.storeWrite p data).cleanGranules p data.length

/-! ## Head windows (R164) -/

/-- The records of a head's window: those of the tape that it reaches. -/
def inWindow (d : Dir) (h : Head) (record : Nat) : Bool := record < d.length && h.reaches d.recSize record

/-- Records that have left the window are dropped. -/
def trimWindow (d : Dir) (h : Head) (w : List WinRec) : List WinRec := w.filter (fun x => inWindow d h x.record)

/-- The window copy of a record. -/
def windowRec (w : List WinRec) (record : Nat) : Option WinRec := w.find? (fun x => x.record == record)

/-- The earliest version of a record that a read of the core may return in this phase (R205). -/
def Core.floor (k : Core) (t : BitVec 20) (record : Nat) : Nat :=
  ((k.floors.find? (fun f => f.1 == t.toNat && f.2.1 == record)).map (fun f => f.2.2)).getD 0

/-- A read of the phase `ph` that waits for the record, issued before one that has returned version `v`, returns no later one (R205). -/
def Need.capped (t : BitVec 20) (record v : Nat) (ph : Option (List Nat)) (n : Need) : Need :=
  match n with
  | .record h t' r len bound cap floor q =>
    if t' == t && r == record && q == ph then .record h t' r len bound (some (min v (cap.getD v))) floor q else n
  | _ => n

/-- One issued behind a read that has returned version `v` returns no earlier one (R205). -/
def Need.raised (t : BitVec 20) (record v : Nat) (ph : Option (List Nat)) (n : Need) : Need :=
  match n with
  | .record h t' r len bound cap floor q =>
    if t' == t && r == record && q == ph then .record h t' r len bound cap (max v floor) q else n
  | _ => n

/-- A read that waits as its phase ends stays one of that phase (R205). -/
def Need.aged (phase : List Nat) (n : Need) : Need :=
  match n with
  | .record h t r len bound cap floor none => .record h t r len bound cap floor (some phase)
  | _ => n

/-- A read that issues now has returned version `v` of a record: earlier ones return no later one. -/
def Core.capReads (k : Core) (t : BitVec 20) (record v : Nat) : Core :=
  { k with pend := k.pend.map (fun p => { p with need := p.need.capped t record v none }) }

/-- A read has returned version `v` of a record (R205). -/
def Core.note (k : Core) (t : BitVec 20) (record v : Nat) : Core :=
  { k with floors := (t.toNat, record, max v (k.floor t record)) ::
      k.floors.filter (fun f => !(f.1 == t.toNat && f.2.1 == record)) }

/-- The latest held write of a record (R126, R166). -/
def heldRecord (held : List Held) (t : BitVec 20) (record : Nat) : Option (List Byte) :=
  held.foldl (fun acc h => match h with
    | .rewrite t' r' d => if t' == t && r' == record then some d else acc
    | _ => acc) none

/-- The core's last released write of a record since its phase began: its number and bytes (R166). -/
def Core.ownWrite (k : Core) (t : BitVec 20) (record : Nat) : Option (Nat × List Byte) :=
  (k.ownWrites.find? (fun w => w.1 == t.toNat && w.2.1 == record)).map (fun w => w.2.2)

/-- Held appends of a core on a tape, oldest first. -/
def heldAppends (held : List Held) (t : BitVec 20) : List (List Byte) :=
  held.filterMap (fun h => match h with
    | .append t' _ d => if t' == t then some d else none
    | .streamAppend t' d => if t' == t then some d else none
    | _ => none)

/-- The fill count that counts this core's held appends (R168). -/
def Core.fillWith (k : Core) (r : Run) (t : BitVec 20) : Nat := (r.tapeAt t).fill + (heldAppends k.held t).length

/-- Records appended to a stream tape, held or released, by every core (R169). -/
def State.streamAppended (s : State) (r : Run) (t : BitVec 20) : Nat :=
  s.cores.foldl (fun n k => if k.run == r.id then n + (heldAppends k.held t).length else n) (r.tapeAt t).fill

/-- A stream window's count: of those, the ones not yet freed (R169). A consumer may have stepped past records not yet released. -/
def State.streamCount (s : State) (r : Run) (t : BitVec 20) : Nat := s.streamAppended r t - (r.tapeAt t).freed

/-- Mode word of a head (Table 8.6) for a directory entry. -/
def headMode (d : Dir) (writer backward : Bool) : W32 :=
  BitVec.ofNat 32 (d.attr + (if writer then 4 else 0) + (if d.far then 8 else 0) + 16 * d.recLog +
    (if backward then 512 else 0))

def Head.writer (h : Head) : Bool := h.mode.getLsbD 2
def Head.backward (h : Head) : Bool := h.mode.getLsbD 9

/-- A walk in the queue of a hall's walker is one of head `n`'s own window (R158, Table 8.6). -/
def Walk.ofWindow (w : Walk) (c n : Nat) : Bool := w.windows.contains (c, n)

/-- Sampled mode word: at_end, poison_win and walk_pend are read as they stand (R364). -/
def Core.hstat (k : Core) (hall : Hall) (n : Nat) (len : Nat) : W32 :=
  let h := k.arch.heads.getD n Head.detached
  if !h.attached then 0
  else
    h.mode ||| (if h.pos.toNat = len then 0x100 else 0) |||
    (if (k.windows.getD n []).any (fun w => !w.poison.isEmpty) then 0x400 else 0) |||
    (if hall.walks.any (fun w => w.ofWindow k.no n) then 0x800 else 0)

/-! ## The hall's extent cache (R158) -/

/-- Core `c`'s hall holds the extent of a tape. -/
def State.extCached (s : State) (c run : Nat) (t : BitVec 20) (i : Nat) : Bool :=
  (s.hallAt (hallOf c)).extents.any (fun e => e.1 == run && e.2.1 == t && e.2.2 == i)

/-- A walk asked for by a window names its head too. -/
def Walk.join (w : Walk) (window : Option (Nat × Nat)) : Walk :=
  match window with
  | none => w
  | some x => if w.windows.contains x then w else { w with windows := w.windows ++ [x] }

/-- A miss joins the walker's queue; `window` is the core and head whose window it is for, if any. -/
def State.startWalk (s : State) (c run : Nat) (t : BitVec 20) (i : Nat) (window : Option (Nat × Nat)) : State :=
  let h := s.hallAt (hallOf c)
  let same (w : Walk) : Bool := w.run == run && w.tape == t && w.index == i
  if h.walks.any same then s.setHall { h with walks := h.walks.map (fun w => if same w then w.join window else w) }
  else s.setHall { h with walks := h.walks ++ [({ run := run, tape := t, index := i, windows := [] } : Walk).join window] }

/-- A hit makes the entry the most recently used. -/
def State.touchExtent (s : State) (c run : Nat) (t : BitVec 20) (i : Nat) : State :=
  let h := s.hallAt (hallOf c)
  match h.extents.find? (fun e => e.1 == run && e.2.1 == t && e.2.2 == i) with
  | none => s
  | some e => s.setHall { h with extents := h.extents.filter (fun x => x != e) ++ [e] }

/-! ## Home of a record (R17, R205, R389) -/

/-- The core has spilled stack bytes on the record (R389). -/
def Core.spilledOn (k : Core) (t : BitVec 20) (record : Nat) : Bool :=
  [k.arch, k.shadow].any (fun a =>
    a.revOn && (a.heads.getD 7 Head.detached).tape == t && decide (a.revBase.toNat ≤ record) &&
    decide (record < a.revBase.toNat + a.rsSp / 256))

/-- A core of the run has spilled stack bytes on the record; the image of one that is cut out has too (R389). A task's end discards its
stack (R294), so one that holds no task has none. -/
def State.spilledOn (s : State) (rid : Nat) (t : BitVec 20) (record : Nat) : Bool :=
  s.cores.any (fun k => k.run == rid && k.stage != .idle && k.spilledOn t record) ||
  match s.runAt rid with
  | none => false
  | some r => r.stage == .cutOut && r.saved.any (fun x => x.core.stage != .idle && x.core.spilledOn t record)

/-- A write of a head or a command arrives at its record's home. On spilled stack bytes it leaves undefined contents (R389), bytes of
generation 0, which no memory has, by its write number. -/
def State.arriveHome (s : State) (rid : Nat) (w : TapeWrite) : State :=
  if s.spilledOn rid w.tape w.record then
    s.perform rid { w with data := (List.range w.data.length).map (fun i => Config.undefByte 0 (w.wid * 65536 + i)) }
  else s.perform rid w

/-- Work on its way without the entry of a write number. -/
def Flying.isTape (x : Flying) (wid : Nat) : Bool :=
  match x with
  | .tape w => w.wid == wid
  | .cell .. => false
def Flying.isCell (x : Flying) (wid : Nat) : Bool :=
  match x with
  | .tape _ => false
  | .cell i _ _ => i == wid

/-- The array of a cell operation. -/
def CellOp.array : CellOp → Nat
  | .add a _ _ _ => a
  | .clear a _ _ => a

/-- The home that a place belongs to: its vault, or HBM as a whole. R17 orders what one core sends to one destination; that the stacks
of HBM are one destination, 64, is the model's choice (log 64). -/
def Place.home (p : Place) : Nat := if p.1 then 64 else p.2 / 67108864

/-- The vault or HBM home of released work: a record's place, an array's vault (R17, R151, R174; log 64). -/
def State.homeOf (s : State) (r : Run) (x : Flying) : Option Nat :=
  match s.fnAt r.fn, s.flightOf r with
  | some fn, some f =>
    (match x with
     | .tape w => (match s.dir f w.tape with
       | none => none
       | some d => (s.place fn f d w.record).map Place.home)
     | .cell _ _ ops => (ops.head?.bind (fun o => r.arrays.find? (fun a => a.id == o.array))).bind (fun a =>
         fn.physicalHall (fld a.desc 41 6).toNat))
  | _, _ => none

/-- The core and number of released work. -/
def Flying.by_ (x : Flying) : Nat × Nat :=
  match x with
  | .tape w => (w.core, w.wid)
  | .cell i c _ => (c, i)

/-- A write on its way arrives at its home. -/
def State.landTape (s : State) (rid : Nat) (w : TapeWrite) : State :=
  (s.arriveHome rid w).mapRun rid (fun r => { r with flying := r.flying.filter (fun x => !x.isTape w.wid) })

end Sys2Proof.Machine
end

