-- ==== Sys2Proof/Machine/Cells.lean ====
section
/-! DEFINITION. Cells as their vault holds them (R173 to R176): contributions, operations on an array, and cells whose contents are
undefined. -/

namespace Sys2Proof.Machine

/-- Cells of an array (Table 8.7). -/
def descCells (d : W64) : Nat := (fld d 0 20).toNat + 1
/-- Slots that an array takes (R366), and its fraction bits. -/
def descSlots (d : W64) : Nat := ((fld d 0 20).toNat + 4096) / 4096
def descFrac (d : W64) : Nat := (fld d 47 7).toNat

/-- The signed value of a number modulo 2^128. -/
def wrap128 (i : Int) : Int := signedOf 128 (i % (2 ^ 128 : Int)).toNat

/-- A contribution converted with `frac` fraction bits: its wrapped value and whether it left the range; none for NaN and
infinity (R174). -/
def cellTerm (frac : Nat) (bf : Bool) (w : W32) : Option (Int × Bool) :=
  match (if bf then bf16.decode (w.toNat % 65536) else f32 w.toNat) with
  | .num neg n d =>
    let m : Int := ((n * 2 ^ frac / d : Nat) : Int)
    let c := if neg then -m else m
    some (wrap128 c, decide (2 ^ 127 ≤ c) || decide (c < -(2 ^ 127)))
  | _ => none

/-- The sum of a cell as the vault holds it. -/
def Cell.total (c : Cell) : Int := wrap128 (c.adds.foldl (fun n a => n + a.2.2) 0)

/-- One operation applied to its array; none: its index is out of range in the configuration in force (R366). -/
def CellArray.apply (a : CellArray) (wid core : Nat) : CellOp → Option CellArray
  | .add _ i bf v =>
    if descCells a.desc ≤ i then none
    else
      match cellTerm (descFrac a.desc) bf v with
      | none => some { a with desc := a.desc ||| 0x0080000000000000 }
      | some (t, ovf) =>
        let old := (a.cells.find? (fun c => c.index == i)).getD ⟨i, []⟩
        let sum := old.total + t
        let ovf := ovf || decide (2 ^ 127 ≤ sum) || decide (sum < -(2 ^ 127))
        let new : Cell := ⟨i, old.adds ++ [(wid, core, t)]⟩
        some { a with
          desc := if ovf then a.desc ||| 0x0040000000000000 else a.desc
          cells := a.cells.filter (fun c => c.index != i) ++ [new] }
  | .clear _ i n =>
    if descCells a.desc < i + n then none else some { a with cells := a.cells.filter (fun c => !(i ≤ c.index && c.index < i + n)) }

/-- Operations applied in order; none: one of them finds no configured cell. -/
def applyOps (wid core : Nat) : List CellOp → List CellArray → Option (List CellArray)
  | [], as => some as
  | o :: rest, as =>
    match as.find? (fun a => a.id == o.array) with
    | none => none
    | some a =>
      match a.apply wid core o with
      | none => none
      | some a' => applyOps wid core rest (as.map (fun x => if x.id == a'.id then a' else x))

/-- The 128-bit value that an undefined cell holds. -/
def undefCell (gen i : Nat) : Int :=
  let n := leVal ((List.range 16).map (fun j => Config.undefByte gen (16 * i + j)))
  if n < 2 ^ 127 then n else (n : Int) - 2 ^ 128

/-- An array whose contents are undefined, its inv and ovf with them (R8). -/
def CellArray.undefined (a : CellArray) (gen : Nat) : CellArray :=
  { a with
    desc := (a.desc &&& 0xFF3FFFFFFFFFFFFF) ||| (((Config.undefByte gen (2 ^ 24)).setWidth 64 <<< 54) &&& 0x00C0000000000000)
    cells := (List.range (descCells a.desc)).map (fun i => ⟨i, [(0, 0, undefCell gen i)]⟩) }

/-- The array's contents as a fault of its run leaves them (R62): undefined when a node that had not committed has written it, else
its sums. -/
def CellArray.settled (a : CellArray) (gen : Nat) : CellArray :=
  if a.by_.isEmpty then { a with cells := a.cells.map (fun c => ⟨c.index, [(0, 0, c.total)]⟩) } else a.undefined gen

/-- The array that the landing keeps behind a fault: it holds no slots (R173). -/
def CellArray.kept (a : CellArray) (gen : Nat) : CellArray := { a.settled gen with slots := [], by_ := [] }

/-! ## The slots of an array (R173) -/

/-- The 16 bytes of a cell in its slot (R4, R173). -/
def Cell.bytes (c : Cell) : List Byte := leBytes 16 (c.total % (2 ^ 128 : Int)).toNat

/-- The place in storage of cell `i` of an array whose home is vault `v`: 4,096 cells in each of its slots, in order (log 100). -/
def CellArray.cellAt (a : CellArray) (v i : Nat) : Option Place :=
  (a.slots[i / 4096]?).map (fun slot => (false, v * 67108864 + slot * 65536 + 16 * (i % 4096)))

/-- An array gives its slots back: what its cells hold is what storage holds there. Nothing reads a slot while an array has it (R157),
so the bytes are put down here. -/
def State.leaveCells (s : State) (fn : Fn) (a : CellArray) : State :=
  match fn.physicalHall (fld a.desc 41 6).toNat with
  | none => s
  | some v => a.cells.foldl (fun s c => match a.cellAt v c.index with
      | none => s
      | some p => s.storeWrite p c.bytes) s

/-- The slots of a run's arrays go back. -/
def State.leaveArrays (s : State) (r : Run) : State :=
  match s.fnAt r.fn with
  | none => s
  | some fn => r.arrays.foldl (fun s a => s.leaveCells fn a) s

/-- `n` bytes of storage become 0, and granules among them sound (R171). -/
def State.zeroBytes (s : State) (p : Place) (n : Nat) : State := (s.storeWrite p (List.replicate n 0)).cleanGranules p n

/-- The cells of an array that has just taken slots of vault `v` are 0 (R366). -/
def State.zeroCells (s : State) (v : Nat) (a : CellArray) : State :=
  a.slots.zipIdx.foldl (fun s x =>
    s.zeroBytes (false, v * 67108864 + x.1 * 65536) (16 * min 4096 (descCells a.desc - 4096 * x.2))) s

/-- Work of node `node` has written arrays (R62). -/
def Run.writesArrays (r : Run) (node : Nat) (as : List Nat) : Run :=
  { r with arrays := r.arrays.map (fun a => if as.contains a.id then { a with by_ := insertNat node a.by_ } else a) }

end Sys2Proof.Machine
end

