-- ==== Sys2Proof/Machine/Flags.lean ====
section
/-! DEFINITION. %fstat: the default mode, sticky flags and enabled traps (R200, R201), the resolution of a mode field
(R191, R262) and of a format field (R190), stochastic bits (R193, R194) and %absorb (R195). -/

namespace Sys2Proof.Machine

/-- A sticky flag changes from 0 to 1 while its enable is set (R201). -/
def fstatTraps (old : W32) (f : Flags) : Bool := (f &&& ~~~(fld old 0 6)) &&& fld old 16 6 != 0

/-- %fstat with flags set. -/
def fstatSet (old : W32) (f : Flags) : W32 := old ||| f.setWidth 32

/-- RW fields of %fstat that WRSR writes (Table 9.6). -/
def fstatMask : W32 := 0x073F003F

/-- %absorb with counted lanes, saturating (R195). -/
def absorbAdd (old : W32) (n : Nat) : W32 := BitVec.ofNat 32 (min (old.toNat + n) 0xFFFFFFFF)

/-- A mode named by its code of R191; 5 to 7 act as RNE (Table 9.6). -/
inductive Mode where
  | rne | rz | ru | rd | sr
  deriving DecidableEq, Repr

def modeOf (n : Nat) : Mode :=
  match n with
  | 1 => .rz
  | 2 => .ru
  | 3 => .rd
  | 4 => .sr
  | _ => .rne

/-- The default mode: rm of %fstat. -/
def Arch.rm (a : Arch) : Mode := modeOf (fld a.fstat 24 3).toNat

/-- A 3-bit rounding-mode field: 0 the default, 1 to 5 the codes 0 to 4 (R262). -/
def Arch.modeField (a : Arch) (m : Nat) : Mode := if m = 0 then a.rm else modeOf (m - 1)

/-- The mode as rounding needs it at element position `e`. -/
def Arch.rounding (a : Arch) (m : Mode) (e : Nat) : Rm :=
  match m with
  | .rne => .rne
  | .rz => .rz
  | .ru => .ru
  | .rd => .rd
  | .sr => .sr (srBits a.rngSeed a.rngKey a.rngStep e)

/-- Zero results of sums take the sign of RD (R183). -/
def Mode.isRd : Mode → Bool
  | .rd => true
  | _ => false

def Mode.isSr : Mode → Bool
  | .sr => true
  | _ => false

/-- The index of %ftab that a format field of 14 takes (R190). -/
def Arch.ftIndex (a : Arch) : Nat :=
  let l := (fld a.bgeo 5 3).toNat
  if l = 0 || l = 7 then 0 else
  match a.loops[l - 1]? with
  | some e => e.index.toNat % 16
  | none => 0

/-- A format field as resolved at issue (R190). -/
def Arch.fmt (a : Arch) (f : Nat) : Nat := if f = 14 then (fld a.ftab (4 * a.ftIndex) 4).toNat else f

/-- The instruction advances %rngstep, after it has read it (R194). -/
def Arch.stepRng (a : Arch) (sr : Bool) : Arch := if sr then { a with rngStep := a.rngStep + 1 } else a

end Sys2Proof.Machine
end

