-- ==== Sys2Proof/Machine/Operands.lean ====
section
/-! DEFINITION. Operand forms: views laid over the gallery by their descriptors (R136 to R142), their byte ranges, bays and
elements, lanes and masks, block geometry (R187, R188), and scratch addresses (R177). -/

namespace Sys2Proof.Machine

/-- The descriptor of view `n` (R136). -/
def Arch.view (a : Arch) (n : Nat) : Desc := a.views.getD n 0

/-- The view is configured. -/
def Arch.configured (a : Arch) (n : Nat) : Bool := (a.view n).getLsbD 127

/-! ## Vector and accumulator views (R137, R140) -/

def vecLine (d : Desc) : Nat := (fld d 0 10).toNat
def vecSeg (d : Desc) : Nat × Nat := (256 * vecLine d, 256)
def accBay (d : Desc) : Nat := (fld d 32 3).toNat
def accStatus (d : Desc) : W32 := fld d 0 32
/-- The descriptor with another status word. -/
def accWith (d : Desc) (st : W32) : Desc := (fld d 32 96 ++ st : BitVec 128)

/-! ## Tile views (R138, R139) -/

/-- The fields of a tile descriptor. -/
structure Tile where
  base : Nat
  rows : Nat
  cols : Nat
  width : Nat
  pitch : Nat
  metaOn : Bool
  metaAt : Nat
  deriving DecidableEq, Repr

def tileOf (d : Desc) : Tile :=
  { base := (fld d 0 18).toNat, cols := (fld d 38 6).toNat + 1, rows := (fld d 44 6).toNat + 1
    width := 4 * 2 ^ (fld d 50 2).toNat, pitch := 4 * (fld d 52 12).toNat, metaOn := d.getLsbD 126
    metaAt := 2 * (fld d 109 17).toNat }

def Tile.rowBytes (t : Tile) : Nat := t.cols * t.width / 8
def Tile.metaBytes (t : Tile) : Nat := if t.metaOn then t.rows * t.cols / 16 else 0
def Tile.bay (t : Tile) : Nat := t.base / 16384
/-- Byte ranges of the rows, and of the metadata area when there is one: the record order of R356. -/
def Tile.rowSegs (t : Tile) : List (Nat × Nat) := (List.range t.rows).map (fun i => (t.base + i * t.pitch, t.rowBytes))
def Tile.segs (t : Tile) : List (Nat × Nat) := t.rowSegs ++ (if t.metaOn then [(t.metaAt, t.metaBytes)] else [])
/-- View bytes (R356). -/
def Tile.size (t : Tile) : Nat := t.rows * t.rowBytes + t.metaBytes

/-- Element (i, j) of a tile as a code of its own width (R138). -/
def Tile.get (t : Tile) (g : Mem) (i j : Nat) : Nat :=
  let a := t.base + i * t.pitch + j * t.width / 8
  if t.width = 4 then (g.num a 1 >>> (4 * (j % 2))) % 16 else g.num a (t.width / 8)

/-- The metadata word of a block. -/
def Tile.metaWord (t : Tile) (g : Mem) (block : Nat) : Nat := g.num (t.metaAt + 2 * block) 2

/-- The checks of VIEW on a tile descriptor (R139). -/
def tileValid (d : Desc) : Bool :=
  let t := tileOf d
  let bits := t.cols * t.width
  fld d 64 45 == 0 && fld d 18 20 == 0 && t.pitch != 0 && bits % 32 == 0 && t.base % 4 == 0 && t.rowBytes ≤ t.pitch &&
  t.base % 16384 + (t.rows - 1) * t.pitch + t.rowBytes ≤ 16384 &&
  (t.bay < 8 || (t.pitch == 256 && t.base % 256 + t.rowBytes ≤ 256)) &&
  (!t.metaOn || (t.rows * t.cols % 32 == 0 && t.metaAt / 16384 == t.bay &&
    t.metaAt % 16384 + t.rows * t.cols / 16 ≤ 16384))

/-- The bits of a descriptor of view `n` that are not reserved (Tables 7.2 to 7.5). -/
def descMask (n : Nat) : Desc :=
  if n < 32 then 0x800000000000000000000000000003FF
  else if n < 48 then 0xFFFFE00000000000FFFFFFC00003FFFF
  else 0x80000000000000000000000700000007

/-- The checks of VIEW on a descriptor of view `n`, bit 127 aside (R137, R139, R140). -/
def descValid (n : Nat) (d : Desc) : Bool :=
  if n < 32 then fld d 10 117 == 0 else if n < 48 then tileValid d else fld d 35 92 == 0

/-- The byte ranges of any view. -/
def viewSegs (n : Nat) (d : Desc) : List (Nat × Nat) :=
  if n < 32 then [vecSeg d] else if n < 48 then (tileOf d).segs else [(16384 * accBay d, 16384)]

/-- The bay of any view. -/
def viewBay (n : Nat) (d : Desc) : Nat :=
  if n < 32 then vecLine d / 64 else if n < 48 then (tileOf d).bay else accBay d

/-- Its view bytes. -/
def viewSize (n : Nat) (d : Desc) : Nat :=
  if n < 32 then 256 else if n < 48 then (tileOf d).size else 16384

/-! ## Lanes -/

/-- The 64 lane words of a vector view. -/
def Core.lanes (k : Core) (n : Nat) : List Nat :=
  let bs := k.gallery.bytes (vecSeg (k.arch.view n)).1 256
  (List.range 64).map (fun l => leVal ((bs.drop (4 * l)).take 4))

/-- The enabled lanes of a mask, ascending. -/
def enabled (m : W64) : List Nat := (List.range 64).filter m.getLsbD

/-- Byte ranges and bytes of a result of lane words, only where enabled; neighbouring lanes join into one range when all
lanes are enabled. -/
def laneSegs (d : Desc) (m : W64) : List (Nat × Nat) :=
  if m = BitVec.allOnes 64 then [vecSeg d] else (enabled m).map (fun l => ((vecSeg d).1 + 4 * l, 4))
def laneData (m : W64) (ws : List Nat) : List Byte := (enabled m).flatMap (fun l => leBytes 4 (ws.getD l 0))

/-! ## Block geometry (R187, R188) -/

/-- Block height log and border of %bgeo. -/
def Arch.bhLog (a : Arch) : Nat := (fld a.bgeo 0 3).toNat
def Arch.border (a : Arch) : Bool := a.bgeo.getLsbD 4

/-- Whether a rows × cols tile fits the geometry. -/
def geomFits (bhLog rows cols : Nat) : Bool :=
  bhLog ≤ 5 && rows % 2 ^ bhLog == 0 && cols % (32 / 2 ^ bhLog) == 0

/-- Block number and element index of element (i, j) of a rows × cols tile (R188). -/
def blockOf (bhLog : Nat) (border : Bool) (rows cols i j : Nat) : Nat × Nat :=
  let bh := 2 ^ bhLog
  let bw := 32 / bh
  if border then ((j / bw) * (rows / bh) + i / bh, (j % bw) * bh + i % bh)
  else ((i / bh) * (cols / bw) + j / bw, (i % bh) * bw + j % bw)

/-- The element of a block by its index: its row and column within the block's tile (the inverse of `blockOf`). -/
def blockElems (bhLog : Nat) (border : Bool) (rows cols block : Nat) : List (Nat × Nat) :=
  let bh := 2 ^ bhLog
  let bw := 32 / bh
  let (bi, bj) := if border then (block % (rows / bh), block / (rows / bh)) else (block / (cols / bw), block % (cols / bw))
  (List.range 32).map (fun e =>
    if border then (bi * bh + e % bh, bj * bw + e / bh) else (bi * bh + e / bw, bj * bw + e % bw))

/-! ## Scratch (R177) -/

/-- The scratch address of an access of `n` bytes. -/
def scratchAt (a : W64) (n : Nat) : Nat := a.toNat % 65536 / n * n

end Sys2Proof.Machine
end

