-- ==== Sys2Proof/Machine/Issue.lean ====
section
/-! DEFINITION. The issue of a bundle: what one slot's instruction is going to do (`Plan`), the checks of R146 and Table
14.9 over the slots that commit, the sequencer (R285, R289), and the effects at issue (R119 to R126, R142 to R145). -/

namespace Sys2Proof.Machine

/-- A location for the lock rule (R122) and for the rule of duplicate writes (R119, R274). -/
inductive Loc where
  /-- a scalar register as named at issue -/
  | reg (n : Nat)
  | pred (n : Nat)
  | mask (n : Nat)
  | bytes (o n : Nat)
  /-- an accumulator's status word -/
  | status (v : Nat)
  /-- a system register, by its number -/
  | sys (n : Nat)
  | view (n : Nat)
  | record (tape record : Nat)
  | head (n : Nat)
  /-- a head as HA or HB names it, whether it writes it or not -/
  | named (n : Nat)
  | scratch (o n : Nat)
  /-- a view as a destination field names it, for the rule at decode (R270 order 5) -/
  | dest (v : Nat)
  deriving DecidableEq, Repr

/-- What the BR slot does to control. -/
inductive Ctl where
  | fall
  | jump (a : W64)
  /-- LOOP with n ≠ 0 -/
  | push (e : LoopEntry)
  /-- LOOP with n = 0: its body is skipped (R288) -/
  | skip (e : LoopEntry)
  | lbrk
  /-- SOLEND: its decision will say (R349) -/
  | stay
  deriving DecidableEq, Repr

/-- What an instruction reads at issue. -/
structure Ctx where
  st : State
  k : Core
  run : Run
  fl : Flight
  fn : Fn
  slot : Nat
  h : BitVec 94
  pc : Nat
  len : Nat
  words : List W32
  feats : W32

/-- The bundle is a checkpoint bundle. -/
def Ctx.ck (c : Ctx) : Bool := hdrCk c.h

/-- What one instruction is going to do, as read at its issue. The defaults do nothing. -/
structure Plan where
  /-- feature bit of its opcode (Tables 14.10 to 14.15) -/
  feature : Nat := 0
  /-- one of its own checks of code 0x04 on its operands fails (R146 order 2) -/
  bad : Bool := false
  /-- another of its own checks of code 0x04 fails, R268 among them: they come behind those of R146 (R270) -/
  badLast : Bool := false
  /-- views it names (R150) -/
  views : List Nat := []
  reads : List Loc := []
  writes : List Loc := []
  /-- read accesses: view and bay (R143) -/
  access : List (Nat × Nat) := []
  ports : Nat := 0
  /-- further bays it writes -/
  touch : List Nat := []
  beats : Nat := 0
  holds : List Nat := []
  /-- the accumulator view a chained MMA may find locked (R330) -/
  chain : Option Nat := none
  /-- byte ranges whose poison it would consume -/
  poison : List (Nat × Nat) := []
  /-- feature bits its operands need (R181, R191, R204, R220) -/
  feats : List Nat := []
  /-- blocks of the remainder ring that it overwrites below the checkpoint depth (R126) -/
  blocks : List Nat := []
  /-- another trap it raises: code, info0, info1 -/
  late : Option (Nat × W64 × W64) := none
  /-- a freeze before it can issue, and what the freeze starts -/
  wait : Option Cause := none
  starts : State → State := id
  /-- results that land later -/
  lands : List Pend := []
  /-- its effect on the core at issue -/
  imm : Core → Core := id
  held : List Held := []
  /-- the stream tape that it attaches, and whether as its producer (R169) -/
  attaches : Option (BitVec 20 × Bool) := none
  /-- its effect outside the core at issue -/
  glob : State → State := id
  ctl : Ctl := .fall
  after : After := .go

/-- A plan that is a 0x04 of its own. -/
def Plan.illegal (feature : Nat) : Plan := { feature := feature, bad := true }

/-- A result of latency `l` of an instruction of this slot. -/
def Ctx.pend (c : Ctx) (l : Nat) (kind : Kind) (d : Dest) (v : W64) (data : List Byte) (fl : Flags) : Pend :=
  { issue := c.k.vc, due := c.k.vc + l, slot := c.slot, kind := kind, dest := d
    lock := (match d with
      | .bytes segs => segs
      | _ => [])
    val := v, data := data, flags := fl
    absorb := 0, accView := none, accFlags := 0, accClear := false, poison := [], source := none, need := .ready
    preCk := false, pc := BitVec.ofNat 64 c.pc, at_ := 0, replay := false }

/-- The trap of a slot at this issue. -/
def Ctx.info (c : Ctx) (code slot : Nat) (i0 i1 : W64) : TrapInfo := ⟨code, slot, i0, i1, BitVec.ofNat 64 c.pc, []⟩

/-! ## Locks (R121 to R124, R141, R143, R145; Table 6.6) -/

/-- A locked location found: kind, number or offset, info1. -/
abbrev Hit := Nat × Nat × Nat

/-- The lowest of the hits: kind first, then number or offset. -/
def firstHit : List Hit → Option Hit
  | [] => none
  | h :: rest =>
    match firstHit rest with
    | none => some h
    | some g => if h.1 < g.1 || (h.1 == g.1 && h.2.1 ≤ g.2.1) then some h else some g

/-- info1 of a hit (Table 6.6). -/
def hitInfo (h : Hit) : W64 := BitVec.ofNat 64 (h.1 * 2 ^ 56 + h.2.2)

/-- Byte ranges of a result in flight. -/
def Pend.segs (p : Pend) : List (Nat × Nat) :=
  match p.dest with
  | .bytes segs => segs
  | _ => []

/-- The register of a token reserved or pending (R372). -/
def Core.tokenOn (k : Core) (p : Nat) : Option (Nat × Nat × Option Nat) := k.tokens.find? (fun t => t.1 == p)

/-- Hits of one location. `own` leaves out the results a chained MMA continues. -/
def Core.lockHits (k : Core) (chain : Option Nat) (write : Bool) : Loc → List Hit
  | .reg n =>
    let p := physReg k.arch.rot n
    let tok : Bool := match k.tokenOn p with
      | some (_, _, none) => true
      | some (_, _, some _) => write
      | none => false
    if n != 0 && (tok || k.pend.any (fun x => x.dest == .reg p)) then [(1, n, n)] else []
  | .pred n => if n != 0 && k.pend.any (fun x => x.dest == .pred n) then [(2, n, n)] else []
  | .mask n => if n != 0 && k.pend.any (fun x => x.dest == .mask n) then [(3, n, n)] else []
  | .bytes o n =>
    k.pend.flatMap (fun x =>
      if chain.isSome && x.accView == chain then []
      else (x.lock.filter (rangesMeet (o, n))).map (fun s => (4, max o s.1, max o s.1)))
  | .status v =>
    if k.pend.any (fun x => x.accView == some v && chain != some v) then [(5, v, v)] else []
  | _ => []

/-- Bays of byte ranges. -/
def segBays (segs : List (Nat × Nat)) : List Nat := (segs.map (fun s => s.1 / 16384)).eraseDups

/-- The write port of a slot (Table 6.6 kind 0x08). -/
def portOf (slot : Nat) : Nat := if slot = 2 then 0 else if slot = 3 then 1 else 2

/-- Landings that meet another in the same vc and bay, or on the VX port (R145, R302). -/
def portHits (others : List Pend) (p : Pend) : List Hit :=
  others.flatMap (fun q =>
    if q.due != p.due || (p.accView.isSome && p.accView == q.accView) then []
    else
      let shared := (segBays p.lock).filter (fun b =>
        (segBays q.lock).contains b || (p.slot == 2 && q.slot == 2 && !q.lock.isEmpty))
      shared.map (fun b => (8, b, b + 16 * portOf p.slot)))

/-- Bays that the bundle's own matrix instruction holds from this issue on (R143, R326). -/
def heldBays (ps : List (Nat × Plan)) : List Nat := ((ps.find? (fun p => p.1 == 3)).map (fun p => p.2.holds)).getD []

/-- Every hit of one slot's plan, against the results in flight, the bays held by the bundle's own matrix instruction and the
earlier slots' own results. -/
def Core.planHits (k : Core) (slot : Nat) (p : Plan) (held : List Nat) (earlier : List Pend) : List Hit :=
  p.reads.flatMap (k.lockHits p.chain false) ++ p.writes.flatMap (k.lockHits p.chain true) ++
  (if (slot == 2 || slot == 3) && k.busy.any (fun b => b.slot == slot && k.vc < b.until_) then [(6, slot, slot)] else []) ++
  ((p.access.map Prod.snd ++ p.touch).filter (fun b =>
    k.busy.any (fun x => k.vc < x.until_ && x.bays.contains b) || (slot != 3 && held.contains b))).map
    (fun b => (7, b, b)) ++
  p.lands.flatMap (portHits (k.pend ++ earlier))

/-- A read of a token register whose command has not completed freezes the core (R124). -/
def Core.tokenWait (k : Core) (p : Plan) : Option Cause :=
  p.reads.findSome? (fun l => match l with
    | .reg n =>
      match k.tokenOn (physReg k.arch.rot n) with
      | some (_, _, some _) => if n = 0 then none else some (.token (physReg k.arch.rot n))
      | _ => none
    | _ => none)

/-! ## Poison (R148) -/

/-- Poisoned lines of which the ranges cover a byte. -/
def Core.poisonLines (k : Core) (segs : List (Nat × Nat)) : List Nat :=
  k.poison.filter (fun l => segs.any (fun s => (linesOf s).contains l && 0 < s.2))

/-- info0 and info1 of a poison trap on the ranges, when a poisoned line is covered: the ranges are those of all operands of the slot,
taken together (R148; log 84). -/
def Core.poisonInfo (k : Core) (segs : List (Nat × Nat)) : Option (W64 × W64) :=
  let ls := k.poisonLines segs
  match ls.find? (fun l => !k.tags.any (fun t => t.line == l)) with
  | some l => some (BitVec.allOnes 64, BitVec.ofNat 64 l)
  | none =>
    match ls with
    | [] => none
    | l :: _ => (k.tags.find? (fun t => t.line == l)).map (fun t => (t.tape.setWidth 64, BitVec.ofNat 64 t.record))

/-! ## Duplicate writes (R119, R274) -/

def Loc.clash : Loc → Loc → Bool
  | .bytes a n, .bytes b m => rangesMeet (a, n) (b, m)
  | .scratch a n, .scratch b m => rangesMeet (a, n) (b, m)
  | .reg a, .reg b => a == b && a != 0
  | a, b => a == b

/-- The lowest slot with a write that meets an earlier slot's. -/
def dupWrites : List (Nat × List Loc) → List Loc → Option Nat
  | [], _ => none
  | (i, ws) :: rest, seen =>
    if ws.any (fun l => seen.any (Loc.clash l)) then some i else dupWrites rest (seen ++ ws)

/-- The lowest slot whose plan writes what an earlier slot's does. -/
def dupSlot (ps : List (Nat × Plan)) : Option Nat := dupWrites (ps.map (fun p => (p.1, p.2.writes))) []

/-- The lowest slot with a read access in a bay that an earlier access of the bundle lies in (R143). -/
def bayClash : List (Nat × Plan) → List Nat → Option Nat
  | [], _ => none
  | (i, p) :: rest, seen =>
    let bs := (p.access.eraseDups).map Prod.snd
    if bs.any seen.contains || !bs.Nodup then some i else bayClash rest (seen ++ bs)

/-! ## The tree (R261) -/

/-- The leaf that the tests select. -/
def leafOf (a : Arch) (h : BitVec 94) : Nat :=
  if a.test (hdrTest h 0) then (if a.test (hdrTest h 2) then 4 else 3)
  else if a.test (hdrTest h 1) then 2 else if a.test (hdrTest h 3) then 1 else 0

/-- A slot of this tag commits on the leaf (Table 14.4). -/
def commits (tag leaf : Nat) : Bool :=
  match tag with
  | 0 => true
  | 1 => leaf ≤ 2
  | 2 => 3 ≤ leaf
  | 3 => leaf ≤ 1
  | t => leaf == t - 4

/-! ## The sequencer (R285, R288 to R290, R238) -/

/-- Stage predicates of kernel iteration `i` of a pipelined loop (R238). -/
def Arch.stage (a : Arch) (e : LoopEntry) : Arch :=
  (List.range 4).foldl (fun a k =>
    a.setPred (4 + k) (k ≤ e.stagesM1.toNat && k ≤ e.index.toNat && e.index.toNat < e.count.toNat + k)) a

/-- p4–p7 false. -/
def Arch.noStages (a : Arch) : Arch := { a with p := a.p &&& 0x0F }

/-- Kernel iterations of a loop. -/
def LoopEntry.limit (e : LoopEntry) : Nat :=
  match e.kind with
  | .plain => e.count.toNat
  | .pipelined => e.count.toNat + e.stagesM1.toNat

/-- The entry is gone: its stage predicates fall. -/
def Arch.popped (a : Arch) (e : LoopEntry) : Arch :=
  match e.kind with
  | .plain => a
  | .pipelined => a.noStages

/-- Addresses of a loop's body and the address behind it. -/
abbrev Bodies := LoopEntry → List Nat × Nat

/-- A kernel iteration of the innermost loops whose last bundle is `pc` ends; the cascade of R289. -/
def iterEnd (body : Bodies) (pc : Nat) : List LoopEntry → Arch → Nat → Arch × Nat
  | [], a, next => ({ a with loops := [] }, next)
  | e :: rest, a, next =>
    if (body e).1.getLast? == some pc then
      let e' := { e with index := e.index + 1 }
      let a := match e.kind with
        | .plain => a
        | .pipelined => { a with rot := (a.rot + 1) % 24 }
      if e'.index.toNat < e.limit then
        let a := { a with loops := e' :: rest }
        (match e.kind with
         | .plain => a
         | .pipelined => a.stage e', e.start.toNat)
      else iterEnd body pc rest (a.popped e) (body e).2
    else ({ a with loops := e :: rest }, next)

/-- A transfer to `t` leaves the loops whose bodies do not hold it (R289). -/
def leave (body : Bodies) (t : Nat) : List LoopEntry → Arch → Arch
  | [], a => { a with loops := [] }
  | e :: rest, a => if (body e).1.contains t then { a with loops := e :: rest } else leave body t rest (a.popped e)

/-- The next pc and loop stack after a bundle at `pc` of `len` bytes (R257, R285 to R290). -/
def Arch.sequence (a : Arch) (body : Bodies) (pc len : Nat) (c : Ctl) : Arch :=
  let done (r : Arch × Nat) : Arch := { r.1 with pc := BitVec.ofNat 64 r.2 }
  match c with
  | .stay => a
  | .fall => done (iterEnd body pc a.loops a (pc + len))
  | .jump t => let t := t.toNat / 4 * 4; { leave body t a.loops a with pc := BitVec.ofNat 64 t }
  | .push e =>
    let a := { a with loops := e :: a.loops }
    done (match e.kind with
      | .plain => a
      | .pipelined => a.stage e, pc + len)
  | .skip e => done (iterEnd body ((body e).1.getLast?.getD pc) a.loops (a.popped e) (body e).2)
  | .lbrk =>
    match a.loops with
    | [] => { a with pc := BitVec.ofNat 64 (pc + len) }
    | e :: rest => done (iterEnd body ((body e).1.getLast?.getD pc) rest (a.popped e) (body e).2)

/-! ## Issuing -/

/-- A bundle whose slot words have been decoded: its header, its length, each present slot's plan, and the words. -/
structure Bundle where
  h : BitVec 94
  len : Nat
  slots : List (Nat × (Ctx → Plan))
  words : List W32 := []

/-- The bundle at `pc` as the sequencer can hold it, when its words are at hand. -/
def Bundle.decoded (b : Bundle) (pc : W64) : List Decoded :=
  if b.words.length == (hdrSlots b.h).length then [⟨pc, b.len, b.h, b.words⟩] else []

/-- The loop buffer after the issue of a bundle (R130, R288): it takes in the bundles of the outermost active body on their first
pass, and is empty outside a loop. `before` and `after` are the loop stack around the issue. -/
def loopBuffer (buf : List Decoded) (before after : List LoopEntry) (pc : W64) (b : Bundle) : List Decoded :=
  if before.isEmpty || after.isEmpty then []
  else if (looped buf pc).isSome then buf else buf ++ b.decoded pc

/-- info0 and info1 of an illegal bundle (Table 5.8). -/
def hdrInfo (h : BitVec 94) : W64 × W64 :=
  ((hdrWord h 0).setWidth 64, (hdrWord h 1 ++ hdrWord h 2 : BitVec 64))

/-- The first slot for which `f` answers. -/
def firstSlot {α : Type} (f : Nat → Plan → Option α) (ps : List (Nat × Plan)) : Option (Nat × α) :=
  ps.findSome? (fun p => (f p.1 p.2).map (fun x => (p.1, x)))

/-- Lock hits slot by slot; results of earlier slots count against later ones. -/
def lockSlot (k : Core) (held : List Nat) : List (Nat × Plan) → List Pend → Option (Nat × Hit)
  | [], _ => none
  | (i, p) :: rest, earlier =>
    match firstHit (k.planHits i p held earlier) with
    | some h => some (i, h)
    | none => lockSlot k held rest (earlier ++ p.lands)

/-- Undo lines that a slot's results need (R126). -/
def Core.linesNeeded (k : Core) (p : Plan) : List Nat :=
  (segLines (p.lands.flatMap Pend.segs)).filter (fun l => !k.logged false l)

/-- Ring blocks that a slot's stack operation needs in the undo log. -/
def Core.blocksNeeded (k : Core) (p : Plan) : List Nat := p.blocks.filter (fun b => !k.logged true b)

/-- The slot whose operation needs a 257th undo line or a 129th held entry (R126). A checkpoint bundle's own writes take no undo line (the
model's choice, log 107). -/
def spanSlot (k : Core) (ck : Bool) : List (Nat × Plan) → List Nat → Nat → Option Nat
  | [], _, _ => none
  | (i, p) :: rest, lines, held =>
    let ls := unionNat (if ck then [] else k.linesNeeded p ++ (k.blocksNeeded p).map (fun b => 1024 + b)) lines
    let hs := held + p.held.length
    if Config.undoLines < k.undo.length + ls.length || Config.withhold < hs then some i else spanSlot k ck rest ls hs

/-- A trap of code 0x04 of a bundle. -/
def Ctx.illegal (c : Ctx) (h : BitVec 94) (slot : Nat) : TrapInfo :=
  c.info 0x04 slot (hdrInfo h).1 (hdrInfo h).2

/-- The next pc and loop stack; what is left of the entries that stood when SOLVE executed goes down with the stack (R349). -/
def Arch.follow (a : Arch) (body : Bodies) (pc len : Nat) (c : Ctl) : Arch :=
  let a := a.sequence body pc len c
  { a with solve := { a.solve with loops := min a.solve.loops a.loops.length } }

/-- The freeze that holds a bundle back, if any: a token that it reads and has not come, or a cause of a slot's own (Table 6.3). -/
def Ctx.waits (c : Ctx) (ps : List (Nat × Plan)) : Option Cause :=
  (firstSlot (fun _ p => (c.k.tokenWait p).orElse (fun _ => p.wait)) ps).map Prod.snd

/-- What a slot's own checks behind those of R146 end in (R270 order 7). -/
def Ctx.lateTrap (c : Ctx) (i : Nat) (p : Plan) : Option TrapInfo :=
  if p.badLast then some (c.illegal c.h i) else p.late.map (fun t => c.info t.1 i t.2.1 t.2.2)

/-- The freeze of a bundle that reads a token which has not come (R124, R372). -/
def Ctx.tokenFreeze (c : Ctx) (ps : List (Nat × Plan)) : Option Cause := (firstSlot (fun _ p => c.k.tokenWait p) ps).map Prod.snd

/-- The checks of Table 14.9 order 6 and of R146 over the slots that commit, and the freeze they end in, if any. A bundle that reads a
pending token issues when the token has come, and is checked then (R124, R372; log 36). A locked predicate of the bundle's tree test comes
before the conflicts of its slots (the model's choice, log 108). -/
def Ctx.check (c : Ctx) (ps : List (Nat × Plan)) : Option (TrapInfo ⊕ Cause) :=
  let k := c.k
  let h := c.h
  let treePreds := (List.range 4).map (fun i => (hdrTest h i).toNat % 8)
  match c.tokenFreeze ps with
  | some cause => some (.inr cause)
  | none =>
  match firstSlot (fun _ p => if c.feats.getLsbD p.feature then none else some p.feature) ps with
  | some (i, f) => some (.inl (c.info 0x0D i (BitVec.ofNat 64 f) 0))
  | none =>
  match firstSlot (fun _ p => p.views.find? (fun v => !k.arch.configured v)) ps with
  | some (i, v) => some (.inl (c.info 0x06 i (BitVec.ofNat 64 v) 0))
  | none =>
  match firstSlot (fun i p => if p.bad || (i < 7 && hdrPort h i < p.ports) then some () else none) ps with
  | some (i, _) => some (.inl (c.illegal h i))
  | none =>
  match (dupSlot ps).orElse (fun _ => bayClash ps []) with
  | some i => some (.inl (c.illegal h i))
  | none =>
  match firstHit (treePreds.flatMap (fun n => k.lockHits none false (.pred n))) with
  | some hit => some (.inl (c.info 0x05 8 8 (hitInfo hit)))
  | none =>
  match lockSlot k (heldBays ps) ps [] with
  | some (i, hit) => some (.inl (c.info 0x05 i (BitVec.ofNat 64 i) (hitInfo hit)))
  | none =>
  match firstSlot (fun _ p => (k.poisonInfo p.poison).map (fun d => (d, k.poisonLines p.poison))) ps with
  | some (i, d) => some (.inl { c.info 0x07 i d.1.1 d.1.2 with lines := d.2 })
  | none =>
  match firstSlot (fun _ p => p.feats.find? (fun f => !c.feats.getLsbD f)) ps with
  | some (i, f) => some (.inl (c.info 0x0D i (BitVec.ofNat 64 f) 0))
  | none =>
  match firstSlot (c.lateTrap) ps with
  | some (_, t) => some (.inl t)
  | none =>
  if hdrSl h && k.arch.pendBase.isSome then some (.inl (c.illegal h 8)) else
  match spanSlot k (hdrCk h) ps [] k.held.length with
  | some i => some (.inl (c.info 0x0E i (BitVec.ofNat 64 k.undo.length) (BitVec.ofNat 64 k.nextts)))
  | none => (c.waits ps).map .inr

/-- The stop of a pop whose entry does not match (R338). -/
def Ctx.popStop (c : Ctx) (ps : List (Nat × Plan)) : Option TrapInfo :=
  (firstSlot (fun _ p => p.late.filter (fun t => t.1 == 0x0A)) ps).map (fun x => c.info x.2.1 x.1 x.2.2.1 x.2.2.2)

/-- What stops a bundle at its issue. A SYNC bundle has passed its checks before it raised its input, and makes them once (R133); only a
spilled entry that another party has overwritten meanwhile can still stop it, at the pop that reads it (R389), and a token that has
yet to come. -/
def Ctx.stops (c : Ctx) (ps : List (Nat × Plan)) : Option (TrapInfo ⊕ Cause) :=
  if c.k.stage == .syncIssue then
    ((c.tokenFreeze ps).map .inr).orElse (fun _ => ((c.popStop ps).map .inl).orElse (fun _ => (c.waits ps).map .inr))
  else c.check ps

/-- One slot's effect on its core at issue: the undo log, the results in flight, the held work, its own immediate effect. -/
def Core.issueSlot (ck : Bool) (k : Core) (ip : Nat × Plan) : Core :=
  let p := ip.2
  let k := if ck then k else (k.blocksNeeded p).foldl Core.logRing ((k.linesNeeded p).foldl Core.logLine k)
  let k := { k with
    pend := k.pend ++ p.lands
    held := k.held ++ p.held
    busy := if 0 < p.beats then k.busy.filter (fun b => k.vc < b.until_) ++ [⟨ip.1, k.vc + p.beats, p.holds⟩] else k.busy }
  p.imm k

/-- Passing a slack bundle (R95). -/
def cposNext (old : W64) (cut : W16) : W64 :=
  if (fld old 0 16).toNat < cut.toNat then (fld old 16 32).setWidth 64 <<< 16 ||| cut.setWidth 64
  else ((fld old 16 32 + 1).setWidth 64) <<< 16 ||| cut.setWidth 64

/-- The bodies of the core's loops, as its loop buffer and its flight's code pages hold them. -/
def Ctx.bodies (c : Ctx) : Bodies := fun e => c.st.bundles c.fl c.k.loopBuf (e.lenM1.toNat + 1) e.start.toNat

/-- The control of a bundle: its BR slot's. -/
def ctlOf (ps : List (Nat × Plan)) : Ctl := ((ps.find? (fun p => p.1 == 7)).map (fun p => p.2.ctl)).getD .fall
def afterOf (ps : List (Nat × Plan)) : After := ((ps.find? (fun p => p.1 == 7)).map (fun p => p.2.after)).getD .go

/-- A SYNC that has restarted issues like any checkpoint bundle. -/
def afterIssue : After → After
  | .sync _ => .go
  | a => a

/-- Physical places of the registers that a list of locations names. -/
def Core.places (k : Core) (ls : List Loc) : List Nat :=
  ls.filterMap (fun l => match l with
    | .reg n => some (physReg k.arch.rot n)
    | _ => none)

/-- Tokens that the bundle reads are acquired (R206, R210), and ones it writes over are gone. -/
def Core.readTokens (k : Core) (ps : List (Nat × Plan)) : Core :=
  let reads := k.places (ps.flatMap (fun p => p.2.reads))
  let writes := k.places (ps.flatMap (fun p => p.2.writes))
  { k with
    acquired := k.acquired ++ (k.tokensIn.filter (fun t => reads.contains t.1)).map (fun t => ⟨k.no, t.2⟩)
    tokensIn := k.tokensIn.filter (fun t => !reads.contains t.1 && !writes.contains t.1) }

/-- The bundle at the core's pc that it need not fetch: the SYNC bundle that restarts (R133), or the loop buffer's (R130, R288). -/
def Core.decodedHere (k : Core) : Option Decoded := if k.stage == .syncIssue then k.synced else looped k.loopBuf k.arch.pc

/-- The core after the issue of a bundle: the slots' effects, the slack bundle's position, the next pc, one vc more. Its
checkpoint is taken afterwards. -/
def Ctx.issued (c : Ctx) (b : Bundle) (ps : List (Nat × Plan)) : Core :=
  let ck := hdrCk b.h
  let k := ps.foldl (Core.issueSlot ck) { c.k.readTokens ps with stage := .run }
  let a := if hdrSl b.h then { k.arch with cpos := cposNext k.arch.cpos (hdrCut b.h) } else k.arch
  let a := a.follow c.bodies c.pc b.len (ctlOf ps)
  { k with
    arch := a
    vc := k.vc + 1
    loopBuf := loopBuffer k.loopBuf c.k.arch.loops a.loops c.k.arch.pc b
    synced := none
    syncExtents := []
    stage := if ck then .releasing (afterIssue (afterOf ps)) else k.stage }

/-- Stream bytes of the bundle that the core whose turn it is issues next: `n`, unless it holds the bundle decoded. -/
def State.lenHere (s : State) (n : Nat) : Nat := (((s.coreAt s.cur).bind Core.decodedHere).map Decoded.len).getD n

/-- What the core `cur` reads at the issue of a bundle, when it holds a task. -/
def State.ctx (s : State) (h : BitVec 94) (words : List W32) (len slot : Nat) : Option Ctx :=
  match s.coreAt s.cur with
  | none => none
  | some k =>
    match s.runAt k.run with
    | none => none
    | some r =>
      match s.fnAt r.fn, s.flightOf r with
      | some fn, some fl =>
        some { st := s, k := k, run := r, fl := fl, fn := fn, slot := slot, h := h, pc := k.arch.pc.toNat, len := len
               words := words, feats := s.features r.fn }
      | _, _ => none

end Sys2Proof.Machine
end

