-- ==== Sys2Proof/Machine/Land.lean ====
section
/-! DEFINITION. Landings (R121, R127, R128, R141, R145, R147, R148, R201), the freeze that keeps results in the replay buffer
(R128, R129; Table 5.5b), and the rollback of a synchronous trap (R127). -/

namespace Sys2Proof.Machine

/-! ## One landing -/

/-- The status word of accumulator view `v` after a landing (R141, R332). -/
def Arch.landStatus (a : Arch) (v : Nat) (clear : Bool) (st : W32) : Arch :=
  let d := a.view v
  { a with views := a.views.set v (accWith d ((if clear then 0 else accStatus d) ||| st)) }

/-- The registers, flags, counts and status words a landing writes (R128, R141, R195, R200). -/
def Arch.land (a : Arch) (p : Pend) : Arch :=
  let a := match p.dest with
    | .none => a
    | .reg n => a.setPlace n p.val
    | .pred n => a.setPred n (p.val.getLsbD 0)
    | .mask n => a.setMask n p.val
    | .bytes _ => a
  let a := match p.accView with
    | none => a
    | some v => a.landStatus v p.accClear p.accFlags
  { a with fstat := fstatSet a.fstat p.flags, absorb := if p.absorb = 0 then a.absorb else absorbAdd a.absorb p.absorb }

/-- The parts of a head read that have landed before it at a freeze, for want of replay entries (R128): together with them it is one
landing (R356), and no program sees that they came first. -/
def Core.landedParts (k : Core) (p : Pend) : List Pend :=
  k.pend.filter (fun q => q.spent && q.kind == .head && p.kind == .head && q.slot == p.slot && q.due == p.due)

/-- The lines that a landing poisons (R148). -/
def Pend.poisonedLines (p : Pend) : List Nat :=
  ((linePieces p.segs p.at_).filter (fun x => p.poison.any (rangesMeet (x.2.1, x.2.2.2)))).map Prod.fst

/-- The poison bits and tags of a landing's lines (R148), those among them that earlier parts `old` of it have poisoned: no tags for data
from an image (R149). -/
def Core.landPoison (k : Core) (p : Pend) (old : List Nat) : Core :=
  let more := ((linePieces p.segs p.at_).filter (fun x => old.contains x.1)).map (fun x => (x.2.1, x.2.2.2))
  k.poisonFrom p.source (p.issue, p.slot) (p.poison ++ more) p.segs p.at_

/-- Lines that a landing writes whole lose poison and tag (R148). -/
def Core.cleanLines (k : Core) (ls : List Nat) : Core :=
  { k with poison := k.poison.filter (fun l => !ls.contains l), tags := k.tags.filter (fun t => !ls.contains t.line) }

/-- The gallery with a landing's bytes, poison and dirty bits (R147, R148). -/
def Core.landBytes (k : Core) (p : Pend) : Core :=
  if p.segs.isEmpty then k
  else
    let old := (k.landedParts p).flatMap Pend.poisonedLines
    let all := p.segs ++ (k.landedParts p).flatMap Pend.segs
    ((k.land p.segs p.data).cleanLines ((segLines p.segs).filter (fun l => coversLine all l && !old.contains l))).landPoison p old

/-- Of the tags `new` that a landing leaves where `old` were held, those that it leaves in `other` too, and the old ones. -/
def tagsOfBoth (old new other : List Tag) : List Tag :=
  new.filter (fun t => old.contains t || other.any (fun g => g.line == t.line && g.by_ == t.by_))

/-- Old contents in the undo log with the bytes, poison and tag of a landing that the rollback keeps (R127 step 3). -/
def Undo.land (p : Pend) (poison : List Nat) (tags : List Tag) (u : Undo) : Undo :=
  if u.ring || !(segLines p.segs).contains u.index then u
  else
    { (splitData p.segs p.data).foldl (fun u x => u.absorb x.1 x.2) u with
      poison := poison.contains u.index, tag := tags.find? (fun t => t.line == u.index) }

/-- A landing's bytes, and, of one issued at or before the checkpoint, what it leaves in the undo log too (R127 step 3). A line takes a
tag where fewer than 16 are held both now and as the rollback would leave them (R148; log 73). -/
def Core.landInto (k : Core) (p : Pend) : Core :=
  let now := k.landBytes p
  if !p.preCk then now
  else
    let back := k.undo.reverse.foldl Core.applyUndo k
    let then_ := back.landBytes p
    { now with
      tags := tagsOfBoth k.tags now.tags then_.tags
      undo := k.undo.map (Undo.land p then_.poison (tagsOfBoth back.tags then_.tags now.tags)) }

/-- A landing of core `k`, which leaves the results in flight. One issued at or before the checkpoint is written into the
shadow and the undo log too (R127). One that has landed already frees its destination (R128). -/
def Core.landed (k : Core) (p : Pend) : Core :=
  let k := { k with pend := k.pend.filter (fun q => q != p) }
  if p.spent then k
  else ({ k with arch := k.arch.land p, shadow := if p.preCk then k.shadow.land p else k.shadow } : Core).landInto p

/-- The enabled flags that a landing changes from 0 to 1 (R201). -/
def Arch.raised (a : Arch) (p : Pend) : BitVec 6 := p.flags &&& ~~~(fld a.fstat 0 6) &&& fld a.fstat 16 6

/-- A result lands, and an enabled flag that it sets raises the trap 0x0F; the flag stays set in the restored %fstat (R201). -/
def State.landPend (s : State) (k : Core) (p : Pend) : State :=
  let up := k.arch.raised p
  let k := k.landed p
  if up = 0 then s.setCore k
  else
    let k := { k with shadow := { k.shadow with fstat := fstatSet k.shadow.fstat up } }
    s.trap k ⟨0x0F, p.slot, k.arch.fstat.setWidth 64, 0, p.pc, []⟩

/-! ## Which landing is due -/

/-- The freeze of a landing that is not ready (Table 6.3). -/
def Need.cause : Need → Cause
  | .ready => .record
  | .record .. => .record
  | .cells .. => .cell
  | .status _ => .cell
  | .tile _ => .tile

/-- A cell read that has yet to get its value (R368). -/
def Need.cellRead (n : Need) : Bool :=
  match n with
  | .cells .. => true
  | .status _ => true
  | _ => false

/-- A matrix result; a stop lets it run to its end at once (R128). -/
def Pend.isMatrix (p : Pend) : Bool := p.kind == .matrix || p.kind == .mma

/-- The result lands at the core's present vc, or earlier: a matrix result of a core that a stop is about to freeze (R128). -/
def Core.dueNow (k : Core) (p : Pend) : Bool := p.due ≤ k.vc || (!k.asks.isEmpty && p.isMatrix)

/-- The next result to land: the first in order of issue that is due and has all it needs. -/
def Core.nextLanding (k : Core) : Option Pend := k.pend.find? (fun p => k.dueNow p && p.need == .ready)

/-- A due result that still waits for its data freezes the core. -/
def Core.stuckLanding (k : Core) : Option Cause :=
  (k.pend.find? (fun p => k.dueNow p && p.need != .ready)).map (fun p => p.need.cause)

/-- The classes of landing that the event rows name. -/
inductive LandClass where
  | result | head | matrix | replay
  deriving DecidableEq, Repr

def Pend.landClass (p : Pend) : LandClass :=
  if p.replay then .replay
  else
    match p.kind with
    | .head => .head
    | .matrix => .matrix
    | .mma => .matrix
    | _ => .result

/-- A stage in which results land as their vc comes. -/
def Stage.lands : Stage → Bool
  | .run => true
  | .frozen _ => true
  | .transferred => true
  | .syncIssue => true
  | .deciding .. => true
  | .halting _ => true
  | _ => false

/-! ## The freeze of a stop (R128, R129) -/

/-- Neighbouring ranges joined, in order. -/
def joinSegs : List (Nat × Nat) → List (Nat × Nat)
  | [] => []
  | (o, n) :: rest =>
    match joinSegs rest with
    | (p, m) :: more => if o + n = p then (o, n + m) :: more else (o, n) :: (p, m) :: more
    | [] => [(o, n)]

/-- The first `n` bytes of ranges, in order, and what follows them. -/
def takeSegs (n : Nat) : List (Nat × Nat) → List (Nat × Nat) × List (Nat × Nat)
  | [] => ([], [])
  | (o, m) :: rest =>
    if n = 0 then ([], (o, m) :: rest)
    else if m ≤ n then ((o, m) :: (takeSegs (n - m) rest).1, (takeSegs (n - m) rest).2)
    else ([(o, n)], (o + n, m - n) :: rest)

/-- Ranges in groups of 256 bytes. -/
def groupSegs : Nat → List (Nat × Nat) → List (List (Nat × Nat))
  | 0, _ => []
  | _, [] => []
  | fuel + 1, segs => (takeSegs 256 segs).1 :: groupSegs fuel (takeSegs 256 segs).2

/-- The part of ranges, filled in order by data, that lies in a piece: ranges, bytes, and the data byte it begins at. -/
def cutSegs (piece : Nat × Nat) : List (Nat × Nat) → List Byte → Nat → List (Nat × Nat × List Byte)
  | [], _, _ => []
  | (o, n) :: rest, data, q =>
    let lo := max o piece.1
    let hi := min (o + n) (piece.1 + piece.2)
    (if lo < hi then [(q + (lo - o), lo, (data.drop (lo - o)).take (hi - lo))] else []) ++
      cutSegs piece rest (data.drop n) (q + n)

/-- The results a captured result takes replay entries for: one per 256 bytes of a view result, and flags and counts in the
first (R128). -/
def Pend.chunks (p : Pend) : List Pend :=
  match p.dest with
  | .bytes segs =>
    let all := joinSegs p.lock
    (groupSegs (all.foldl (fun n x => n + x.2) 0) all).zipIdx.map (fun x =>
      let parts := x.1.flatMap (fun piece => cutSegs piece segs p.data 0)
      let range := (p.at_ + ((parts.head?).map Prod.fst).getD 0, (parts.map (fun y => y.2.2.length)).foldl (· + ·) 0)
      { p with
        dest := .bytes (parts.map (fun y => (y.2.1, y.2.2.length)))
        lock := x.1
        data := parts.flatMap (fun y => y.2.2)
        at_ := range.1
        poison := p.poison.filter (rangesMeet range)
        flags := if x.2 = 0 then p.flags else 0
        absorb := if x.2 = 0 then p.absorb else 0 })
  | _ => [p]

/-- Results in descending order of due vc, those of one vc in their order. -/
def insertLate (p : Pend) : List Pend → List Pend
  | [] => [p]
  | q :: rest => if q.due < p.due then p :: q :: rest else q :: insertLate p rest

/-- The kinds of stop that find the core at a bundle boundary. A cut finds it behind its slack bundle whole, so after the
event of a WFE there (Table 5.1 step 2). -/
def Stage.stopsHere (st : Stage) (asks : List StopKind) : Bool :=
  match st with
  | .run => true
  | .frozen _ => true
  | .transferred => true
  | .syncIssue => true
  | .waitLine _ => asks.all (fun a => a != .cut)
  | .waitEvent _ => asks.all (fun a => a != .cut)
  | _ => false

/-- The landing of core `c`'s next due result, when it is of this class. -/
def State.landNext (s : State) (c : Nat) (cls : LandClass) : State :=
  match s.coreAt c with
  | none => s
  | some k =>
    if !k.stops.isEmpty || !(k.stage.lands || (!k.asks.isEmpty && k.stage.stopsHere k.asks)) then s
    else
      match k.nextLanding with
      | none => s
      | some p => if p.landClass = cls then s.landPend k p else s

/-- Results in flight that have yet to land. -/
def Core.toLand (k : Core) : List Pend := k.pend.filter (fun p => !p.spent)

/-- The replay buffer takes what is in flight: the 64 entries with the largest remain. The others land at once, flags and
counts too, and their destinations stay locked until their own vc (R128). -/
def Core.capture (k : Core) : Core :=
  let all := k.toLand.flatMap Pend.chunks
  let kept := (all.foldl (fun l p => insertLate p l) []).take Config.replayEntries
  let k1 := { k with replay := k.replay ++ all.filter (fun p => kept.contains p), pend := k.pend.filter Pend.spent }
  (all.filter (fun p => !kept.contains p)).foldl (fun k p =>
    let k := k.landed p
    { k with pend := k.pend ++ [{ p with spent := true, flags := 0, absorb := 0 }] }) k1

/-- A result that lands past the 64 entries and sets an enabled flag: its trap comes before the freeze (R128, R201). -/
def Core.overflowTrap (k : Core) : Option Pend :=
  let all := k.toLand.flatMap Pend.chunks
  let kept := (all.foldl (fun l p => insertLate p l) []).take Config.replayEntries
  k.toLand.find? (fun p => k.arch.raised p != 0 && (match p.chunks with
    | [] => false
    | c :: _ => !kept.contains c))

/-- Entry `p` goes on where entry `q` of the same head read ends. -/
def Pend.goesOn (q p : Pend) : Bool :=
  q.kind == .head && p.kind == .head && !q.segs.isEmpty && !p.segs.isEmpty && q.slot == p.slot && q.issue == p.issue && q.due == p.due &&
  q.preCk == p.preCk && q.source == p.source && q.at_ + q.data.length == p.at_

/-- The replay entries as results again: those of one head read land together (R108 step 4, R356). -/
def joinEntries : List Pend → List Pend
  | [] => []
  | p :: rest =>
    match joinEntries rest with
    | q :: more =>
      if p.goesOn q then
        { p with
          dest := .bytes (p.segs ++ q.segs), lock := p.lock ++ q.lock, data := p.data ++ q.data
          poison := (p.poison ++ q.poison).eraseDups, flags := p.flags ||| q.flags, absorb := p.absorb + q.absorb } :: more
      else p :: q :: more
    | [] => [p]

/-- A stop lets the core go on: its replay entries are results in flight again, at the vc they were due at (R129), and its loop
buffer is empty (R291). -/
def Core.resumed (k : Core) : Core :=
  { k with pend := joinEntries (k.replay.map (fun p => { p with replay := true })) ++ k.pend, replay := [], loopBuf := [] }

/-- The code of a stop's record (Table 5.7). -/
def StopKind.code : StopKind → Nat
  | .cut => 0x40
  | .halt => 0x41
  | .power => 0x42

/-- The trap record of a core (Table 5.7). It shows the numbers of the core's function, to the PF that reads a virtual device's record
too (R53; log 69). -/
def State.trapRec (s : State) (k : Core) (tick code slot : Nat) (flags : W16) (pc dict i0 i1 : W64) : TrapRec :=
  let fn := ((s.runAt k.run).bind (fun r => s.fnAt r.fn))
  let v := (fn.map (fun f => f.virtualCore k.no)).getD k.no
  { tick := tick, src := srcId 0 v, code := code, slot := slot, tflags := flags
    flight := BitVec.ofNat 16 (((s.runAt k.run).map Run.flight).getD 0), pc := pc, ckPc := k.shadow.pc, dict := dict
    info0 := i0, info1 := i1, node := BitVec.ofNat 16 k.node }

/-- The landing keeps a core's trap record, with the stamp its source has free (R109, R114). -/
def State.record (s : State) (k : Core) (t : TrapRec) : State :=
  match s.runAt k.run with
  | none => s
  | some r =>
    let x := s.stamp r.fn t.src t.tick
    x.2.mapFn r.fn (fun f => f.keepTrap { t with tick := x.1 })

/-- A cut of the core's run is in progress (tflags bit 2). -/
def State.cutting (s : State) (k : Core) : Bool := ((s.runAt k.run).map (fun r => r.cut.isSome)).getD false

/-- The record of an asynchronous stop (R109). -/
def State.stopRecord (s : State) (k : Core) (a : StopKind) : State :=
  s.record k (s.trapRec k s.pcyc a.code 0xFF (if s.cutting k then 0b1100 else 0b1000) k.arch.pc k.arch.dictBase 0 0)

/-- A stop creates its record as the core freezes, but for the halt behind a STEP, which is no new stop, and for a stop of
Table 5.1 step 2, whose record comes when the core stands at M (log 16). -/
def State.recordsStop (s : State) (k : Core) (a : StopKind) : Bool :=
  match a with
  | .cut => (((s.runAt k.run).bind Run.cut).map Cut.step) != some 2
  | .halt => k.stepVc.isNone
  | .power => true

/-- A core is frozen: its results are captured, and each stop creates its record (R109, R128). A STEP whose bundle has yet to issue
outlives the freeze of another stop (Table 2.5). -/
def State.freeze (s : State) (k : Core) : State :=
  let step := if k.asks.contains .halt then none else k.stepVc
  let k1 := { k.capture with stops := k.stops ++ k.asks, asks := [], frozenAt := s.pcyc, stepVc := step, busy := k.busy.filter (fun b => b.slot == 2) }
  (k.asks.filter (s.recordsStop k)).foldl (fun s a => s.stopRecord k a) (s.setCore k1)

/-- The core issues nothing and has nothing in flight: other stops hold it, or it waits behind a settled rollback. -/
def Core.standsStill (k : Core) : Bool :=
  !k.stops.isEmpty || (match k.stage with
    | .trapped _ _ => true
    | _ => false)

/-- One more stop takes effect on a core that stands still; its own results are captured already (R128). -/
def State.stopNow (s : State) (k : Core) (a : StopKind) : State :=
  let k1 := { k with stops := k.stops ++ [a], asks := k.asks.filter (fun x => x != a) }
  let s := s.setCore { k1 with stepVc := if a == .halt then none else k1.stepVc }
  if s.recordsStop k1 a then s.stopRecord k1 a else s

/-! ## Rollback (R127) -/

/-- Steps 2 and 3: results issued after the checkpoint are cancelled and the others land; whether one of them raised an
enabled flag. -/
def Core.settle (k : Core) : Core × Bool :=
  let pre := k.pend.filter (fun p => p.preCk)
  pre.foldl (fun x p => (x.1.landed p, x.2 || x.1.arch.raised p != 0)) ({ k with pend := pre }, false)

/-- Every result issued at or before the checkpoint can land by now. -/
def Core.settled (k : Core) : Bool := k.toLand.all (fun p => !p.preCk || (p.due ≤ k.vc && p.need == .ready))

/-- The window of a head that a rollback puts back (R164): what of it still lies in reach, unless the head stood on another tape. -/
def Head.regains (h now : Head) (w : List WinRec) : List WinRec :=
  if h.attached && now.attached && h.tape == now.tape then w.filter (fun x => h.reaches (2 ^ (fld h.mode 4 4).toNat) x.record) else []

/-- Step 4: the checkpoint's state; the held work and what the span had reserved are discarded (R124, R89, R130). What the windows
hold stays theirs until the next phase boundary (R167); a token that is read again is acquired again (R206). -/
def Core.rollback (k : Core) : Core × Bool :=
  let r := k.settle
  let k := r.1.undo.reverse.foldl Core.applyUndo r.1
  ({ k with
     arch := k.shadow, held := [], undo := [], busy := [], pend := []
     tokens := k.tokens.filter (fun t => t.2.2.isSome), tokensIn := k.tokensCk
     tilesTaken := 0, nextts := 0, loopBuf := []
     windows := ((k.shadow.heads.zip k.arch.heads).zip k.windows).map (fun x => x.1.1.regains x.1.2 x.2) }, r.2)

end Sys2Proof.Machine
end

