-- ==== Sys2Proof/Machine/Links.lean ====
section
/-! DEFINITION. Peer ports and routing (R20 to R26): flits and their check, what a port sends and what a flit does to it, the
choice of a port for a transfer, and the transfers with which the packages of a job tell each other of it (R87). -/

namespace Sys2Proof.Machine

/-! ## Flits (Table 1.3) -/

/-- One byte enters the CRC-64 of R21, most significant bit first. -/
def crc64Step (c : W64) (b : Byte) : W64 :=
  (List.range 8).foldl (fun c _ => if c.getLsbD 63 then (c <<< 1) ^^^ 0x42F0E1EBA9EA3693 else c <<< 1) (c ^^^ (b.setWidth 64 <<< 56))

/-- The check of a flit over its first 248 bytes (R21). -/
def crc64 (bs : List Byte) : W64 := bs.foldl crc64Step 0

/-- `n` bytes of a flit from `a` as a number. -/
def flitNum (b : List Byte) (a n : Nat) : Nat := leVal ((b.drop a).take n)

def flitKind (b : List Byte) : Nat := flitNum b 0 1
def flitLane (b : List Byte) : Nat := flitNum b 1 1
def flitSeq (b : List Byte) : BitVec 12 := BitVec.ofNat 12 (flitNum b 2 2)
def flitAck (b : List Byte) : BitVec 12 := BitVec.ofNat 12 (flitNum b 4 2)
def flitPause (b : List Byte) : BitVec 4 := BitVec.ofNat 4 (flitNum b 6 1)

/-- The check of a flit holds and its kind is one of the four (R21, Table 1.3). Bits that the table says are zero, and the lane of a data
flit, are not looked at (the model's choice, log 103). -/
def flitPasses (b : List Byte) : Bool :=
  b.length == 256 && 1 ≤ flitKind b && flitKind b ≤ 4 && flitNum b 248 8 == (crc64 (b.take 248)).toNat

/-- A flit of this kind and lane around a payload of 240 bytes. -/
def makeFlit (kind lane : Nat) (seq ack : BitVec 12) (pause : BitVec 4) (payload : List Byte) : List Byte :=
  let h := leBytes 1 kind ++ leBytes 1 lane ++ leBytes 2 seq.toNat ++ leBytes 2 ack.toNat ++ leBytes 1 pause.toNat ++ [0] ++
    (payload ++ List.replicate 240 0).take 240
  h ++ leBytes 8 (crc64 h).toNat

/-- A flit's payload. -/
def flitPayload (b : List Byte) : List Byte := (b.drop 8).take 240

/-! ## Sending (R22, R23) -/

/-- A flit goes onto the wire with the port's acknowledgement and pause bits of now. -/
def Port.put (p : Port) (tick kind lane : Nat) (seq : BitVec 12) (payload : List Byte) : Port :=
  { p with wire := p.wire ++ [makeFlit kind lane seq (p.rxSeq - 1) p.pauseTx payload], lastSent := tick, pauseSaid := p.pauseTx }

/-- The transfer may be sent: a data flit waits while its virtual lane is paused (R23), and while sys_self is not valid (`leaves`
false), when none leaves for another package (R26; log 14). -/
def Port.clear (p : Port) (leaves : Bool) (t : Transfer) : Bool := t.kind != 1 || (leaves && !p.pauseRx.getLsbD t.lane)

/-- The oldest transfer that may be sent. -/
def Port.nextTransfer (p : Port) (leaves : Bool) : Option Transfer := p.txQueue.find? (p.clear leaves)

/-- The port can send a flit: one that is kept, or the replay request that waits behind a replay. -/
def Port.sends (p : Port) (leaves : Bool) : Bool :=
  p.stage == .up && (!p.replaying.isEmpty || p.asking || (p.replayBuf.length < Config.replayDepth && (p.nextTransfer leaves).isSome))

/-- The port leaves up: it retrains once (R24). -/
def Port.goDown (p : Port) : Port :=
  if p.stage == .up then { p with stage := .training, downEvent := true, retrain := true, replaying := [], asking := false } else p

/-- A kept flit is sent again; the eighth time that one is, unacknowledged, takes the port down (R22, R24). -/
def Port.resend (p : Port) (tick : Nat) (t : Transfer) : Port :=
  let p := ({ p with replayBuf := p.replayBuf.map (fun x => if x.seq == t.seq then { x with tries := x.tries + 1 } else x) } : Port).put
    tick t.kind t.lane t.seq t.payload
  if 8 ≤ t.tries + 1 then ({ p with replayLimit := true } : Port).goDown else p

/-- One flit is sent: of the replay first, whatever the pause bits; then a replay request that waits; else a new flit, while the
replay buffer has a place (R22, R23). Control flits are kept and sent like the others, but what makes a package send one and what it
holds the spec does not say: no event of this model puts one into the queue (log 13). -/
def Port.sendOne (p : Port) (tick : Nat) (leaves : Bool) : Port :=
  match p.replaying with
  | t :: rest => ({ p with replaying := rest } : Port).resend tick t
  | [] =>
    if p.asking then ({ p with asking := false } : Port).put tick 4 0 p.txSeq (leBytes 2 p.rxSeq.toNat)
    else
      match p.nextTransfer leaves with
      | none => p
      | some t =>
        let t := { t with seq := p.txSeq, tries := 0 }
        ({ p with txQueue := p.txQueue.eraseP (p.clear leaves), txSeq := p.txSeq + 1
                  replayBuf := p.replayBuf ++ [t] } : Port).put tick t.kind t.lane t.seq t.payload

/-- What a port sends on a tick: one flit, when it has one to send (log 13); none of its own accord where it has nothing to send and no
pause bit is set or has changed (log 78). -/
def Port.turn (p : Port) (tick : Nat) (leaves : Bool) : Port := if p.sends leaves then p.sendOne tick leaves else p

/-- The 64-tick rule of R23 asks for a flit now; no new one goes before a replay is over (R22). A full replay buffer holds back no idle
flit and no replay request, which take no place in it (log 78). -/
def Port.keepaliveDue (p : Port) (tick : Nat) : Bool :=
  p.stage == .up && p.replaying.isEmpty && (p.pauseTx != 0 || p.pauseTx != p.pauseSaid) && decide (p.lastSent + Config.keepalive ≤ tick)

/-- No intact flit has come for 100 µs (R24). -/
def Port.rxTimedOut (p : Port) (tick : Nat) : Bool := p.stage == .up && decide (p.lastIntact + Config.rxTimeout ≤ tick)

/-! ## What an intact flit does to its port (R21 to R24) -/

/-- Transfers up to and including `ack` leave a list of kept ones. -/
def dropAcked (ack : BitVec 12) (l : List Transfer) : List Transfer :=
  match l.findIdx? (fun t => t.seq == ack) with
  | some i => l.drop (i + 1)
  | none => l

/-- A flit whose check fails or which is out of order: it is discarded, with the later ones, until the replay that the port asks
for (R21), behind a replay of its own that is under way (R22). -/
def Port.discard (p : Port) (tick : Nat) : Port :=
  if p.discarding then p
  else if p.replaying.isEmpty then ({ p with discarding := true } : Port).put tick 4 0 p.txSeq (leBytes 2 p.rxSeq.toNat)
  else { p with discarding := true, asking := true }

/-- The acknowledgement and pause fields of an intact flit take effect (R22, R23). Only a flit that is next in order counts as intact
for the 100 µs of R24 (log 13). -/
def Port.heed (p : Port) (tick : Nat) (b : List Byte) : Port :=
  { p with rxAck := flitAck b, pauseRx := flitPause b, lastIntact := tick, discarding := false, asking := false
           replayBuf := dropAcked (flitAck b) p.replayBuf, replaying := dropAcked (flitAck b) p.replaying }

/-- A replay from `seq` starts (R22). -/
def Port.replay (p : Port) (seq : BitVec 12) : Port :=
  match p.replayBuf.findIdx? (fun t => t.seq == seq) with
  | none => p
  | some i => { p with replaying := p.replayBuf.drop i, replayCount := min 4095 (p.replayCount + 1) }

/-- A retraining has succeeded: what is unacknowledged is replayed, its count of replays starting again (R24). -/
def Port.backUp (p : Port) (tick : Nat) : Port :=
  let kept := p.replayBuf.map (fun t => { t with tries := 0 })
  { p with stage := .up, replayCount := 0, discarding := false, asking := false, lastIntact := tick, replayBuf := kept, replaying := kept }

/-- A retraining has failed: the transfers of the port are lost (R24). -/
def Port.fail (p : Port) : Port := { p with stage := .failed, replayBuf := [], replaying := [], txQueue := [] }

/-- Runs whose transfers the port holds (R24, R26). -/
def Port.owners (p : Port) : List Nat := ((p.replayBuf ++ p.txQueue).filterMap Transfer.owner).eraseDups

/-! ## Routing (R26) -/

/-- A port by its number, and the ports with one changed. -/
def State.portAt (s : State) (n : Nat) : Port := s.ports.getD n Port.reset
def State.mapPort (s : State) (n : Nat) (g : Port → Port) : State :=
  { s with ports := s.ports.zipIdx.map (fun x => if x.2 == n then g x.1 else x.1) }

/-- A route entry (Table 1.8). -/
def State.route (s : State) (d : Nat) : W32 := ((s.routes.find? (fun x => x.1 == d)).map Prod.snd).getD 0

/-- The port of a route's candidate `k`, when it is valid. -/
def candidate (w : W32) (k : Nat) : Option Nat := if w.getLsbD (5 * k + 4) then some (fld w (5 * k) 4).toNat else none

/-- This package's sys_id, when it is valid (Table 1.7). -/
def State.sysId (s : State) : Option Nat := if s.sysSelf.getLsbD 31 then some (fld s.sysSelf 0 12).toNat else none

/-- The port through which a transfer to `d` leaves; the entry for the package's own sys_id is ignored (R26). The peer ports of the
virtual device that sends it do not limit it (R51; log 80). -/
def State.outPort (s : State) (d : Nat) : Option Nat :=
  if s.sysId = some d then none
  else [0, 1, 2, 3].findSome? (fun k => (candidate (s.route d) k).bind (fun p => if (s.portAt p).stage == .failed then none else some p))

/-- sys_stat: destinations without a usable candidate, this package's own left out (Table 1.7). -/
def State.sysStat (s : State) : Nat :=
  ((List.range 4096).filter (fun d => d != (fld s.sysSelf 0 12).toNat && (s.outPort d).isNone)).length

/-- A routing word (R26). -/
def routingWord (dest hops src : Nat) : Nat := dest % 4096 + hops % 16 * 2 ^ 12 + src % 4096 * 2 ^ 16

/-- A payload is injected towards `d`: the port is chosen now (R26). None: it found no usable candidate. -/
def State.injectTo (s : State) (d lane : Nat) (owner : Option Nat) (payload : List Byte) : Option State :=
  (s.outPort d).map (fun p => s.mapPort p (fun q => { q with txQueue := q.txQueue ++ [⟨1, lane, 0, payload, 0, owner⟩] }))

/-- A transfer of a run to another package: one data flit, of which only the routing word is known (log 14). None: it is lost
(R26); so is one injected after sys_self.valid was cleared (log 14). -/
def State.inject (s : State) (d lane : Nat) (owner : Option Nat) : Option State :=
  match s.sysId with
  | none => none
  | some me =>
    let body := (List.range 236).map (fun i => Config.undefByte s.gens i)
    ({ s with gens := s.gens + 1 } : State).injectTo d lane owner (leBytes 4 (routingWord d 15 me) ++ body)

/-- The sys_ids of the other packages of a system-wide flight's job, in pkg_index order (R87); none for one that cannot be read. -/
def State.otherPackages (s : State) (f : Flight) : List (Option Nat) :=
  if f.sysJob = 0 then []
  else ((List.range f.nPkg).filter (fun i => i != f.pkgIndex)).map (fun i => (s.vaNum f (f.pkgList.toNat + 2 * i) 2).map (fun n => n % 4096))

/-- One transfer to each of these packages: the state, and whether one was lost. -/
def State.tellEach (lane : Nat) (owner : Option Nat) : List (Option Nat) → State × Bool → State × Bool
  | [], x => x
  | d :: rest, x =>
    State.tellEach lane owner rest (match d.bind (fun d => x.1.inject d lane owner) with
      | some s => (s, x.2)
      | none => (x.1, true))

/-- One transfer from run `r` to every other package of its job (R87). -/
def State.tell (s : State) (r : Run) (lane : Nat) : State × Bool :=
  match s.flightOf r with
  | none => (s, false)
  | some f => State.tellEach lane (some r.id) (s.otherPackages f) (s, false)

end Sys2Proof.Machine
end

