-- ==== Sys2Proof/Machine/Policies.lean ====
section
/-! DEFINITION. Trap policies (R110, Table 5.8), what a poison trap is about (R149, R172), and the records of synchronous traps, of those
too that a job fault finds still in their rollback (R109, R113). -/

namespace Sys2Proof.Machine

/-! ## Policies -/

/-- What becomes of a trap. -/
inductive Policy where
  | resume | fault | handler | hypervisor | debug
  deriving DecidableEq, Repr

/-- The default column of Table 5.8 for the codes a choice may change; H/F stands as handler. -/
def defaultPolicy (code : Nat) : Policy :=
  if code = 0x08 || code = 0x10 then .hypervisor
  else if [0x09, 0x0A, 0x0C, 0x0F, 0x11, 0x12].contains code then .handler else .fault

/-- The permitted column of Table 5.8. -/
def permitted (code : Nat) (p : Policy) : Bool :=
  match p with
  | .fault => true
  | .handler => code != 0x10
  | .hypervisor => code == 0x08 || code == 0x0B || code == 0x10
  | _ => false

/-- The choice of trap_pol for a code (Table 5.6). -/
def Fn.choice (f : Fn) (code : Nat) : Option Policy :=
  match (fld f.trapPol (2 * code) 2).toNat with
  | 1 => some .handler
  | 2 => some .hypervisor
  | 3 => some .fault
  | _ => none

/-- A HALT session covers the core (R38, R44). -/
def State.haltCovers (s : State) (fn : Nat) : Bool :=
  match s.rot.session with
  | some x => x.halt && (match x.vd with
    | none => true
    | some n => fn == n + 1)
  | none => false

/-- The default policy with no handler in place: H/F reads as a job fault (R110). -/
def plainDefault (code : Nat) : Policy := if defaultPolicy code = .handler then .fault else defaultPolicy code

/-- The policy of a code that a choice may change (R110). -/
def State.chosenPolicy (s : State) (f : Fn) (code : Nat) : Policy :=
  let picked := (f.choice code).filter (permitted code)
  match picked with
  | some .handler => if f.hndCode = 0 then (if code = 0x11 && s.haltCovers f.no then .debug else plainDefault code) else .handler
  | some p => p
  | none =>
    if code = 0x11 && s.haltCovers f.no then .debug
    else if defaultPolicy code = .handler && f.hndCode = 0 then .fault else defaultPolicy code

/-- The records a poison trap is about: its own, and those that tags of the lines it covered name (R149). -/
def Core.poisonRecords (k : Core) (i0 i1 : W64) (lines : List Nat) : List (BitVec 20 × Nat) :=
  ((i0.setWidth 20, i1.toNat) :: (k.tags.filter (fun t => lines.contains t.line)).map (fun t => (t.tape, t.record))).eraseDups

/-- What the repair of a trap on core `k` writes: for code 0x07 the records that the access found (R149). -/
def TrapInfo.records (t : TrapInfo) (k : Core) : List (BitVec 20 × Nat) :=
  if t.code = 0x07 then k.poisonRecords t.info0 t.info1 t.lines else []

/-- Where the backing copy of a record lies. -/
def State.backingPlace (s : State) (fn : Fn) (f : Flight) (d : Dir) (record : Nat) : Option Place :=
  match s.dir f d.backing with
  | none => none
  | some b => s.place fn f b record

/-- The backing copy's bytes of a record, undefined where the backing tape's tables were changed during the run (R155); `2^32 - 2` is
the party that reads them. -/
def State.backingBytes (s : State) (r : Run) (fn : Fn) (f : Flight) (d : Dir) (record : Nat) : Option (List Byte) :=
  (s.backingPlace fn f d record).map (fun p =>
    if r.isTorn d.backing then s.tornBytes d d.backing record (2 ^ 32 - 2) else s.storeBytes p d.recSize)

/-- A record has a backing copy with storage (R172; log 76). -/
def State.recordBacked (s : State) (fn : Fn) (f : Flight) (x : BitVec 20 × Nat) : Bool :=
  ((s.dir f x.1).map (fun d => d.backed && (s.backingPlace fn f d x.2).isSome)).getD false

/-- A poison trap can be repaired: every line has its tag and every record a backing copy (R149, R172). -/
def State.repairable (s : State) (fn : Fn) (f : Flight) (k : Core) (t : TrapInfo) : Bool :=
  t.info0 != BitVec.allOnes 64 && t.lines.all (fun l => k.tags.any (fun g => g.line == l)) &&
  (k.poisonRecords t.info0 t.info1 t.lines).all (s.recordBacked fn f)

/-- The policy of a trap on core `k` (Table 5.8). The poison trap looks at the core as it stood at the access. -/
def State.policy (s : State) (fn : Fn) (f : Flight) (k : Core) (t : TrapInfo) : Policy :=
  if t.code = 0x07 then (if s.repairable fn f k t then .resume else .fault)
  else if t.code = 0x0D then (if (0xFF &&& ~~~(s.features fn.no)).getLsbD t.info0.toNat then .hypervisor else .fault)
  else if t.code = 0x13 then .hypervisor
  else s.chosenPolicy fn t.code

/-! ## Records (R109) -/

/-- tflags of a synchronous trap (Table 5.7). -/
def trapFlags (held cutting raised : Bool) : W16 := BitVec.ofNat 16 (1 + held.toNat * 2 + cutting.toNat * 4 + raised.toNat * 16)

/-- The policy that acts on the trap of a core: a handler task's trap faults (R111). -/
def State.policyOf (s : State) (fn : Fn) (f : Flight) (k : Core) (t : TrapInfo) : Policy :=
  if k.handlerOf.isSome then .fault else s.policy fn f k t

/-- The record of a trap on core `k`, made and kept (R109). Its flag bit 1 says that the policy is the hypervisor's, also where a cut for
P3 or another fault makes an end of the trap instead; bit 0 is set also where the job ends before the rollback does (the model's choice,
log 101). -/
def State.recordTrap (s : State) (fn : Fn) (f : Flight) (k : Core) (t : TrapInfo) (dict : W64) (tick : Nat) : State × TrapRec :=
  let x := k.rollback
  let flags := trapFlags (s.policyOf fn f k t == .hypervisor) (s.cutting k) x.2
  let rec_ := s.trapRec x.1 tick t.code t.slot flags t.pc dict t.info0 t.info1
  let st := s.stamp fn.no rec_.src rec_.tick
  let rec_ := { rec_ with tick := st.1 }
  (st.2.mapFn fn.no (fun f => f.keepTrap rec_), rec_)

/-- Traps in the order of their stamps, those of one tick in their order. -/
def insertTrap (x : Core × TrapInfo × W64 × Nat) : List (Core × TrapInfo × W64 × Nat) → List (Core × TrapInfo × W64 × Nat)
  | [] => [x]
  | y :: rest => if x.2.2.2 ≤ y.2.2.2 then x :: y :: rest else y :: insertTrap x rest

/-- The traps of a run that have been detected and have no record yet: their cores roll back, or wait for the end of a SOLEND window
(R109, R349), in the order of their stamps. -/
def State.openTraps (s : State) (rid : Nat) : List (Core × TrapInfo × W64 × Nat) :=
  (s.cores.filterMap (fun k => if k.run != rid then none else match k.stage with
    | .trapping t dict tick => some (k, t, dict, tick)
    | .deciding _ _ (some t) => some (k, t, k.arch.dictBase, s.pcyc)
    | _ => none)).foldr insertTrap []

/-- Every trap creates its record (R109), also one that is discarded with its run (R113). -/
def State.recordOpen (s : State) (r : Run) : State :=
  match s.fnAt r.fn, s.flightOf r with
  | some fn, some f => (s.openTraps r.id).foldl (fun s x => (s.recordTrap fn f x.1 x.2.1 x.2.2.1 x.2.2.2).1) s
  | _, _ => s

end Sys2Proof.Machine
end

