-- ==== Sys2Proof/Machine/Jobs.lean ====
section
/-! DEFINITION. What the landing does to a whole job: scopes (R203), what a release carries and an acquire takes (R206,
R207), the job fault (R62, R63), the end of a run (R81) and the return of what it held. -/

namespace Sys2Proof.Machine

/-! ## Scopes (R203) -/

/-- A scope seen from core `x` includes core `y` of the package. A core whose number another core has now keeps its hall and die under
the number that it goes by (log 54). -/
def scopeIncludes (scope x y : Nat) : Bool :=
  let hall (c : Nat) : Nat := hallOf (c % 2 ^ 20)
  match scope with
  | 0 => hall x == hall y
  | 1 => dieOf (hall x) == dieOf (hall y)
  | _ => true

/-- The scope of a domain level (Table 10.1). -/
def levelScope (level : Nat) : Nat := level - 1

/-- The number that core `y` had at that moment. -/
def Spot.was (p : Spot) (y : Nat) : Nat := ((p.seen.find? (fun e => e.1 == y)).map Prod.snd).getD y

/-- Whether the scope of what was done there included core `y`. -/
def Spot.includes (p : Spot) (scope y : Nat) : Bool := scopeIncludes scope p.at_ (p.was y)

/-- What a release action of this core carries, over its own scope. -/
def Core.carries (k : Core) (scope : Nat) : Carried := ⟨k.no, scope, k.published, ⟨k.no, []⟩⟩

/-- What core `y` takes from a release whose scope includes it: the sets published over scopes that include it. -/
def Carried.taken (c : Carried) (y : Nat) : List Acquired :=
  if c.spot.includes c.scope y then
    [⟨c.from_, (c.pubs.filter (fun p => c.spot.includes p.scope y)).foldl (fun l p => unionNat p.writes l) []⟩]
  else []

/-- The core acquires. -/
def Core.acquire (k : Core) (cs : List Carried) : Core :=
  { k with acquired := k.acquired ++ cs.flatMap (fun c => if c.from_ = k.no then [] else c.taken k.no) }

/-- A phase begins at a boundary of this scope: what was acquired from cores it includes reaches the core (R207 step 5),
and everything that has reached it is published over the scope (step 2). -/
def Core.boundary (k : Core) (scope : Nat) : Core :=
  let joins := k.acquired.filter (fun a => scopeIncludes scope k.no a.from_)
  let reached := joins.foldl (fun l a => unionNat a.writes l) k.reached
  { k with
    acquired := k.acquired.filter (fun a => !scopeIncludes scope k.no a.from_)
    reached := reached
    phase := reached
    published := k.published.filter (fun p => p.scope != scope) ++ [⟨scope, reached⟩]
    pend := k.pend.map (fun p => { p with need := p.need.aged k.phase })
    floors := []
    ownWrites := []
    windows := k.windows.map (fun _ => []) }

/-- What of the core a later task on it keeps (R207). -/
def Core.knows (k : Core) : Known :=
  { core := k.no, reached := k.reached, published := k.published, acquired := k.acquired, cellAdds := k.cellAdds }

/-- What core `c` has from its earlier tasks of the run. -/
def Run.knowing (r : Run) (c : Nat) : Known :=
  (r.known.find? (fun x => x.core == c)).getD { core := c, reached := [], published := [], acquired := [], cellAdds := [] }

/-- The run keeps what a core knows. -/
def Run.learn (r : Run) (k : Known) : Run := { r with known := r.known.filter (fun x => x.core != k.core) ++ [k] }

/-- Writes of commands whose scope does not include core `c`: they reach it only by the commit of their node (R210, R215, R396). -/
def Run.foreign (r : Run) (c : Nat) : List Nat :=
  (r.confined.filter (fun x => !x.2.2.includes x.2.1 c && !r.committedWrites.contains x.1)).map Prod.fst

/-- The core without writes that do not reach it. -/
def Core.without (k : Core) (ws : List Nat) : Core :=
  let out (l : List Nat) : List Nat := l.filter (fun w => !ws.contains w)
  { k with reached := out k.reached, phase := out k.phase
           published := k.published.map (fun p => { p with writes := out p.writes }) }

/-- The core at a phase boundary of its run. What has reached it stays with it, wherever it goes on after a cut (R211). -/
def Run.boundaryOf (r : Run) (k : Core) (scope : Nat) : Core :=
  (k.boundary scope).without ((r.foreign k.no).filter (fun w => !k.reached.contains w))

/-! ## Undefined contents (R8, R62) -/

/-- Storage bytes that become undefined: free bytes of a generation of their own. -/
def State.spoil (s : State) (p : Place) (n : Nat) : State :=
  { s.storeWrite p ((List.range n).map (fun i => Config.undefByte s.gens (p.2 + i))) with gens := s.gens + 1 }

/-- The record's home holds undefined contents: of a tape that nodes not committed wrote, what they wrote (R62; log 81). -/
def State.spoilRecord (s : State) (r : Run) (t : BitVec 20) (record : Nat) : State :=
  match s.fnAt r.fn, s.flightOf r with
  | some fn, some f =>
    match s.dir f t with
    | none => s
    | some d =>
      match s.place fn f d record with
      | none => s
      | some p => if r.isTorn t then s else s.spoil p d.recSize
  | _, _ => s

/-- A party of node `i` that wrote has ended: the node's commit carries what had reached it too (R207, R396). -/
def Run.gain (r : Run) (i : Nat) (ws : List Nat) : Run := { r with gained := r.gained ++ [(i, ws)] }

/-- Records that work of nodes not committed has written or was writing, those of stream tapes in their rings (R62). -/
def Run.unsettled (r : Run) : List (BitVec 20 × Nat) :=
  ((r.writes.filter (fun w => r.widNodes.any (fun x => x.1 == w.wid))).map (fun w => (w.tape, w.record)) ++
   r.flying.filterMap (fun x => match x with
     | .tape w => some (w.tape, w.record)
     | .cell .. => none) ++
   r.tapes.flatMap (fun t => t.fresh.map (fun x => (t.id, x.1)))).eraseDups

/-! ## The end of a run -/

/-- Cores, contexts and lines of a run are given up; the slots of its cells go with it, and its basin space returns (R93, R173). -/
def State.dropRun (s : State) (r : Run) : State :=
  let s := s.leaveArrays r
  let mine (c : Nat) : Bool := s.cores.any (fun k => k.no == c && k.run == r.id)
  { s.dropCores (fun k => k.run == r.id) with
    turn := s.turn.filter (fun c => !mine c)
    contexts := s.contexts.filter (fun x => x.run != r.id)
    lines := s.lines.filter (fun l => l.run != r.id)
    runs := s.runs.filter (fun x => x.id != r.id)
    events := s.events.filter (fun e => !mine e.1)
    halls := s.halls.map (fun h =>
      ({ h with walks := h.walks.filter (fun w => w.run != r.id), extents := h.extents.filter (fun e => e.1 != r.id) } : Hall))
    fns := s.fns.map (fun f =>
      if f.no == r.fn then
        ({ f with basinUsed := f.basinUsed - r.basin, handlers := f.handlers.filter (fun c => !mine c) } : Fn)
      else f) }

/-- The first tick past the stamps of the trap records of a run's cores, and of the records of kind 0x05 about traps it holds (R114). -/
def State.pastTraps (s : State) (r : Run) : Nat :=
  let held : Nat := match s.fnAt r.fn with
    | some f => if r.heldTraps.isEmpty then 0 else ((s.lastStamp (s.pfOf f) f.agentPf).map (· + 1)).getD 0
    | none => 0
  (s.cores.map (fun k => if k.run == r.id then
      ((s.lastStamp r.fn (srcId 0 (((s.fnAt r.fn).map (fun f => f.virtualCore k.no)).getD k.no))).map (· + 1)).getD 0
    else 0)).foldl max held

/-- A job fault (R62): the job's work is discarded, what its uncommitted nodes wrote is undefined, one record of kind 0x03
names the last committed node, and the commit images are kept, which holds the flight (R63), also when no node has committed and there
is none (log 67). Traps of the run still in their rollback have their records first (R109). A fault that this package found is sent to the other packages of the job (R87). -/
def State.faultRun (s : State) (rid cause : Nat) : State :=
  match s.runAt rid with
  | none => s
  | some r =>
    let s := r.unsettled.foldl (fun s x => s.spoilRecord r x.1 x.2) (s.recordOpen r)
    let gens := s.gens
    let s : State := { s with gens := gens + 4096 }
    let rec_ := { s.runRec r 3 cause r.lastNode (BitVec.ofNat 32 r.commits) with tick := max s.pcyc (s.pastTraps r) }
    let s := s.mapFn r.fn (fun f => f.mapFlight r.flight (fun fl =>
      { fl with heldWaits := fl.heldWaits.filter (fun w => w.2.2 != some rid)
                kept := some ⟨rid, r.arm, r.order, r.commits, r.lastNode, r.images, r.tapes,
                             r.arrays.map (fun a => a.kept (gens + a.id)), r.torn⟩ }))
    let s := if cause = 0x3A then s else (s.tell r 3).1
    (s.post r.fn rec_).dropRun { r with arrays := r.arrays.map (fun a => a.settled (gens + a.id)) }

/-- Run `rid` tells the other packages of its job something over a lane; a transfer that is lost faults it with 0x39 (R26, R87). -/
def State.report (s : State) (rid lane : Nat) : State :=
  match s.runAt rid with
  | none => s
  | some r => if (s.tell r lane).2 then (s.tell r lane).1.faultRun rid 0x39 else (s.tell r lane).1

end Sys2Proof.Machine
end

