-- ==== Sys2Proof/Machine/Homes.lean ====
section
/-! DEFINITION. Released work at its home (R14, R17, R176, R205, R389): writes of records and cell operations, one core's in the
order sent, and what has to be there before the core acts on a home at once. -/

namespace Sys2Proof.Machine

/-! ## Home of a record (R205, R389) -/

/-- Released work of number `wid` is the first of its core's on the way to its home: one core's writes to one vault arrive in the
order sent (R17, with the core as the source of its transfers: the model's choice, log 89). -/
def State.firstHome (s : State) (r : Run) (wid : Nat) : Bool :=
  match r.flying.find? (fun x => x.by_.2 == wid) with
  | none => false
  | some x =>
    ((r.flying.find? (fun y => y.by_.1 == x.by_.1 && s.homeOf r y == s.homeOf r x)).map Flying.by_).map Prod.snd == some wid

/-- TAPE_WRITE_AT_HOME (R205): writes of one core to one home arrive in the order of their release. -/
def State.tapeHome (s : State) (r : Run) (wid : Nat) : State :=
  match r.flying.findSome? (fun x => match x with
      | .tape w => if w.wid == wid then some w else none
      | .cell .. => none) with
  | none => s
  | some w =>
    if s.firstHome r wid then
      s.landTape r.id w
    else s

/-- The core that sent a cell operation has a cell read issued before it whose value has yet to come. -/
def State.readBefore (s : State) (rid core wid : Nat) : Bool :=
  s.cores.any (fun k => k.no == core && k.run == rid && k.pend.any (fun p => match p.need with
    | .cells _ bound _ _ _ => decide (bound ≤ wid)
    | _ => false))

/-- CELL_OP_AT_VAULT (R176): operations of one core arrive in release order, behind the cell reads it issued before them. -/
def State.cellHome (s : State) (r : Run) (wid : Nat) : State :=
  match r.flying.findSome? (fun x => match x with
      | .cell i c ops => if i == wid then some (c, ops) else none
      | .tape _ => none) with
  | none => s
  | some (core, ops) =>
    if !s.firstHome r wid || s.readBefore r.id core wid then s
    else
      match applyOps wid core ops r.arrays with
      | none => s.faultRun r.id 0x08
      | some as => s.mapRun r.id (fun r => { r with arrays := as, flying := r.flying.filter (fun x => !x.isCell wid) })

/-- Core `c`'s work on its way to one of the homes, in the order sent. -/
def State.flyingTo (s : State) (r : Run) (c : Nat) (homes : List (Option Nat)) : List Flying :=
  r.flying.filter (fun x => x.by_.1 == c && homes.contains (s.homeOf r x))

/-- One piece of released work arrives at its home. -/
def State.landFlying (s : State) (rid : Nat) (x : Flying) : State :=
  match x with
  | .tape w => s.landTape rid w
  | .cell i _ _ => match s.runAt rid with
    | none => s
    | some r => s.cellHome r i

/-- Core `c`'s work on its way to these homes arrives there, in the order sent, ahead of what the core does there at once (R14, R17,
R389). -/
def State.landOwn (s : State) (rid c : Nat) (homes : List (Option Nat)) : State :=
  match s.runAt rid with
  | none => s
  | some r => (s.flyingTo r c homes).foldl (fun s x => s.landFlying rid x) s

/-- Such work is held up behind a cell read of the core. -/
def State.heldUp (s : State) (rid c : Nat) (homes : List (Option Nat)) : Bool :=
  match s.runAt rid with
  | none => false
  | some r => (s.flyingTo r c homes).any (fun x => match x with
    | .tape _ => false
    | .cell i _ _ => s.readBefore rid c i)

end Sys2Proof.Machine
end

