-- ==== Sys2Proof/Machine/Release.lean ====
section
/-! DEFINITION. The release of held work at a checkpoint (R125, R126) and the checkpoint itself: what each held entry does
when it is released, what it waits for (R60, R208, R218), the shadow copy, and what follows (R133, R204, R293, R294, R349). -/

namespace Sys2Proof.Machine

/-- Every head read issued earlier by the core holds its record (R208). -/
def Core.readsHeld (k : Core) : Bool :=
  k.pend.all (fun p => match p.need with
    | .record .. => false
    | _ => true)

/-- The core with a released write of its own, of this number: in place in its windows, and what a read of it in this phase
returns (R166). A record shorter than a granule replaces none whole, and its poison stays (R171). -/
def Core.windowWrite (k : Core) (wid : Nat) (t : BitVec 20) (record : Nat) (data : List Byte) : Core :=
  { k with
    ownWrites := (t.toNat, record, wid, data) :: k.ownWrites.filter (fun w => !(w.1 == t.toNat && w.2.1 == record))
    windows := (k.windows.zip k.arch.heads).map (fun p =>
      if p.2.attached && p.2.tape == t then
        p.1.map (fun x => if x.record == record then { x with data := data, poison := if data.length < 64 then x.poison else [] } else x)
      else p.1) }

/-- The window entries a CPYH captures at its release (R65): all of the function's. -/
def Fn.captured (f : Fn) : List (BitVec 128) := f.windows

/-- Slots of a vault that valid near extent entries of the function's active runs name (R366). -/
def State.namedSlots (s : State) (fn : Fn) (vault : Nat) : List Nat :=
  s.runs.flatMap (fun r =>
    if r.fn != fn.no then [] else
    match s.flightOf r with
    | none => []
    | some f => (List.range (s.tapeCount f)).flatMap (fun t =>
        match s.dir f (BitVec.ofNat 20 t) with
        | none => []
        | some d =>
          if d.far then [] else
          (List.range ((d.length + d.recsPerExtent - 1) / d.recsPerExtent)).filterMap (fun i =>
            let e := s.extEntry f d i
            if e.getLsbD 63 && fn.physicalHall (fld e 10 6).toNat == some vault then some (fld e 0 10).toNat else none)))

/-- Slots of a vault that a new cell array takes: the lowest free ones (R366), when there are enough. -/
def State.freeSlots (s : State) (fn : Fn) (vault n : Nat) : Option (List Nat) :=
  let named := s.namedSlots fn vault
  let free := ((List.range 796).filter (fun i => !s.slotHeld vault i && !named.contains i)).take n
  if free.length = n then some free else none

/-- The array as it is configured anew by node `node`, in place of what it was (R366). -/
def Run.configured (r : Run) (node array : Nat) (desc : W64) (slots : List Nat) : Run :=
  { r with arrays := if r.arrays.any (fun a => a.id == array)
      then r.arrays.map (fun a => if a.id == array then ⟨array, desc, slots, [], insertNat node a.by_⟩ else a)
      else r.arrays ++ [⟨array, desc, slots, [], [node]⟩] }

/-- An array of the run gives back the slots that it has. -/
def State.giveSlots (s : State) (r : Run) (fn : Fn) (array : Nat) : State :=
  let mine := ((((s.runAt r.id).map Run.arrays).getD []).filter (fun a => a.id == array))
  (mine.foldl (fun s a => s.leaveCells fn a) s).mapRun r.id (fun r =>
    { r with arrays := r.arrays.map (fun a => if a.id == array then { a with slots := [] } else a) })

/-- The array holds slots `sl` of vault `v`: its cells are 0 and its descriptor is valid (R366). -/
def State.tookSlots (s : State) (rid node array : Nat) (desc : W64) (v : Nat) (sl : List Nat) : State :=
  (s.zeroCells v ⟨array, desc, sl, [], []⟩).mapRun rid (fun r => r.configured node array (desc ||| 0x8000000000000000) sl)

/-- A held CCFG at its release (R366): slots, cells of 0 and a valid descriptor; none: the vault lacks the slots. -/
def State.takeSlots (s : State) (r : Run) (fn : Fn) (node array : Nat) (desc : W64) : Option State :=
  (fn.physicalHall (fld desc 41 6).toNat).bind (fun v =>
    ((s.giveSlots r fn array).freeSlots fn v (descSlots desc)).map (fun sl =>
      (s.giveSlots r fn array).tookSlots r.id node array desc v sl))

/-- A write number is taken for released work of the core, which reaches the core at once (R207). -/
def State.newWrite (s : State) (k : Core) : State × Core × Nat :=
  match s.runAt k.run with
  | none => (s, k, 0)
  | some r => (s.mapRun k.run (fun r => { r with nextWid := r.nextWid + 1, widNodes := r.widNodes ++ [(r.nextWid, k.node)] }),
               { k with reached := insertNat r.nextWid k.reached, wrote := true }, r.nextWid)

/-- The scope of domain `d` of the core's node (Table 10.1). -/
def State.domainScope (s : State) (k : Core) (d : Nat) : Nat :=
  match s.lines.find? (fun l => l.run == k.run && l.node == k.node && l.dom == d) with
  | some l => levelScope l.level
  | none => 0

/-- What releasing one entry ends in. -/
inductive Released where
  | done (s : State) (k : Core)
  | waits
  | faults (cause : Nat)

/-- The members of domain `d` of the core's node. -/
def State.members (s : State) (k : Core) (d : Nat) : List Nat :=
  match s.lines.find? (fun l => l.run == k.run && l.node == k.node && l.dom == d) with
  | some l => l.members
  | none => []

/-- An FLSIG on a condition word: store, OR, add (R375). -/
def condNext (op : Nat) (old v : W32) : W32 := if op = 0 then v else if op = 1 then old ||| v else old + v

/-- A released append of a stream tape by node `node`, which stands in the ring too where it is `stored` there: it takes the place of
the record that stood there (R62, R169). -/
def TapeState.appended (x : TapeState) (ring : Nat → Nat) (node : Nat) (data : List Byte) (c : Carried) (stored : Bool) : TapeState :=
  { x with
    fill := x.fill + 1, by_ := insertNat node x.by_, records := x.records ++ [(x.fill, data, c)]
    fresh := if stored then x.fresh.filter (fun y => ring y.1 != ring x.fill) ++ [(x.fill, node)] else x.fresh }

/-- One held entry is released (R125, R126). An append of one of several cores that finds its tape full at its release faults the job
with cause 0x09 (R168; log 75). -/
def State.releaseOne (s : State) (k : Core) (h : Held) : Released :=
  match s.runAt k.run with
  | none => .done s k
  | some r =>
    match s.fnAt r.fn with
    | none => .done s k
    | some fn =>
      match h with
      | .rewrite t rec_ data =>
        let (s, k, wid) := s.newWrite k
        .done (s.mapRun r.id (fun r => { r with flying := r.flying ++ [.tape ⟨wid, k.no, t, rec_, data⟩] }))
          (k.windowWrite wid t rec_ data)
      | .overtaken t rec_ data =>
        let (s, k, wid) := s.newWrite k
        .done (s.mapRun r.id (fun r => { r with flying := r.flying ++ [.tape ⟨wid, k.no, t, rec_, data⟩] })) k
      | .append t _ data =>
        let at_ := (r.tapeAt t).fill
        if (((s.flightOf r).bind (fun f => s.dir f t)).map (fun d => decide (d.length ≤ at_))).getD false then .faults 0x09
        else
        let (s, k, wid) := s.newWrite k
        .done (s.mapRun r.id (fun r =>
            { r.mapTape t (fun x => { x with fill := x.fill + 1, by_ := insertNat k.node x.by_ }) with
              flying := r.flying ++ [.tape ⟨wid, k.no, t, at_, data⟩] })) (k.windowWrite wid t at_ data)
      | .streamAppend t data =>
        let scope := (((s.flightOf r).bind (fun f => s.dir f t)).map Dir.scope).getD 0
        let home := s.homeOf r (.tape ⟨0, k.no, t, (r.tapeAt t).fill, data⟩)
        if !k.readsHeld || !(s.flyingTo r k.no [home]).isEmpty then .waits
        else
          let at_ := (r.tapeAt t).fill
          let d := (s.flightOf r).bind (fun f => s.dir f t)
          let s := match s.flightOf r with
            | some f => s.ringStore r fn f t at_ data
            | none => s
          let stored := (d.map (fun d => d.ringHolds (r.tapeAt t) at_)).getD false
          .done (s.mapRun r.id (fun r => r.mapTape t (fun x =>
            x.appended (fun i => (d.map (fun d => d.ring i)).getD i) k.node data (k.carries scope) stored))) { k with wrote := true }
      | .cellAdd array cell bf lanes =>
        let (s, k, wid) := s.newWrite k
        .done (s.mapRun r.id (fun r => { r.writesArrays k.node [array] with flying := r.flying ++
            [.cell wid k.no (lanes.map (fun l => .add array (cell + l.1) bf l.2))] }))
          { k with cellAdds := k.cellAdds ++ [wid] }
      | .cellClear array cell n =>
        let (s, k, wid) := s.newWrite k
        .done (s.mapRun r.id (fun r =>
          { r.writesArrays k.node [array] with flying := r.flying ++ [.cell wid k.no [.clear array cell n]] })) k
      | .cellConfig array desc =>
        if r.flying.any (fun x => match x with
            | .cell _ c _ => c == k.no
            | .tape _ => false) || k.pend.any (fun p => p.need.cellRead) then .waits
        else
        match s.takeSlots r fn k.node array desc with
        | none => .faults 0x08
        | some s => .done s k
      | .command tl block token =>
        match s.contextOf r.id k.no tl with
        | none => .done s k
        | some x =>
          if Config.queueDepth ≤ x.queue.length then .waits
          else
            let num := x.last.toNat + 1
            let dom := (block.getD 6 0).toNat
            let coll := decide (4 ≤ tl)
            let cmd : Command := { num := num, block := block, token := token, windows := fn.captured, reached := k.reached
                                   collSeq := if coll then k.collSeq.getD dom 0 else 0, matched := false, rank := 0
                                   started := false, ready := false, out := [], sources := [], node := k.node, flags := 0 }
            .done (s.mapContext x.id (fun x => { x with last := x.last + 1, queue := x.queue ++ [cmd]
                                                        lastStep := BitVec.ofNat 16 (leVal ((block.drop 4).take 2)) }))
              { k with
                tokens := k.tokens.map (fun t => if t.2.1 == tl && t.2.2 == none && some t.1 == token then (t.1, tl, some num) else t)
                collSeq := if coll then k.collSeq.set dom (k.collSeq.getD dom 0 + 1) else k.collSeq }
      | .flsig op w v => .done (s.mapRun r.id (fun r => { r with conds := r.conds.set w (condNext op (r.conds.getD w 0) v) })) k
      | .event d =>
        if !k.readsHeld then .waits
        else
          let s : State := { s with events := s.events ++
            ((s.members k d).filter (fun c => c != k.no)).map (fun c => (c, k.carries (s.domainScope k d))) }
          if s.domainScope k d = 3 then
            (if (s.tell r 3).2 then .faults 0x39 else .done (s.tell r 3).1 k)
          else .done s k
      | .report code v =>
        if !fn.roomFor || s.lastStamp r.fn (srcId 0 (fn.virtualCore k.no)) == some s.pcyc then .waits
        else .done (s.post r.fn { tick := s.pcyc, src := srcId 0 (fn.virtualCore k.no), kind := 7, status := code.toNat
                                  flight := BitVec.ofNat 16 r.flight, node := BitVec.ofNat 16 k.node
                                  hostSeq := r.arm.hostSeq, slot := BitVec.ofNat 16 r.arm.slot, detail := v }) k

/-- Held entries are released in order as far as they go (R125): the state, the core with what is left, and a fault. -/
def State.releaseAll (s : State) (k : Core) : List Held → State × Core × Option Nat
  | [] => (s, { k with held := [] }, none)
  | h :: rest =>
    match s.releaseOne k h with
    | .done s k => s.releaseAll k rest
    | .waits => (s, { k with held := h :: rest }, none)
    | .faults c => (s, { k with held := h :: rest }, some c)

/-- The records of a stream tape below `used` are freed (R169). The tape's contents stay those of its producer's nodes (R62). -/
def TapeState.free (x : TapeState) (used : Nat) : TapeState := { x with freed := max x.freed used }

/-- Stream tapes at a checkpoint: what the consumer has consumed is freed, by a consumer that has detached too (R169, R358). -/
def Run.streamCheckpoint (r : Run) (k : Core) : Run :=
  let r := k.arch.heads.foldl (fun r h =>
    if h.attached && (fld h.mode 0 2).toNat == attrStream && !h.writer then
      r.mapTape h.tape (fun x => x.free h.used.toNat)
    else r) r
  k.arch.detached.foldl (fun r d => match d.2 with
    | none => r
    | some used => r.mapTape d.1 (fun x => x.free used.toNat)) r

/-- The checkpoint is taken (R125): the undo log is clear, the shadow a copy, also of what reading the tokens acquires (R206), every result in flight lies before it, and
the tiles taken are final (R89). -/
def Core.checkpoint (k : Core) : Core :=
  let a := { k.arch with detached := [] }
  { k with
    arch := a
    shadow := a
    tokensCk := k.tokensIn
    undo := []
    pend := k.pend.map (fun p => { p with preCk := true })
    tiles := k.tiles.filter (fun t => k.tileBase + k.tilesTaken ≤ t.1)
    tileBase := k.tileBase + k.tilesTaken
    tilesTaken := 0
    nextts := 0 }

/-- The SYNC input of a core is raised (R133). -/
def State.raise (s : State) (k : Core) (line : Nat) : State :=
  let s := s.setCore { k with stage := .waitLine line }
  s.mapLine line (fun l =>
    let raised := insertNat k.no l.raised
    { l with
      raised := raised
      carried := l.carried.filter (fun c => c.from_ != k.no) ++ [k.carries (levelScope l.level)] })

/-- Virtual cycles of a SOLEND decision (R349): D = 40 + 4m. -/
def decisionLength (depth : Nat) : Nat := 40 + 4 * depth

/-- Core `c` has passed a slack bundle, whose checkpoint is taken: in a cut of its run it stops there while M is not formed,
and at M afterwards; beyond M the job faults (Table 5.1 steps 2 and 4, R100). A handler task takes no part. -/
def State.slackPassed (s : State) (c : Nat) : State :=
  match s.coreAt c with
  | none => s
  | some k =>
    match (s.runAt k.run).bind Run.cut with
    | none => s
    | some cut =>
      let stop := s.setCore { k with asks := k.asks ++ [.cut] }
      if k.handlerOf.isSome then s
      else if cut.step = 2 then stop
      else if k.arch.cpos = cut.m then stop
      else if decide (cut.m.toNat < k.arch.cpos.toNat) then s.faultRun k.run 0x35
      else s

/-- The release has ended: the checkpoint is taken and what follows it begins. A SYNC bundle has not issued yet, and a
SOLEND bundle's checkpoint comes at the end of its decision. -/
def State.released (s : State) (k : Core) (after : After) : State :=
  match after with
  | .sync line => if k.readsHeld then s.raise k line else s.setCore { k with stage := .releasing (.sync line) }
  | .decide d => s.setCore { k with stage := .deciding (decisionLength k.arch.solve.depth - 1) d none }
  | _ =>
    let s := s.mapRun k.run (fun r => r.streamCheckpoint k)
    let slack (s : State) : State := if k.arch.cpos = k.shadow.cpos then s else s.slackPassed k.no
    let k := k.checkpoint
    match after with
    | .halt s1 => s.setCore { k with stage := .halting s1 }
    | .trap code info0 pc =>
      slack (s.setCore { k with stage := .trapping ⟨code, 7, info0, 0, pc, []⟩ k.arch.dictBase s.pcyc })
    | .event =>
      slack (s.setCore { k with stage := .waitEvent true })
    | .phase scope => slack (s.setCore { k with stage := .publishing scope })
    | _ => slack (s.setCore { k with stage := .run })

/-- The release goes on as far as it can (R125); a fault of it is the job's. -/
def State.release (s : State) (k : Core) (after : After) : State :=
  match s.releaseAll k k.held with
  | (s, k, some cause) => (s.setCore k).faultRun k.run cause
  | (s, k, none) =>
    if k.held.isEmpty then s.released k after else s.setCore { k with stage := .releasing after }

/-! ## A whole bundle -/

/-- What a slot's plan comes to behind the plans of earlier slots of its bundle: a second producer or consumer of one stream tape
traps (R169), and so does an append that finds the tape full with theirs counted (R168). -/
def Ctx.beside (c : Ctx) (seen : List Plan) (p : Plan) : Plan :=
  let full (h : Held) : Option (Nat × W64 × W64) :=
    match h with
    | .append t n _ =>
      let at_ := c.k.fillWith c.run t + (heldAppends (seen.flatMap Plan.held) t).length
      if ((c.st.dir c.fl t).map (fun d => decide (d.length ≤ at_))).getD false then
        some (0x09, BitVec.ofNat 64 n, BitVec.ofNat 64 at_)
      else none
    | _ => none
  let twice := p.attaches.bind (fun a =>
    if seen.any (fun q => q.attaches == some a) then some (0x08, a.1.setWidth 64, BitVec.allOnes 64) else none)
  if p.late.isSome then p else { p with late := twice.orElse (fun _ => p.held.findSome? full) }

/-- The plans of a bundle's slots, each behind those before it. -/
def Ctx.besides (c : Ctx) : List Plan → List (Nat × Plan) → List (Nat × Plan)
  | _, [] => []
  | [], p :: rest => p :: c.besides [p.2] rest
  | seen, p :: rest => (p.1, c.beside seen p.2) :: c.besides (seen ++ [p.2]) rest

/-- Each slot of a bundle that commits with its plan (R261). -/
def Ctx.plans (c : Ctx) (b : Bundle) : List (Nat × Plan) :=
  let leaf := leafOf c.k.arch b.h
  c.besides [] ((b.slots.filter (fun x => commits (hdrTag b.h x.1) leaf)).map (fun x => (x.1, x.2 { c with slot := x.1 })))

/-- The handrail line of a SYNC that has yet to raise its input: its bundle has only reached issue (R133). -/
def syncOf (stage : Stage) (ps : List (Nat × Plan)) : Option Nat :=
  match stage, afterOf ps with
  | .syncIssue, _ => none
  | _, .sync line => some line
  | _, _ => none

/-- The core's turn of this tick is over. -/
def State.endTurn (s : State) : State := s.passTurn s.cur

/-- The stage of a core that cannot issue yet. A SYNC bundle whose line has released stays the next to issue (R133). -/
def Stage.waiting (st : Stage) (cause : Cause) : Stage :=
  match st with
  | .syncIssue => .syncIssue
  | _ => .frozen cause

/-- A core whose SYNC bundle has passed its checks keeps it, with the extents that the checks found cached (R133). -/
def Ctx.syncing (c : Ctx) (b : Bundle) : Core :=
  { c.k with
    synced := (b.decoded c.k.arch.pc).head?
    syncExtents := ((c.st.hallAt (hallOf c.k.no)).extents.filter (fun e => e.1 == c.k.run)).map (fun e => e.2) }

/-- What the freezes of a bundle's slots start: a translation walk. One that waits for a token has yet to read its operands (R124). -/
def Ctx.started (c : Ctx) (ps : List (Nat × Plan)) : State :=
  match c.tokenFreeze ps with
  | some _ => c.st
  | none => ps.foldl (fun s p => p.2.starts s) c.st

/-- A bundle at issue (Table 14.9 orders 6 and 7, R119 to R126). -/
def Ctx.issue (c : Ctx) (b : Bundle) : State :=
  let ps := c.plans b
  let s := c.st
  match c.stops ps with
  | some (.inl t) => s.trap c.k t
  | some (.inr cause) =>
    ((c.started ps).setCore { c.k with stage := c.k.stage.waiting cause }).endTurn
  | none =>
    match syncOf c.k.stage ps with
    | some line => (s.release (c.syncing b) (.sync line)).endTurn
    | none =>
      let k := c.issued b ps
      let s := ps.foldl (fun s p => p.2.glob s) (s.setCore k)
      let s := match s.coreAt k.no with
        | some k => if hdrCk b.h then s.release k (afterIssue (afterOf ps)) else s
        | none => s
      s.endTurn

/-- The header of a bundle that holds one slot alone, with the ports it may need and the checkpoint it must have. -/
def soloHdr (slot : Nat) (ck : Bool) : BitVec 94 :=
  let ports : Nat := match slot with
    | 2 => 3 * 2 ^ 53
    | 3 => 2 * 2 ^ 50
    | 4 => 2 ^ 47
    | 5 => 2 ^ 44
    | _ => 0
  BitVec.ofNat 94 ((if ck then 2 ^ 93 else 0) + 2 ^ (84 + slot) + ports)

/-- The meaning of a slot instruction by itself: the literal bundle that holds its word alone, issued by the core whose turn
it is (R119, R257). A core that holds no task, or that a stop holds, issues nothing. -/
def issueAlone (slot : Nat) (ck : Bool) (words : List W32) (plan : Ctx → Plan) (s : State) : Out :=
  match s.ctx (soloHdr slot ck) words (s.lenHere 16) slot with
  | none => .next s
  | some c =>
    if c.k.stops.isEmpty then .next (c.issue { h := c.h, len := c.len, slots := [(slot, plan)], words := c.words })
    else .next s.endTurn

end Sys2Proof.Machine
end

