-- ==== Sys2Proof/Machine/Scalar.lean ====
section
/-! DEFINITION. The meanings of the scalar instructions of SA and SB (15): integer arithmetic (R275), compares and predicate
logic (R276), scratch accesses (R277), FP32 (R278), system registers (R279, R280), VIEW, FTSET and RNGK (R281 to R283).
Each instruction has a plan, read at its issue, and a meaning: the bundle that holds it alone. -/

namespace Sys2Proof.Machine

/-! ## Shared shapes -/

/-- A register result of latency 1 (Table 6.2). -/
def aluPlan (srcs : List Nat) (d : Nat) (v : W64) : Plan :=
  { reads := srcs.map Loc.reg, writes := [.reg d], imm := fun k => { k with arch := k.arch.setReg d v } }

/-- A register result of latency `l` with the flags its landing sets. -/
def latePlan (c : Ctx) (l : Nat) (srcs : List Nat) (d : Nat) (v : W64) (fl : Flags) : Plan :=
  { reads := srcs.map Loc.reg, writes := [.reg d]
    lands := [c.pend l .scalar (.reg (physReg c.k.arch.rot d)) v [] fl] }

/-- A predicate result of latency 1. -/
def predPlan (srcs : List Loc) (d : Nat) (v : Bool) : Plan :=
  { reads := srcs, writes := [.pred d]
    imm := fun k => { k with arch := k.arch.setPred d v } }

/-- Inside a LOOP.SP body p4–p7 belong to the sequencer (R276). -/
def stageOwned (a : Arch) (d : Nat) : Bool := 4 ≤ d && a.loops.any (fun e => e.kind == .pipelined)

/-- A predicate destination of R276. -/
def cmpPlan (c : Ctx) (srcs : List Loc) (d : Nat) (v : Bool) : Plan :=
  { predPlan srcs d v with bad := stageOwned c.k.arch d }

/-- The rounding of an instruction in SR writes %rngstep and may not meet a write of %rngkey (R274, R280). -/
def srWrites (sr : Bool) : List Loc := if sr then [.sys 0x1A, .sys 0x19] else []

/-- The value of a register as a signed integer. -/
def sval (v : W64) : Int := v.toInt

/-- Signed minimum and maximum, unsigned minimum and maximum (R275). -/
def minS (a b : W64) : W64 := if a.toInt ≤ b.toInt then a else b
def maxS (a b : W64) : W64 := if a.toInt ≤ b.toInt then b else a
def minU (a b : W64) : W64 := if a.toNat ≤ b.toNat then a else b
def maxU (a b : W64) : W64 := if a.toNat ≤ b.toNat then b else a

/-- Leading zero bits (R275). -/
def clz64 (a : W64) : W64 := if a = 0 then 64 else BitVec.ofNat 64 (63 - a.toNat.log2)
/-- One bits. -/
def popc64 (a : W64) : W64 := BitVec.ofNat 64 ((List.range 64).filter a.getLsbD).length

/-- The condition codes of Table 14.6 over 64-bit values. -/
def condInt (cc : Nat) (a b : W64) : Bool :=
  match cc with
  | 0 => a == b
  | 1 => a != b
  | 2 => a.toInt < b.toInt
  | 3 => a.toInt ≤ b.toInt
  | 4 => b.toInt < a.toInt
  | 5 => b.toInt ≤ a.toInt
  | 6 => a.toNat < b.toNat
  | 7 => a.toNat ≤ b.toNat
  | 8 => b.toNat < a.toNat
  | _ => b.toNat ≤ a.toNat

/-- Unsigned quotient and remainder; division by zero as Table 15.1 gives it. -/
def divu64 (a b : W64) : W64 := if b = 0 then BitVec.allOnes 64 else a / b
def remu64 (a b : W64) : W64 := if b = 0 then a else a % b

/-- High halves of the 128-bit products. -/
def mulh64 (a b : W64) : W64 := BitVec.ofInt 64 (a.toInt * b.toInt / (2 ^ 64 : Nat))
def mulhu64 (a b : W64) : W64 := BitVec.ofNat 64 (a.toNat * b.toNat / 2 ^ 64)

/-- The `len` bits of `a` from `pos`, and `d` with its bits from `pos` replaced by the low `len` bits of `a` (R275). -/
def bfx64 (a : W64) (pos len : Nat) : W64 := (a >>> pos) &&& ((1#65 <<< len) - 1).setWidth 64
def bfi64 (d a : W64) (pos len : Nat) : W64 :=
  let m : W64 := ((1#65 <<< len) - 1).setWidth 64 <<< pos
  (d &&& ~~~m) ||| ((a <<< pos) &&& m)

/-- An amount of a shift: bits 5–0. -/
def amount (b : W64) : Nat := b.toNat % 64

/-- The scalar FP32 value of a register: bits 31–0. -/
def fpReg (v : W64) : Val := f32 v.toNat

/-- An FP32 result: the exact value rounded in the mode, bits 63–32 clear (R278). -/
def fpResult (a : Arch) (m : Mode) (x : XRes) : FRes :=
  let r := fp32.round (a.rounding m 0) false x.1
  ⟨r.code, r.flags ||| flagIf x.2 fInv⟩

/-- An FP32 instruction of latency 4 in mode field `m` (R278, R194). -/
def fpPlan (c : Ctx) (srcs : List Nat) (d m : Nat) (x : XRes) : Plan :=
  let mode := c.k.arch.modeField m
  let r := fpResult c.k.arch mode x
  { latePlan c 4 srcs d (BitVec.ofNat 64 r.code) r.flags with
    writes := .reg d :: srWrites mode.isSr
    feats := if mode.isSr then [4] else []
    imm := fun k => { k with arch := k.arch.stepRng mode.isSr } }

/-- FCVT's result: a 64-bit integer, saturated (R278). -/
def fcvtResult (a : Arch) (m : Mode) (unsigned : Bool) (v : Val) : W64 × Flags :=
  let lo : Int := if unsigned then 0 else -(2 ^ 63 : Nat)
  let hi : Int := if unsigned then (2 ^ 64 : Nat) - 1 else (2 ^ 63 : Nat) - 1
  let r := toIntRange lo hi (a.rounding m 0) v
  (BitVec.ofInt 64 r.1, r.2)

/-- A scratch load of `n` bytes (R277). -/
def loadPlan (c : Ctx) (n : Nat) (d a : Nat) (i : BitVec 12) : Plan :=
  let ea := scratchAt (c.k.arch.reg a + i.signExtend 64) n
  latePlan c 4 [a] d (BitVec.ofNat 64 (c.k.scratch.num ea n)) 0

/-- A scratch store of `n` bytes, at issue (R277, R178). -/
def storePlan (c : Ctx) (n : Nat) (d a : Nat) (i : BitVec 12) : Plan :=
  let ea := scratchAt (c.k.arch.reg a + i.signExtend 64) n
  let v := (c.k.arch.reg d).toNat % 2 ^ (8 * n)
  { reads := [.reg a, .reg d], writes := [.scratch ea n]
    imm := fun k => { k with scratch := k.scratch.put ea n v } }

/-! ## System registers (R279) -/

/-- What RDSR reads (Table 15.4). -/
def readSys (c : Ctx) (r : Nat) : W64 :=
  let a := c.k.arch
  match r with
  | 0x000 => BitVec.ofNat 64 c.st.pcyc
  | 0x001 => c.feats.setWidth 64
  | 0x002 => c.k.coreId
  | 0x003 => a.cpos
  | 0x008 => (c.k.dom.getD 0 0).setWidth 64
  | 0x009 => (c.k.dom.getD 1 0).setWidth 64
  | 0x00A => (c.k.dom.getD 2 0).setWidth 64
  | 0x00B => (c.k.dom.getD 3 0).setWidth 64
  | 0x010 => a.fstat.setWidth 64
  | 0x011 => a.ftab
  | 0x012 => a.bgeo
  | 0x013 => a.absorb.setWidth 64
  | 0x018 => a.rngSeed
  | 0x019 => a.rngKey
  | 0x01A => a.rngStep
  | 0x020 => a.vt
  | 0x028 => a.rsDepth.setWidth 64
  | _ => a.rsLimit.setWidth 64

/-- Registers marked RO in Table 15.4. -/
def sysReadOnly (r : Nat) : Bool := [0x000, 0x001, 0x002, 0x003, 0x008, 0x009, 0x00A, 0x00B, 0x028].contains r

/-- A write of every RW field, the rest ignored; W1C for %vt (R7, R279, Table 7.1). -/
def Arch.writeSys (a : Arch) (r : Nat) (v : W64) : Arch :=
  match r with
  | 0x010 => { a with fstat := v.setWidth 32 &&& fstatMask }
  | 0x011 => { a with ftab := v }
  | 0x012 => { a with bgeo := v &&& 0xF7 }
  | 0x013 => { a with absorb := v.setWidth 32 }
  | 0x018 => { a with rngSeed := v }
  | 0x019 => { a with rngKey := v }
  | 0x01A => { a with rngStep := v }
  | 0x020 => { a with views := a.views.zipIdx.map (fun p => if v.getLsbD p.2 then p.1 &&& ~~~(1#128 <<< 127) else p.1) }
  | 0x029 => { a with rsLimit := v.setWidth 32 &&& 0xFF00 }
  | _ => a

/-- VIEW's descriptor (R281); reserved bits fail its checks and are not kept (R7). -/
def viewDesc (n : Nat) (lo hi : W64) : Desc :=
  let d : Desc := (0#1 ++ fld hi 0 63 ++ lo : BitVec 128)
  let valid : BitVec 1 := if descValid n d then 1 else 0
  let d : Desc := (valid ++ fld d 0 127 : BitVec 128) &&& descMask n
  if 48 ≤ n then accWith d 0 else d

/-! ## Plans and meanings -/

/-- Plan of ADD (R275): d := a + b. -/
def planAdd (d : BitVec 6) (a : BitVec 6) (b : BitVec 6) (c : Ctx) : Plan :=
  aluPlan [a.toNat, b.toNat] d.toNat ((c.k.arch.reg a.toNat) + (c.k.arch.reg b.toNat))

/-- ADD by itself. -/
def execAdd (d : BitVec 6) (a : BitVec 6) (b : BitVec 6) (s : State) : Out := issueAlone 0 false (encode (.add d a b)) (planAdd d a b) s

/-- Plan of SUB (R275): d := a − b. -/
def planSub (d : BitVec 6) (a : BitVec 6) (b : BitVec 6) (c : Ctx) : Plan :=
  aluPlan [a.toNat, b.toNat] d.toNat ((c.k.arch.reg a.toNat) - (c.k.arch.reg b.toNat))

/-- SUB by itself. -/
def execSub (d : BitVec 6) (a : BitVec 6) (b : BitVec 6) (s : State) : Out := issueAlone 0 false (encode (.sub d a b)) (planSub d a b) s

/-- Plan of MUL (R275): the low half of the product, after 3 vc. -/
def planMul (d : BitVec 6) (a : BitVec 6) (b : BitVec 6) (c : Ctx) : Plan :=
  latePlan c 3 [a.toNat, b.toNat] d.toNat ((c.k.arch.reg a.toNat) * (c.k.arch.reg b.toNat)) 0

/-- MUL by itself. -/
def execMul (d : BitVec 6) (a : BitVec 6) (b : BitVec 6) (s : State) : Out := issueAlone 0 false (encode (.mul d a b)) (planMul d a b) s

/-- Plan of MULH (R275): the high half of the signed product. -/
def planMulh (d : BitVec 6) (a : BitVec 6) (b : BitVec 6) (c : Ctx) : Plan :=
  latePlan c 3 [a.toNat, b.toNat] d.toNat (mulh64 (c.k.arch.reg a.toNat) (c.k.arch.reg b.toNat)) 0

/-- MULH by itself. -/
def execMulh (d : BitVec 6) (a : BitVec 6) (b : BitVec 6) (s : State) : Out := issueAlone 0 false (encode (.mulh d a b)) (planMulh d a b) s

/-- Plan of MULHU (R275): the high half of the unsigned product. -/
def planMulhu (d : BitVec 6) (a : BitVec 6) (b : BitVec 6) (c : Ctx) : Plan :=
  latePlan c 3 [a.toNat, b.toNat] d.toNat (mulhu64 (c.k.arch.reg a.toNat) (c.k.arch.reg b.toNat)) 0

/-- MULHU by itself. -/
def execMulhu (d : BitVec 6) (a : BitVec 6) (b : BitVec 6) (s : State) : Out :=
  issueAlone 0 false (encode (.mulhu d a b)) (planMulhu d a b) s

/-- Plan of DIVU (R275): the unsigned quotient, after 12 vc. -/
def planDivu (d : BitVec 6) (a : BitVec 6) (b : BitVec 6) (c : Ctx) : Plan :=
  latePlan c 12 [a.toNat, b.toNat] d.toNat (divu64 (c.k.arch.reg a.toNat) (c.k.arch.reg b.toNat)) 0

/-- DIVU by itself. -/
def execDivu (d : BitVec 6) (a : BitVec 6) (b : BitVec 6) (s : State) : Out := issueAlone 0 false (encode (.divu d a b)) (planDivu d a b) s

/-- Plan of REMU (R275): the unsigned remainder, after 12 vc. -/
def planRemu (d : BitVec 6) (a : BitVec 6) (b : BitVec 6) (c : Ctx) : Plan :=
  latePlan c 12 [a.toNat, b.toNat] d.toNat (remu64 (c.k.arch.reg a.toNat) (c.k.arch.reg b.toNat)) 0

/-- REMU by itself. -/
def execRemu (d : BitVec 6) (a : BitVec 6) (b : BitVec 6) (s : State) : Out := issueAlone 0 false (encode (.remu d a b)) (planRemu d a b) s

/-- Plan of AND (R275): bitwise and. -/
def planAnd (d : BitVec 6) (a : BitVec 6) (b : BitVec 6) (c : Ctx) : Plan :=
  aluPlan [a.toNat, b.toNat] d.toNat ((c.k.arch.reg a.toNat) &&& (c.k.arch.reg b.toNat))

/-- AND by itself. -/
def execAnd (d : BitVec 6) (a : BitVec 6) (b : BitVec 6) (s : State) : Out := issueAlone 0 false (encode (.and d a b)) (planAnd d a b) s

/-- Plan of OR (R275): bitwise or. -/
def planOr (d : BitVec 6) (a : BitVec 6) (b : BitVec 6) (c : Ctx) : Plan :=
  aluPlan [a.toNat, b.toNat] d.toNat ((c.k.arch.reg a.toNat) ||| (c.k.arch.reg b.toNat))

/-- OR by itself. -/
def execOr (d : BitVec 6) (a : BitVec 6) (b : BitVec 6) (s : State) : Out := issueAlone 0 false (encode (.or d a b)) (planOr d a b) s

/-- Plan of XOR (R275): bitwise exclusive or. -/
def planXor (d : BitVec 6) (a : BitVec 6) (b : BitVec 6) (c : Ctx) : Plan :=
  aluPlan [a.toNat, b.toNat] d.toNat ((c.k.arch.reg a.toNat) ^^^ (c.k.arch.reg b.toNat))

/-- XOR by itself. -/
def execXor (d : BitVec 6) (a : BitVec 6) (b : BitVec 6) (s : State) : Out := issueAlone 0 false (encode (.xor d a b)) (planXor d a b) s

/-- Plan of SHL (R275): left shift by bits 5–0 of b. -/
def planShl (d : BitVec 6) (a : BitVec 6) (b : BitVec 6) (c : Ctx) : Plan :=
  aluPlan [a.toNat, b.toNat] d.toNat ((c.k.arch.reg a.toNat) <<< amount (c.k.arch.reg b.toNat))

/-- SHL by itself. -/
def execShl (d : BitVec 6) (a : BitVec 6) (b : BitVec 6) (s : State) : Out := issueAlone 0 false (encode (.shl d a b)) (planShl d a b) s

/-- Plan of SHR (R275): logical right shift by bits 5–0 of b. -/
def planShr (d : BitVec 6) (a : BitVec 6) (b : BitVec 6) (c : Ctx) : Plan :=
  aluPlan [a.toNat, b.toNat] d.toNat ((c.k.arch.reg a.toNat) >>> amount (c.k.arch.reg b.toNat))

/-- SHR by itself. -/
def execShr (d : BitVec 6) (a : BitVec 6) (b : BitVec 6) (s : State) : Out := issueAlone 0 false (encode (.shr d a b)) (planShr d a b) s

/-- Plan of SAR (R275): arithmetic right shift by bits 5–0 of b. -/
def planSar (d : BitVec 6) (a : BitVec 6) (b : BitVec 6) (c : Ctx) : Plan :=
  aluPlan [a.toNat, b.toNat] d.toNat ((c.k.arch.reg a.toNat).sshiftRight (amount (c.k.arch.reg b.toNat)))

/-- SAR by itself. -/
def execSar (d : BitVec 6) (a : BitVec 6) (b : BitVec 6) (s : State) : Out := issueAlone 0 false (encode (.sar d a b)) (planSar d a b) s

/-- Plan of MIN (R275): signed minimum. -/
def planMin (d : BitVec 6) (a : BitVec 6) (b : BitVec 6) (c : Ctx) : Plan :=
  aluPlan [a.toNat, b.toNat] d.toNat (minS (c.k.arch.reg a.toNat) (c.k.arch.reg b.toNat))

/-- MIN by itself. -/
def execMin (d : BitVec 6) (a : BitVec 6) (b : BitVec 6) (s : State) : Out := issueAlone 0 false (encode (.min d a b)) (planMin d a b) s

/-- Plan of MAX (R275): signed maximum. -/
def planMax (d : BitVec 6) (a : BitVec 6) (b : BitVec 6) (c : Ctx) : Plan :=
  aluPlan [a.toNat, b.toNat] d.toNat (maxS (c.k.arch.reg a.toNat) (c.k.arch.reg b.toNat))

/-- MAX by itself. -/
def execMax (d : BitVec 6) (a : BitVec 6) (b : BitVec 6) (s : State) : Out := issueAlone 0 false (encode (.max d a b)) (planMax d a b) s

/-- Plan of MINU (R275): unsigned minimum. -/
def planMinu (d : BitVec 6) (a : BitVec 6) (b : BitVec 6) (c : Ctx) : Plan :=
  aluPlan [a.toNat, b.toNat] d.toNat (minU (c.k.arch.reg a.toNat) (c.k.arch.reg b.toNat))

/-- MINU by itself. -/
def execMinu (d : BitVec 6) (a : BitVec 6) (b : BitVec 6) (s : State) : Out := issueAlone 0 false (encode (.minu d a b)) (planMinu d a b) s

/-- Plan of MAXU (R275): unsigned maximum. -/
def planMaxu (d : BitVec 6) (a : BitVec 6) (b : BitVec 6) (c : Ctx) : Plan :=
  aluPlan [a.toNat, b.toNat] d.toNat (maxU (c.k.arch.reg a.toNat) (c.k.arch.reg b.toNat))

/-- MAXU by itself. -/
def execMaxu (d : BitVec 6) (a : BitVec 6) (b : BitVec 6) (s : State) : Out := issueAlone 0 false (encode (.maxu d a b)) (planMaxu d a b) s

/-- Plan of CLZ (R275): leading zero bits. -/
def planClz (d : BitVec 6) (a : BitVec 6) (c : Ctx) : Plan :=
  aluPlan [a.toNat] d.toNat (clz64 (c.k.arch.reg a.toNat))

/-- CLZ by itself. -/
def execClz (d : BitVec 6) (a : BitVec 6) (s : State) : Out := issueAlone 0 false (encode (.clz d a)) (planClz d a) s

/-- Plan of POPC (R275): one bits. -/
def planPopc (d : BitVec 6) (a : BitVec 6) (c : Ctx) : Plan :=
  aluPlan [a.toNat] d.toNat (popc64 (c.k.arch.reg a.toNat))

/-- POPC by itself. -/
def execPopc (d : BitVec 6) (a : BitVec 6) (s : State) : Out := issueAlone 0 false (encode (.popc d a)) (planPopc d a) s

/-- Plan of SEL (R275): a when the test passes, else b. -/
def planSel (d : BitVec 6) (a : BitVec 6) (b : BitVec 6) (p : BitVec 1) (n : BitVec 3) (c : Ctx) : Plan :=
  let v := if c.k.arch.pred n.toNat != (p == 1) then c.k.arch.reg a.toNat else c.k.arch.reg b.toNat
  { aluPlan [a.toNat, b.toNat] d.toNat v with reads := [.reg a.toNat, .reg b.toNat, .pred n.toNat] }

/-- SEL by itself. -/
def execSel (d : BitVec 6) (a : BitVec 6) (b : BitVec 6) (p : BitVec 1) (n : BitVec 3) (s : State) : Out :=
  issueAlone 0 false (encode (.sel d a b p n)) (planSel d a b p n) s

/-- Plan of ADDI (R275): d := a + sext(imm12). -/
def planAddi (d : BitVec 6) (a : BitVec 6) (i : BitVec 12) (c : Ctx) : Plan :=
  aluPlan [a.toNat] d.toNat ((c.k.arch.reg a.toNat) + i.signExtend 64)

/-- ADDI by itself. -/
def execAddi (d : BitVec 6) (a : BitVec 6) (i : BitVec 12) (s : State) : Out := issueAlone 0 false (encode (.addi d a i)) (planAddi d a i) s

/-- Plan of ANDI (R275): bitwise with sext(imm12). -/
def planAndi (d : BitVec 6) (a : BitVec 6) (i : BitVec 12) (c : Ctx) : Plan :=
  aluPlan [a.toNat] d.toNat ((c.k.arch.reg a.toNat) &&& i.signExtend 64)

/-- ANDI by itself. -/
def execAndi (d : BitVec 6) (a : BitVec 6) (i : BitVec 12) (s : State) : Out := issueAlone 0 false (encode (.andi d a i)) (planAndi d a i) s

/-- Plan of ORI (R275): bitwise with sext(imm12). -/
def planOri (d : BitVec 6) (a : BitVec 6) (i : BitVec 12) (c : Ctx) : Plan :=
  aluPlan [a.toNat] d.toNat ((c.k.arch.reg a.toNat) ||| i.signExtend 64)

/-- ORI by itself. -/
def execOri (d : BitVec 6) (a : BitVec 6) (i : BitVec 12) (s : State) : Out := issueAlone 0 false (encode (.ori d a i)) (planOri d a i) s

/-- Plan of XORI (R275): bitwise with sext(imm12). -/
def planXori (d : BitVec 6) (a : BitVec 6) (i : BitVec 12) (c : Ctx) : Plan :=
  aluPlan [a.toNat] d.toNat ((c.k.arch.reg a.toNat) ^^^ i.signExtend 64)

/-- XORI by itself. -/
def execXori (d : BitVec 6) (a : BitVec 6) (i : BitVec 12) (s : State) : Out := issueAlone 0 false (encode (.xori d a i)) (planXori d a i) s

/-- Plan of SHLI (R275): as SHL with amount n. -/
def planShli (d : BitVec 6) (a : BitVec 6) (n : BitVec 6) (c : Ctx) : Plan :=
  aluPlan [a.toNat] d.toNat ((c.k.arch.reg a.toNat) <<< n.toNat)

/-- SHLI by itself. -/
def execShli (d : BitVec 6) (a : BitVec 6) (n : BitVec 6) (s : State) : Out := issueAlone 0 false (encode (.shli d a n)) (planShli d a n) s

/-- Plan of SHRI (R275): as SHR with amount n. -/
def planShri (d : BitVec 6) (a : BitVec 6) (n : BitVec 6) (c : Ctx) : Plan :=
  aluPlan [a.toNat] d.toNat ((c.k.arch.reg a.toNat) >>> n.toNat)

/-- SHRI by itself. -/
def execShri (d : BitVec 6) (a : BitVec 6) (n : BitVec 6) (s : State) : Out := issueAlone 0 false (encode (.shri d a n)) (planShri d a n) s

/-- Plan of SARI (R275): as SAR with amount n. -/
def planSari (d : BitVec 6) (a : BitVec 6) (n : BitVec 6) (c : Ctx) : Plan :=
  aluPlan [a.toNat] d.toNat ((c.k.arch.reg a.toNat).sshiftRight n.toNat)

/-- SARI by itself. -/
def execSari (d : BitVec 6) (a : BitVec 6) (n : BitVec 6) (s : State) : Out := issueAlone 0 false (encode (.sari d a n)) (planSari d a n) s

/-- Plan of BFX (R275): bits pos + len − 1 to pos of a. -/
def planBfx (d : BitVec 6) (a : BitVec 6) (p : BitVec 6) (l : BitVec 6) (c : Ctx) : Plan :=
  aluPlan [a.toNat] d.toNat (bfx64 (c.k.arch.reg a.toNat) p.toNat (l.toNat + 1))

/-- BFX by itself. -/
def execBfx (d : BitVec 6) (a : BitVec 6) (p : BitVec 6) (l : BitVec 6) (s : State) : Out :=
  issueAlone 0 false (encode (.bfx d a p l)) (planBfx d a p l) s

/-- Plan of BFI (R275): d with bits pos + len − 1 to pos from a; d is a source. -/
def planBfi (d : BitVec 6) (a : BitVec 6) (p : BitVec 6) (l : BitVec 6) (c : Ctx) : Plan :=
  aluPlan [a.toNat, d.toNat] d.toNat (bfi64 (c.k.arch.reg d.toNat) (c.k.arch.reg a.toNat) p.toNat (l.toNat + 1))

/-- BFI by itself. -/
def execBfi (d : BitVec 6) (a : BitVec 6) (p : BitVec 6) (l : BitVec 6) (s : State) : Out :=
  issueAlone 0 false (encode (.bfi d a p l)) (planBfi d a p l) s

/-- Plan of MOVI (R275): d := imm18, zero-extended. -/
def planMovi (d : BitVec 6) (i : BitVec 18) (_c : Ctx) : Plan :=
  aluPlan [] d.toNat (i.setWidth 64)

/-- MOVI by itself. -/
def execMovi (d : BitVec 6) (i : BitVec 18) (s : State) : Out := issueAlone 0 false (encode (.movi d i)) (planMovi d i) s

/-- Plan of MOVHI (R275): d := (d << 18) or imm18; d is a source. -/
def planMovhi (d : BitVec 6) (i : BitVec 18) (c : Ctx) : Plan :=
  aluPlan [d.toNat] d.toNat ((c.k.arch.reg d.toNat) <<< 18 ||| i.setWidth 64)

/-- MOVHI by itself. -/
def execMovhi (d : BitVec 6) (i : BitVec 18) (s : State) : Out := issueAlone 0 false (encode (.movhi d i)) (planMovhi d i) s

/-- Plan of CMP.cc (R276): pD := (a cc b). -/
def planCmpCc (d : BitVec 3) (a : BitVec 6) (b : BitVec 6) (c_ : BitVec 6) (c : Ctx) : Plan :=
  cmpPlan c [.reg a.toNat, .reg b.toNat] d.toNat
    (condInt (c_.toNat) (c.k.arch.reg a.toNat) (c.k.arch.reg b.toNat))

/-- CMP.cc by itself. -/
def execCmpCc (d : BitVec 3) (a : BitVec 6) (b : BitVec 6) (c_ : BitVec 6) (s : State) : Out :=
  issueAlone 0 false (encode (.cmpCc d a b c_)) (planCmpCc d a b c_) s

/-- Plan of PAND (R276): pD := pA and pB. -/
def planPand (d : BitVec 3) (a : BitVec 3) (b : BitVec 3) (c : Ctx) : Plan :=
  cmpPlan c [.pred a.toNat, .pred b.toNat] d.toNat (c.k.arch.pred a.toNat && c.k.arch.pred b.toNat)

/-- PAND by itself. -/
def execPand (d : BitVec 3) (a : BitVec 3) (b : BitVec 3) (s : State) : Out := issueAlone 0 false (encode (.pand d a b)) (planPand d a b) s

/-- Plan of POR (R276): pD := pA or pB. -/
def planPor (d : BitVec 3) (a : BitVec 3) (b : BitVec 3) (c : Ctx) : Plan :=
  cmpPlan c [.pred a.toNat, .pred b.toNat] d.toNat (c.k.arch.pred a.toNat || c.k.arch.pred b.toNat)

/-- POR by itself. -/
def execPor (d : BitVec 3) (a : BitVec 3) (b : BitVec 3) (s : State) : Out := issueAlone 0 false (encode (.por d a b)) (planPor d a b) s

/-- Plan of PXOR (R276): pD := pA xor pB. -/
def planPxor (d : BitVec 3) (a : BitVec 3) (b : BitVec 3) (c : Ctx) : Plan :=
  cmpPlan c [.pred a.toNat, .pred b.toNat] d.toNat (c.k.arch.pred a.toNat != c.k.arch.pred b.toNat)

/-- PXOR by itself. -/
def execPxor (d : BitVec 3) (a : BitVec 3) (b : BitVec 3) (s : State) : Out := issueAlone 0 false (encode (.pxor d a b)) (planPxor d a b) s

/-- Plan of PNOT (R276): pD := not pA. -/
def planPnot (d : BitVec 3) (a : BitVec 3) (c : Ctx) : Plan :=
  cmpPlan c [.pred a.toNat] d.toNat (!c.k.arch.pred a.toNat)

/-- PNOT by itself. -/
def execPnot (d : BitVec 3) (a : BitVec 3) (s : State) : Out := issueAlone 0 false (encode (.pnot d a)) (planPnot d a) s

/-- Plan of CMPI.cc (R276): pD := (a cc sext(imm12)). -/
def planCmpiCc (c_ : BitVec 4) (d : BitVec 3) (a : BitVec 6) (i : BitVec 12) (c : Ctx) : Plan :=
  cmpPlan c [.reg a.toNat] d.toNat (condInt (c_.toNat) (c.k.arch.reg a.toNat) (i.signExtend 64))

/-- CMPI.cc by itself. -/
def execCmpiCc (c_ : BitVec 4) (d : BitVec 3) (a : BitVec 6) (i : BitVec 12) (s : State) : Out :=
  issueAlone 0 false (encode (.cmpiCc c_ d a i)) (planCmpiCc c_ d a i) s

/-- Plan of FADD.S (R278): round(a + b). -/
def planFaddS (d : BitVec 6) (a : BitVec 6) (b : BitVec 6) (m : BitVec 3) (c : Ctx) : Plan :=
  fpPlan c [a.toNat, b.toNat] d.toNat m.toNat
    ((fpReg (c.k.arch.reg a.toNat)).add (fpReg (c.k.arch.reg b.toNat)) (c.k.arch.modeField m.toNat).isRd)

/-- FADD.S by itself. -/
def execFaddS (d : BitVec 6) (a : BitVec 6) (b : BitVec 6) (m : BitVec 3) (s : State) : Out :=
  issueAlone 0 false (encode (.faddS d a b m)) (planFaddS d a b m) s

/-- Plan of FMUL.S (R278): round(a × b). -/
def planFmulS (d : BitVec 6) (a : BitVec 6) (b : BitVec 6) (m : BitVec 3) (c : Ctx) : Plan :=
  fpPlan c [a.toNat, b.toNat] d.toNat m.toNat ((fpReg (c.k.arch.reg a.toNat)).mul (fpReg (c.k.arch.reg b.toNat)))

/-- FMUL.S by itself. -/
def execFmulS (d : BitVec 6) (a : BitVec 6) (b : BitVec 6) (m : BitVec 3) (s : State) : Out :=
  issueAlone 0 false (encode (.fmulS d a b m)) (planFmulS d a b m) s

/-- Plan of FFMA.S (R278): round(a × b + d), rounded once; d is a source. -/
def planFfmaS (d : BitVec 6) (a : BitVec 6) (b : BitVec 6) (m : BitVec 3) (c : Ctx) : Plan :=
  fpPlan c [a.toNat, b.toNat, d.toNat] d.toNat m.toNat
    ((fpReg (c.k.arch.reg a.toNat)).fma (fpReg (c.k.arch.reg b.toNat)) (fpReg (c.k.arch.reg d.toNat))
      (c.k.arch.modeField m.toNat).isRd)

/-- FFMA.S by itself. -/
def execFfmaS (d : BitVec 6) (a : BitVec 6) (b : BitVec 6) (m : BitVec 3) (s : State) : Out :=
  issueAlone 0 false (encode (.ffmaS d a b m)) (planFfmaS d a b m) s

/-- Plan of FMIN.S (R278): the lesser; −0 < +0; no flag. -/
def planFminS (d : BitVec 6) (a : BitVec 6) (b : BitVec 6) (c : Ctx) : Plan :=
  latePlan c 4 [a.toNat, b.toNat] d.toNat
    (BitVec.ofNat 64 (fp32.round .rne false ((fpReg (c.k.arch.reg a.toNat)).minOf (fpReg (c.k.arch.reg b.toNat)))).code) 0

/-- FMIN.S by itself. -/
def execFminS (d : BitVec 6) (a : BitVec 6) (b : BitVec 6) (s : State) : Out :=
  issueAlone 0 false (encode (.fminS d a b)) (planFminS d a b) s

/-- Plan of FMAX.S (R278): the greater; −0 < +0; no flag. -/
def planFmaxS (d : BitVec 6) (a : BitVec 6) (b : BitVec 6) (c : Ctx) : Plan :=
  latePlan c 4 [a.toNat, b.toNat] d.toNat
    (BitVec.ofNat 64 (fp32.round .rne false ((fpReg (c.k.arch.reg a.toNat)).maxOf (fpReg (c.k.arch.reg b.toNat)))).code) 0

/-- FMAX.S by itself. -/
def execFmaxS (d : BitVec 6) (a : BitVec 6) (b : BitVec 6) (s : State) : Out :=
  issueAlone 0 false (encode (.fmaxS d a b)) (planFmaxS d a b) s

/-- Plan of FCMP.cc (R278): pD := (a cc b) after 4 vc. -/
def planFcmpCc (d : BitVec 3) (a : BitVec 6) (b : BitVec 6) (c_ : BitVec 6) (c : Ctx) : Plan :=
  { reads := [.reg a.toNat, .reg b.toNat], writes := [.pred d.toNat], bad := stageOwned c.k.arch d.toNat
    lands := [c.pend 4 .pred (.pred d.toNat)
      (if condVal (c_.toNat) (fpReg (c.k.arch.reg a.toNat)) (fpReg (c.k.arch.reg b.toNat)) then 1 else 0) [] 0] }

/-- FCMP.cc by itself. -/
def execFcmpCc (d : BitVec 3) (a : BitVec 6) (b : BitVec 6) (c_ : BitVec 6) (s : State) : Out :=
  issueAlone 0 false (encode (.fcmpCc d a b c_)) (planFcmpCc d a b c_) s

/-- Plan of ICVT (R278): a 64-bit integer, signed or unsigned, rounded to FP32. -/
def planIcvt (d : BitVec 6) (a : BitVec 6) (u : BitVec 1) (m : BitVec 3) (c : Ctx) : Plan :=
  fpPlan c [a.toNat] d.toNat m.toNat
    (.ofInt (if u == 1 then ((c.k.arch.reg a.toNat).toNat : Int) else (c.k.arch.reg a.toNat).toInt), false)

/-- ICVT by itself. -/
def execIcvt (d : BitVec 6) (a : BitVec 6) (u : BitVec 1) (m : BitVec 3) (s : State) : Out :=
  issueAlone 0 false (encode (.icvt d a u m)) (planIcvt d a u m) s

/-- Plan of FCVT (R278): a rounded to a 64-bit integer, saturated. -/
def planFcvt (d : BitVec 6) (a : BitVec 6) (u : BitVec 1) (m : BitVec 3) (c : Ctx) : Plan :=
  let mode := c.k.arch.modeField m.toNat
  let r := fcvtResult c.k.arch mode (u == 1) (fpReg (c.k.arch.reg a.toNat))
  { latePlan c 4 [a.toNat] d.toNat r.1 r.2 with
    writes := .reg d.toNat :: srWrites mode.isSr
    feats := if mode.isSr then [4] else []
    imm := fun k => { k with arch := k.arch.stepRng mode.isSr } }

/-- FCVT by itself. -/
def execFcvt (d : BitVec 6) (a : BitVec 6) (u : BitVec 1) (m : BitVec 3) (s : State) : Out :=
  issueAlone 0 false (encode (.fcvt d a u m)) (planFcvt d a u m) s

/-- Plan of LD.b (R277): 1 bytes of scratch, zero-extended, after 4 vc. -/
def planLdB (d : BitVec 6) (a : BitVec 6) (i : BitVec 12) (c : Ctx) : Plan :=
  loadPlan c 1 d.toNat a.toNat i

/-- LD.b by itself. -/
def execLdB (d : BitVec 6) (a : BitVec 6) (i : BitVec 12) (s : State) : Out := issueAlone 0 false (encode (.ldB d a i)) (planLdB d a i) s

/-- Plan of LD.h (R277): 2 bytes of scratch, zero-extended, after 4 vc. -/
def planLdH (d : BitVec 6) (a : BitVec 6) (i : BitVec 12) (c : Ctx) : Plan :=
  loadPlan c 2 d.toNat a.toNat i

/-- LD.h by itself. -/
def execLdH (d : BitVec 6) (a : BitVec 6) (i : BitVec 12) (s : State) : Out := issueAlone 0 false (encode (.ldH d a i)) (planLdH d a i) s

/-- Plan of LD.w (R277): 4 bytes of scratch, zero-extended, after 4 vc. -/
def planLdW (d : BitVec 6) (a : BitVec 6) (i : BitVec 12) (c : Ctx) : Plan :=
  loadPlan c 4 d.toNat a.toNat i

/-- LD.w by itself. -/
def execLdW (d : BitVec 6) (a : BitVec 6) (i : BitVec 12) (s : State) : Out := issueAlone 0 false (encode (.ldW d a i)) (planLdW d a i) s

/-- Plan of LD.d (R277): 8 bytes of scratch, zero-extended, after 4 vc. -/
def planLdD (d : BitVec 6) (a : BitVec 6) (i : BitVec 12) (c : Ctx) : Plan :=
  loadPlan c 8 d.toNat a.toNat i

/-- LD.d by itself. -/
def execLdD (d : BitVec 6) (a : BitVec 6) (i : BitVec 12) (s : State) : Out := issueAlone 0 false (encode (.ldD d a i)) (planLdD d a i) s

/-- Plan of ST.b (R277): the low 1 bytes of d to scratch at issue. -/
def planStB (d : BitVec 6) (a : BitVec 6) (i : BitVec 12) (c : Ctx) : Plan :=
  storePlan c 1 d.toNat a.toNat i

/-- ST.b by itself. -/
def execStB (d : BitVec 6) (a : BitVec 6) (i : BitVec 12) (s : State) : Out := issueAlone 0 false (encode (.stB d a i)) (planStB d a i) s

/-- Plan of ST.h (R277): the low 2 bytes of d to scratch at issue. -/
def planStH (d : BitVec 6) (a : BitVec 6) (i : BitVec 12) (c : Ctx) : Plan :=
  storePlan c 2 d.toNat a.toNat i

/-- ST.h by itself. -/
def execStH (d : BitVec 6) (a : BitVec 6) (i : BitVec 12) (s : State) : Out := issueAlone 0 false (encode (.stH d a i)) (planStH d a i) s

/-- Plan of ST.w (R277): the low 4 bytes of d to scratch at issue. -/
def planStW (d : BitVec 6) (a : BitVec 6) (i : BitVec 12) (c : Ctx) : Plan :=
  storePlan c 4 d.toNat a.toNat i

/-- ST.w by itself. -/
def execStW (d : BitVec 6) (a : BitVec 6) (i : BitVec 12) (s : State) : Out := issueAlone 0 false (encode (.stW d a i)) (planStW d a i) s

/-- Plan of ST.d (R277): the low 8 bytes of d to scratch at issue. -/
def planStD (d : BitVec 6) (a : BitVec 6) (i : BitVec 12) (c : Ctx) : Plan :=
  storePlan c 8 d.toNat a.toNat i

/-- ST.d by itself. -/
def execStD (d : BitVec 6) (a : BitVec 6) (i : BitVec 12) (s : State) : Out := issueAlone 0 false (encode (.stD d a i)) (planStD d a i) s

/-- Plan of RDSR (R279). -/
def planRdsr (d : BitVec 6) (r : BitVec 18) (c : Ctx) : Plan :=
  aluPlan [] d.toNat (readSys c r.toNat)

/-- RDSR by itself. -/
def execRdsr (d : BitVec 6) (r : BitVec 18) (s : State) : Out := issueAlone 1 false (encode (.rdsr d r)) (planRdsr d r) s

/-- Plan of WRSR (R279, R280). -/
def planWrsr (a : BitVec 6) (r : BitVec 18) (c : Ctx) : Plan :=
  let v := c.k.arch.reg a.toNat
  { reads := [.reg a.toNat]
    writes := if r == 0x020 then ((List.range 56).filter v.getLsbD).map Loc.view
      else if sysReadOnly r.toNat then [] else [.sys r.toNat]
    late := if sysReadOnly r.toNat then some (0x13, r.setWidth 64, 0) else none
    imm := fun k => { k with arch := k.arch.writeSys r.toNat v } }

/-- WRSR by itself. -/
def execWrsr (a : BitVec 6) (r : BitVec 18) (s : State) : Out := issueAlone 1 false (encode (.wrsr a r)) (planWrsr a r) s

/-- Plan of VIEW (R281). -/
def planView (v : BitVec 6) (a : BitVec 6) (b : BitVec 6) (c : Ctx) : Plan :=
  let dsc := viewDesc v.toNat (c.k.arch.reg a.toNat) (c.k.arch.reg b.toNat)
  { reads := [.reg a.toNat, .reg b.toNat]
    writes := if v.toNat < 48 then [.view v.toNat] else [.view v.toNat, .status v.toNat]
    imm := fun k => { k with arch := { k.arch with views := k.arch.views.set v.toNat dsc } } }

/-- VIEW by itself. -/
def execView (v : BitVec 6) (a : BitVec 6) (b : BitVec 6) (s : State) : Out := issueAlone 1 false (encode (.view v a b)) (planView v a b) s

/-- Plan of FTSET (R282). -/
def planFtset (a : BitVec 6) (b : BitVec 6) (c : Ctx) : Plan :=
  let t := c.k.arch.reg a.toNat
  let lvl := fld (c.k.arch.reg b.toNat) 0 3
  { reads := [.reg a.toNat, .reg b.toNat], writes := [.sys 0x11, .sys 0x12]
    imm := fun k => { k with arch := { k.arch with
      ftab := t, bgeo := (k.arch.bgeo &&& ~~~(0xE0 : W64)) ||| (lvl.setWidth 64 <<< 5) } } }

/-- FTSET by itself. -/
def execFtset (a : BitVec 6) (b : BitVec 6) (s : State) : Out := issueAlone 1 false (encode (.ftset a b)) (planFtset a b) s

/-- Plan of RNGK (R283). -/
def planRngk (a : BitVec 6) (b : BitVec 6) (c : Ctx) : Plan :=
  let key := mix64 (c.k.arch.reg a.toNat) ^^^ c.k.arch.reg b.toNat
  { reads := [.reg a.toNat, .reg b.toNat], writes := [.sys 0x19, .sys 0x1A]
    imm := fun k => { k with arch := { k.arch with rngKey := key, rngStep := 0 } } }

/-- RNGK by itself. -/
def execRngk (a : BitVec 6) (b : BitVec 6) (s : State) : Out := issueAlone 1 false (encode (.rngk a b)) (planRngk a b) s

end Sys2Proof.Machine
end

