-- ==== Sys2Proof/Machine/Branch.lean ====
section
/-! DEFINITION. The meanings of the BR instructions (15): the tree and its branches (R286), jumps, calls and returns (R287),
loops (R288 to R290), barriers, phases and events (R292), traps and HALT (R293, R294), the dictionary switch (R295). SOLVE,
SOLEND, SOLQ and SOLRD stand in Solve.lean. -/

namespace Sys2Proof.Machine

/-- The address of entry `n` of the target table in force (R286). -/
def targetAt (base : W64) (n : Nat) : Nat := (base.toNat + 2 ^ 64 - 512 + 8 * n) % 2 ^ 64

/-- A branch through entry `n` of the target table: index 0 falls through, a line not in the dictionary cache freezes the
core, and a line that cannot be fetched raises 0x10 (R286, R179). -/
def targetPlan (c : Ctx) (n : Nat) : Plan :=
  if n = 0 then {}
  else
    let at_ := targetAt c.k.arch.dictBase n
    let line := at_ / 64 * 64
    match c.fl.code line with
    | none => { late := some (0x10, BitVec.ofNat 64 line, 0) }
    | some p =>
      if !c.k.dcache.contains line && c.k.stage != .syncIssue then { wait := some (.targets line) }
      else { ctl := .jump (BitVec.ofNat 64 (c.st.hbm.num (p + at_ % 64) 8)) }

/-- The leaf's own index of a BTREE (R286); leaf L0 falls through. -/
def btreeIndex (leaf : Nat) (l1 l2 l3 l4 : Nat) : Nat :=
  match leaf with
  | 0 => 0
  | 1 => l1
  | 2 => l2
  | 3 => l3
  | _ => l4

/-- A relative target: PC + 4 × sext(offset, 22) (R287). -/
def relTarget (c : Ctx) (o : BitVec 22) : W64 := BitVec.ofNat 64 c.pc + 4 * o.signExtend 64

/-- CALL's link: s39 := the address after its own bundle (R287). -/
def linkPlan (c : Ctx) (t : W64) : Plan :=
  let ra := BitVec.ofNat 64 (c.pc + c.len)
  { writes := [.reg 39], ctl := .jump t, imm := fun k => { k with arch := k.arch.setReg 39 ra } }

/-- A loop instruction (R288): its entry, pushed when n ≠ 0, and its own checks. What LOOP.SP sets p4 to p7 to is the sequencer's and no
write of its slot in the sense of R119 (log 72). -/
def loopPlan (c : Ctx) (reg len : Nat) (kind : LoopKind) (stages : BitVec 2) : Plan :=
  let n : W32 := (c.k.arch.reg reg).setWidth 32
  let e : LoopEntry := ⟨BitVec.ofNat 64 (c.pc + c.len), n, 0, kind, stages, BitVec.ofNat 6 len⟩
  let body := (c.bodies e).1
  let outside : Bool := match c.k.arch.loops with
    | [] => false
    | o :: _ => !body.all (fun a => (c.bodies o).1.contains a)
  let piped : Bool := match kind with
    | .plain => false
    | .pipelined => c.k.arch.loops.any (fun o => o.kind == .pipelined)
  { reads := [.reg reg]
    badLast := (n != 0 && decide (6 ≤ c.k.arch.loops.length)) || outside || piped
    ctl := if n = 0 then .skip e else .push e }

/-- The handrail line and the membership of domain `n` (Table 6.5). -/
def domLine (k : Core) (n : Nat) : Nat := (fld (k.dom.getD n 0) 22 6).toNat
def domMember (k : Core) (n : Nat) : Bool := (k.dom.getD n 0).getLsbD 28

/-- TRAP and BKPT: raised after the bundle's checkpoint when the test passes (R293). -/
def trapPlan (c : Ctx) (t : BitVec 4) (code : Nat) (info0 : W64) : Plan :=
  { reads := [.pred (t.toNat % 8)], badLast := !c.ck
    after := if c.k.arch.test t then .trap code info0 (BitVec.ofNat 64 c.pc) else .go }

/-! ## Plans and meanings -/

/-- Plan of NOP (R296). -/
def planNop (_c : Ctx) : Plan :=
  {}

/-- NOP by itself. -/
def execNop (s : State) : Out := issueAlone 7 false (encode .nop) (planNop) s

/-- Plan of BTREE (R286). -/
def planBtree (a : BitVec 6) (b : BitVec 6) (c_ : BitVec 6) (d : BitVec 6) (c : Ctx) : Plan :=
  targetPlan c (btreeIndex (leafOf c.k.arch c.h) a.toNat b.toNat c_.toNat d.toNat)

/-- BTREE by itself. -/
def execBtree (a : BitVec 6) (b : BitVec 6) (c_ : BitVec 6) (d : BitVec 6) (s : State) : Out :=
  issueAlone 7 false (encode (.btree a b c_ d)) (planBtree a b c_ d) s

/-- Plan of JMP relative (R287). -/
def planJmpRel (o : BitVec 22) (c : Ctx) : Plan :=
  { ctl := .jump (relTarget c o) }

/-- JMP relative by itself. -/
def execJmpRel (o : BitVec 22) (s : State) : Out := issueAlone 7 false (encode (.jmpRel o)) (planJmpRel o) s

/-- Plan of JMP register (R287). -/
def planJmpReg (r : BitVec 6) (c : Ctx) : Plan :=
  { reads := [.reg r.toNat], ctl := .jump (c.k.arch.reg r.toNat) }

/-- JMP register by itself. -/
def execJmpReg (r : BitVec 6) (s : State) : Out := issueAlone 7 false (encode (.jmpReg r)) (planJmpReg r) s

/-- Plan of CALL relative (R287). -/
def planCallRel (o : BitVec 22) (c : Ctx) : Plan :=
  linkPlan c (relTarget c o)

/-- CALL relative by itself. -/
def execCallRel (o : BitVec 22) (s : State) : Out := issueAlone 7 false (encode (.callRel o)) (planCallRel o) s

/-- Plan of CALL register (R287). -/
def planCallReg (r : BitVec 6) (c : Ctx) : Plan :=
  { linkPlan c (c.k.arch.reg r.toNat) with reads := [.reg r.toNat] }

/-- CALL register by itself. -/
def execCallReg (r : BitVec 6) (s : State) : Out := issueAlone 7 false (encode (.callReg r)) (planCallReg r) s

/-- Plan of RET (R287). -/
def planRet (r : BitVec 6) (c : Ctx) : Plan :=
  { reads := [.reg r.toNat], ctl := .jump (c.k.arch.reg r.toNat) }

/-- RET by itself. -/
def execRet (r : BitVec 6) (s : State) : Out := issueAlone 7 false (encode (.ret r)) (planRet r) s

/-- Plan of LOOP (R288). -/
def planLoop (c_ : BitVec 6) (l : BitVec 6) (c : Ctx) : Plan :=
  loopPlan c c_.toNat l.toNat .plain 0

/-- LOOP by itself. -/
def execLoop (c_ : BitVec 6) (l : BitVec 6) (s : State) : Out := issueAlone 7 false (encode (.loop c_ l)) (planLoop c_ l) s

/-- Plan of LOOP.SP (R288, R238). -/
def planLoopSp (c_ : BitVec 6) (s_ : BitVec 2) (l : BitVec 6) (c : Ctx) : Plan :=
  loopPlan c c_.toNat l.toNat .pipelined s_

/-- LOOP.SP by itself. -/
def execLoopSp (c_ : BitVec 6) (s_ : BitVec 2) (l : BitVec 6) (s : State) : Out :=
  issueAlone 7 false (encode (.loopSp c_ s_ l)) (planLoopSp c_ s_ l) s

/-- Plan of LBRK (R290). -/
def planLbrk (t : BitVec 4) (c : Ctx) : Plan :=
  let pass := c.k.arch.test t
  { reads := [.pred (t.toNat % 8)], badLast := pass && c.k.arch.loops.isEmpty, ctl := if pass then .lbrk else .fall }

/-- LBRK by itself. -/
def execLbrk (t : BitVec 4) (s : State) : Out := issueAlone 7 false (encode (.lbrk t)) (planLbrk t) s

/-- Plan of SYNC (R133, R292). -/
def planSync (n : BitVec 2) (c : Ctx) : Plan :=
  { bad := !domMember c.k n.toNat, badLast := !c.ck, after := .sync (domLine c.k n.toNat) }

/-- SYNC by itself. -/
def execSync (n : BitVec 2) (s : State) : Out := issueAlone 7 true (encode (.sync n)) (planSync n) s

/-- Plan of PHASE (R204, R292). -/
def planPhase (s_ : BitVec 2) (c : Ctx) : Plan :=
  { badLast := !c.ck, feats := if s_ == 3 then [7] else [], after := .phase s_.toNat }

/-- PHASE by itself. -/
def execPhase (s_ : BitVec 2) (s : State) : Out := issueAlone 7 true (encode (.phase s_)) (planPhase s_) s

/-- A WFE of tick `tick` clears the pending bit and acquires from every event that the clear consumes: an event of the same tick
leaves the bit set, unless the bit rose with it (R134, R206). -/
def Core.takeEvent (k : Core) (tick : Nat) : Core :=
  let stays (e : Nat × Carried) : Bool := decide (k.eventSince < tick) && e.1 == tick
  let left := k.eventFrom.filter stays
  let k := k.acquire ((k.eventFrom.filter (fun e => !stays e)).map Prod.snd)
  { k with eventFrom := left, eventSince := if left.isEmpty then k.eventSince else tick
           arch := { k.arch with event := !left.isEmpty } }

/-- Plan of WFE (R134, R292): it takes the pending event, or the core freezes after its bundle until one arrives. -/
def planWfe (c : Ctx) : Plan :=
  if c.k.arch.event then { imm := fun k => k.takeEvent c.st.pcyc }
  else { after := .event, imm := fun k => { k with stage := .waitEvent false } }

/-- WFE by itself. -/
def execWfe (s : State) : Out := issueAlone 7 false (encode .wfe) (planWfe) s

/-- Plan of SEV (R134, R292). -/
def planSev (n : BitVec 2) (c : Ctx) : Plan :=
  { bad := !domMember c.k n.toNat, held := [.event n.toNat] }

/-- SEV by itself. -/
def execSev (n : BitVec 2) (s : State) : Out := issueAlone 7 false (encode (.sev n)) (planSev n) s

/-- Plan of TRAP (R293). -/
def planTrap (t : BitVec 4) (i : BitVec 16) (c : Ctx) : Plan :=
  trapPlan c t 0x12 (i.setWidth 64)

/-- TRAP by itself. -/
def execTrap (t : BitVec 4) (i : BitVec 16) (s : State) : Out := issueAlone 7 true (encode (.trap t i)) (planTrap t i) s

/-- Plan of BKPT (R293). -/
def planBkpt (t : BitVec 4) (c : Ctx) : Plan :=
  trapPlan c t 0x11 0

/-- BKPT by itself. -/
def execBkpt (t : BitVec 4) (s : State) : Out := issueAlone 7 true (encode (.bkpt t)) (planBkpt t) s

/-- Plan of HALT (R294): in a handler task it reads s1 (R111). -/
def planHalt (c : Ctx) : Plan :=
  { badLast := !c.ck, reads := if c.k.handlerOf.isSome then [.reg 1] else [], after := .halt (c.k.arch.reg 1) }

/-- HALT by itself. -/
def execHalt (s : State) : Out := issueAlone 7 true (encode .halt) (planHalt) s

/-- Plan of DSET (R267, R295): bits 63–6 of the register become the pending base. -/
def planDset (r : BitVec 6) (c : Ctx) : Plan :=
  let b := c.k.arch.reg r.toNat &&& ~~~63#64
  { reads := [.reg r.toNat], badLast := hdrSl c.h || !c.k.arch.loops.isEmpty
    imm := fun k => { k with arch := { k.arch with pendBase := some b } } }

/-- DSET by itself. -/
def execDset (r : BitVec 6) (s : State) : Out := issueAlone 7 false (encode (.dset r)) (planDset r) s

/-- Plan of DFENCE (R267, R268, R295): a pending base becomes current after its bundle. -/
def planDfence (c : Ctx) : Plan :=
  { badLast := !c.k.arch.loops.isEmpty
    imm := fun k =>
      match k.arch.pendBase with
      | none => k
      | some b => { k with arch := { k.arch with dictBase := b, pendBase := none } } }

/-- DFENCE by itself. -/
def execDfence (s : State) : Out := issueAlone 7 false (encode .dfence) (planDfence) s

end Sys2Proof.Machine
end

