-- ==== Sys2Proof/Machine/EngineSlot.lean ====
section
/-! DEFINITION. The meanings of the EN instructions (18, R370 to R376): commands with the checks of their blocks (R219, R220),
TLWAIT and TLRD (R373), NEXTT (R374), FLSIG and EREP (R375, R376). -/

namespace Sys2Proof.Machine

/-! ## Command blocks (Table 11.2) -/

/-- The `n`-byte field at byte `o` of a block. -/
def blkNum (b : List Byte) (o n : Nat) : Nat := leVal ((b.drop o).take n)
def blkSigned (b : List Byte) (o : Nat) : Int := signedOf 32 (blkNum b o 4)
def blkOp (b : List Byte) : Nat := blkNum b 0 1
def blkFlags (b : List Byte) : Nat := blkNum b 1 1
def blkSrcFmt (b : List Byte) : Nat := blkNum b 2 1 % 16
def blkDstFmt (b : List Byte) : Nat := blkNum b 2 1 / 16
def blkDims (b : List Byte) : Nat := blkNum b 3 1
def blkStep (b : List Byte) : Nat := blkNum b 4 2
def blkDom (b : List Byte) : Nat := blkNum b 6 1
def blkCq (b : List Byte) : Nat := blkNum b 7 1
def blkLrank (b : List Byte) : Nat := blkNum b 32 4
def blkCount (b : List Byte) (d : Nat) : Nat := blkNum b (40 + 12 * d) 4
def blkBound (b : List Byte) : Nat := blkNum b 112 8
/-- CPYH reads, or writes, a host window. -/
def blkHostSrc (b : List Byte) : Bool := blkOp b == 2 && !(blkFlags b).testBit 2
def blkHostDst (b : List Byte) : Bool := blkOp b == 2 && (blkFlags b).testBit 2

/-- The block contents, conversion and collective rules of R220, R226 and R227 that look at the block alone. -/
def blkBad (b : List Byte) (op : Nat) : Bool :=
  let coll := decide (16 ≤ op)
  let sf := blkSrcFmt b
  let df := blkDstFmt b
  let nd := blkDims b
  blkOp b != op || decide (31 < blkFlags b) || ((blkFlags b).testBit 2 && op != 2) ||
  decide (2 ^ (if blkHostSrc b then 6 else 20) ≤ blkNum b 8 4) || decide (2 ^ (if blkHostDst b then 6 else 20) ≤ blkNum b 12 4) ||
  (!blkHostSrc b && decide (2 ^ 40 ≤ blkNum b 16 8)) || (!blkHostDst b && decide (2 ^ 40 ≤ blkNum b 24 8)) ||
  blkNum b 36 4 != 0 || blkNum b 120 8 != 0 || nd == 0 || decide (6 < nd) ||
  decide ((if coll then 3 else 0) < blkDom b) || decide ((if coll then 2 else 0) < blkCq b) ||
  (if coll then blkLrank b / 65536 % 32768 != 0 else blkLrank b != 0) || decide (9 < sf) || decide (9 < df) ||
  ((sf == 5 || df == 5) && sf != df) ||
  (List.range 6).any (fun d => if d < nd then blkCount b d == 0 || decide (2 ^ 24 < blkCount b d) else blkNum b (40 + 12 * d) 12 != 0) ||
  (coll && (nd != 1 || blkNum b 44 4 != 1 || blkNum b 48 4 != 1 || decide (1 < sf) || decide (1 < df) ||
    (blkCq b != 0 && (op == 18 || blkCount b 0 % 32 != 0))))

/-- The logical rank a block names on a core (R224). -/
def blkRank (k : Core) (b : List Byte) : Nat :=
  if (blkLrank b).testBit 31 then (fld (k.dom.getD (blkDom b) 0) 0 22).toNat else blkLrank b % 65536

/-- The step of the previous command issued on the context, held or released (R220). -/
def Ctx.lastStep (c : Ctx) (tl : Nat) : Nat :=
  let released := ((c.st.contextOf c.run.id c.k.no tl).map (fun x => x.lastStep.toNat)).getD 0
  c.k.held.foldl (fun n h => match h with
    | .command t b _ => if t == tl then blkStep b else n
    | _ => n) released

/-- The feature bits a block needs. -/
def blkFeats (k : Core) (b : List Byte) : List Nat :=
  (if blkCq b != 0 then [5] else []) ++ (if blkCq b == 2 || blkSrcFmt b == 5 || blkDstFmt b == 5 then [3] else []) ++
  (if decide (16 ≤ blkOp b) && fld (k.dom.getD (blkDom b) 0) 29 3 == 4 then [7] else [])

/-- CPY, CPYH and COLL (R371): the block read at issue and held, its token register reserved. -/
def commandPlan (c : Ctx) (op token reg tl : Nat) : Plan :=
  let k := c.k
  let at_ := (k.arch.reg reg).toNat % 65536 / 128 * 128
  let b := k.scratch.bytes at_ 128
  let coll := decide (16 ≤ op)
  let bad := blkBad b op || decide (blkStep b < c.lastStep tl) ||
    (coll && (!domMember k (blkDom b) || decide (((c.fl.dom.map DomDesc.members).getD (blkDom b) 0) ≤ blkRank k b)))
  let p := physReg k.arch.rot token
  let tok : Option Nat := if token = 0 then none else some p
  { reads := [.reg reg]
    writes := [.reg token]
    bad := bad
    feats := blkFeats k b
    held := [.command tl b tok]
    imm := fun k => if token = 0 then k else { k with tokens := k.tokens ++ [(p, tl, none)] } }

/-- What a pass of TLWAIT acquires: the writes of every command of the context numbered `v` or below (R210, R373). -/
def Context.taken (x : Context) (core v : Nat) : List Acquired :=
  (x.done.filter (fun d => d.1 ≤ v)).map (fun d => ⟨core, d.2⟩)

/-- TLWAIT (R373). -/
def tlwaitPlan (c : Ctx) (tl reg : Nat) : Plan :=
  let v := c.k.arch.reg reg
  let base : Plan := { reads := [.reg reg] }
  if v = 0 then base
  else
    match c.st.contextOf c.run.id c.k.no tl with
    | none => { base with bad := true }
    | some x =>
      if decide (x.last.toNat < v.toNat) then { base with bad := true }
      else if decide (x.counter.toNat < v.toNat) then { base with wait := some (.timeline tl v) }
      else { base with imm := fun k => { k with acquired := k.acquired ++ x.taken k.no v.toNat } }

/-- The null value of R82. -/
def nullTile : W64 := 0x8000000000000000

/-- NEXTT (R374, R88, R89). -/
def nexttPlan (c : Ctx) (rd : Nat) : Plan :=
  let k := c.k
  let n := k.tileBase + k.tilesTaken
  let p := c.pend 16 .tile (.reg (physReg k.arch.rot rd)) 0 [] 0
  let base : Plan := { writes := [.reg rd] }
  if 8 ≤ k.nextts then
    { base with late := some (0x0E, BitVec.ofNat 64 k.undo.length, BitVec.ofNat 64 k.nextts) }
  else
    match k.tiles.find? (fun t => t.1 == n) with
    | some t =>
      { base with
        lands := [{ p with val := t.2 }]
        imm := fun k => { k with nextts := k.nextts + 1, tilesTaken := k.tilesTaken + 1 } }
    | none =>
      if k.nullSeen || k.handlerOf.isSome then
        { base with lands := [{ p with val := nullTile }], imm := fun k => { k with nextts := k.nextts + 1 } }
      else
        let sent := decide (n < k.tileCount + k.tileReq.length)
        { base with
          lands := [{ p with need := .tile n }]
          imm := fun k => { k with
            nextts := k.nextts + 1
            tilesTaken := k.tilesTaken + 1
            tileReq := if sent then k.tileReq else k.tileReq ++ [⟨k.vc, none⟩] } }

/-! ## Plans and meanings -/

/-- Plan of CPY (R371, R372). -/
def planCpy (t : BitVec 6) (b : BitVec 6) (l : BitVec 4) (c : Ctx) : Plan :=
  commandPlan c 1 t.toNat b.toNat l.toNat

/-- CPY by itself. -/
def execCpy (t : BitVec 6) (b : BitVec 6) (l : BitVec 4) (s : State) : Out := issueAlone 6 false (encode (.cpy t b l)) (planCpy t b l) s

/-- Plan of CPYH (R371, R372). -/
def planCpyh (t : BitVec 6) (b : BitVec 6) (l : BitVec 4) (c : Ctx) : Plan :=
  commandPlan c 2 t.toNat b.toNat l.toNat

/-- CPYH by itself. -/
def execCpyh (t : BitVec 6) (b : BitVec 6) (l : BitVec 4) (s : State) : Out := issueAlone 6 false (encode (.cpyh t b l)) (planCpyh t b l) s

/-- Plan of COLL.allred (R371, R372). -/
def planCollAllred (t : BitVec 6) (b : BitVec 6) (l : BitVec 4) (c : Ctx) : Plan :=
  commandPlan c 16 t.toNat b.toNat l.toNat

/-- COLL.allred by itself. -/
def execCollAllred (t : BitVec 6) (b : BitVec 6) (l : BitVec 4) (s : State) : Out :=
  issueAlone 6 false (encode (.collAllred t b l)) (planCollAllred t b l) s

/-- Plan of COLL.rdscat (R371, R372). -/
def planCollRdscat (t : BitVec 6) (b : BitVec 6) (l : BitVec 4) (c : Ctx) : Plan :=
  commandPlan c 17 t.toNat b.toNat l.toNat

/-- COLL.rdscat by itself. -/
def execCollRdscat (t : BitVec 6) (b : BitVec 6) (l : BitVec 4) (s : State) : Out :=
  issueAlone 6 false (encode (.collRdscat t b l)) (planCollRdscat t b l) s

/-- Plan of COLL.allgth (R371, R372). -/
def planCollAllgth (t : BitVec 6) (b : BitVec 6) (l : BitVec 4) (c : Ctx) : Plan :=
  commandPlan c 18 t.toNat b.toNat l.toNat

/-- COLL.allgth by itself. -/
def execCollAllgth (t : BitVec 6) (b : BitVec 6) (l : BitVec 4) (s : State) : Out :=
  issueAlone 6 false (encode (.collAllgth t b l)) (planCollAllgth t b l) s

/-- Plan of TLWAIT (R373). -/
def planTlwait (a : BitVec 6) (l : BitVec 4) (c : Ctx) : Plan :=
  tlwaitPlan c l.toNat a.toNat

/-- TLWAIT by itself. -/
def execTlwait (a : BitVec 6) (l : BitVec 4) (s : State) : Out := issueAlone 6 false (encode (.tlwait a l)) (planTlwait a l) s

/-- Plan of TLRD (R373). -/
def planTlrd (d : BitVec 6) (l : BitVec 4) (c : Ctx) : Plan :=
  let v := ((c.st.contextOf c.run.id c.k.no l.toNat).map Context.counter).getD 0
  aluPlan [] d.toNat v

/-- TLRD by itself. -/
def execTlrd (d : BitVec 6) (l : BitVec 4) (s : State) : Out := issueAlone 6 false (encode (.tlrd d l)) (planTlrd d l) s

/-- Plan of NEXTT (R374). -/
def planNextt (d : BitVec 6) (c : Ctx) : Plan :=
  nexttPlan c d.toNat

/-- NEXTT by itself. -/
def execNextt (d : BitVec 6) (s : State) : Out := issueAlone 6 false (encode (.nextt d)) (planNextt d) s

/-- Plan of FLSIG (R375). -/
def planFlsig (v : BitVec 6) (o : BitVec 2) (w : BitVec 6) (c : Ctx) : Plan :=
  { reads := [.reg v.toNat], held := [.flsig o.toNat w.toNat ((c.k.arch.reg v.toNat).setWidth 32)] }

/-- FLSIG by itself. -/
def execFlsig (v : BitVec 6) (o : BitVec 2) (w : BitVec 6) (s : State) : Out :=
  issueAlone 6 false (encode (.flsig v o w)) (planFlsig v o w) s

/-- Plan of EREP (R376). -/
def planErep (v : BitVec 6) (c_ : BitVec 8) (c : Ctx) : Plan :=
  { reads := [.reg v.toNat], held := [.report c_ ((c.k.arch.reg v.toNat).setWidth 32)] }

/-- EREP by itself. -/
def execErep (v : BitVec 6) (c_ : BitVec 8) (s : State) : Out := issueAlone 6 false (encode (.erep v c_)) (planErep v c_) s

end Sys2Proof.Machine
end

