-- ==== Sys2Proof/Machine/Heads.lean ====
section
/-! DEFINITION. What head instructions share (08, 18): admission (R152, R355), the length and fill limits (R168), movement
with its range and extent checks (R158, R162, R169), and the bytes a read takes (R165, R166, R170). -/

namespace Sys2Proof.Machine

/-- The head named `n` as it stands at issue. -/
def Ctx.head (c : Ctx) (n : Nat) : Head := c.k.arch.heads.getD n Head.detached

/-- A head that no instruction may name here: h7 under REVON (R241), or a detached one (R162, R355). -/
def Ctx.noHead (c : Ctx) (n : Nat) : Bool := (c.k.arch.revOn && n == 7) || !(c.head n).attached

/-- The directory entry of a tape of the core's job. -/
def Ctx.dir (c : Ctx) (t : BitVec 20) : Option Dir := c.st.dir c.fl t

/-- A trap of code 0x08 on tape `t`, and one of code 0x09 on head `n`. -/
def tapeTrap (t : BitVec 20) (i1 : W64) : Plan := { late := some (0x08, t.setWidth 64, i1) }
def rangeTrap (n : Nat) (i1 : W64) : Plan := { late := some (0x09, BitVec.ofNat 64 n, i1) }

/-- The all-ones info1 of R152 and R162. -/
def noInfo : W64 := BitVec.allOnes 64

/-- The plan goes on as `q` when it raises nothing, waits for nothing and is not illegal. -/
def Plan.and (p q : Plan) : Plan :=
  if p.bad || p.late.isSome || p.wait.isSome then p
  else { q with glob := fun s => q.glob (p.glob s) }

def Head.isStream (h : Head) : Bool := (fld h.mode 0 2).toNat == attrStream
def Head.isAppend (h : Head) : Bool := (fld h.mode 0 2).toNat == attrAppend
def Head.isUpdate (h : Head) : Bool := (fld h.mode 0 2).toNat == attrUpdate
def Head.producer (h : Head) : Bool := h.isStream && h.writer
def Head.consumer (h : Head) : Bool := h.isStream && !h.writer

/-- Records a head may read on an append tape (R168): below the released fill count, for a writer with its own held appends;
below the length on other tapes. -/
def Ctx.readLimit (c : Ctx) (h : Head) (d : Dir) : Nat :=
  if h.isAppend then (if h.writer then c.k.fillWith c.run h.tape else (c.run.tapeAt h.tape).fill) else d.length

/-- The extent entry names a far address that no stack answers (R2). -/
def holeEntry (d : Dir) (e : W64) : Bool := e.getLsbD 63 && d.far && decide (hbmSize ≤ (fld e 10 18).toNat * 2097152)

/-- The hall's cache holds the extent, or held it when the checks of the SYNC bundle that issues now were made (R133, R158). -/
def Ctx.extHere (c : Ctx) (t : BitVec 20) (i : Nat) : Bool :=
  c.st.extCached c.k.no c.run.id t i || (c.k.stage == .syncIssue && c.k.syncExtents.contains (t, i))

/-- The position enters the extent of record `p` (R158, R159): an absent one traps, one the hall's cache lacks freezes the core
and starts a walk. -/
def Ctx.enter (c : Ctx) (t : BitVec 20) (d : Dir) (p : Nat) : Plan :=
  if d.length ≤ p then {}
  else
    let i := d.extentOf p
    let e := c.st.extEntry c.fl d i
    if (c.st.extPlace c.fn d e).isNone && !holeEntry d e then tapeTrap t (BitVec.ofNat 64 i)
    else if c.extHere t i then { glob := fun s => s.touchExtent c.k.no c.run.id t i }
    else { wait := some (.extent t i), starts := fun s => s.startWalk c.k.no c.run.id t i none }

/-- The record of a read has storage (R159). -/
def Ctx.present (c : Ctx) (t : BitVec 20) (d : Dir) (p : Nat) : Plan :=
  if (c.st.extPlace c.fn d (c.st.extEntry c.fl d (d.extentOf p))).isNone then tapeTrap t (BitVec.ofNat 64 (d.extentOf p))
  else {}

/-- The position an amount in the head's direction leads to (R355). -/
def Head.target (h : Head) (amount : Int) : Int :=
  if h.backward then (h.pos.toNat : Int) - amount else (h.pos.toNat : Int) + amount

/-- A head of the core with another content; its window keeps what still lies in it (R164). -/
def Core.withHead (k : Core) (n : Nat) (d : Dir) (h : Head) : Core :=
  { k with arch := { k.arch with heads := k.arch.heads.set n h }
           windows := k.windows.set n (trimWindow d h (k.windows.getD n [])) }

/-- A head moves to `p`; a stream consumer has consumed what lies below (R169, R362). -/
def Core.moveHead (k : Core) (n : Nat) (d : Dir) (p : Nat) : Core :=
  let h := k.arch.heads.getD n Head.detached
  k.withHead n d { h with pos := BitVec.ofNat 40 p
                          used := if h.consumer then BitVec.ofNat 40 (max h.used.toNat p) else h.used }

/-- A move to `p` (R162, R169, R355). A stream consumer's step backward beyond what it has consumed and not freed traps. -/
def Ctx.move (c : Ctx) (n : Nat) (d : Dir) (p : Int) : Plan :=
  let h := c.head n
  if p < 0 || (d.length : Int) < p || (h.consumer && p < (h.pos.toNat : Int) && p < ((c.run.tapeAt h.tape).freed : Int)) then
    rangeTrap n (BitVec.ofInt 64 p)
  else
    let p := p.toNat
    let go : Plan := { imm := fun k => k.moveHead n d p }
    if p = h.pos.toNat then go
    else if p < d.length && h.pos.toNat < d.length && d.extentOf p = d.extentOf h.pos.toNat then go
    else (c.enter h.tape d p).and go

/-- What a read takes of a record. -/
inductive Taken where
  /-- the bytes, its poisoned granules, and what a stream append's release carries -/
  | here (data : List Byte) (poison : List Nat) (carried : Option Carried)
  /-- not in the window (R165) -/
  | absent
  /-- a stream record that has not been released (R170) -/
  | unreleased

/-- A record as a head would hold it, undefined where a store has changed its tape's tables during the run: window copies and the
core's own writes are contents of the tape too (R155). -/
def Ctx.undefinedIfTorn (c : Ctx) (t : BitVec 20) (p : Nat) (x : Taken) : Taken :=
  match x, c.dir t with
  | .here _ _ carried, some d => if c.run.isTorn t then .here (c.st.tornBytes d t p c.k.no) [] carried else x
  | _, _ => x

/-- Record `p` as the window of head `n` holds it at issue, overlaid by the core's held writes (R165, R166); a released
stream record exactly as appended (R169), one that has been freed too, on which the spec is silent (log 74). A consumer waits for the
release of an append that its own core holds (log 83). -/
def Ctx.take (c : Ctx) (n : Nat) (h : Head) (p : Nat) : Taken :=
  c.undefinedIfTorn h.tape p <|
  if h.isStream then
    match (c.run.tapeAt h.tape).records.find? (fun r => r.1 == p) with
    | some r => .here r.2.1 (((c.dir h.tape).map (fun d => c.st.ringPoison c.run c.fn c.fl d h.tape p)).getD []) (some r.2.2)
    | none => .unreleased
  else
    match heldRecord c.k.held h.tape p with
    | some d => .here d [] none
    | none =>
      match c.k.ownWrite h.tape p with
      | some w =>
        let place := (c.dir h.tape).bind (fun d => c.st.place c.fn c.fl d p)
        .here w.2 (if w.2.length < 64 then (place.map (fun x => c.st.badGranules x w.2.length)).getD [] else []) none
      | none =>
      let fill := (c.run.tapeAt h.tape).fill
      match (if h.isAppend && fill ≤ p then (heldAppends c.k.held h.tape)[p - fill]? else none) with
      | some d => .here d [] none
      | none =>
        match windowRec (c.k.windows.getD n []) p with
        | some w => if w.oldest < c.k.floor h.tape p then .absent else .here w.data w.poison none
        | none => .absent

/-- The version that a read of record `p` returns, where its window gives it (R205). -/
def Ctx.noteRead (c : Ctx) (n : Nat) (h : Head) (p : Nat) (k : Core) : Core :=
  if h.isStream || (heldRecord c.k.held h.tape p).isSome || (c.k.ownWrite h.tape p).isSome then k
  else
    match windowRec (c.k.windows.getD n []) p with
    | some w => (k.note h.tape p w.version).capReads h.tape p w.oldest
    | none => k

/-- Byte ranges of poisoned granules. -/
def granuleRanges (gs : List Nat) : List (Nat × Nat) := gs.map (fun g => (64 * g, 64))

/-- A stream tape has a producer, or a consumer, in the job: a head attached now or at the checkpoint, or one detached since
(R169, R358). -/
def State.streamTaken (s : State) (run : Nat) (t : BitVec 20) (writer : Bool) : Bool :=
  s.cores.any (fun k => k.run == run &&
    ((k.arch.heads ++ k.shadow.heads).any (fun h => h.attached && h.tape == t && h.writer == writer) ||
     k.arch.detached.any (fun d => d.1 == t && d.2.isNone == writer)))

/-- The window size of a stream tape in force (R93, R169). -/
def Ctx.streamWindow (c : Ctx) (d : Dir) (t : BitVec 20) : Nat :=
  let w := (c.run.tapeAt t).window
  if w = 0 then d.winRecs else w

/-- The view bytes of a view in record order, as they stand (R356). -/
def Core.viewBytes (k : Core) (v : Nat) : List Byte := k.bytes (viewSegs v (k.arch.view v))

/-- Zero bytes that fill a record. -/
def padTo (n : Nat) (bs : List Byte) : List Byte := bs ++ List.replicate (n - bs.length) 0

end Sys2Proof.Machine
end

