-- ==== Sys2Proof/Machine/Vector.lean ====
section
/-! DEFINITION. The meanings of the VX instructions (16): arithmetic (R305 to R307), compares and masks (R308 to R310), moves
and shifts (R311, R312), conversions (R313 to R315), approximate functions (R316, R394), reductions (R199, R317), cross-lane
moves (R318), scratch transfers (R319) and tile slices (R320 to R322). The reversible ones stand in Reversible.lean. -/

namespace Sys2Proof.Machine

/-! ## Elements of lanes (R298) -/

/-- The lane word of an element's bits: sign-extended for INT8 and INT16, zero above the element otherwise. -/
def laneWord (code bits : Nat) : Nat :=
  if code = 6 || code = 7 then bitsOf 32 (signedOf (fmtWidth code) bits) else bits % 2 ^ fmtWidth code

/-- The bits of an integer result in wrap or saturating mode (R301, R305). -/
def intResult (code : Nat) (sat : Bool) (i : Int) : FRes :=
  if sat then
    let j := max (intMin code) (min (intMax code) i)
    ⟨bitsOf (fmtWidth code) j, flagIf (i != j) fSat⟩
  else ⟨bitsOf (fmtWidth code) i, 0⟩

/-- A floating-point result rounded once in the mode at this lane. -/
def fltResult (a : Arch) (code : Nat) (m : Mode) (lane : Nat) (x : XRes) : FRes :=
  let r := (floatFmt code).round (a.rounding m lane) false x.1
  ⟨r.code, r.flags ||| flagIf x.2 fInv⟩

/-! ## Shapes of plans -/

/-- The accepted format codes hold the resolved code (R299). -/
def badFmt (codes : List Nat) (f : Nat) : Bool := !codes.contains f

/-- A source view: its read access and poison. -/
def viewAccess (a : Arch) (v : Nat) : Nat × Nat := (v, viewBay v (a.view v))
def viewLocs (a : Arch) (v : Nat) : List Loc := (viewSegs v (a.view v)).map (fun s => Loc.bytes s.1 s.2)

/-- A vector result: lane words of the enabled lanes land after `l` vc, the whole line locked (R300). -/
def vecPend (c : Ctx) (l : Nat) (kind : Kind) (d : Nat) (m : W64) (ws : List Nat) (fl : Flags) : Pend :=
  let dd := c.k.arch.view d
  { c.pend l kind (.bytes (laneSegs dd m)) 0 (laneData m ws) fl with lock := [vecSeg dd] }

/-- A plan that reads vector views `srcs`, registers and masks, and writes vector view `d`. -/
def vecPlan (c : Ctx) (l : Nat) (srcs regs masks : List Nat) (d : Nat) (m : W64) (ws : List Nat) (fl : Flags) : Plan :=
  let a := c.k.arch
  let vs := srcs.eraseDups
  { views := srcs ++ [d]
    reads := vs.flatMap (viewLocs a) ++ regs.map Loc.reg ++ masks.map Loc.mask
    writes := viewLocs a d
    access := vs.map (viewAccess a)
    ports := vs.length
    touch := [viewBay d (a.view d)]
    poison := vs.flatMap (fun v => viewSegs v (a.view v))
    lands := [vecPend c l .vector d m ws fl] }

/-- The plan with the effects of rounding in SR (R194, R301). -/
def Plan.rounding (p : Plan) (sr : Bool) : Plan :=
  { p with
    writes := p.writes ++ srWrites sr
    feats := if sr then 4 :: p.feats else p.feats
    imm := fun k => p.imm { k with arch := k.arch.stepRng sr } }

/-- Lane words and flags of a function of each lane, flags from enabled lanes only (R303). -/
def mapLanes (m : W64) (f : Nat → FRes) : List Nat × Flags :=
  let rs := (List.range 64).map f
  (rs.map FRes.code, (enabled m).foldl (fun fl l => fl ||| ((rs.getD l ⟨0, 0⟩).flags)) 0)

/-- The mode field of an arithmetic instruction against its resolved format is out of range (R301). -/
def badMode (f m : Nat) (zeroOnly : Bool) : Bool :=
  if isFloatCode f then (if zeroOnly then m != 0 else 5 < m) else 1 < m

/-- Lane `i` of an arithmetic instruction of two sources (R305): in a floating-point format the exact value rounded once, in an
integer one the exact integer wrapped, or saturated in mode 1. -/
def arithLane (a : Arch) (code m : Nat) (zeroOnly : Bool) (fv : Val → Val → Bool → XRes) (fi : Int → Int → Int)
    (i u v : Nat) : FRes :=
  let mode := a.modeField m
  let r := if isFloatCode code then
      fltResult a code (if zeroOnly then .rne else mode) i (fv (valOf code u) (valOf code v) mode.isRd)
    else intResult code (m == 1) (fi (intOf code u) (intOf code v))
  ⟨laneWord code r.code, r.flags⟩

/-- Lane `i` of VABS and VNEG (R305): the sign alone changes, and a NaN becomes the canonical one. -/
def signLane (a : Arch) (code m : Nat) (fv : Val → Val) (fi : Int → Int) (i u : Nat) : FRes :=
  let r := if isFloatCode code then
      (match valOf code u with
       | .nan _ => fltResult a code .rne i (.nan false, false)
       | v => fltResult a code .rne i (fv v, false))
    else intResult code (m == 1) (fi (intOf code u))
  ⟨laneWord code r.code, r.flags⟩

/-- Lane `i` of VFMA and VFMS (R306): ± u × v + w rounded once in rm of %fstat; integers wrap. -/
def fmaLane (a : Arch) (code : Nat) (negate : Bool) (i u v w : Nat) : FRes :=
  let r := if isFloatCode code then
      let u' := valOf code u
      fltResult a code a.rm i ((if negate then u'.neg else u').fma (valOf code v) (valOf code w) a.rm.isRd)
    else
      let p := intOf code u * intOf code v
      intResult code false (intOf code w + (if negate then -p else p))
  ⟨laneWord code r.code, r.flags⟩

/-- An arithmetic instruction of two sources (R305). VMIN and VMAX round too, though exactly, and so in SR where rm says so (R194). -/
def arith2 (c : Ctx) (l d x y q m f : Nat) (zeroOnly : Bool) (fv : Val → Val → Bool → XRes) (fi : Int → Int → Int) : Plan :=
  let a := c.k.arch
  let code := a.fmt f
  if badFmt [0, 1, 2, 6, 7, 8, 9] code || badMode code m zeroOnly then
    { views := [x, y, d], bad := true }
  else
    let mode := a.modeField m
    let sr := isFloatCode code && mode.isSr
    let lx := c.k.lanes x
    let ly := c.k.lanes y
    let mask := a.mask q
    let r := mapLanes mask (fun i => arithLane a code m zeroOnly fv fi i (lx.getD i 0) (ly.getD i 0))
    (vecPlan c l [x, y] [] [q] d mask r.1 r.2).rounding sr

/-- An arithmetic instruction of one source that changes the sign alone (R305); it rounds, though exactly (R194). -/
def arith1 (c : Ctx) (d x q m f : Nat) (fv : Val → Val) (fi : Int → Int) : Plan :=
  let a := c.k.arch
  let code := a.fmt f
  if badFmt [0, 1, 2, 6, 7, 8, 9] code || badMode code m true then { views := [x, d], bad := true }
  else
    let lx := c.k.lanes x
    let mask := a.mask q
    let r := mapLanes mask (fun i => signLane a code m fv fi i (lx.getD i 0))
    (vecPlan c 3 [x] [] [q] d mask r.1 r.2).rounding (isFloatCode code && (a.modeField m).isSr)

/-- VFMA and VFMS (R306): all lanes, rm of %fstat. -/
def fmaPlan (c : Ctx) (d x y z f : Nat) (negate : Bool) : Plan :=
  let a := c.k.arch
  let code := a.fmt f
  if badFmt [0, 1, 2, 6, 7, 8, 9] code then { views := [x, y, z, d], bad := true }
  else
    let sr := isFloatCode code && a.rm.isSr
    let lx := c.k.lanes x
    let ly := c.k.lanes y
    let lz := c.k.lanes z
    let r := mapLanes (BitVec.allOnes 64) (fun i => fmaLane a code negate i (lx.getD i 0) (ly.getD i 0) (lz.getD i 0))
    (vecPlan c 5 [x, y, z] [] [] d (BitVec.allOnes 64) r.1 r.2).rounding sr

/-- A lane of VADD.SR is wholly absorbed (R195, R307). -/
def absorbed (code old addend result : Nat) : Bool :=
  let v := valOf code addend
  v.isFinite && !v.isZero && !(valOf code old).isNan && result == old % 2 ^ fmtWidth code

/-- A result in a lane mask after 3 vc. -/
def maskPlan (c : Ctx) (srcs regs masks : List Nat) (e : Nat) (v : W64) : Plan :=
  let a := c.k.arch
  let vs := srcs.eraseDups
  { views := srcs
    reads := vs.flatMap (viewLocs a) ++ regs.map Loc.reg ++ masks.map Loc.mask
    writes := [.mask e]
    access := vs.map (viewAccess a)
    ports := vs.length
    poison := vs.flatMap (fun v => viewSegs v (a.view v))
    lands := [c.pend 3 .vector (.mask e) v [] 0] }

/-- A raw instruction over whole lanes of two views (R311, R318). -/
def raw2 (c : Ctx) (l d x y q : Nat) (f : Nat → Nat → Nat → Nat) : Plan :=
  let lx := c.k.lanes x
  let ly := c.k.lanes y
  let ws := (List.range 64).map (fun i => f i (lx.getD i 0) (ly.getD i 0))
  vecPlan c l [x, y] [] [q] d (c.k.arch.mask q) ws 0

/-- A shift of elements (R312). -/
def shiftPlan (c : Ctx) (d x y q f : Nat) (op : Nat → Nat → Nat → Nat) : Plan :=
  let code := c.k.arch.fmt f
  if badFmt [6, 7, 8, 9] code then { views := [x, y, d], bad := true }
  else
    let w := fmtWidth code
    raw2 c 3 d x y q (fun _ u v => laneWord code (op code (u % 2 ^ w) (v % w)))

/-- Formats VCVT takes (R313). -/
def cvtFmts : List Nat := [0, 1, 2, 3, 4, 6, 7, 8, 9]

/-- One lane of VCVT: a copy when source and target agree, a NaN made canonical with its sign kept (R313). -/
def cvtLane (a : Arch) (src dst : Nat) (m : Mode) (sat : Bool) (lane u : Nat) : FRes :=
  let r :=
    if src = dst then
      (match valOf src u with
       | .nan s => if isFloatCode src then ⟨(floatFmt src).signed s (floatFmt src).nanCode, 0⟩ else ⟨u, 0⟩
       | _ => ⟨u % 2 ^ fmtWidth src, 0⟩)
    else convert dst (a.rounding m lane) (sat && isFloatCode src) (valOf src u)
  ⟨laneWord dst r.code, r.flags⟩

/-- The values of 32 FP32 lanes from `o`. -/
def laneVals (ls : List Nat) (o : Nat) : List Val := ((ls.drop o).take 32).map f32

/-- A quantised block as lane words: codes low, the metadata word in bits 31–16 of the first lane (R314). -/
def blockLanes (b : Block) : List Nat :=
  b.codes.zipIdx.map (fun p => if p.2 = 0 then p.1 + b.metaW * 65536 else p.1)

/-- The approximate functions' finite part (R316): each is the exact rational its formula gives. -/
def ratAdd (a b : Val) : Val := (a.add b false).1
def ratMul (a b : Val) : Val := (a.mul b).1
def ratI (i : Int) : Val := .ofInt i
def ratQ (n d : Nat) : Val := .num false n d

/-- x × 2^e exactly. -/
def ratScale (v : Val) (e : Int) : Val := unscale (-e) v

/-- normalise(x): m in [1, 2) and E with |x| = m × 2^E (R316). -/
def normalise (n d : Nat) : Val × Int :=
  let e := ratioLog n d
  (unscale e (.num false n d), e)

/-- VRSQRTA of a positive finite code (R316, R394): a subnormal is scaled by 2^64 first. -/
def rsqrtaVal (c : Nat) : Val :=
  let sub : Bool := c < 0x00800000
  let x := if sub then ratScale (f32 c) 64 else f32 c
  let bits := if sub then (fp32.round .rne false x).code else c
  let y0 := f32 (0x5F375A86 - bits / 2)
  let t := ratAdd (ratMul (ratMul x y0) y0) (ratI (-1))
  let p := ratAdd (ratAdd (ratI 1) (ratMul t (ratQ 1 2)).neg) (ratMul (ratMul t t) (ratQ 3 8))
  ratScale (ratMul y0 p) (if sub then 32 else 0)

/-- VRCPA of a finite value that is not zero. -/
def rcpaVal (neg : Bool) (n d : Nat) : Val :=
  let me := normalise n d
  let r0 := ratAdd (ratQ 48 17) (ratMul (ratQ 32 17) me.1).neg
  let t := ratAdd (ratMul me.1 r0) (ratI (-1))
  let v := ratScale (ratMul r0 (ratAdd (ratAdd (ratI 1) t.neg) (ratMul t t))) (-me.2)
  if neg then v.neg else v

/-- VEXP2A of a finite value. The exponent is bounded where the result is far beyond the format, as R192 decides alike. -/
def exp2aVal (v : Val) : Val :=
  match v with
  | .num neg n d =>
    let lo : Int := if neg then -(((n + d - 1) / d : Nat) : Int) else (n / d : Nat)
    let f := ratAdd v (ratI (-lo))
    let p := ratAdd (ratI 1) (ratMul f (ratAdd (ratQ 89 128) (ratMul f (ratAdd (ratQ 29 128) (ratMul f (ratQ 5 64))))))
    ratScale p (max (-400) (min 400 lo))
  | w => w

/-- VLOG2A of a positive finite value. -/
def log2aVal (n d : Nat) : Val :=
  let me := normalise n d
  let up := !(me.1.lt (ratQ 3 2))
  let m := if up then ratMul me.1 (ratQ 1 2) else me.1
  let e : Int := if up then me.2 + 1 else me.2
  let u := (ratAdd m (ratI (-1))).div (ratAdd m (ratI 1))
  let u2 := ratMul u u
  let u3 := ratMul u2 u
  let s := ratAdd (ratAdd u (ratMul u3 (ratQ 1 3))) (ratMul (ratMul u3 u2) (ratQ 1 5))
  ratAdd (ratI e) (ratMul (f32 0x4038AA3B) s)

/-- An approximate function of a lane: the special cases of Table 16.4 first. -/
def rsqrtaLane (u : Nat) : FRes :=
  match f32 u with
  | .nan _ => ⟨fp32.nanCode, 0⟩
  | .inf s => if s then ⟨fp32.nanCode, fInv⟩ else ⟨0, 0⟩
  | .num s n _ =>
    if n = 0 then ⟨fp32.signed s fp32.infCode, fDz⟩ else if s then ⟨fp32.nanCode, fInv⟩
    else fp32.round .rne false (rsqrtaVal u)
def rcpaLane (u : Nat) : FRes :=
  match f32 u with
  | .nan _ => ⟨fp32.nanCode, 0⟩
  | .inf s => ⟨fp32.signed s 0, 0⟩
  | .num s n d => if n = 0 then ⟨fp32.signed s fp32.infCode, fDz⟩ else fp32.round .rne false (rcpaVal s n d)
def exp2aLane (u : Nat) : FRes :=
  match f32 u with
  | .nan _ => ⟨fp32.nanCode, 0⟩
  | .inf s => if s then ⟨0, 0⟩ else ⟨fp32.infCode, 0⟩
  | v => if v.isZero then ⟨0x3F800000, 0⟩ else fp32.round .rne false (exp2aVal v)
def log2aLane (u : Nat) : FRes :=
  match f32 u with
  | .nan _ => ⟨fp32.nanCode, 0⟩
  | .inf s => if s then ⟨fp32.nanCode, fInv⟩ else ⟨fp32.infCode, 0⟩
  | .num s n d =>
    if n = 0 then ⟨fp32.signed true fp32.infCode, fDz⟩ else if s then ⟨fp32.nanCode, fInv⟩
    else fp32.round .rne false (log2aVal n d)

def approxPlan (c : Ctx) (d x q : Nat) (f : Nat → FRes) : Plan :=
  let lx := c.k.lanes x
  let mask := c.k.arch.mask q
  let r := mapLanes mask (fun i => f (lx.getD i 0))
  vecPlan c 7 [x] [] [q] d mask r.1 r.2

/-- The result of a reduction: lane 0, the other lanes zero (R317). -/
def reducePlan (c : Ctx) (d x q w : Nat) (fl : Flags) : Plan :=
  vecPlan c 9 [x] [] [q] d (BitVec.allOnes 64) (w :: List.replicate 63 0) fl

/-- VREDSUM's lane 0 (R199): a tree in FP32 with −0 for lanes left out, an exact wrapped sum in integer formats. -/
def redSum (code : Nat) (m : W64) (ls : List Nat) : FRes :=
  if code = 0 then
    let r := treeSum 6 ((List.range 64).map (fun i => if m.getLsbD i then ls.getD i 0 else 0x80000000)) 0
    ⟨r.1, r.2 &&& (fOvf ||| fInx ||| fInv)⟩
  else ⟨laneWord code (bitsOf (fmtWidth code) ((enabled m).foldl (fun s i => s + intOf code (ls.getD i 0)) 0)), 0⟩

/-- VREDMAX's lane 0 (R199). -/
def redMax (code : Nat) (m : W64) (ls : List Nat) : Nat :=
  let vs := (enabled m).map (fun i => ls.getD i 0)
  if isFloatCode code then
    let f := floatFmt code
    (f.round .rne false (vs.foldl (fun acc u => acc.maxOf (valOf code u)) (.inf true))).code
  else laneWord code (bitsOf (fmtWidth code) (vs.foldl (fun acc u => max acc (intOf code u)) (intMin code)))

/-! ## Tile slices (R320 to R322) -/

/-- Byte ranges of row or column `k`. -/
def sliceSegs (t : Tile) (col : Bool) (k : Nat) : List (Nat × Nat) :=
  if col then (List.range t.rows).map (fun i => (t.base + i * t.pitch + k * t.width / 8, (t.width + 7) / 8))
  else [(t.base + k * t.pitch, t.rowBytes)]

/-- Length of the slice, and the element it maps lane `i` to. -/
def sliceLen (t : Tile) (col : Bool) : Nat := if col then t.rows else t.cols
def sliceElem (col : Bool) (k i : Nat) : Nat × Nat := if col then (i, k) else (k, i)

/-- Blocks whose metadata words lanes 0 and 32 carry, when the slice carries metadata (R322). -/
def sliceMeta (a : Arch) (t : Tile) (col : Bool) (k code : Nat) : List (Nat × Nat) :=
  if !t.metaOn || !(code = 3 || code = 4 || code = 5) then []
  else
    let blk (i : Nat) : Nat := (blockOf a.bhLog a.border t.rows t.cols (sliceElem col k i).1 (sliceElem col k i).2).1
    (0, blk 0) :: (if sliceLen t col = 64 then [(32, blk 32)] else [])

/-- The 0x04 checks of a slice move (R321, R322). -/
def badSlice (a : Arch) (t : Tile) (col : Bool) (k code : Nat) : Bool :=
  9 < code || (col && t.bay < 8) || fmtWidth code != t.width || (if col then t.cols ≤ k else t.rows ≤ k) ||
  (t.metaOn && (code == 3 || code == 4 || code == 5) &&
    ((if col then a.bhLog != 5 else a.bhLog != 0) || !geomFits a.bhLog t.rows t.cols))

def metaSegs (t : Tile) (ms : List (Nat × Nat)) : List (Nat × Nat) := ms.map (fun m => (t.metaAt + 2 * m.2, 2))

/-- TROW.LD and TCOL.LD. -/
def sliceLoad (c : Ctx) (d tv b q f : Nat) (col : Bool) : Plan :=
  let a := c.k.arch
  let code := a.fmt f
  let t := tileOf (a.view (32 + tv))
  let k := (a.reg b).toNat % 64
  if badSlice a t col k code then { views := [d, 32 + tv], bad := true }
  else
    let mask := a.mask q
    let ms := sliceMeta a t col k code
    let segs := sliceSegs t col k ++ metaSegs t (ms.filter (fun m => mask.getLsbD m.1))
    let ws := (List.range 64).map (fun i =>
      if i < sliceLen t col then
        laneWord code (t.get c.k.gallery (sliceElem col k i).1 (sliceElem col k i).2) +
          (match ms.find? (fun m => m.1 == i) with
           | some m => t.metaWord c.k.gallery m.2 * 65536
           | none => 0)
      else 0)
    { views := [d, 32 + tv]
      reads := segs.map (fun s => Loc.bytes s.1 s.2) ++ [.reg b, .mask q]
      writes := viewLocs a d
      access := [(32 + tv, t.bay)]
      ports := 1
      touch := [viewBay d (a.view d)]
      feats := if code = 5 then [3] else []
      poison := segs
      lands := [{ vecPend c 3 .slice d mask ws 0 with kind := .slice }] }

/-- The bytes a slice store lands: whole elements, and for 4-bit ones the byte with its other nibble as it stands. -/
def sliceBytes (c : Ctx) (t : Tile) (col : Bool) (k : Nat) (mask : W64) (ws : List Nat) : List (Nat × List Byte) :=
  let n := sliceLen t col
  let el (i : Nat) : Nat := ws.getD i 0 % 2 ^ t.width
  if t.width = 4 then
    let put (old i v : Nat) : Nat :=
      if (sliceElem col k i).2 % 2 = 0 then old / 16 * 16 + v else old % 16 + 16 * v
    let addr (i : Nat) : Nat := t.base + (sliceElem col k i).1 * t.pitch + (sliceElem col k i).2 / 2
    let live := (List.range n).filter mask.getLsbD
    ((live.map addr).eraseDups).map (fun ad =>
      (ad, [BitVec.ofNat 8 ((live.filter (fun i => addr i == ad)).foldl (fun o i => put o i (el i))
        (c.k.gallery.num ad 1))]))
  else
    ((List.range n).filter mask.getLsbD).map (fun i =>
      (t.base + (sliceElem col k i).1 * t.pitch + (sliceElem col k i).2 * t.width / 8, leBytes (t.width / 8) (el i)))

/-- TROW.ST and TCOL.ST. -/
def sliceStore (c : Ctx) (v tv b q f : Nat) (col : Bool) : Plan :=
  let a := c.k.arch
  let code := a.fmt f
  let t := tileOf (a.view (32 + tv))
  let k := (a.reg b).toNat % 64
  if badSlice a t col k code then { views := [v, 32 + tv], bad := true }
  else
    let mask := a.mask q
    let ws := c.k.lanes v
    let ms := (sliceMeta a t col k code).filter (fun m => mask.getLsbD m.1)
    let parts := sliceBytes c t col k mask ws ++
      ms.map (fun m => (t.metaAt + 2 * m.2, leBytes 2 (ws.getD m.1 0 / 65536)))
    let segs := parts.map (fun p => (p.1, p.2.length))
    let lock := sliceSegs t col k ++ metaSegs t ms
    { views := [v, 32 + tv]
      reads := viewLocs a v ++ [.reg b, .mask q]
      writes := lock.map (fun s => Loc.bytes s.1 s.2)
      access := [viewAccess a v]
      ports := 1
      touch := [t.bay]
      feats := if code = 5 then [3] else []
      poison := viewSegs v (a.view v)
      lands := [{ c.pend 3 .slice (.bytes segs) 0 (parts.flatMap Prod.snd) 0 with lock := lock }] }

/-- A scalar result of a VX instruction after 3 vc (R309, R318). -/
def vxScalar (c : Ctx) (srcs regs masks : List Nat) (d : Nat) (v : W64) : Plan :=
  { maskPlan c srcs regs masks 0 0 with
    writes := [.reg d], lands := [c.pend 3 .vector (.reg (physReg c.k.arch.rot d)) v [] 0] }

/-- The 64-bit extension of an element (R318). -/
def extendElem (code u : Nat) : W64 :=
  if code = 6 || code = 7 || code = 8 then BitVec.ofInt 64 (intOf code u) else BitVec.ofNat 64 (u % 2 ^ fmtWidth code)

/-! ## Plans and meanings -/

/-- Plan of VADD (R305). -/
def planVadd (d : BitVec 5) (a : BitVec 5) (b : BitVec 5) (q : BitVec 2) (m : BitVec 3) (f : BitVec 4) (c : Ctx) : Plan :=
  arith2 c 3 d.toNat a.toNat b.toNat q.toNat m.toNat f.toNat false Val.add (· + ·)

/-- VADD by itself. -/
def execVadd (d : BitVec 5) (a : BitVec 5) (b : BitVec 5) (q : BitVec 2) (m : BitVec 3) (f : BitVec 4) (s : State) : Out :=
  issueAlone 2 false (encode (.vadd d a b q m f)) (planVadd d a b q m f) s

/-- Plan of VSUB (R305). -/
def planVsub (d : BitVec 5) (a : BitVec 5) (b : BitVec 5) (q : BitVec 2) (m : BitVec 3) (f : BitVec 4) (c : Ctx) : Plan :=
  arith2 c 3 d.toNat a.toNat b.toNat q.toNat m.toNat f.toNat false (fun a b rd => a.add b.neg rd) (· - ·)

/-- VSUB by itself. -/
def execVsub (d : BitVec 5) (a : BitVec 5) (b : BitVec 5) (q : BitVec 2) (m : BitVec 3) (f : BitVec 4) (s : State) : Out :=
  issueAlone 2 false (encode (.vsub d a b q m f)) (planVsub d a b q m f) s

/-- Plan of VMUL (R305). -/
def planVmul (d : BitVec 5) (a : BitVec 5) (b : BitVec 5) (q : BitVec 2) (m : BitVec 3) (f : BitVec 4) (c : Ctx) : Plan :=
  arith2 c 5 d.toNat a.toNat b.toNat q.toNat m.toNat f.toNat false (fun a b _ => a.mul b) (· * ·)

/-- VMUL by itself. -/
def execVmul (d : BitVec 5) (a : BitVec 5) (b : BitVec 5) (q : BitVec 2) (m : BitVec 3) (f : BitVec 4) (s : State) : Out :=
  issueAlone 2 false (encode (.vmul d a b q m f)) (planVmul d a b q m f) s

/-- Plan of VFMA (R306). -/
def planVfma (d : BitVec 5) (a : BitVec 5) (b : BitVec 5) (c_ : BitVec 5) (f : BitVec 4) (c : Ctx) : Plan :=
  fmaPlan c d.toNat a.toNat b.toNat c_.toNat f.toNat false

/-- VFMA by itself. -/
def execVfma (d : BitVec 5) (a : BitVec 5) (b : BitVec 5) (c_ : BitVec 5) (f : BitVec 4) (s : State) : Out :=
  issueAlone 2 false (encode (.vfma d a b c_ f)) (planVfma d a b c_ f) s

/-- Plan of VFMS (R306). -/
def planVfms (d : BitVec 5) (a : BitVec 5) (b : BitVec 5) (c_ : BitVec 5) (f : BitVec 4) (c : Ctx) : Plan :=
  fmaPlan c d.toNat a.toNat b.toNat c_.toNat f.toNat true

/-- VFMS by itself. -/
def execVfms (d : BitVec 5) (a : BitVec 5) (b : BitVec 5) (c_ : BitVec 5) (f : BitVec 4) (s : State) : Out :=
  issueAlone 2 false (encode (.vfms d a b c_ f)) (planVfms d a b c_ f) s

/-- Plan of VMIN (R305). -/
def planVmin (d : BitVec 5) (a : BitVec 5) (b : BitVec 5) (q : BitVec 2) (m : BitVec 3) (f : BitVec 4) (c : Ctx) : Plan :=
  arith2 c 3 d.toNat a.toNat b.toNat q.toNat m.toNat f.toNat true (fun a b _ => (a.minOf b, false)) min

/-- VMIN by itself. -/
def execVmin (d : BitVec 5) (a : BitVec 5) (b : BitVec 5) (q : BitVec 2) (m : BitVec 3) (f : BitVec 4) (s : State) : Out :=
  issueAlone 2 false (encode (.vmin d a b q m f)) (planVmin d a b q m f) s

/-- Plan of VMAX (R305). -/
def planVmax (d : BitVec 5) (a : BitVec 5) (b : BitVec 5) (q : BitVec 2) (m : BitVec 3) (f : BitVec 4) (c : Ctx) : Plan :=
  arith2 c 3 d.toNat a.toNat b.toNat q.toNat m.toNat f.toNat true (fun a b _ => (a.maxOf b, false)) max

/-- VMAX by itself. -/
def execVmax (d : BitVec 5) (a : BitVec 5) (b : BitVec 5) (q : BitVec 2) (m : BitVec 3) (f : BitVec 4) (s : State) : Out :=
  issueAlone 2 false (encode (.vmax d a b q m f)) (planVmax d a b q m f) s

/-- Plan of VABS (R305). -/
def planVabs (d : BitVec 5) (a : BitVec 5) (q : BitVec 2) (m : BitVec 3) (f : BitVec 4) (c : Ctx) : Plan :=
  arith1 c d.toNat a.toNat q.toNat m.toNat f.toNat Val.abs (fun i => i.natAbs)

/-- VABS by itself. -/
def execVabs (d : BitVec 5) (a : BitVec 5) (q : BitVec 2) (m : BitVec 3) (f : BitVec 4) (s : State) : Out :=
  issueAlone 2 false (encode (.vabs d a q m f)) (planVabs d a q m f) s

/-- Plan of VNEG (R305). -/
def planVneg (d : BitVec 5) (a : BitVec 5) (q : BitVec 2) (m : BitVec 3) (f : BitVec 4) (c : Ctx) : Plan :=
  arith1 c d.toNat a.toNat q.toNat m.toNat f.toNat Val.neg (fun i => -i)

/-- VNEG by itself. -/
def execVneg (d : BitVec 5) (a : BitVec 5) (q : BitVec 2) (m : BitVec 3) (f : BitVec 4) (s : State) : Out :=
  issueAlone 2 false (encode (.vneg d a q m f)) (planVneg d a q m f) s

/-- A mode field that the table marks zero and that is not makes the bundle illegal (R301). -/
def Plan.zeroMode (p : Plan) (m : BitVec 3) : Plan := if m = 0 then p else { p with bad := true }

/-- Plan of VADD.SR (R307). -/
def planVaddSr (d : BitVec 5) (a : BitVec 5) (b : BitVec 5) (q : BitVec 2) (m : BitVec 3) (f : BitVec 4) (c : Ctx) : Plan :=
  let ar := c.k.arch
  let code := ar.fmt f.toNat
  if m != 0 || badFmt [0, 1, 2] code then { feature := 4, views := [a.toNat, b.toNat, d.toNat], bad := true }
  else
    let la := c.k.lanes a.toNat
    let lb := c.k.lanes b.toNat
    let mask := ar.mask q.toNat
    let r := mapLanes mask (fun i =>
      fltResult ar code .sr i ((valOf code (la.getD i 0)).add (valOf code (lb.getD i 0)) false))
    let n := ((enabled mask).filter (fun i => absorbed code (la.getD i 0) (lb.getD i 0) (r.1.getD i 0))).length
    { (vecPlan c 3 [a.toNat, b.toNat] [] [q.toNat] d.toNat mask r.1 r.2).rounding true with
      feature := 4
      lands := [{ vecPend c 3 .vector d.toNat mask r.1 r.2 with absorb := n }] }

/-- VADD.SR by itself. -/
def execVaddSr (d : BitVec 5) (a : BitVec 5) (b : BitVec 5) (q : BitVec 2) (g : ModeFmt) (s : State) : Out :=
  issueAlone 2 false (encode (.vaddSr d a b q g)) (planVaddSr d a b q g.mode g.fmt) s

/-- Plan of VCMP.cc (R308). -/
def planVcmpCc (c_ : BitVec 4) (e : BitVec 2) (a : BitVec 5) (b : BitVec 5) (q : BitVec 2) (m : BitVec 3) (f : BitVec 4) (c : Ctx) : Plan :=
  let ar := c.k.arch
  let code := ar.fmt f.toNat
  let cc := c_.toNat
  if m != 0 || badFmt [0, 1, 2, 6, 7, 8, 9] code || (isFloatCode code && 6 ≤ cc) then { views := [a.toNat, b.toNat], bad := true }
  else
    let la := c.k.lanes a.toNat
    let lb := c.k.lanes b.toNat
    let mask := ar.mask q.toNat
    let hit (i : Nat) : Bool :=
      let u := la.getD i 0
      let v := lb.getD i 0
      mask.getLsbD i &&
      (if isFloatCode code then condVal cc (valOf code u) (valOf code v)
       else if 6 ≤ cc then condVal (cc - 4) (.ofInt ((u % 2 ^ fmtWidth code : Nat) : Int)) (.ofInt ((v % 2 ^ fmtWidth code : Nat) : Int))
       else condVal cc (.ofInt (intOf code u)) (.ofInt (intOf code v)))
    maskPlan c [a.toNat, b.toNat] [] [q.toNat] e.toNat
      (BitVec.ofNat 64 ((List.range 64).foldl (fun n i => if hit i then n + 2 ^ i else n) 0))

/-- VCMP.cc by itself. -/
def execVcmpCc (c_ : BitVec 4) (e : BitVec 2) (a : BitVec 5) (b : BitVec 5) (q : BitVec 2) (g : ModeFmt) (s : State) : Out :=
  issueAlone 2 false (encode (.vcmpCc c_ e a b q g)) (planVcmpCc c_ e a b q g.mode g.fmt) s

/-- Plan of VSEL (R311): the mask is the selector, every lane is written. -/
def planVsel (d : BitVec 5) (a : BitVec 5) (b : BitVec 5) (q : BitVec 2) (c : Ctx) : Plan :=
  let la := c.k.lanes a.toNat
  let lb := c.k.lanes b.toNat
  let m := c.k.arch.mask q.toNat
  vecPlan c 3 [a.toNat, b.toNat] [] [q.toNat] d.toNat (BitVec.allOnes 64)
    ((List.range 64).map (fun i => if m.getLsbD i then la.getD i 0 else lb.getD i 0)) 0

/-- VSEL by itself. -/
def execVsel (d : BitVec 5) (a : BitVec 5) (b : BitVec 5) (q : BitVec 2) (s : State) : Out :=
  issueAlone 2 false (encode (.vsel d a b q)) (planVsel d a b q) s

/-- Plan of VAND (R311). -/
def planVand (d : BitVec 5) (a : BitVec 5) (b : BitVec 5) (q : BitVec 2) (c : Ctx) : Plan :=
  raw2 c 3 d.toNat a.toNat b.toNat q.toNat (fun _ u v => u &&& v)

/-- VAND by itself. -/
def execVand (d : BitVec 5) (a : BitVec 5) (b : BitVec 5) (q : BitVec 2) (s : State) : Out :=
  issueAlone 2 false (encode (.vand d a b q)) (planVand d a b q) s

/-- Plan of VOR (R311). -/
def planVor (d : BitVec 5) (a : BitVec 5) (b : BitVec 5) (q : BitVec 2) (c : Ctx) : Plan :=
  raw2 c 3 d.toNat a.toNat b.toNat q.toNat (fun _ u v => u ||| v)

/-- VOR by itself. -/
def execVor (d : BitVec 5) (a : BitVec 5) (b : BitVec 5) (q : BitVec 2) (s : State) : Out :=
  issueAlone 2 false (encode (.vor d a b q)) (planVor d a b q) s

/-- Plan of VXOR (R311). -/
def planVxor (d : BitVec 5) (a : BitVec 5) (b : BitVec 5) (q : BitVec 2) (c : Ctx) : Plan :=
  raw2 c 3 d.toNat a.toNat b.toNat q.toNat (fun _ u v => u ^^^ v)

/-- VXOR by itself. -/
def execVxor (d : BitVec 5) (a : BitVec 5) (b : BitVec 5) (q : BitVec 2) (s : State) : Out :=
  issueAlone 2 false (encode (.vxor d a b q)) (planVxor d a b q) s

/-- Plan of VSHL (R312). -/
def planVshl (d : BitVec 5) (a : BitVec 5) (b : BitVec 5) (q : BitVec 2) (m : BitVec 3) (f : BitVec 4) (c : Ctx) : Plan :=
  (shiftPlan c d.toNat a.toNat b.toNat q.toNat f.toNat (fun _ u k => u * 2 ^ k)).zeroMode m

/-- VSHL by itself. -/
def execVshl (d : BitVec 5) (a : BitVec 5) (b : BitVec 5) (q : BitVec 2) (g : ModeFmt) (s : State) : Out :=
  issueAlone 2 false (encode (.vshl d a b q g)) (planVshl d a b q g.mode g.fmt) s

/-- Plan of VSHR (R312). -/
def planVshr (d : BitVec 5) (a : BitVec 5) (b : BitVec 5) (q : BitVec 2) (m : BitVec 3) (f : BitVec 4) (c : Ctx) : Plan :=
  (shiftPlan c d.toNat a.toNat b.toNat q.toNat f.toNat (fun _ u k => u / 2 ^ k)).zeroMode m

/-- VSHR by itself. -/
def execVshr (d : BitVec 5) (a : BitVec 5) (b : BitVec 5) (q : BitVec 2) (g : ModeFmt) (s : State) : Out :=
  issueAlone 2 false (encode (.vshr d a b q g)) (planVshr d a b q g.mode g.fmt) s

/-- Plan of VSAR (R312). -/
def planVsar (d : BitVec 5) (a : BitVec 5) (b : BitVec 5) (q : BitVec 2) (m : BitVec 3) (f : BitVec 4) (c : Ctx) : Plan :=
  (shiftPlan c d.toNat a.toNat b.toNat q.toNat f.toNat
    (fun code u k => bitsOf (fmtWidth code) (intOf code u / (2 ^ k : Nat)))).zeroMode m

/-- VSAR by itself. -/
def execVsar (d : BitVec 5) (a : BitVec 5) (b : BitVec 5) (q : BitVec 2) (g : ModeFmt) (s : State) : Out :=
  issueAlone 2 false (encode (.vsar d a b q g)) (planVsar d a b q g.mode g.fmt) s

/-- Plan of VCVT (R313). -/
def planVcvt (d : BitVec 5) (a : BitVec 5) (t : BitVec 4) (s_ : BitVec 1) (q : BitVec 2) (m : BitVec 3) (f : BitVec 4) (c : Ctx) : Plan :=
  let ar := c.k.arch
  let src := ar.fmt f.toNat
  if badFmt cvtFmts src || badFmt cvtFmts t.toNat || decide (5 < m.toNat) then { views := [a.toNat, d.toNat], bad := true }
  else
    let mode := ar.modeField m.toNat
    let la := c.k.lanes a.toNat
    let mask := ar.mask q.toNat
    let r := mapLanes mask (fun i => cvtLane ar src t.toNat mode (s_ == 1) i (la.getD i 0))
    (vecPlan c 4 [a.toNat] [] [q.toNat] d.toNat mask r.1 r.2).rounding mode.isSr

/-- VCVT by itself. -/
def execVcvt (d : BitVec 5) (a : BitVec 5) (t : BitVec 4) (s_ : BitVec 1) (q : BitVec 2) (m : BitVec 3) (f : BitVec 4) (s : State) : Out :=
  issueAlone 2 false (encode (.vcvt d a t s_ q m f)) (planVcvt d a t s_ q m f) s

/-- Plan of VQNT (R314, R189). -/
def planVqnt (d : BitVec 5) (a : BitVec 5) (m : BitVec 3) (f : BitVec 4) (c : Ctx) : Plan :=
  let ar := c.k.arch
  let code := ar.fmt f.toNat
  if badFmt [3, 4, 5] code || decide (5 < m.toNat) then { views := [a.toNat, d.toNat], bad := true }
  else
    let mode := ar.modeField m.toNat
    let la := c.k.lanes a.toNat
    let q0 := quantBlock code ((List.range 32).map (ar.rounding mode)) (laneVals la 0)
    let q1 := quantBlock code ((List.range 32).map (fun i => ar.rounding mode (32 + i))) (laneVals la 32)
    let p := vecPlan c 4 [a.toNat] [] [] d.toNat (BitVec.allOnes 64) (blockLanes q0 ++ blockLanes q1) (q0.flags ||| q1.flags)
    { p.rounding mode.isSr with feats := (if code = 5 then [3] else []) ++ (if mode.isSr then [4] else []) }

/-- VQNT by itself. -/
def execVqnt (d : BitVec 5) (a : BitVec 5) (m : BitVec 3) (f : BitVec 4) (s : State) : Out :=
  issueAlone 2 false (encode (.vqnt d a m f)) (planVqnt d a m f) s

/-- Plan of VDQNT (R315). -/
def planVdqnt (d : BitVec 5) (a : BitVec 5) (m : BitVec 3) (f : BitVec 4) (c : Ctx) : Plan :=
  let ar := c.k.arch
  let code := ar.fmt f.toNat
  if m != 0 || badFmt [3, 4, 5] code then { views := [a.toNat, d.toNat], bad := true }
  else
    let la := c.k.lanes a.toNat
    let r := mapLanes (BitVec.allOnes 64) (fun i =>
      let v := blockVal code (la.getD (i / 32 * 32) 0 / 65536) (la.getD i 0 % 2 ^ fmtWidth code)
      if v.isNan then ⟨fp32.nanCode, 0⟩ else fp32.round .rne false v)
    { vecPlan c 4 [a.toNat] [] [] d.toNat (BitVec.allOnes 64) r.1 r.2 with feats := if code = 5 then [3] else [] }

/-- VDQNT by itself. -/
def execVdqnt (d : BitVec 5) (a : BitVec 5) (g : ModeFmt) (s : State) : Out :=
  issueAlone 2 false (encode (.vdqnt d a g)) (planVdqnt d a g.mode g.fmt) s

/-- Plan of VRSQRTA (R316). -/
def planVrsqrta (d : BitVec 5) (a : BitVec 5) (q : BitVec 2) (c : Ctx) : Plan :=
  approxPlan c d.toNat a.toNat q.toNat rsqrtaLane

/-- VRSQRTA by itself. -/
def execVrsqrta (d : BitVec 5) (a : BitVec 5) (q : BitVec 2) (s : State) : Out :=
  issueAlone 2 false (encode (.vrsqrta d a q)) (planVrsqrta d a q) s

/-- Plan of VRCPA (R316). -/
def planVrcpa (d : BitVec 5) (a : BitVec 5) (q : BitVec 2) (c : Ctx) : Plan :=
  approxPlan c d.toNat a.toNat q.toNat rcpaLane

/-- VRCPA by itself. -/
def execVrcpa (d : BitVec 5) (a : BitVec 5) (q : BitVec 2) (s : State) : Out :=
  issueAlone 2 false (encode (.vrcpa d a q)) (planVrcpa d a q) s

/-- Plan of VEXP2A (R316). -/
def planVexp2a (d : BitVec 5) (a : BitVec 5) (q : BitVec 2) (c : Ctx) : Plan :=
  approxPlan c d.toNat a.toNat q.toNat exp2aLane

/-- VEXP2A by itself. -/
def execVexp2a (d : BitVec 5) (a : BitVec 5) (q : BitVec 2) (s : State) : Out :=
  issueAlone 2 false (encode (.vexp2a d a q)) (planVexp2a d a q) s

/-- Plan of VLOG2A (R316). -/
def planVlog2a (d : BitVec 5) (a : BitVec 5) (q : BitVec 2) (c : Ctx) : Plan :=
  approxPlan c d.toNat a.toNat q.toNat log2aLane

/-- VLOG2A by itself. -/
def execVlog2a (d : BitVec 5) (a : BitVec 5) (q : BitVec 2) (s : State) : Out :=
  issueAlone 2 false (encode (.vlog2a d a q)) (planVlog2a d a q) s

/-- Plan of VREDSUM (R317, R199). -/
def planVredsum (d : BitVec 5) (a : BitVec 5) (q : BitVec 2) (m : BitVec 3) (f : BitVec 4) (c : Ctx) : Plan :=
  let code := c.k.arch.fmt f.toNat
  if m != 0 || badFmt [0, 6, 7, 8, 9] code then { views := [a.toNat, d.toNat], bad := true }
  else
    let r := redSum code (c.k.arch.mask q.toNat) (c.k.lanes a.toNat)
    reducePlan c d.toNat a.toNat q.toNat r.code r.flags

/-- VREDSUM by itself. -/
def execVredsum (d : BitVec 5) (a : BitVec 5) (q : BitVec 2) (g : ModeFmt) (s : State) : Out :=
  issueAlone 2 false (encode (.vredsum d a q g)) (planVredsum d a q g.mode g.fmt) s

/-- Plan of VREDMAX (R317, R199). -/
def planVredmax (d : BitVec 5) (a : BitVec 5) (q : BitVec 2) (m : BitVec 3) (f : BitVec 4) (c : Ctx) : Plan :=
  let code := c.k.arch.fmt f.toNat
  if m != 0 || badFmt [0, 1, 2, 6, 7, 8, 9] code then { views := [a.toNat, d.toNat], bad := true }
  else reducePlan c d.toNat a.toNat q.toNat (redMax code (c.k.arch.mask q.toNat) (c.k.lanes a.toNat)) 0

/-- VREDMAX by itself. -/
def execVredmax (d : BitVec 5) (a : BitVec 5) (q : BitVec 2) (g : ModeFmt) (s : State) : Out :=
  issueAlone 2 false (encode (.vredmax d a q g)) (planVredmax d a q g.mode g.fmt) s

/-- Plan of VBCAST (R318). -/
def planVbcast (d : BitVec 5) (s_ : BitVec 5) (q : BitVec 2) (c : Ctx) : Plan :=
  let v := (c.k.arch.reg s_.toNat).toNat % 2 ^ 32
  vecPlan c 3 [] [s_.toNat] [q.toNat] d.toNat (c.k.arch.mask q.toNat) (List.replicate 64 v) 0

/-- VBCAST by itself. -/
def execVbcast (d : BitVec 5) (s_ : BitVec 5) (q : BitVec 2) (s : State) : Out :=
  issueAlone 2 false (encode (.vbcast d s_ q)) (planVbcast d s_ q) s

/-- Plan of VEXTR (R318). -/
def planVextr (d : BitVec 5) (a : BitVec 5) (b : BitVec 5) (m : BitVec 3) (f : BitVec 4) (c : Ctx) : Plan :=
  let code := c.k.arch.fmt f.toNat
  if m != 0 || badFmt cvtFmts code then { views := [a.toNat], bad := true }
  else vxScalar c [a.toNat] [b.toNat] [] d.toNat
    (extendElem code ((c.k.lanes a.toNat).getD ((c.k.arch.reg b.toNat).toNat % 64) 0))

/-- VEXTR by itself. -/
def execVextr (d : BitVec 5) (a : BitVec 5) (b : BitVec 5) (g : ModeFmt) (s : State) : Out :=
  issueAlone 2 false (encode (.vextr d a b g)) (planVextr d a b g.mode g.fmt) s

/-- Plan of VPERM (R318). -/
def planVperm (d : BitVec 5) (a : BitVec 5) (b : BitVec 5) (q : BitVec 2) (c : Ctx) : Plan :=
  let la := c.k.lanes a.toNat
  raw2 c 4 d.toNat a.toNat b.toNat q.toNat (fun _ _ v => la.getD (v % 64) 0)

/-- VPERM by itself. -/
def execVperm (d : BitVec 5) (a : BitVec 5) (b : BitVec 5) (q : BitVec 2) (s : State) : Out :=
  issueAlone 2 false (encode (.vperm d a b q)) (planVperm d a b q) s

/-- Plan of VROT (R318). -/
def planVrot (d : BitVec 5) (a : BitVec 5) (b : BitVec 5) (q : BitVec 2) (c : Ctx) : Plan :=
  let la := c.k.lanes a.toNat
  let n := (c.k.arch.reg b.toNat).toNat % 64
  vecPlan c 4 [a.toNat] [b.toNat] [q.toNat] d.toNat (c.k.arch.mask q.toNat)
    ((List.range 64).map (fun i => la.getD ((i + n) % 64) 0)) 0

/-- VROT by itself. -/
def execVrot (d : BitVec 5) (a : BitVec 5) (b : BitVec 5) (q : BitVec 2) (s : State) : Out :=
  issueAlone 2 false (encode (.vrot d a b q)) (planVrot d a b q) s

/-- Plan of VMOV (R311). -/
def planVmov (d : BitVec 5) (a : BitVec 5) (q : BitVec 2) (c : Ctx) : Plan :=
  vecPlan c 3 [a.toNat] [] [q.toNat] d.toNat (c.k.arch.mask q.toNat) (c.k.lanes a.toNat) 0

/-- VMOV by itself. -/
def execVmov (d : BitVec 5) (a : BitVec 5) (q : BitVec 2) (s : State) : Out := issueAlone 2 false (encode (.vmov d a q)) (planVmov d a q) s

/-- Plan of VIOTA (R318). -/
def planViota (d : BitVec 5) (s_ : BitVec 5) (q : BitVec 2) (c : Ctx) : Plan :=
  let v := (c.k.arch.reg s_.toNat).toNat
  vecPlan c 3 [] [s_.toNat] [q.toNat] d.toNat (c.k.arch.mask q.toNat)
    ((List.range 64).map (fun i => (v + i) % 2 ^ 32)) 0

/-- VIOTA by itself. -/
def execViota (d : BitVec 5) (s_ : BitVec 5) (q : BitVec 2) (s : State) : Out :=
  issueAlone 2 false (encode (.viota d s_ q)) (planViota d s_ q) s

/-- Plan of VLD (R319). -/
def planVld (d : BitVec 5) (s_ : BitVec 5) (q : BitVec 2) (c : Ctx) : Plan :=
  let at_ := scratchAt (c.k.arch.reg s_.toNat) 256
  let bs := c.k.scratch.bytes at_ 256
  vecPlan c 4 [] [s_.toNat] [q.toNat] d.toNat (c.k.arch.mask q.toNat)
    ((List.range 64).map (fun i => leVal ((bs.drop (4 * i)).take 4))) 0

/-- VLD by itself. -/
def execVld (d : BitVec 5) (s_ : BitVec 5) (q : BitVec 2) (s : State) : Out := issueAlone 2 false (encode (.vld d s_ q)) (planVld d s_ q) s

/-- Plan of VST (R319, R178). -/
def planVst (v : BitVec 5) (s_ : BitVec 5) (q : BitVec 2) (c : Ctx) : Plan :=
  let at_ := scratchAt (c.k.arch.reg s_.toNat) 256
  let m := c.k.arch.mask q.toNat
  let ws := c.k.lanes v.toNat
  let lanes := enabled m
  { maskPlan c [v.toNat] [s_.toNat] [q.toNat] 0 0 with
    writes := lanes.map (fun i => Loc.scratch (at_ + 4 * i) 4)
    lands := []
    imm := fun k => { k with scratch := lanes.foldl (fun g i => g.put (at_ + 4 * i) 4 (ws.getD i 0)) k.scratch } }

/-- VST by itself. -/
def execVst (v : BitVec 5) (s_ : BitVec 5) (q : BitVec 2) (s : State) : Out := issueAlone 2 false (encode (.vst v s_ q)) (planVst v s_ q) s

/-- Plan of TROW.LD (R320 to R322). -/
def planTrowLd (d : BitVec 5) (t : BitVec 4) (b : BitVec 5) (q : BitVec 2) (m : BitVec 3) (f : BitVec 4) (c : Ctx) : Plan :=
  (sliceLoad c d.toNat t.toNat b.toNat q.toNat f.toNat false).zeroMode m

/-- TROW.LD by itself. -/
def execTrowLd (d : BitVec 5) (t : BitVec 4) (b : BitVec 5) (q : BitVec 2) (g : ModeFmt) (s : State) : Out :=
  issueAlone 2 false (encode (.trowLd d t b q g)) (planTrowLd d t b q g.mode g.fmt) s

/-- Plan of TROW.ST (R320 to R322). -/
def planTrowSt (v : BitVec 5) (t : BitVec 4) (b : BitVec 5) (q : BitVec 2) (m : BitVec 3) (f : BitVec 4) (c : Ctx) : Plan :=
  (sliceStore c v.toNat t.toNat b.toNat q.toNat f.toNat false).zeroMode m

/-- TROW.ST by itself. -/
def execTrowSt (v : BitVec 5) (t : BitVec 4) (b : BitVec 5) (q : BitVec 2) (g : ModeFmt) (s : State) : Out :=
  issueAlone 2 false (encode (.trowSt v t b q g)) (planTrowSt v t b q g.mode g.fmt) s

/-- Plan of TCOL.LD (R320 to R322). -/
def planTcolLd (d : BitVec 5) (t : BitVec 4) (b : BitVec 5) (q : BitVec 2) (m : BitVec 3) (f : BitVec 4) (c : Ctx) : Plan :=
  (sliceLoad c d.toNat t.toNat b.toNat q.toNat f.toNat true).zeroMode m

/-- TCOL.LD by itself. -/
def execTcolLd (d : BitVec 5) (t : BitVec 4) (b : BitVec 5) (q : BitVec 2) (g : ModeFmt) (s : State) : Out :=
  issueAlone 2 false (encode (.tcolLd d t b q g)) (planTcolLd d t b q g.mode g.fmt) s

/-- Plan of TCOL.ST (R320 to R322). -/
def planTcolSt (v : BitVec 5) (t : BitVec 4) (b : BitVec 5) (q : BitVec 2) (m : BitVec 3) (f : BitVec 4) (c : Ctx) : Plan :=
  (sliceStore c v.toNat t.toNat b.toNat q.toNat f.toNat true).zeroMode m

/-- TCOL.ST by itself. -/
def execTcolSt (v : BitVec 5) (t : BitVec 4) (b : BitVec 5) (q : BitVec 2) (g : ModeFmt) (s : State) : Out :=
  issueAlone 2 false (encode (.tcolSt v t b q g)) (planTcolSt v t b q g.mode g.fmt) s

/-- Plan of QMOV to a mask (R309). -/
def planQmovToMask (e : BitVec 2) (s_ : BitVec 5) (c : Ctx) : Plan :=
  maskPlan c [] [s_.toNat] [] e.toNat (c.k.arch.reg s_.toNat)

/-- QMOV to a mask by itself. -/
def execQmovToMask (e : BitVec 2) (s_ : BitVec 5) (s : State) : Out :=
  issueAlone 2 false (encode (.qmovToMask e s_)) (planQmovToMask e s_) s

/-- Plan of QMOV from a mask (R309). -/
def planQmovFromMask (d : BitVec 5) (e : BitVec 2) (c : Ctx) : Plan :=
  vxScalar c [] [] [e.toNat] d.toNat (c.k.arch.mask e.toNat)

/-- QMOV from a mask by itself. -/
def execQmovFromMask (d : BitVec 5) (e : BitVec 2) (s : State) : Out :=
  issueAlone 2 false (encode (.qmovFromMask d e)) (planQmovFromMask d e) s

/-- Plan of QOPS (R310). -/
def planQops (d : BitVec 2) (a : BitVec 2) (b : BitVec 2) (o : BitVec 4) (c : Ctx) : Plan :=
  let x := c.k.arch.mask a.toNat
  let y := c.k.arch.mask b.toNat
  let v : W64 := match o.toNat with
    | 0 => x &&& y
    | 1 => x ||| y
    | 2 => x ^^^ y
    | 3 => x &&& ~~~y
    | _ => ~~~x
  maskPlan c [] [] (if o == 4 then [a.toNat] else [a.toNat, b.toNat]) d.toNat v

/-- QOPS by itself. -/
def execQops (d : BitVec 2) (a : BitVec 2) (b : BitVec 2) (o : BitVec 4) (s : State) : Out :=
  issueAlone 2 false (encode (.qops d a b o)) (planQops d a b o) s

end Sys2Proof.Machine
end

