-- ==== Sys2Proof/Machine/HeadCell.lean ====
section
/-! DEFINITION. The meanings of the head and cell instructions of HA and HB (18, R354 to R369). -/

namespace Sys2Proof.Machine

/-! ## Shapes -/

/-- A head instruction names its head alone of its bundle's head slots (R119, R355). One that moves, marks, attaches or detaches it
writes it (R274); HRD, HWR and the queries do not (R359, R360, R364). -/
def headWrites (n : Nat) (moves : Bool) : List Loc := if moves then [.head n, .named n] else [.named n]

/-- The view that the view field and view kind name (R354). -/
def headView (v : BitVec 5) (k : BitVec 1) : Nat := if k == 0 then v.toNat else 32 + v.toNat % 16

/-- A plan on an attached head and its tape; a tape whose entry is gone traps (R159), behind the checks of what `base` reads and lands. -/
def onHead (c : Ctx) (n : Nat) (base : Plan) (f : Head → Dir → Plan) : Plan :=
  if c.noHead n then { base with bad := true }
  else
    let h := c.head n
    match c.dir h.tape with
    | none => { base with late := (tapeTrap h.tape 0).late }
    | some d =>
      let p := f h d
      { p with
        views := base.views
        reads := base.reads ++ p.reads
        writes := base.writes ++ p.writes
        touch := base.touch ++ p.touch }

/-- HATT (R357). -/
def hattPlan (c : Ctx) (n : Nat) (v : W64) (writer backward : Bool) : Plan :=
  let t : BitVec 20 := v.setWidth 20
  if c.k.arch.revOn && n == 7 then { bad := true }
  else if fld v 60 4 != 0 then rangeTrap n v
  else if (c.head n).attached then { bad := true }
  else
    match c.dir t with
    | none => tapeTrap t 0
    | some d =>
      let st := c.run.tapeAt t
      let stream := d.attr == attrStream
      let p : Nat := if stream && !writer then st.freed else (fld v 20 40).toNat
      let appended := c.st.streamAppended c.run t
      let refused := (writer && d.attr == attrRo) || (stream && backward) ||
        (stream && c.st.streamTaken c.run.id t writer) || (stream && writer && p != appended) ||
        (d.attr == attrAppend && writer && decide (st.fill < p))
      if refused then tapeTrap t noInfo
      else if d.length < p then rangeTrap n (BitVec.ofNat 64 p)
      else
        let h : Head := ⟨true, t, headMode d writer backward, BitVec.ofNat 40 p, [none, none, none, none], BitVec.ofNat 40 p⟩
        let q := (c.enter t d p).and
          { glob := fun s => s.unwalk c.k.no (some n)
            imm := fun k => { k with arch := { k.arch with heads := k.arch.heads.set n h }, windows := k.windows.set n [] } }
        { q with attaches := if stream then some (t, writer) else none }

/-- HRD and HRDS (R359). Whatever else stops the read, its bay and its landing are checked first (R146). -/
def readPlan (c : Ctx) (n v : Nat) (step : Bool) : Plan :=
  let a := c.k.arch
  let segs := viewSegs v (a.view v)
  let size := viewSize v (a.view v)
  let base : Plan :=
    { views := [v], writes := headWrites n step ++ segs.map (fun s => Loc.bytes s.1 s.2), touch := [viewBay v (a.view v)]
      lands := [c.pend 20 .head (.bytes segs) 0 [] 0] }
  onHead c n base (fun h d =>
    if d.recSize < size then { bad := true }
    else
      let p := h.pos.toNat
      let land (data : List Byte) (bad : List Nat) (need : Need) : Pend :=
        { c.pend 20 .head (.bytes segs) 0 (data.take size) 0 with
          poison := granuleRanges bad, source := some (h.tape, p), need := need }
      let lands (p : Plan) : Plan := if p.lands.isEmpty then { p with lands := [land [] [] .ready] } else p
      lands (
        if p = d.length || (h.isAppend && decide (c.readLimit h d ≤ p)) then rangeTrap n (BitVec.ofNat 64 p)
        else if h.producer then tapeTrap h.tape noInfo
        else
          let move : Plan := if step then c.move n d (h.target 1) else {}
          let body : Plan := match c.take n h p with
            | .here data bad carried =>
              { lands := [land data bad .ready]
                imm := fun k => c.noteRead n h p (match carried with
                  | some cd => k.acquire [cd]
                  | none => k) }
            | .absent => { lands := [land [] [] (.record n h.tape p size c.run.nextWid none (c.k.floor h.tape p) none)] }
            | .unreleased => { wait := some (.streamEmpty h.tape) }
          let q := move.and ((c.present h.tape d p).and body)
          { q with imm := fun k => q.imm (move.imm k) }))

/-- HWR and HAPP (R360, R361). Two rewrites of one record clash (R166); each append takes a record of its own at its release, and its
head moves to the new fill count, whatever its direction (R168). The 0x09 of an append away from the fill count names the head's
present position (the model's choice, log 98). -/
def writePlan (c : Ctx) (n v : Nat) (append : Bool) : Plan :=
  let a := c.k.arch
  let segs := viewSegs v (a.view v)
  let size := viewSize v (a.view v)
  let base : Plan :=
    { views := [v], reads := segs.map (fun s => Loc.bytes s.1 s.2), writes := headWrites n append
      access := [(v, viewBay v (a.view v))], ports := 1, poison := segs }
  onHead c n base (fun h d =>
    if d.recSize < size then { bad := true }
    else
      let p := h.pos.toNat
      let data := padTo d.recSize (c.k.viewBytes v)
      let q : Plan :=
        if append then
          let fill := c.k.fillWith c.run h.tape
          if !(h.writer && (h.isAppend || h.isStream)) then tapeTrap h.tape noInfo
          else if p != fill || p = d.length then rangeTrap n (BitVec.ofNat 64 p)
          else if h.isStream && decide (c.streamWindow d h.tape ≤ c.st.streamCount c.run h.tape) then
            { wait := some (.streamFull h.tape) }
          else
            let move := c.move n d (p + 1)
            move.and { held := [if h.isStream then .streamAppend h.tape data else .append h.tape n data]
                       imm := move.imm }
        else if !(h.writer && h.isUpdate) then tapeTrap h.tape noInfo
        else if p = d.length then rangeTrap n (BitVec.ofNat 64 p)
        else { writes := [Loc.record h.tape.toNat p], held := [.rewrite h.tape p data] }
      { q with access := base.access, ports := 1, poison := segs })

/-- A step by an amount (R362). -/
def stepPlan (c : Ctx) (n : Nat) (amount : Int) : Plan :=
  onHead c n { writes := headWrites n true } (fun h d =>
    if amount = 0 then {}
    else if h.producer then tapeTrap h.tape noInfo
    else c.move n d (h.target amount))

/-- A query's scalar at issue + 1 (R364). -/
def queryPlan (c : Ctx) (n rd : Nat) (f : Head → Dir → Option W64) : Plan :=
  onHead c n { writes := headWrites n false ++ [.reg rd] } (fun h d =>
    match f h d with
    | none => rangeTrap n noInfo
    | some v => { imm := fun k => { k with arch := k.arch.setReg rd v } })

/-! ## Cells -/

/-- The descriptor of an array as the core sees it (R365): an own held CCFG, else the configuration in force. -/
def Ctx.cellDesc (c : Ctx) (array : Nat) : Option W64 :=
  match c.k.held.foldl (fun acc h => match h with
      | .cellConfig a d => if a == array then some (d ||| 0x8000000000000000) else acc
      | _ => acc) none with
  | some d => some d
  | none => (c.run.arrays.find? (fun a => a.id == array && a.desc.getLsbD 63)).map CellArray.desc

/-- The core holds a CCFG of the array. -/
def Ctx.heldConfig (c : Ctx) (array : Nat) : Bool :=
  c.k.held.any (fun h => match h with
    | .cellConfig a _ => a == array
    | _ => false)

/-- A trap of code 0x08 on a cell. -/
def cellTrap (array : Nat) (i1 : W64) : Plan := { late := some (0x08, BitVec.ofNat 64 (2 ^ 20 + array), i1) }

/-- A plan on the cells that an address word names (R365, Table 18.2): `offs` are the indices it uses, as offsets. An array or cell
that is not there traps behind the checks of what the plan reads and lands (R146). -/
def onCells (c : Ctx) (reg : Nat) (base : Plan) (offs : List Nat) (f : Nat → Nat → W64 → Plan) : Plan :=
  let w := c.k.arch.reg reg
  let array := (fld w 0 12).toNat
  let cell := (fld w 12 20).toNat
  let base := { base with feature := 6, reads := .reg reg :: base.reads }
  if fld w 32 32 != 0 then { base with bad := true }
  else
    let p := f array cell ((c.cellDesc array).getD 0)
    let q : Plan := { base with bad := p.bad, late := p.late, lands := p.lands, held := p.held, imm := p.imm, writes := base.writes ++ p.writes }
    match c.cellDesc array with
    | none => { q with late := (cellTrap array (BitVec.ofNat 64 (cell + offs.headD 0))).late }
    | some d =>
      match offs.find? (fun o => decide (descCells d ≤ cell + o)) with
      | some o => { q with late := (cellTrap array (BitVec.ofNat 64 (cell + o))).late }
      | none => q

/-- What the core's held operations make of a lane's cell (R368). -/
def ownCell (held : List Held) (array cell lane : Nat) : CellLane :=
  held.foldl (fun l h => match h with
    | .cellConfig a _ => if a == array then { l with cleared := true, own := [] } else l
    | .cellClear a f n => if a == array && f ≤ cell && cell < f + n then { l with cleared := true, own := [] } else l
    | .cellAdd a f bf ls =>
      if a == array then
        { l with own := l.own ++ ls.filterMap (fun x => if f + x.1 == cell then some (bf, x.2) else none) }
      else l
    | _ => l) ⟨lane, cell, false, []⟩

/-- CRD (R368). -/
def crdPlan (c : Ctx) (v reg q : Nat) (bf : Bool) : Plan :=
  let a := c.k.arch
  let m := a.mask q
  let lanes := enabled m
  let line := vecSeg (a.view v)
  onCells c reg { views := [v], reads := [.mask q], writes := viewLocs a v, touch := [viewBay v (a.view v)] } lanes
    (fun array cell d =>
      let need : Need := .cells array c.run.nextWid (if c.heldConfig array then some (descFrac d) else none) bf
        (lanes.map (fun l => ownCell c.k.held array (cell + l) l))
      { lands := [{ c.pend 20 .head (.bytes (laneSegs (a.view v) m)) 0 [] 0 with lock := [line], need := need }] })

/-- CRD.stat (R368). -/
def crdStatPlan (c : Ctx) (reg rd : Nat) : Plan :=
  onCells c reg { writes := [.reg rd] } [] (fun array _ d =>
    { lands := [{ c.pend 20 .head (.reg (physReg c.k.arch.rot rd)) d [] 0 with
                  need := if c.heldConfig array then .ready else .status array }] })

/-- CADD (R367): one entry of the enabled lanes' words. -/
def caddPlan (c : Ctx) (v reg q : Nat) (bf : Bool) : Plan :=
  let a := c.k.arch
  let lanes := enabled (a.mask q)
  let ws := c.k.lanes v
  let segs := viewSegs v (a.view v)
  onCells c reg { views := [v], reads := .mask q :: viewLocs a v, access := [viewAccess a v], ports := 1, poison := segs } lanes
    (fun array cell _ =>
      { held := [.cellAdd array cell bf (lanes.map (fun l => (l, BitVec.ofNat 32 (ws.getD l 0))))] })

/-- CCLR (R369). -/
def cclrPlan (c : Ctx) (ra rb : Nat) : Plan :=
  let b := c.k.arch.reg rb
  let n := (fld b 0 21).toNat
  let base : Plan := { feature := 6, reads := [.reg ra, .reg rb] }
  if fld b 21 43 != 0 then { base with bad := true }
  else if n = 0 then { base with bad := fld (c.k.arch.reg ra) 32 32 != 0 }
  else
    let w := c.k.arch.reg ra
    let cell := (fld w 12 20).toNat
    let size := ((c.cellDesc (fld w 0 12).toNat).map descCells).getD 0
    let offs := [0, if cell < size then min (n - 1) (size - cell) else 0]
    onCells c ra { reads := [.reg rb] } offs (fun array cell _ => { held := [.cellClear array cell n] })

/-- CCFG (R366). -/
def ccfgPlan (c : Ctx) (ra rb : Nat) : Plan :=
  let d := c.k.arch.reg rb
  let array := (fld (c.k.arch.reg ra) 0 12).toNat
  let base : Plan := { feature := 6, reads := [.reg ra, .reg rb] }
  if fld d 54 10 != 0 || fld d 20 21 != 0 || decide (120 < (fld d 47 7).toNat) then { base with bad := true }
  else if (c.fn.physicalHall (fld d 41 6).toNat).isNone then { base with late := (cellTrap array noInfo).late }
  else { base with held := [.cellConfig array d] }

/-! ## Plans and meanings -/

/-- Plan of HATT (R357). -/
def planHatt (h : BitVec 3) (a : BitVec 6) (w : BitVec 1) (b : BitVec 1) (c : Ctx) : Plan :=
  { hattPlan c h.toNat (c.k.arch.reg a.toNat) (w == 1) (b == 1) with
    reads := [.reg a.toNat], writes := headWrites h.toNat true }

/-- HATT by itself. -/
def execHatt (h : BitVec 3) (a : BitVec 6) (w : BitVec 1) (b : BitVec 1) (s : State) : Out :=
  issueAlone 4 false (encode (.hatt h a w b)) (planHatt h a w b) s

/-- Plan of HDET (R358). -/
def planHdet (h : BitVec 3) (c : Ctx) : Plan :=
  onHead c h.toNat { writes := headWrites h.toNat true } (fun hd _ =>
    { imm := fun k =>
        { k with
          arch := { k.arch with
            heads := k.arch.heads.set h.toNat Head.detached
            detached := if hd.isStream then k.arch.detached ++ [(hd.tape, if hd.writer then none else some hd.used)]
              else k.arch.detached }
          windows := k.windows.set h.toNat [] } })

/-- HDET by itself. -/
def execHdet (h : BitVec 3) (s : State) : Out := issueAlone 4 false (encode (.hdet h)) (planHdet h) s

/-- Plan of HRD (R359). -/
def planHrd (h : BitVec 3) (v : BitVec 5) (k : BitVec 1) (c : Ctx) : Plan :=
  readPlan c h.toNat (headView v k) false

/-- HRD by itself. -/
def execHrd (h : BitVec 3) (v : BitVec 5) (k : BitVec 1) (s : State) : Out := issueAlone 4 false (encode (.hrd h v k)) (planHrd h v k) s

/-- Plan of HRDS (R359). -/
def planHrds (h : BitVec 3) (v : BitVec 5) (k : BitVec 1) (c : Ctx) : Plan :=
  readPlan c h.toNat (headView v k) true

/-- HRDS by itself. -/
def execHrds (h : BitVec 3) (v : BitVec 5) (k : BitVec 1) (s : State) : Out := issueAlone 4 false (encode (.hrds h v k)) (planHrds h v k) s

/-- Plan of HWR (R360). -/
def planHwr (h : BitVec 3) (v : BitVec 5) (k : BitVec 1) (c : Ctx) : Plan :=
  writePlan c h.toNat (headView v k) false

/-- HWR by itself. -/
def execHwr (h : BitVec 3) (v : BitVec 5) (k : BitVec 1) (s : State) : Out := issueAlone 4 false (encode (.hwr h v k)) (planHwr h v k) s

/-- Plan of HAPP (R361). -/
def planHapp (h : BitVec 3) (v : BitVec 5) (k : BitVec 1) (c : Ctx) : Plan :=
  writePlan c h.toNat (headView v k) true

/-- HAPP by itself. -/
def execHapp (h : BitVec 3) (v : BitVec 5) (k : BitVec 1) (s : State) : Out := issueAlone 4 false (encode (.happ h v k)) (planHapp h v k) s

/-- Plan of HSTEP (R362). -/
def planHstep (h : BitVec 3) (n : BitVec 10) (c : Ctx) : Plan :=
  stepPlan c h.toNat n.toInt

/-- HSTEP by itself. -/
def execHstep (h : BitVec 3) (n : BitVec 10) (s : State) : Out := issueAlone 4 false (encode (.hstep h n)) (planHstep h n) s

/-- Plan of HSTEPR (R362). -/
def planHstepr (h : BitVec 3) (a : BitVec 6) (c : Ctx) : Plan :=
  { stepPlan c h.toNat (c.k.arch.reg a.toNat).toInt with reads := [.reg a.toNat] }

/-- HSTEPR by itself. -/
def execHstepr (h : BitVec 3) (a : BitVec 6) (s : State) : Out := issueAlone 4 false (encode (.hstepr h a)) (planHstepr h a) s

/-- Plan of HMARK (R363). -/
def planHmark (h : BitVec 3) (k : BitVec 2) (c : Ctx) : Plan :=
  onHead c h.toNat { writes := headWrites h.toNat true } (fun hd _ =>
    { imm := fun x => { x with arch := { x.arch with
        heads := x.arch.heads.set h.toNat { hd with marks := hd.marks.set k.toNat (some hd.pos) } } } })

/-- HMARK by itself. -/
def execHmark (h : BitVec 3) (k : BitVec 2) (s : State) : Out := issueAlone 4 false (encode (.hmark h k)) (planHmark h k) s

/-- Plan of HREW (R363). -/
def planHrew (h : BitVec 3) (k : BitVec 2) (c : Ctx) : Plan :=
  onHead c h.toNat { writes := headWrites h.toNat true } (fun hd d =>
    match hd.marks.getD k.toNat none with
    | none => rangeTrap h.toNat noInfo
    | some m =>
      if m == hd.pos then {}
      else if hd.producer then tapeTrap hd.tape noInfo
      else c.move h.toNat d m.toNat)

/-- HREW by itself. -/
def execHrew (h : BitVec 3) (k : BitVec 2) (s : State) : Out := issueAlone 4 false (encode (.hrew h k)) (planHrew h k) s

/-- Plan of HPOS (R364). -/
def planHpos (h : BitVec 3) (d : BitVec 6) (c : Ctx) : Plan :=
  queryPlan c h.toNat d.toNat (fun hd _ => some (hd.pos.setWidth 64))

/-- HPOS by itself. -/
def execHpos (h : BitVec 3) (d : BitVec 6) (s : State) : Out := issueAlone 4 false (encode (.hpos h d)) (planHpos h d) s

/-- Plan of HDIST (R364). -/
def planHdist (h : BitVec 3) (d : BitVec 6) (k : BitVec 2) (c : Ctx) : Plan :=
  queryPlan c h.toNat d.toNat (fun hd _ =>
    (hd.marks.getD k.toNat none).map (fun m =>
      if hd.backward then m.setWidth 64 - hd.pos.setWidth 64 else hd.pos.setWidth 64 - m.setWidth 64))

/-- HDIST by itself. -/
def execHdist (h : BitVec 3) (d : BitVec 6) (k : BitVec 2) (s : State) : Out :=
  issueAlone 4 false (encode (.hdist h d k)) (planHdist h d k) s

/-- Plan of HLEN (R364). -/
def planHlen (h : BitVec 3) (d : BitVec 6) (f : BitVec 1) (c : Ctx) : Plan :=
  queryPlan c h.toNat d.toNat (fun hd dir =>
    some (BitVec.ofNat 64 (if f == 1 && (hd.isAppend || hd.isStream) then (c.run.tapeAt hd.tape).fill else dir.length)))

/-- HLEN by itself. -/
def execHlen (h : BitVec 3) (d : BitVec 6) (f : BitVec 1) (s : State) : Out := issueAlone 4 false (encode (.hlen h d f)) (planHlen h d f) s

/-- Plan of HSTAT (R364). -/
def planHstat (h : BitVec 3) (d : BitVec 6) (c : Ctx) : Plan :=
  if c.k.arch.revOn && h == 7 then { writes := [.named h.toNat, .reg d.toNat], bad := true }
  else
    let len := ((c.dir (c.head h.toNat).tape).map Dir.length).getD 0
    let v := (c.k.hstat (c.st.hallAt (hallOf c.k.no)) h.toNat len).setWidth 64
    { writes := [.named h.toNat, .reg d.toNat], imm := fun k => { k with arch := k.arch.setReg d.toNat v } }

/-- HSTAT by itself. -/
def execHstat (h : BitVec 3) (d : BitVec 6) (s : State) : Out := issueAlone 4 false (encode (.hstat h d)) (planHstat h d) s

/-- Plan of CADD (R367). -/
def planCadd (v : BitVec 5) (a : BitVec 6) (m : BitVec 2) (b : BitVec 1) (c : Ctx) : Plan :=
  caddPlan c v.toNat a.toNat m.toNat (b == 1)

/-- CADD by itself. -/
def execCadd (v : BitVec 5) (a : BitVec 6) (m : BitVec 2) (b : BitVec 1) (s : State) : Out :=
  issueAlone 4 false (encode (.cadd v a m b)) (planCadd v a m b) s

/-- Plan of CRD (R368). -/
def planCrd (v : BitVec 5) (a : BitVec 6) (m : BitVec 2) (b : BitVec 1) (c : Ctx) : Plan :=
  crdPlan c v.toNat a.toNat m.toNat (b == 1)

/-- CRD by itself. -/
def execCrd (v : BitVec 5) (a : BitVec 6) (m : BitVec 2) (b : BitVec 1) (s : State) : Out :=
  issueAlone 4 false (encode (.crd v a m b)) (planCrd v a m b) s

/-- Plan of CRD.stat (R368). -/
def planCrdStat (a : BitVec 6) (d : BitVec 6) (c : Ctx) : Plan :=
  crdStatPlan c a.toNat d.toNat

/-- CRD.stat by itself. -/
def execCrdStat (a : BitVec 6) (d : BitVec 6) (s : State) : Out := issueAlone 4 false (encode (.crdStat a d)) (planCrdStat a d) s

/-- Plan of CCLR (R369). -/
def planCclr (a : BitVec 6) (b : BitVec 6) (c : Ctx) : Plan :=
  cclrPlan c a.toNat b.toNat

/-- CCLR by itself. -/
def execCclr (a : BitVec 6) (b : BitVec 6) (s : State) : Out := issueAlone 4 false (encode (.cclr a b)) (planCclr a b) s

/-- Plan of CCFG (R366). -/
def planCcfg (a : BitVec 6) (b : BitVec 6) (c : Ctx) : Plan :=
  ccfgPlan c a.toNat b.toNat

/-- CCFG by itself. -/
def execCcfg (a : BitVec 6) (b : BitVec 6) (s : State) : Out := issueAlone 4 false (encode (.ccfg a b)) (planCcfg a b) s

end Sys2Proof.Machine
end

