-- ==== Sys2Proof/Machine/Reversible.lean ====
section
/-! DEFINITION. The remainder stack (R337, R338, R388, R389) with REVON, REVOFF and RSTAG (R339 to R341), and the reversible
vector instructions (R342 to R344). -/

namespace Sys2Proof.Machine

/-! ## Where stack bytes lie (R337, R338, R388) -/

/-- On-core capacity in bytes (Table 17.3). -/
def Arch.rsCapacity (a : Arch) : Nat := 256 * min 128 (max 1 (fld a.rsLimit 8 8).toNat)

/-- info0 of a remainder spill trap. -/
def Ctx.rsTape (c : Ctx) : W64 := if c.k.arch.revOn then ((c.head 7).tape).setWidth 64 else 0x100000

/-- The trap 0x0B. -/
def Ctx.spillTrap (c : Ctx) : Plan := { late := some (0x0B, c.rsTape, c.k.arch.rsDepth.toNat) }

/-- The record of stack block `q` on the remainder tape has storage (R338). -/
def Ctx.rsPlace (c : Ctx) (q : Nat) : Option Place :=
  match c.dir (c.head 7).tape with
  | none => none
  | some d =>
    let r := c.k.arch.revBase.toNat + q
    if d.length ≤ r then none else c.st.place c.fn c.fl d r

/-- Homes of stack blocks. -/
def Ctx.rsHomes (c : Ctx) (blocks : List Nat) : List (Option Nat) := blocks.map (fun b => (c.rsPlace b).map Place.home)

/-- The state in which the core reads or writes the home of a block at once: what it sent there before has arrived (R14, R17, R389). -/
def Ctx.landedAt (c : Ctx) (q : Nat) : State := c.st.landOwn c.run.id c.k.no (c.rsHomes [q])

/-- The core's earlier work arrives at the homes of the blocks that a transfer at this issue moves; `s` is the state with the core
as it stands after the issue. -/
def Ctx.landFirst (c : Ctx) (blocks : List Nat) (s : State) : State :=
  match blocks, s.coreAt c.k.no with
  | [], _ => s
  | _, none => s
  | bs, some k => ((s.setCore c.k).landOwn c.run.id c.k.no (c.rsHomes bs)).mapCore c.k.no (fun _ => k)

/-- The 256 bytes of a spilled block as its record's home holds them (R389). -/
def Ctx.rsRecord (c : Ctx) (q : Nat) : List Byte :=
  match c.rsPlace q with
  | none => []
  | some p =>
    let t := (c.head 7).tape
    match c.run.isTorn t, c.dir t with
    | true, some d => c.st.tornBytes d t (c.k.arch.revBase.toNat + q) c.k.no
    | _, _ => (c.landedAt q).storeBytes p 256

/-- `n` stack bytes from `x`: from spilled records below sp, from the ring above. -/
def Ctx.rsBytes (c : Ctx) (x n : Nat) : List Byte :=
  (List.range n).map (fun i =>
    let y := x + i
    if y < c.k.arch.rsSp then (c.rsRecord (y / 256)).getD (y % 256) 0 else c.k.ring.read (y % 32768))

/-- Stack bytes written to the ring at their offsets. -/
def ringPut (g : Mem) : Nat → List Byte → Mem
  | _, [] => g
  | x, b :: bs => ringPut (g.write (x % 32768) [b]) (x + 1) bs

/-- Ring blocks that stack bytes `x` to `x + n - 1` overwrite while they hold bytes below the checkpoint depth (R126). -/
def Core.rsBlocks (k : Core) (x n : Nat) : List Nat :=
  let lo := k.shadow.rsSp
  let hi := k.shadow.rsDepth.toNat
  let mine := (List.range ((x + n + 255) / 256 - x / 256)).map (fun i => (x / 256 + i) % 128)
  mine.eraseDups.filter (fun b =>
    (List.range ((hi + 255) / 256 - lo / 256)).any (fun i => (lo / 256 + i) % 128 == b))

/-- h7 stands at base + sp / 256 under REVON (R338). -/
def Arch.withSp (a : Arch) (sp : Nat) : Arch :=
  let h := a.heads.getD 7 Head.detached
  { a with
    rsSp := sp
    heads := if a.revOn then a.heads.set 7 { h with pos := a.revBase + BitVec.ofNat 40 (sp / 256) } else a.heads }

/-- A held rewrite of the record is older than the bytes that the core spills onto it. -/
def Held.overtake (t : BitVec 20) (record : Nat) (h : Held) : Held :=
  match h with
  | .rewrite t' r d => if t' == t && r == record then .overtaken t' r d else h
  | _ => h

/-- A spilled block goes to its record's home at once, as an access of this core (R166, R389). -/
def State.spill (s : State) (c q : Nat) (data : List Byte) : State :=
  match s.coreAt c with
  | none => s
  | some k =>
    match s.runAt k.run with
    | none => s
    | some r =>
      let t := (k.arch.heads.getD 7 Head.detached).tape
      let rec_ := k.arch.revBase.toNat + q
      let s := s.mapRun r.id (fun r => { r with nextWid := r.nextWid + 1, widNodes := r.widNodes ++ [(r.nextWid, k.node)] })
      let k := { k.windowWrite r.nextWid t rec_ data with
        reached := insertNat r.nextWid k.reached, wrote := true, held := k.held.map (Held.overtake t rec_) }
      (s.setCore k).perform r.id ⟨r.nextWid, c, t, rec_, data⟩

/-- The stall of a transfer of these blocks comes first (R338); a SYNC bundle whose line has released has had it (R133). It lasts while
the core's own earlier work for their homes is held up (R17). -/
def Ctx.transfer (c : Ctx) (blocks : List Nat) : Plan :=
  let stalled : Bool := c.k.stage == .transferred || c.k.stage == .syncIssue
  if blocks.isEmpty || (stalled && !c.st.heldUp c.run.id c.k.no (c.rsHomes blocks)) then { glob := c.landFirst blocks }
  else { wait := some .remainder }

/-- A push of an entry: payload and trailer onto the stack, with the spills it needs (R337, R338, R388). -/
def pushPlan (c : Ctx) (payload : List Byte) (tag : Nat) : Plan :=
  let a := c.k.arch
  let depth := a.rsDepth.toNat
  let len := payload.length
  let top := depth + len + 4
  let data := payload ++ leBytes 4 (256 * len + tag)
  let excess := top - a.rsSp - a.rsCapacity
  let n := (excess + 255) / 256
  let q := a.rsSp / 256
  let blocks := (List.range n).map (fun i => q + i)
  if 2 ^ 32 - 1 < top || (n != 0 && !a.revOn) || blocks.any (fun b => (c.rsPlace b).isNone) then
    { c.spillTrap with writes := [.sys 0x28] }
  else
    let sp := a.rsSp + 256 * n
    let byte (x : Nat) : Byte := if depth ≤ x then data.getD (x - depth) 0 else c.k.ring.read (x % 32768)
    let recs := blocks.map (fun b => (b, (List.range 256).map (fun i => byte (256 * b + i))))
    (c.transfer blocks).and
      { writes := [.sys 0x28]
        blocks := c.k.rsBlocks depth (len + 4)
        imm := fun k => { k with
          ring := ringPut k.ring depth data
          arch := { k.arch.withSp sp with rsDepth := BitVec.ofNat 32 top } }
        glob := fun s => recs.foldl (fun s r => s.spill c.k.no r.1 r.2) s }

/-- Fills down to `x`: the new sp, or the trap of a block it needs. -/
def Ctx.fillTo (c : Ctx) (x : Nat) : Plan ⊕ Nat :=
  let sp := c.k.arch.rsSp
  if sp ≤ x then .inr sp
  else
    let n := (sp - x + 255) / 256
    let blocks := (List.range n).map (fun i => sp / 256 - 1 - i)
    match blocks.find? (fun b =>
        match c.rsPlace b with
        | none => true
        | some p => !((c.landedAt b).badGranules p 256).isEmpty) with
    | none => .inr (sp - 256 * n)
    | some b =>
      match c.rsPlace b with
      | none => .inl c.spillTrap
      | some _ => .inl { late := some (0x07, ((c.head 7).tape).setWidth 64, BitVec.ofNat 64 (c.k.arch.revBase.toNat + b)) }

/-- A trap 0x0A. -/
def orderTrap (expected : Nat) (found : W64) : Plan := { late := some (0x0A, BitVec.ofNat 64 expected, found) }

/-- A pop of an entry of `len` payload bytes and a tag, and what follows from its payload (R338, R344). -/
def popPlan (c : Ctx) (len tag : Nat) (f : List Byte → Plan) : Plan :=
  let a := c.k.arch
  let depth := a.rsDepth.toNat
  let base : Plan := { writes := [.sys 0x28] }
  if depth = 0 then { orderTrap tag noInfo with writes := base.writes }
  else
    match c.fillTo (depth - 4) with
    | .inl p => { p with writes := base.writes }
    | .inr _ =>
      let tr := leVal (c.rsBytes (depth - 4) 4)
      if tr % 256 != tag || tr / 256 % 65536 != len then
        { orderTrap tag (BitVec.ofNat 64 (tr % 256)) with writes := base.writes }
      else
        let start := depth - 4 - len
        match c.fillTo start with
        | .inl p => { p with writes := base.writes }
        | .inr sp =>
          let filled := c.rsBytes sp (a.rsSp - sp)
          let p := f (c.rsBytes start len)
          let q := (c.transfer ((List.range ((a.rsSp - sp) / 256)).map (fun i => sp / 256 + i))).and p
          { q with
            writes := base.writes ++ p.writes
            blocks := c.k.rsBlocks sp (a.rsSp - sp)
            imm := fun k => q.imm { k with
              ring := ringPut k.ring sp filled
              arch := { k.arch.withSp sp with rsDepth := BitVec.ofNat 32 start } } }

/-- Remainders of 64 lanes, nb bits each, as payload bytes, and back (R337). -/
def packRems (nb : Nat) (rs : List Nat) : List Byte :=
  leBytes (8 * nb) (rs.zipIdx.foldl (fun n r => n + (r.1 % 2 ^ nb) * 2 ^ (nb * r.2)) 0)
def unpackRems (nb : Nat) (bs : List Byte) : List Nat :=
  let v := leVal bs
  (List.range 64).map (fun l => v >>> (nb * l) % 2 ^ nb)

/-- The tag of a push opcode with its format and shift (R337). -/
def pushTag (opcode code sh : Nat) : Nat := 16 * (opcode % 16) + (code ^^^ sh) % 16

/-! ## REVON, REVOFF, RSTAG (R339 to R341) -/

/-- REVON (R339). -/
def revonPlan (c : Ctx) (v : W64) : Plan :=
  let t : BitVec 20 := v.setWidth 20
  let p := (fld v 20 40).toNat
  if c.k.arch.revOn || (c.head 7).attached then { badLast := true }
  else if fld v 60 4 != 0 then rangeTrap 7 v
  else
    match c.dir t with
    | none => tapeTrap t 0
    | some d =>
      if d.attr != attrUpdate || d.recLog != 8 then tapeTrap t noInfo
      else if d.length < p then rangeTrap 7 (BitVec.ofNat 64 p)
      else
        (c.enter t d p).and
          { glob := fun s => s.unwalk c.k.no (some 7)
            imm := fun k =>
              let h : Head := ⟨true, t, headMode d true false, BitVec.ofNat 40 p, [none, none, none, none], BitVec.ofNat 40 p⟩
              { k with
                arch := { k.arch with
                  heads := k.arch.heads.set 7 h, revOn := true, revBase := BitVec.ofNat 40 p, rsSp := 0 }
                windows := k.windows.set 7 [] } }

/-- REVOFF (R340). -/
def revoffPlan (c : Ctx) : Plan :=
  let depth := c.k.arch.rsDepth.toNat
  if !c.k.arch.revOn then { badLast := true }
  else if depth != 0 then orderTrap 0 (BitVec.ofNat 64 (leVal (c.rsBytes (depth - 4) 1)))
  else
    { imm := fun k => { k with
        arch := { k.arch with heads := k.arch.heads.set 7 Head.detached, revOn := false }
        windows := k.windows.set 7 [] } }

/-! ## Vector forms (R342 to R344) -/

/-- RADD, RSUB and RXOR. -/
def revPlain (c : Ctx) (d x y q f : Nat) (op : Int → Int → Int) : Plan :=
  let a := c.k.arch
  let code := a.fmt f
  if badFmt [6, 7, 8] code then { feature := 1, views := [x, y, d], bad := true }
  else
    let lx := c.k.lanes x
    let ly := c.k.lanes y
    let ws := (List.range 64).map (fun i =>
      laneWord code (bitsOf (fmtWidth code) (op (intOf code (lx.getD i 0)) (intOf code (ly.getD i 0)))))
    { vecPlan c 4 [x, y] [] [q] d (a.mask q) ws 0 with feature := 1 }

/-- Bitwise exclusive or of two integers of at most 32 bits. -/
def xorInt (a b : Int) : Int := ((bitsOf 32 a ^^^ bitsOf 32 b : Nat) : Int)

/-- A value outside a format's range. -/
def outside (code : Nat) (i : Int) : Bool := decide (i < intMin code) || decide (intMax code < i)

/-- The stack part and the vector part of one instruction. -/
def withStack (vec stack : Plan) : Plan :=
  { vec with
    feature := 1
    writes := vec.writes ++ stack.writes
    blocks := stack.blocks
    late := stack.late
    wait := stack.wait
    imm := fun k => stack.imm (vec.imm k)
    glob := stack.glob }

/-- A push instruction: each lane's result and remainder (R342). -/
def revPush (c : Ctx) (opcode l d : Nat) (srcs : List Nat) (f sh nb : Nat) (bad : Bool) (res : Nat → Int × Nat) : Plan :=
  let code := c.k.arch.fmt f
  if bad then { feature := 1, views := srcs ++ [d], bad := true }
  else
    let rs := (List.range 64).map res
    let fl := flagIf (rs.any (fun r => outside code r.1)) fOvf
    let ws := rs.map (fun r => laneWord code (bitsOf (fmtWidth code) r.1))
    withStack (vecPlan c l srcs [] [] d (BitVec.allOnes 64) ws fl)
      (pushPlan c (packRems nb (rs.map Prod.snd)) (pushTag opcode code sh))

/-- An undo instruction: each lane's result from its remainder; `out` is the result's format. -/
def revPop (c : Ctx) (opcode l d : Nat) (srcs : List Nat) (f sh nb : Nat) (bad : Bool) (out : Nat) (flags : Bool)
    (res : Nat → Nat → Int) : Plan :=
  let code := c.k.arch.fmt f
  if bad then { feature := 1, views := srcs ++ [d], bad := true }
  else
    let vec (bs : List Byte) : Plan :=
      let rems := unpackRems nb bs
      let rs := (List.range 64).map (fun i => res i (rems.getD i 0))
      let fl := flagIf (flags && rs.any (outside out)) fOvf
      vecPlan c l srcs [] [] d (BitVec.allOnes 64) (rs.map (fun r => laneWord out (bitsOf (fmtWidth out) r))) fl
    let p := popPlan c (8 * nb) (pushTag (opcode - 1) code sh) vec
    let shape := vec []
    { shape with
      feature := 1
      writes := viewLocs c.k.arch d ++ [.sys 0x28]
      blocks := p.blocks
      late := p.late
      wait := p.wait
      lands := if p.lands.isEmpty then shape.lands else p.lands
      imm := p.imm
      glob := p.glob }

/-- The formats and shift range of the eight stack instructions (R342). -/
def badRev (code sh : Nat) (narrow : Bool) : Bool :=
  if narrow then badFmt [6, 7] code || decide (32 - fmtWidth code < sh)
  else badFmt [6, 7, 8] code || decide (fmtWidth code ≤ sh)

/-- Lanes of a view as integers of the format resolved. -/
def revInts (c : Ctx) (v f : Nat) : List Int := (c.k.lanes v).map (intOf (c.k.arch.fmt f))

/-- A lane of k is 0 (R343). -/
def zeroLane (c : Ctx) (v f : Nat) : Bool := (revInts c v f).any (fun k => k == 0)

/-! ## Plans and meanings -/

/-- Plan of REVON (R339). -/
def planRevon (a : BitVec 6) (c : Ctx) : Plan :=
  { revonPlan c (c.k.arch.reg a.toNat) with
    feature := 1, reads := [.reg a.toNat], writes := [.head 7, .sys 0x28] }

/-- REVON by itself. -/
def execRevon (a : BitVec 6) (s : State) : Out := issueAlone 1 false (encode (.revon a)) (planRevon a) s

/-- Plan of REVOFF (R340). -/
def planRevoff (c : Ctx) : Plan :=
  { revoffPlan c with feature := 1, writes := [.head 7, .sys 0x28] }

/-- REVOFF by itself. -/
def execRevoff (s : State) : Out := issueAlone 1 false (encode .revoff) (planRevoff) s

/-- Plan of RSTAG (R341). -/
def planRstag (d : BitVec 6) (c_ : BitVec 1) (m : BitVec 4) (c : Ctx) : Plan :=
  let tag := 0xF0 + m.toNat
  let depth := c.k.arch.rsDepth.toNat
  let p := if c_ == 1 then popPlan c 0 tag (fun _ => {}) else pushPlan c [] tag
  let v := BitVec.ofNat 64 (if c_ == 1 then depth - 4 else depth + 4)
  { p with
    feature := 1
    writes := [.sys 0x28, .reg d.toNat]
    imm := fun k => let k := p.imm k
      { k with arch := k.arch.setReg d.toNat v } }

/-- RSTAG by itself. -/
def execRstag (d : BitVec 6) (c_ : BitVec 1) (m : BitVec 4) (s : State) : Out :=
  issueAlone 1 false (encode (.rstag d c_ m)) (planRstag d c_ m) s

/-- Plan of RADD (R342). -/
def planRadd (d : BitVec 5) (a : BitVec 5) (b : BitVec 5) (q : BitVec 2) (f : BitVec 4) (c : Ctx) : Plan :=
  revPlain c d.toNat a.toNat b.toNat q.toNat f.toNat (· + ·)

/-- RADD by itself. -/
def execRadd (d : BitVec 5) (a : BitVec 5) (b : BitVec 5) (q : BitVec 2) (f : BitVec 4) (s : State) : Out :=
  issueAlone 2 false (encode (.radd d a b q f)) (planRadd d a b q f) s

/-- Plan of RSUB (R342). -/
def planRsub (d : BitVec 5) (a : BitVec 5) (b : BitVec 5) (q : BitVec 2) (f : BitVec 4) (c : Ctx) : Plan :=
  revPlain c d.toNat a.toNat b.toNat q.toNat f.toNat (· - ·)

/-- RSUB by itself. -/
def execRsub (d : BitVec 5) (a : BitVec 5) (b : BitVec 5) (q : BitVec 2) (f : BitVec 4) (s : State) : Out :=
  issueAlone 2 false (encode (.rsub d a b q f)) (planRsub d a b q f) s

/-- Plan of RXOR (R342). -/
def planRxor (d : BitVec 5) (a : BitVec 5) (b : BitVec 5) (q : BitVec 2) (f : BitVec 4) (c : Ctx) : Plan :=
  revPlain c d.toNat a.toNat b.toNat q.toNat f.toNat xorInt

/-- RXOR by itself. -/
def execRxor (d : BitVec 5) (a : BitVec 5) (b : BitVec 5) (q : BitVec 2) (f : BitVec 4) (s : State) : Out :=
  issueAlone 2 false (encode (.rxor d a b q f)) (planRxor d a b q f) s

/-- Plan of RMULQ (R342, R343). -/
def planRmulq (d : BitVec 5) (a : BitVec 5) (b : BitVec 5) (h : BitVec 5) (f : BitVec 4) (c : Ctx) : Plan :=
  let sh := h.toNat
  let x := revInts c a.toNat f.toNat
  let y := revInts c b.toNat f.toNat
  revPush c 0x84 6 d.toNat [a.toNat, b.toNat] f.toNat sh sh
    (badRev (c.k.arch.fmt f.toNat) sh false || zeroLane c b.toNat f.toNat)
    (fun i => let p := x.getD i 0 * y.getD i 0
      (p / (2 ^ sh : Nat), (p % (2 ^ sh : Nat)).toNat))

/-- RMULQ by itself. -/
def execRmulq (d : BitVec 5) (a : BitVec 5) (b : BitVec 5) (h : BitVec 5) (f : BitVec 4) (s : State) : Out :=
  issueAlone 2 false (encode (.rmulq d a b h f)) (planRmulq d a b h f) s

/-- Plan of UNMULQ (R342, R343). -/
def planUnmulq (d : BitVec 5) (a : BitVec 5) (b : BitVec 5) (h : BitVec 5) (f : BitVec 4) (c : Ctx) : Plan :=
  let sh := h.toNat
  let x := revInts c a.toNat f.toNat
  let y := revInts c b.toNat f.toNat
  revPop c 0x85 6 d.toNat [a.toNat, b.toNat] f.toNat sh sh
    (badRev (c.k.arch.fmt f.toNat) sh false || zeroLane c b.toNat f.toNat) (c.k.arch.fmt f.toNat) true
    (fun i rem => (x.getD i 0 * (2 ^ sh : Nat) + rem).tdiv (y.getD i 0))

/-- UNMULQ by itself. -/
def execUnmulq (d : BitVec 5) (a : BitVec 5) (b : BitVec 5) (h : BitVec 5) (f : BitVec 4) (s : State) : Out :=
  issueAlone 2 false (encode (.unmulq d a b h f)) (planUnmulq d a b h f) s

/-- Plan of RSHR (R342). -/
def planRshr (d : BitVec 5) (a : BitVec 5) (h : BitVec 5) (f : BitVec 4) (c : Ctx) : Plan :=
  let sh := h.toNat
  let x := revInts c a.toNat f.toNat
  revPush c 0x86 4 d.toNat [a.toNat] f.toNat sh sh (badRev (c.k.arch.fmt f.toNat) sh false)
    (fun i => (x.getD i 0 / (2 ^ sh : Nat), (x.getD i 0 % (2 ^ sh : Nat)).toNat))

/-- RSHR by itself. -/
def execRshr (d : BitVec 5) (a : BitVec 5) (h : BitVec 5) (f : BitVec 4) (s : State) : Out :=
  issueAlone 2 false (encode (.rshr d a h f)) (planRshr d a h f) s

/-- Plan of UNSHR (R342). -/
def planUnshr (d : BitVec 5) (a : BitVec 5) (h : BitVec 5) (f : BitVec 4) (c : Ctx) : Plan :=
  let sh := h.toNat
  let x := revInts c a.toNat f.toNat
  revPop c 0x87 4 d.toNat [a.toNat] f.toNat sh sh (badRev (c.k.arch.fmt f.toNat) sh false) (c.k.arch.fmt f.toNat) false
    (fun i rem => x.getD i 0 * (2 ^ sh : Nat) + rem)

/-- UNSHR by itself. -/
def execUnshr (d : BitVec 5) (a : BitVec 5) (h : BitVec 5) (f : BitVec 4) (s : State) : Out :=
  issueAlone 2 false (encode (.unshr d a h f)) (planUnshr d a h f) s

/-- Plan of RLEAK (R342). -/
def planRleak (d : BitVec 5) (a : BitVec 5) (h : BitVec 5) (f : BitVec 4) (c : Ctx) : Plan :=
  let sh := h.toNat
  let x := revInts c a.toNat f.toNat
  revPush c 0x88 4 d.toNat [a.toNat] f.toNat sh sh (badRev (c.k.arch.fmt f.toNat) sh false)
    (fun i => let v := x.getD i 0
      if 0 ≤ v then (v, 0) else (v / (2 ^ sh : Nat), (v % (2 ^ sh : Nat)).toNat))

/-- RLEAK by itself. -/
def execRleak (d : BitVec 5) (a : BitVec 5) (h : BitVec 5) (f : BitVec 4) (s : State) : Out :=
  issueAlone 2 false (encode (.rleak d a h f)) (planRleak d a h f) s

/-- Plan of UNLEAK (R342). -/
def planUnleak (d : BitVec 5) (a : BitVec 5) (h : BitVec 5) (f : BitVec 4) (c : Ctx) : Plan :=
  let sh := h.toNat
  let x := revInts c a.toNat f.toNat
  revPop c 0x89 4 d.toNat [a.toNat] f.toNat sh sh (badRev (c.k.arch.fmt f.toNat) sh false) (c.k.arch.fmt f.toNat) false
    (fun i rem => let v := x.getD i 0
      if 0 ≤ v then v else v * (2 ^ sh : Nat) + rem)

/-- UNLEAK by itself. -/
def execUnleak (d : BitVec 5) (a : BitVec 5) (h : BitVec 5) (f : BitVec 4) (s : State) : Out :=
  issueAlone 2 false (encode (.unleak d a h f)) (planUnleak d a h f) s

/-- Plan of RNARW (R342). -/
def planRnarw (d : BitVec 5) (a : BitVec 5) (h : BitVec 5) (f : BitVec 4) (c : Ctx) : Plan :=
  let sh := h.toNat
  let w := fmtWidth (c.k.arch.fmt f.toNat)
  let x := c.k.lanes a.toNat
  revPush c 0x8A 5 d.toNat [a.toNat] f.toNat sh (32 - w) (badRev (c.k.arch.fmt f.toNat) sh true)
    (fun i => let u := x.getD i 0
      (signedOf w (u / 2 ^ sh), u % 2 ^ sh + u / 2 ^ (sh + w) * 2 ^ sh))

/-- RNARW by itself. -/
def execRnarw (d : BitVec 5) (a : BitVec 5) (h : BitVec 5) (f : BitVec 4) (s : State) : Out :=
  issueAlone 2 false (encode (.rnarw d a h f)) (planRnarw d a h f) s

/-- Plan of UNNARW (R342). -/
def planUnnarw (d : BitVec 5) (a : BitVec 5) (h : BitVec 5) (f : BitVec 4) (c : Ctx) : Plan :=
  let sh := h.toNat
  let w := fmtWidth (c.k.arch.fmt f.toNat)
  let x := c.k.lanes a.toNat
  revPop c 0x8B 5 d.toNat [a.toNat] f.toNat sh (32 - w) (badRev (c.k.arch.fmt f.toNat) sh true) 8 false
    (fun i rem => signedOf 32 (rem % 2 ^ sh + x.getD i 0 % 2 ^ w * 2 ^ sh + rem / 2 ^ sh * 2 ^ (sh + w)))

/-- UNNARW by itself. -/
def execUnnarw (d : BitVec 5) (a : BitVec 5) (h : BitVec 5) (f : BitVec 4) (s : State) : Out :=
  issueAlone 2 false (encode (.unnarw d a h f)) (planUnnarw d a h f) s

end Sys2Proof.Machine
end

