-- ==== Sys2Proof/Machine/Matrix.lean ====
section
/-! DEFINITION. The meanings of the MX instructions (17, R324 to R336): MMA and MMAS over tiles and streamed records (R327 to
R331), and MZERO, MLOAD, MDRAIN, MSWAP, MSTAT, MADDT, MSCL and MXPOSE (R332 to R335). -/

namespace Sys2Proof.Machine

/-! ## Shapes (R324 to R326) -/

/-- Beats of a beat-count field (R262): 8 to 256. -/
def beatsOf (n : BitVec 5) : Nat := if n = 0 then 256 else 8 * n.toNat

/-- K indices the array takes per beat (R324). -/
def kPerBeat (code : Nat) : Nat := if code = 5 then 4 else if code = 1 || code = 2 then 1 else 2

/-- Beats a multiply needs. -/
def mmaNeed (code k : Nat) : Nat := max 8 (((k + kPerBeat code - 1) / kPerBeat code + 7) / 8 * 8)

/-- The byte range of an accumulator view, and its elements in row order. -/
def accSeg (a : Arch) (v : Nat) : Nat × Nat := (16384 * accBay (a.view v), 16384)
def wordsOf (bs : List Byte) : List Nat := (List.range (bs.length / 4)).map (fun i => leVal ((bs.drop (4 * i)).take 4))
def Core.acc (k : Core) (v : Nat) : List Nat := wordsOf (k.bytes [accSeg k.arch v])
def accBytes (ws : List Nat) : List Byte := ws.flatMap (leBytes 4)

/-- Bits of an accumulator's status word that flags raise (R331, Table 7.5). -/
def statusBits (f : Flags) : W32 := (f &&& 7).setWidth 32

/-- Table 17.1's mf bits name a tile along columns, whose base lies in bays 0 to 7 (R325). -/
def badColumn (t : Tile) (column : Bool) : Bool := column && decide (t.bay < 8)

/-- What every matrix instruction shares: tile views with their column use, accumulator views, beats and need. Two
accumulators on one bay are one access (R326). -/
def mxPlan (c : Ctx) (tiles accs : List Nat) (b need : Nat) (bad : Bool) : Plan :=
  let a := c.k.arch
  let ts := tiles.eraseDups
  let bays := (accs.map (fun v => accBay (a.view v))).eraseDups
  { views := tiles ++ accs
    bad := bad || decide (b < need)
    access := ts.map (fun t => (t, viewBay t (a.view t))) ++ bays.map (fun y => (64 + y, y))
    ports := ts.length
    beats := b
    holds := (ts.map (fun t => viewBay t (a.view t)) ++ bays).eraseDups }

/-- Locations of tile and accumulator operands. -/
def tileLocs (a : Arch) (t : Nat) : List Loc := (viewSegs t (a.view t)).map (fun s => Loc.bytes s.1 s.2)
def accLocs (a : Arch) (v : Nat) : List Loc := [.bytes (accSeg a v).1 (accSeg a v).2, .status v]

/-- A result in an accumulator, `b` + 13 vc after issue (R324): bytes of `segs`, the whole bay and its status locked. -/
def accPend (c : Ctx) (kind : Kind) (v b : Nat) (segs : List (Nat × Nat)) (data : List Byte) (st : W32) (clear : Bool) : Pend :=
  { c.pend (b + 13) kind (.bytes segs) 0 data 0 with
    lock := [accSeg c.k.arch v], accView := some v, accFlags := st, accClear := clear }

/-- Rows × columns of FP32 words as read, as rows of an accumulator: ranges and bytes of its first rows. -/
def rowsSegs (a : Arch) (v m n : Nat) : List (Nat × Nat) := (List.range m).map (fun i => ((accSeg a v).1 + 256 * i, 4 * n))

/-! ## Products (R198, R327, R328) -/

/-- The rows × columns of a tile as read. -/
def asRead (t : Tile) (transposed : Bool) : Nat × Nat := if transposed then (t.cols, t.rows) else (t.rows, t.cols)

/-- The code of element (i, j) as read. -/
def readCode (t : Tile) (g : Mem) (transposed : Bool) (i j : Nat) : Nat := if transposed then t.get g j i else t.get g i j

/-- Values of a tile as read, by rows; under block scales where `scaled`. -/
def tileVals (a : Arch) (g : Mem) (t : Tile) (code : Nat) (transposed scaled : Bool) : List (List Val) :=
  let sh := asRead t transposed
  (List.range sh.1).map (fun i => (List.range sh.2).map (fun j =>
    let u := readCode t g transposed i j
    if scaled then
      let e := if transposed then (j, i) else (i, j)
      blockVal code (t.metaWord g (blockOf a.bhLog a.border t.rows t.cols e.1 e.2).1) u
    else valOf code u))

/-- One product rounded to FP32 in RNE, with the flags of R331: invalid only on operands that are not NaN. -/
def product (x y : Val) : FRes :=
  let p := x.mul y
  let r := fp32.round .rne false p.1
  ⟨r.code, (r.flags &&& fOvf) ||| flagIf p.2 fInv⟩

/-- One K step of at most 32 products (R198): a balanced tree, or the exact integer sum. -/
def kStep (ints : Bool) (xs ys : List Val) : FRes :=
  if ints then
    let s := (xs.zip ys).foldl (fun v p => ratAdd v (ratMul p.1 p.2)) (ratI 0)
    ⟨(fp32.round .rne false s).code, 0⟩
  else
    let ps := (xs.zip ys).map (fun p => product p.1 p.2)
    let us := ps.map FRes.code ++ List.replicate (32 - ps.length) 0
    let fl := ps.foldl (fun f r => f ||| r.flags) 0
    let t := treeSum 5 us 0
    ⟨t.1, fl ||| t.2⟩

/-- The K steps of one element in ascending K: its new value and flags. -/
def kSteps (ints : Bool) : Nat → List Val → List Val → Nat → Flags → FRes
  | 0, _, _, acc, fl => ⟨acc, fl⟩
  | n + 1, xs, ys, acc, fl =>
    let s := kStep ints (xs.take 32) (ys.take 32)
    let r := addRne acc s.code
    kSteps ints n (xs.drop 32) (ys.drop 32) r.code (fl ||| s.flags ||| r.flags)

/-- The M × N results: rows of A, columns of B and the accumulator's words; `n` columns. -/
def multiply (ints : Bool) (k : Nat) (as bs : List (List Val)) (acc : List Nat) : List (List FRes) :=
  as.zipIdx.map (fun p => bs.zipIdx.map (fun q => kSteps ints ((k + 31) / 32) p.1 q.1 (acc.getD (64 * p.2 + q.2) 0) 0))

/-- Columns of rows. -/
def columns (n : Nat) (rows : List (List Val)) : List (List Val) :=
  (List.range n).map (fun j => rows.map (fun r => r.getD j (.num false 0 1)))

/-! ## MMA and MMAS (R327 to R330) -/

/-- The accumulator as chained results will leave it (R330). -/
def Core.chained (k : Core) (v : Nat) : List Nat :=
  let g := (k.pend.filter (fun p => p.accView == some v)).foldl (fun g p =>
    (splitData p.segs p.data).foldl (fun g q => g.write q.1 q.2) g) k.gallery
  wordsOf (g.bytes (accSeg k.arch v).1 16384)

/-- Results in flight of the view come only from multiplies that name it: the multiply chains (R330). -/
def Core.chains (k : Core) (v : Nat) : Bool :=
  let mine := k.pend.filter (fun p => p.accView == some v)
  !mine.isEmpty && mine.all (fun p => p.kind == .mma)

/-- What every multiply into `v` of `m` rows by `n` columns reads, writes and chains to, whether or not it can issue now. -/
def mmaShape (c : Ctx) (base : Plan) (v m n : Nat) (clear : Bool) : Plan :=
  let k := c.k
  let segs := if clear then [accSeg k.arch v] else rowsSegs k.arch v m n
  { base with
    chain := if k.chains v then some v else none
    reads := base.reads ++ accLocs k.arch v
    writes := segs.map (fun s => Loc.bytes s.1 s.2) ++ [.status v]
    poison := base.poison ++ (if clear then [] else [accSeg k.arch v]) }

/-- A multiply of rows `as` by columns `bs`, over `kk` indices, on a plan with its checks and operands. -/
def mmaBody (c : Ctx) (base : Plan) (v b kk : Nat) (ints clear : Bool) (as bs : List (List Val)) : Plan :=
  let k := c.k
  let old := if clear then List.replicate 4096 0 else k.chained v
  let rs := multiply ints kk as bs old
  let fl := rs.foldl (fun f row => row.foldl (fun f r => f ||| r.flags) f) 0
  let m := as.length
  let n := bs.length
  let segs := if clear then [accSeg k.arch v] else rowsSegs k.arch v m n
  let data := if clear then
      accBytes ((List.range 4096).map (fun e => ((rs.getD (e / 64) []).getD (e % 64) ⟨0, 0⟩).code))
    else rs.flatMap (fun row => row.flatMap (fun r => leBytes 4 r.code))
  let p := accPend c .mma v b segs data (statusBits fl) false
  { mmaShape c base v m n clear with
    lands := [p]
    imm := fun k => { base.imm k with pend := (base.imm k).pend.map (fun x =>
      if x.accView == some v then { x with due := p.due } else x) } }

/-- MMA or MMAS of two tiles. -/
def mmaTiles (c : Ctx) (v ta tb : Nat) (n : BitVec 5) (f : Nat) (xa xb clear scaled : Bool) : Plan :=
  let a := c.k.arch
  let code := a.fmt f
  let ta := 32 + ta
  let tb := 32 + tb
  let tA := tileOf (a.view ta)
  let tB := tileOf (a.view tb)
  let sa := asRead tA xa
  let sb := asRead tB xb
  let b := beatsOf n
  let bad := badFmt (if scaled then [3, 4, 5] else [1, 2, 3, 4, 6, 9]) code || fmtWidth code != tA.width ||
    fmtWidth code != tB.width || badColumn tA xa || badColumn tB xb || sa.2 != sb.1 ||
    (scaled && (!tA.metaOn || !tB.metaOn || !geomFits a.bhLog tA.rows tA.cols || !geomFits a.bhLog tB.rows tB.cols))
  let p := mxPlan c [ta, tb] [v] b (mmaNeed code sa.2) bad
  if p.bad then p
  else
    let base : Plan := { p with
      reads := tileLocs a ta ++ tileLocs a tb
      poison := viewSegs ta (a.view ta) ++ viewSegs tb (a.view tb)
      feats := if code = 5 then [3] else [] }
    mmaBody c base v b sa.2 (isIntCode code) clear (tileVals a c.k.gallery tA code xa scaled)
      (columns sb.2 (tileVals a c.k.gallery tB code xb scaled))

/-- The elements of a record of `k` elements. -/
def recordVals (code k : Nat) (bs : List Byte) : List Val :=
  (List.range k).map (fun j => valOf code (leVal ((bs.drop (j * fmtWidth code / 8)).take (fmtWidth code / 8))))

/-- The 64 records of a streamed A (R329): the rows' bytes and what their releases carry, or the plan of what stops it. -/
def streamRows (c : Ctx) (n : Nat) (h : Head) (d : Dir) : List Nat → List (List Byte) → List Carried → Plan ⊕ (List (List Byte) × List Carried)
  | [], rows, cs => .inr (rows, cs)
  | i :: rest, rows, cs =>
    let r : Int := h.target i
    if r < 0 || (c.readLimit h d : Int) ≤ r then .inl (rangeTrap n (BitVec.ofInt 64 r))
    else
      let q := c.present h.tape d r.toNat
      if q.late.isSome then .inl q
      else
        match c.take n h r.toNat with
        | .here data bad carried =>
          if !bad.isEmpty then .inl { late := some (0x07, h.tape.setWidth 64, BitVec.ofInt 64 r) }
          else streamRows c n h d rest (rows ++ [data]) (cs ++ carried.toList)
        | .absent => .inl { wait := some .record }
        | .unreleased => .inl { wait := some (.streamEmpty h.tape) }

/-- MMA with A streamed from a head (R329). -/
def mmaStreamed (c : Ctx) (v hn tb : Nat) (n : BitVec 5) (f : Nat) (xb clear : Bool) : Plan :=
  let a := c.k.arch
  let code := a.fmt f
  let tb := 32 + tb
  let tB := tileOf (a.view tb)
  let sb := asRead tB xb
  let b := beatsOf n
  let h := c.head hn
  let base := mxPlan c [tb] [v] b (mmaNeed code sb.1)
    (badFmt [1, 2, 3, 4, 6, 9] code || fmtWidth code != tB.width || badColumn tB xb || c.noHead hn)
  if base.bad then base
  else
    let bare := base
    let base : Plan := { base with reads := tileLocs a tb, poison := viewSegs tb (a.view tb) }
    let shape := mmaShape c base v 64 sb.2 clear
    match c.dir h.tape with
    | none => { shape with late := some (0x08, h.tape.setWidth 64, 0) }
    | some d =>
      if d.recSize != sb.1 * fmtWidth code / 8 then { bare with bad := true }
      else
        if h.producer then { shape with late := (tapeTrap h.tape noInfo).late }
        else
          match streamRows c hn h d (List.range 64) [] [] with
          | .inl p => { shape with late := p.late, wait := p.wait }
          | .inr (rows, cs) =>
            mmaBody c { base with imm := fun k => (List.range 64).foldl (fun k (i : Nat) => c.noteRead hn h (h.target i).toNat k) (k.acquire cs) } v b sb.1 (isIntCode code) clear
              (rows.map (recordVals code sb.1)) (columns sb.2 (tileVals a c.k.gallery tB code xb false))

/-! ## The other instructions (R332 to R335) -/

/-- Formats of MLOAD, MDRAIN and MADDT (Table 17.1). -/
def mxFmts : List Nat := [0, 1, 2, 3, 4, 6, 7, 8, 9]

/-- FP32 codes of a tile as read (Table 9.5). -/
def tileF32 (g : Mem) (t : Tile) (code : Nat) (transposed : Bool) : List (List Nat) :=
  let sh := asRead t transposed
  (List.range sh.1).map (fun i => (List.range sh.2).map (fun j =>
    (fp32.round .rne false (valOf code (readCode t g transposed i j))).code))

/-- MLOAD and MADDT: `add` adds onto the accumulator over the tile's shape as read, and sets flags; a load leaves the status word
alone (R141). -/
def tileIntoAcc (c : Ctx) (v t : Nat) (n : BitVec 5) (f : Nat) (transposed add : Bool) : Plan :=
  let a := c.k.arch
  let code := a.fmt f
  let t := 32 + t
  let tT := tileOf (a.view t)
  let b := beatsOf n
  let p := mxPlan c [t] [v] b 8 (badFmt mxFmts code || fmtWidth code != tT.width || badColumn tT transposed)
  if p.bad then p
  else
    let ws := tileF32 c.k.gallery tT code transposed
    let sh := asRead tT transposed
    let p := { p with
      reads := tileLocs a t ++ (if add then accLocs a v else [])
      poison := viewSegs t (a.view t) ++ (if add then [accSeg a v] else []) }
    if add then
      let old := c.k.acc v
      let rs := ws.zipIdx.map (fun r => r.1.zipIdx.map (fun x => addRne (old.getD (64 * r.2 + x.2) 0) x.1))
      let fl := rs.foldl (fun f row => row.foldl (fun f r => f ||| r.flags) f) 0
      let segs := rowsSegs a v sh.1 sh.2
      { p with
        writes := segs.map (fun s => Loc.bytes s.1 s.2) ++ [.status v]
        lands := [accPend c .matrix v b segs (rs.flatMap (fun row => row.flatMap (fun r => leBytes 4 r.code))) (statusBits fl) false] }
    else
      { p with
        writes := [.bytes (accSeg a v).1 16384]
        lands := [accPend c .matrix v b [accSeg a v]
          (accBytes ((List.range 4096).map (fun e => (ws.getD (e / 64) []).getD (e % 64) 0))) 0 false] }

/-- MDRAIN (R334). -/
def drainPlan (c : Ctx) (v t : Nat) (n : BitVec 5) (f : Nat) (transposed sat clear : Bool) : Plan :=
  let a := c.k.arch
  let code := a.fmt f
  let t := 32 + t
  let tT := tileOf (a.view t)
  let b := beatsOf n
  let bad := badFmt mxFmts code || fmtWidth code != tT.width || badColumn tT transposed || tT.bay == accBay (a.view v)
  let base := mxPlan c [] [v] b 8 bad
  let base := { base with views := [t, v], touch := [tT.bay], holds := tT.bay :: base.holds }
  if base.bad then base
  else
    let acc := c.k.acc v
    let rs := (List.range tT.rows).map (fun i => (List.range tT.cols).map (fun j =>
      convert code .rne sat (f32 (acc.getD (if transposed then 64 * j + i else 64 * i + j) 0))))
    let fl : Flags := rs.foldl (fun f row => row.foldl (fun f r => f ||| r.flags) f) ((fld (accStatus (a.view v)) 0 3).setWidth 6)
    { base with
      reads := accLocs a v
      writes := tT.rowSegs.map (fun s => Loc.bytes s.1 s.2) ++ (if clear then [.status v] else [])
      poison := [accSeg a v]
      lands := [{ c.pend (b + 13) .matrix (.bytes tT.rowSegs) 0 (rs.flatMap (fun row => row.flatMap (fun r =>
          leBytes (tT.width / 8) r.code))) fl with
        accView := if clear then some v else none, accClear := clear }] }

/-- An instruction over the whole of accumulator `v`: its old words and bytes. -/
def wholeAcc (c : Ctx) (v : Nat) (accs : List Nat) (n : BitVec 5) (need : Nat) (ws : List Nat) (st : W32) (clear : Bool) : Plan :=
  let a := c.k.arch
  let b := beatsOf n
  { mxPlan c [] accs b need false with
    reads := accs.eraseDups.flatMap (accLocs a)
    writes := [.bytes (accSeg a v).1 16384]
    lands := [accPend c .matrix v b [accSeg a v] (accBytes ws) st clear] }

/-- MSWAP (R333): on one bay the bytes stay and the status words change places; on one view nothing changes. -/
def swapPlan (c : Ctx) (v w : Nat) (n : BitVec 5) : Plan :=
  let a := c.k.arch
  let b := beatsOf n
  let sv := accStatus (a.view v)
  let sw := accStatus (a.view w)
  let one := accBay (a.view v) == accBay (a.view w)
  let first := accPend c .matrix v b [accSeg a v] (c.k.bytes [accSeg a (if one then v else w)]) sw (v != w)
  let second := accPend c .matrix w b (if one then [] else [accSeg a w]) (if one then [] else c.k.bytes [accSeg a v]) sv true
  { mxPlan c [] [v, w] b 8 false with
    reads := [v, w].eraseDups.flatMap (accLocs a)
    writes := .bytes (accSeg a v).1 16384 :: (if one then [] else [.bytes (accSeg a w).1 16384]) ++
      (if v = w then [] else [.status v, .status w])
    poison := [accSeg a v, accSeg a w]
    lands := if v = w then [{ first with accFlags := 0 }] else [first, second] }

/-- MSCL (R332): under `.sat` an overflow becomes the largest finite value. -/
def scaleRes (sat : Bool) (x : Val) (u : Nat) : FRes :=
  let p := (f32 u).mul x
  let r := fp32.round .rne (sat && p.1.isFinite) p.1
  ⟨r.code, r.flags ||| flagIf p.2 fInv⟩

/-! ## Plans and meanings -/

/-- Plan of MMA over tiles (R327). -/
def planMmaTile (c_ : BitVec 3) (a : BitVec 4) (b : BitVec 4) (n : BitVec 5) (f : BitVec 4) (x : BitVec 1) (y : BitVec 1) (z : BitVec 1) (c : Ctx) : Plan :=
  mmaTiles c (48 + c_.toNat) a.toNat b.toNat n f.toNat (x == 1) (y == 1) (z == 1) false

/-- MMA over tiles by itself. -/
def execMmaTile (c_ : BitVec 3) (a : BitVec 4) (b : BitVec 4) (n : BitVec 5) (f : BitVec 4) (x : BitVec 1) (y : BitVec 1) (z : BitVec 1) (s : State) : Out :=
  issueAlone 3 false (encode (.mmaTile c_ a b n f x y z)) (planMmaTile c_ a b n f x y z) s

/-- Plan of MMA with A streamed from a head (R329). -/
def planMmaStream (c_ : BitVec 3) (h : BitVec 3) (b : BitVec 4) (n : BitVec 5) (f : BitVec 4) (y : BitVec 1) (z : BitVec 1) (c : Ctx) : Plan :=
  mmaStreamed c (48 + c_.toNat) h.toNat b.toNat n f.toNat (y == 1) (z == 1)

/-- MMA with A streamed from a head by itself. -/
def execMmaStream (c_ : BitVec 3) (h : BitVec 3) (b : BitVec 4) (n : BitVec 5) (f : BitVec 4) (y : BitVec 1) (z : BitVec 1) (s : State) : Out :=
  issueAlone 3 false (encode (.mmaStream c_ h b n f y z)) (planMmaStream c_ h b n f y z) s

/-- Plan of MMAS (R327, R328). -/
def planMmas (c_ : BitVec 3) (a : BitVec 4) (b : BitVec 4) (n : BitVec 5) (f : BitVec 4) (x : BitVec 1) (y : BitVec 1) (z : BitVec 1) (c : Ctx) : Plan :=
  mmaTiles c (48 + c_.toNat) a.toNat b.toNat n f.toNat (x == 1) (y == 1) (z == 1) true

/-- MMAS by itself. -/
def execMmas (c_ : BitVec 3) (a : BitVec 4) (b : BitVec 4) (n : BitVec 5) (f : BitVec 4) (x : BitVec 1) (y : BitVec 1) (z : BitVec 1) (s : State) : Out :=
  issueAlone 3 false (encode (.mmas c_ a b n f x y z)) (planMmas c_ a b n f x y z) s

/-- Plan of MZERO (R332); the status word is its own only with `.clr` (R141). -/
def planMzero (c_ : BitVec 3) (n : BitVec 5) (z : BitVec 1) (c : Ctx) : Plan :=
  let p := wholeAcc c (48 + c_.toNat) [48 + c_.toNat] n 8 (List.replicate 4096 0) 0 (z == 1)
  { p with reads := [], writes := if z == 1 then p.writes ++ [.status (48 + c_.toNat)] else p.writes }

/-- MZERO by itself. -/
def execMzero (c_ : BitVec 3) (n : BitVec 5) (z : BitVec 1) (s : State) : Out :=
  issueAlone 3 false (encode (.mzero c_ n z)) (planMzero c_ n z) s

/-- Plan of MLOAD (R332). -/
def planMload (c_ : BitVec 3) (a : BitVec 4) (n : BitVec 5) (f : BitVec 4) (t : BitVec 1) (c : Ctx) : Plan :=
  tileIntoAcc c (48 + c_.toNat) a.toNat n f.toNat (t == 1) false

/-- MLOAD by itself. -/
def execMload (c_ : BitVec 3) (a : BitVec 4) (n : BitVec 5) (f : BitVec 4) (t : BitVec 1) (s : State) : Out :=
  issueAlone 3 false (encode (.mload c_ a n f t)) (planMload c_ a n f t) s

/-- Plan of MDRAIN (R334). -/
def planMdrain (c_ : BitVec 3) (a : BitVec 4) (n : BitVec 5) (f : BitVec 4) (t : BitVec 1) (s_ : BitVec 1) (z : BitVec 1) (c : Ctx) : Plan :=
  drainPlan c (48 + c_.toNat) a.toNat n f.toNat (t == 1) (s_ == 1) (z == 1)

/-- MDRAIN by itself. -/
def execMdrain (c_ : BitVec 3) (a : BitVec 4) (n : BitVec 5) (f : BitVec 4) (t : BitVec 1) (s_ : BitVec 1) (z : BitVec 1) (s : State) : Out :=
  issueAlone 3 false (encode (.mdrain c_ a n f t s_ z)) (planMdrain c_ a n f t s_ z) s

/-- Plan of MSWAP (R333). -/
def planMswap (c_ : BitVec 3) (e : BitVec 3) (n : BitVec 5) (c : Ctx) : Plan :=
  swapPlan c (48 + c_.toNat) (48 + e.toNat) n

/-- MSWAP by itself. -/
def execMswap (c_ : BitVec 3) (e : BitVec 3) (n : BitVec 5) (s : State) : Out :=
  issueAlone 3 false (encode (.mswap c_ e n)) (planMswap c_ e n) s

/-- Plan of MSTAT (R335). -/
def planMstat (c_ : BitVec 3) (d : BitVec 6) (n : BitVec 5) (c : Ctx) : Plan :=
  let v := 48 + c_.toNat
  { views := [v], beats := beatsOf n, bad := decide (beatsOf n < 8)
    reads := [.status v], writes := [.reg d.toNat]
    lands := [c.pend (beatsOf n + 13) .matrix (.reg (physReg c.k.arch.rot d.toNat))
      ((accStatus (c.k.arch.view v)).setWidth 64) [] 0] }

/-- MSTAT by itself. -/
def execMstat (c_ : BitVec 3) (d : BitVec 6) (n : BitVec 5) (s : State) : Out :=
  issueAlone 3 false (encode (.mstat c_ d n)) (planMstat c_ d n) s

/-- Plan of MADDT (R332). -/
def planMaddt (c_ : BitVec 3) (a : BitVec 4) (n : BitVec 5) (f : BitVec 4) (t : BitVec 1) (c : Ctx) : Plan :=
  tileIntoAcc c (48 + c_.toNat) a.toNat n f.toNat (t == 1) true

/-- MADDT by itself. -/
def execMaddt (c_ : BitVec 3) (a : BitVec 4) (n : BitVec 5) (f : BitVec 4) (t : BitVec 1) (s : State) : Out :=
  issueAlone 3 false (encode (.maddt c_ a n f t)) (planMaddt c_ a n f t) s

/-- Plan of MSCL (R332). -/
def planMscl (c_ : BitVec 3) (b : BitVec 6) (n : BitVec 5) (s_ : BitVec 1) (c : Ctx) : Plan :=
  let v := 48 + c_.toNat
  let rs := (c.k.acc v).map (scaleRes (s_ == 1) (fpReg (c.k.arch.reg b.toNat)))
  let p := wholeAcc c v [v] n 8 (rs.map FRes.code) (statusBits (rs.foldl (fun f r => f ||| r.flags) 0)) false
  { p with reads := .reg b.toNat :: p.reads, writes := p.writes ++ [.status v], poison := [accSeg c.k.arch v] }

/-- MSCL by itself. -/
def execMscl (c_ : BitVec 3) (b : BitVec 6) (n : BitVec 5) (s_ : BitVec 1) (s : State) : Out :=
  issueAlone 3 false (encode (.mscl c_ b n s_)) (planMscl c_ b n s_) s

/-- Plan of MXPOSE (R332). -/
def planMxpose (c_ : BitVec 3) (e : BitVec 3) (n : BitVec 5) (c : Ctx) : Plan :=
  let v := 48 + c_.toNat
  let w := 48 + e.toNat
  let old := c.k.acc w
  let p := wholeAcc c v [v, w] n 16 ((List.range 4096).map (fun i => old.getD (64 * (i % 64) + i / 64) 0))
    (accStatus (c.k.arch.view w)) false
  { p with writes := p.writes ++ [.status v], poison := [accSeg c.k.arch w] }

/-- MXPOSE by itself. -/
def execMxpose (c_ : BitVec 3) (e : BitVec 3) (n : BitVec 5) (s : State) : Out :=
  issueAlone 3 false (encode (.mxpose c_ e n)) (planMxpose c_ e n) s

end Sys2Proof.Machine
end

