-- ==== Sys2Proof/Machine/Solve.lean ====
section
/-! DEFINITION. Solve regions (17, R346 to R353, R391, R392): SOLVE, SOLEND with its decision, SOLQ and SOLRD. -/

namespace Sys2Proof.Machine

/-! ## FP32 vectors on codes, in RNE (R350) -/

/-- round(a / b). -/
def divRne (a b : Nat) : Nat :=
  match f32 a, f32 b with
  | .nan _, _ => fp32.nanCode
  | _, .nan _ => fp32.nanCode
  | .inf _, .inf _ => fp32.nanCode
  | .inf s, .num t _ _ => fp32.signed (s != t) fp32.infCode
  | .num s _ _, .inf t => fp32.signed (s != t) 0
  | .num s n d, .num t m e =>
    if m = 0 then (if n = 0 then fp32.nanCode else fp32.signed (s != t) fp32.infCode)
    else (fp32.round .rne false ((Val.num s n d).div (.num t m e))).code

def addF (a b : Nat) : Nat := (addRne a b).code
def subF (a b : Nat) : Nat := (subRne a b).code
def mulF (a b : Nat) : Nat := (mulRne a b).code

/-- dot(u, v): an element-order sum from +0. -/
def dotF (u v : List Nat) : Nat := (u.zip v).foldl (fun s p => addF s (mulF p.1 p.2)) 0
/-- u − v, element by element. -/
def vsubF (u v : List Nat) : List Nat := (u.zip v).map (fun p => subF p.1 p.2)

/-- a − u_0 × v_0 − u_1 × v_1 − …, in order. -/
def subProducts (a : Nat) (ps : List (Nat × Nat)) : Nat := ps.foldl (fun s p => subF s (mulF p.1 p.2)) a

/-- Entry (i, j) of rows or columns. -/
def at2 (l : List (List Nat)) (i j : Nat) : Nat := (l.getD i []).getD j 0

/-- Columns j, j + 1, … of the Cholesky factor of `A`, `n` of them; none on a breakdown. -/
def cholesky (A : List (List Nat)) (q : Nat) : Nat → Nat → List (List Nat) → Option (List (List Nat))
  | 0, _, cols => some cols
  | n + 1, j, cols =>
    let row (i : Nat) : List Nat := (List.range j).map (fun p => at2 cols p i)
    let t := subProducts (at2 A j j) ((row j).zip (row j))
    if !((f32 0).lt (f32 t)) then none
    else
      let d := (sqrtRne t).code
      let col := (List.range q).map (fun i =>
        if i < j then 0 else if i = j then d else divRne (subProducts (at2 A i j) ((row i).zip (row j))) d)
      cholesky A q n (j + 1) (cols ++ [col])

/-- y_i for i ascending. -/
def forward (cols : List (List Nat)) (b : List Nat) : Nat → Nat → List Nat → List Nat
  | 0, _, ys => ys
  | n + 1, i, ys =>
    let s := subProducts (b.getD i 0) ((List.range i).map (fun p => (at2 cols p i, ys.getD p 0)))
    forward cols b n (i + 1) (ys ++ [divRne s (at2 cols i i)])

/-- gamma_i for i descending: `gs` holds gamma_i for the indices above, the next first. -/
def backward (cols : List (List Nat)) (ys : List Nat) : Nat → List Nat → List Nat
  | 0, gs => gs
  | i + 1, gs =>
    let s := subProducts (ys.getD i 0) (gs.zipIdx.map (fun g => (at2 cols i (i + 1 + g.2), g.1))).reverse
    backward cols ys i (divRne s (at2 cols i i) :: gs)

/-- The mixing weights: 0 on a breakdown, or when any is NaN or infinite. -/
def mixing (dF : List (List Nat)) (F : List Nat) : List Nat :=
  let q := dF.length
  let zeros := List.replicate q 0
  let a0 := (List.range q).map (fun i => (List.range q).map (fun j =>
    dotF (dF.getD (min i j) []) (dF.getD (max i j) [])))
  let b := dF.map (fun v => dotF v F)
  let tr := (List.range (q - 1)).foldl (fun t i => addF t (at2 a0 (i + 1) (i + 1))) (at2 a0 0 0)
  let term := mulF 0x35800000 tr
  let A := a0.zipIdx.map (fun r => r.1.set r.2 (addF (r.1.getD r.2 0) term))
  match cholesky A q q 0 [] with
  | none => zeros
  | some cols =>
    let gs := backward cols (forward cols b q 0 []) q []
    if gs.any (fun g => !(f32 g).isFinite) then zeros else gs

/-! ## The decision (R350, R351) -/

/-- How a decision ends. -/
inductive Verdict where
  | converged
  | exhausted
  | mixed (x : List Nat)
  deriving DecidableEq, Repr

/-- Words of history slots. -/
def iterSlot (h : Mem) (m o n : Nat) : List Nat := wordsOf (h.bytes (8192 * (o % (m + 1))) (4 * n))
def residSlot (h : Mem) (m o n : Nat) : List Nat := wordsOf (h.bytes (57344 + 8192 * (o % (m + 1))) (4 * n))

/-- The decision on tiles `g`: the residual, its norm and the verdict. -/
def decideStep (v : Solve) (h : Mem) (g : List Nat) (thr beta : Nat) : List Nat × Nat × Verdict :=
  let m := v.depth
  let k := v.iter
  let n := g.length
  let x := iterSlot h m k n
  let F := vsubF g x
  let norm := (sqrtRne (dotF F F)).code
  let fill := min (v.fill + 1) (m + 1)
  if (f32 norm).lt (f32 thr) then (F, norm, .converged)
  else if k + 1 = v.ceiling then (F, norm, .exhausted)
  else
    let q := fill - 1
    let resid (o : Nat) : List Nat := if o = k then F else residSlot h m o n
    let os := (List.range q).map (fun j => k - q + j)
    let dX := os.map (fun o => vsubF (iterSlot h m (o + 1) n) (iterSlot h m o n))
    let dF := os.map (fun o => vsubF (resid (o + 1)) (resid o))
    let gamma := mixing dF F
    let x0 := (x.zip F).map (fun p => addF p.1 (mulF beta p.2))
    let new := (List.range q).foldl (fun xs j =>
      let w := ((dX.getD j []).zip (dF.getD j [])).map (fun p => mulF (addF p.1 (mulF beta p.2)) (gamma.getD j 0))
      vsubF xs w) x0
    (F, norm, .mixed new)

/-! ## Carried tiles (R348) -/

/-- View numbers of the carried tiles. -/
def Solve.tiles (v : Solve) : List Nat := (v.carried.filter (fun b => b != 0xFF)).map (fun b => 32 + b.toNat)

/-- Byte ranges of carried tiles in element order. -/
def carriedSegs (a : Arch) (ts : List Nat) : List (Nat × Nat) := ts.flatMap (fun t => (tileOf (a.view t)).rowSegs)

/-- Rows and columns of carried tiles. -/
def carriedShape (a : Arch) (ts : List Nat) : List (Nat × Nat) :=
  ts.map (fun t => ((tileOf (a.view t)).rows, (tileOf (a.view t)).cols))

/-- The end of a decision (R349 to R351, R382, R392): the bundle that follows is the one the decision chooses, before any loop
counts an iteration (log 52); history, tiles, p7 and control, then the checkpoint, then a trap of the
window or of the region's own. -/
def State.solveEnd (s : State) (k : Core) (x : Decision) (held : Option TrapInfo) : State :=
  let v := k.arch.solve
  let d := decideStep v k.history (x.g.map BitVec.toNat) x.thr.toNat x.beta.toNat
  let m := v.depth + 1
  let hist := k.history.write (57344 + 8192 * (v.iter % m)) (accBytes d.1)
  let v' := { v with iter := v.iter + 1, fill := min (v.fill + 1) m, norm := BitVec.ofNat 32 d.2.1 }
  let pc := k.arch.pc.toNat
  let bodies : Bodies := fun e =>
    match (s.runAt k.run).bind s.flightOf with
    | none => ([], 0)
    | some f => s.bundles f k.loopBuf (e.lenM1.toNat + 1) e.start.toNat
  let done (p7 : Option Bool) : Core :=
    let a := { k.arch with solve := { v' with active := false } }
    let a := match p7 with
      | none => a
      | some b => a.setPred 7 b
    { k with history := hist, arch := a.follow bodies pc x.len (.jump (BitVec.ofNat 64 (pc + x.len))) }
  let k' : Core := match d.2.2 with
    | .converged => done (if v.traps then none else some false)
    | .exhausted => done (if v.traps then none else some true)
    | .mixed new =>
      let k := k.land x.segs (accBytes new)
      { k with
        history := hist.write (8192 * ((v.iter + 1) % m)) (accBytes new)
        arch := { k.arch with solve := v' }.follow bodies pc x.len (.jump v.start) }
  let s := s.mapRun k.run (fun r => r.streamCheckpoint k')
  let k' := { k'.checkpoint with vc := k.vc + 1, stage := .run }
  let own : Option TrapInfo := match d.2.2 with
    | .exhausted => if v.traps then some ⟨0x0C, 7, BitVec.ofNat 64 v'.iter, v'.norm.setWidth 64, k.arch.pc, []⟩ else none
    | _ => none
  let s := match held.orElse (fun _ => own) with
    | some t => (s.setCore { k' with stage := .trapping t k'.arch.dictBase (s.pcyc + 1) }).endTurn
    | none => (s.setCore k').endTurn
  if k.arch.cpos = k.shadow.cpos then s else s.slackPassed k.no

/-! ## Plans and meanings -/

/-- SOLVE's operand word (Table 17.5). -/
def solvePlan (c : Ctx) (reg : Nat) : Plan :=
  let a := c.k.arch
  let w := a.reg reg
  let n := (fld w 16 2).toNat + 1
  let ts := (List.range n).map (fun i => (fld w (4 * i) 4).toNat)
  let views := ts.map (fun t => 32 + t)
  let m := (fld w 36 3).toNat
  let bytes : Nat := (carriedShape a views).foldl (fun n p => n + 4 * p.1 * p.2) 0
  let base : Plan := { feature := 2, views := views, reads := [.reg reg] }
  if fld w 40 24 != 0 || m = 0 || m = 7 || !ts.Nodup || views.any (fun v => (tileOf (a.view v)).width != 32) || decide (8192 < bytes) then
    { base with bad := true }
  else
    let segs := carriedSegs a views
    let v : Solve :=
      { active := true, start := BitVec.ofNat 64 (c.pc + c.len)
        carried := ts.map (BitVec.ofNat 8) ++ List.replicate (4 - n) 0xFF
        thr := fld w 18 6, beta := fld w 24 6, ceiling := (fld w 30 6).toNat + 1, depth := m, traps := w.getLsbD 39
        iter := 0, fill := 0, norm := 0x7F800000, shape := carriedShape a views, loops := a.loops.length }
    { base with
      badLast := a.solve.active
      reads := .reg reg :: segs.map (fun s => Loc.bytes s.1 s.2)
      touch := views.map (fun t => viewBay t (a.view t))
      poison := segs
      imm := fun k => { k with history := k.history.write 0 (k.bytes segs), arch := { k.arch with solve := v } } }

/-- SOLEND (R349): what the decision reads at issue. -/
def solendPlan (c : Ctx) : Plan :=
  let a := c.k.arch
  let v := a.solve
  if !v.active then { feature := 2, badLast := true }
  else
    let ts := v.tiles
    let segs := carriedSegs a ts
    { feature := 2
      views := ts
      bad := carriedShape a ts != v.shape
      badLast := !c.ck || decide (v.loops < a.loops.length) || (!v.traps && a.loops.any (fun e => e.kind == .pipelined))
      reads := segs.map (fun s => Loc.bytes s.1 s.2) ++ [.reg v.thr.toNat, .reg v.beta.toNat]
      writes := segs.map (fun s => Loc.bytes s.1 s.2) ++ [.pred 7]
      touch := ts.map (fun t => viewBay t (a.view t))
      poison := segs
      ctl := .stay
      after := .decide ⟨(wordsOf (c.k.bytes segs)).map (BitVec.ofNat 32), (a.reg v.thr.toNat).setWidth 32,
        (a.reg v.beta.toNat).setWidth 32, c.len, segs⟩ }

/-- Plan of SOLVE (R346). -/
def planSolve (r : BitVec 6) (c : Ctx) : Plan :=
  solvePlan c r.toNat

/-- SOLVE by itself. -/
def execSolve (r : BitVec 6) (s : State) : Out := issueAlone 7 false (encode (.solve r)) (planSolve r) s

/-- Plan of SOLEND (R349). -/
def planSolend (c : Ctx) : Plan :=
  solendPlan c

/-- SOLEND by itself. -/
def execSolend (s : State) : Out := issueAlone 7 true (encode .solend) (planSolend) s

/-- Plan of SOLQ (R352). -/
def planSolq (t : BitVec 4) (c : Ctx) : Plan :=
  { feature := 2, reads := [.pred (t.toNat % 8)]
    imm := if c.k.arch.test t then (fun k => { k with arch := { k.arch with solve := { k.arch.solve with active := false } } })
      else id }

/-- SOLQ by itself. -/
def execSolq (t : BitVec 4) (s : State) : Out := issueAlone 7 false (encode (.solq t)) (planSolq t) s

/-- Plan of SOLRD (R352). -/
def planSolrd (d : BitVec 6) (s_ : BitVec 2) (c : Ctx) : Plan :=
  let v := c.k.arch.solve
  let x : W64 := match s_.toNat with
    | 0 => BitVec.ofNat 64 v.iter
    | 1 => v.norm.setWidth 64
    | 2 => BitVec.ofNat 64 v.fill
    | _ => if v.active then 1 else 0
  { aluPlan [] d.toNat x with feature := 2 }

/-- SOLRD by itself. -/
def execSolrd (d : BitVec 6) (s_ : BitVec 2) (s : State) : Out := issueAlone 7 false (encode (.solrd d s_)) (planSolrd d s_) s

end Sys2Proof.Machine
end

