-- ==== Sys2Proof/Machine/Bundle.lean ====
section
/-! DEFINITION. Bundles (14): the plan of each slot instruction, literal bundles with their decode checks (R260, R263, R270),
and calls through the decode dictionary (R264 to R269). -/

namespace Sys2Proof.Machine

/-- The plan of a slot instruction; anything else may stand in no slot. -/
def planOf (i : Instr) : Ctx → Plan :=
  match i with
  | .add d a b => planAdd d a b
  | .sub d a b => planSub d a b
  | .mul d a b => planMul d a b
  | .mulh d a b => planMulh d a b
  | .mulhu d a b => planMulhu d a b
  | .divu d a b => planDivu d a b
  | .remu d a b => planRemu d a b
  | .and d a b => planAnd d a b
  | .or d a b => planOr d a b
  | .xor d a b => planXor d a b
  | .shl d a b => planShl d a b
  | .shr d a b => planShr d a b
  | .sar d a b => planSar d a b
  | .min d a b => planMin d a b
  | .max d a b => planMax d a b
  | .minu d a b => planMinu d a b
  | .maxu d a b => planMaxu d a b
  | .clz d a => planClz d a
  | .popc d a => planPopc d a
  | .sel d a b p n => planSel d a b p n
  | .addi d a i => planAddi d a i
  | .andi d a i => planAndi d a i
  | .ori d a i => planOri d a i
  | .xori d a i => planXori d a i
  | .shli d a n => planShli d a n
  | .shri d a n => planShri d a n
  | .sari d a n => planSari d a n
  | .bfx d a p l => planBfx d a p l
  | .bfi d a p l => planBfi d a p l
  | .movi d i => planMovi d i
  | .movhi d i => planMovhi d i
  | .cmpCc d a b c => planCmpCc d a b c
  | .pand d a b => planPand d a b
  | .por d a b => planPor d a b
  | .pxor d a b => planPxor d a b
  | .pnot d a => planPnot d a
  | .cmpiCc c d a i => planCmpiCc c d a i
  | .faddS d a b m => planFaddS d a b m
  | .fmulS d a b m => planFmulS d a b m
  | .ffmaS d a b m => planFfmaS d a b m
  | .fminS d a b => planFminS d a b
  | .fmaxS d a b => planFmaxS d a b
  | .fcmpCc d a b c => planFcmpCc d a b c
  | .icvt d a u m => planIcvt d a u m
  | .fcvt d a u m => planFcvt d a u m
  | .ldB d a i => planLdB d a i
  | .ldH d a i => planLdH d a i
  | .ldW d a i => planLdW d a i
  | .ldD d a i => planLdD d a i
  | .stB d a i => planStB d a i
  | .stH d a i => planStH d a i
  | .stW d a i => planStW d a i
  | .stD d a i => planStD d a i
  | .rdsr d r => planRdsr d r
  | .wrsr a r => planWrsr a r
  | .view v a b => planView v a b
  | .ftset a b => planFtset a b
  | .rngk a b => planRngk a b
  | .revon a => planRevon a
  | .rstag d c m => planRstag d c m
  | .vadd d a b q m f => planVadd d a b q m f
  | .vsub d a b q m f => planVsub d a b q m f
  | .vmul d a b q m f => planVmul d a b q m f
  | .vfma d a b c f => planVfma d a b c f
  | .vfms d a b c f => planVfms d a b c f
  | .vmin d a b q m f => planVmin d a b q m f
  | .vmax d a b q m f => planVmax d a b q m f
  | .vabs d a q m f => planVabs d a q m f
  | .vneg d a q m f => planVneg d a q m f
  | .vaddSr d a b q g => planVaddSr d a b q g.mode g.fmt
  | .vcmpCc c e a b q g => planVcmpCc c e a b q g.mode g.fmt
  | .vsel d a b q => planVsel d a b q
  | .vand d a b q => planVand d a b q
  | .vor d a b q => planVor d a b q
  | .vxor d a b q => planVxor d a b q
  | .vshl d a b q g => planVshl d a b q g.mode g.fmt
  | .vshr d a b q g => planVshr d a b q g.mode g.fmt
  | .vsar d a b q g => planVsar d a b q g.mode g.fmt
  | .vcvt d a t s q m f => planVcvt d a t s q m f
  | .vqnt d a m f => planVqnt d a m f
  | .vdqnt d a g => planVdqnt d a g.mode g.fmt
  | .vrsqrta d a q => planVrsqrta d a q
  | .vrcpa d a q => planVrcpa d a q
  | .vexp2a d a q => planVexp2a d a q
  | .vlog2a d a q => planVlog2a d a q
  | .vredsum d a q g => planVredsum d a q g.mode g.fmt
  | .vredmax d a q g => planVredmax d a q g.mode g.fmt
  | .vbcast d s q => planVbcast d s q
  | .vextr d a b g => planVextr d a b g.mode g.fmt
  | .vperm d a b q => planVperm d a b q
  | .vrot d a b q => planVrot d a b q
  | .vmov d a q => planVmov d a q
  | .viota d s q => planViota d s q
  | .vld d s q => planVld d s q
  | .vst v s q => planVst v s q
  | .trowLd d t b q g => planTrowLd d t b q g.mode g.fmt
  | .trowSt v t b q g => planTrowSt v t b q g.mode g.fmt
  | .tcolLd d t b q g => planTcolLd d t b q g.mode g.fmt
  | .tcolSt v t b q g => planTcolSt v t b q g.mode g.fmt
  | .qmovToMask e s => planQmovToMask e s
  | .qmovFromMask d e => planQmovFromMask d e
  | .qops d a b o => planQops d a b o
  | .radd d a b q f => planRadd d a b q f
  | .rsub d a b q f => planRsub d a b q f
  | .rxor d a b q f => planRxor d a b q f
  | .rmulq d a b h f => planRmulq d a b h f
  | .unmulq d a b h f => planUnmulq d a b h f
  | .rshr d a h f => planRshr d a h f
  | .unshr d a h f => planUnshr d a h f
  | .rleak d a h f => planRleak d a h f
  | .unleak d a h f => planUnleak d a h f
  | .rnarw d a h f => planRnarw d a h f
  | .unnarw d a h f => planUnnarw d a h f
  | .mmaTile c a b n f x y z => planMmaTile c a b n f x y z
  | .mmaStream c h b n f y z => planMmaStream c h b n f y z
  | .mmas c a b n f x y z => planMmas c a b n f x y z
  | .mzero c n z => planMzero c n z
  | .mload c a n f t => planMload c a n f t
  | .mdrain c a n f t s z => planMdrain c a n f t s z
  | .mswap c e n => planMswap c e n
  | .mstat c d n => planMstat c d n
  | .maddt c a n f t => planMaddt c a n f t
  | .mscl c b n s => planMscl c b n s
  | .mxpose c e n => planMxpose c e n
  | .hatt h a w b => planHatt h a w b
  | .hdet h => planHdet h
  | .hrd h v k => planHrd h v k
  | .hrds h v k => planHrds h v k
  | .hwr h v k => planHwr h v k
  | .happ h v k => planHapp h v k
  | .hstep h n => planHstep h n
  | .hstepr h a => planHstepr h a
  | .hmark h k => planHmark h k
  | .hrew h k => planHrew h k
  | .hpos h d => planHpos h d
  | .hdist h d k => planHdist h d k
  | .hlen h d f => planHlen h d f
  | .hstat h d => planHstat h d
  | .cadd v a m b => planCadd v a m b
  | .crd v a m b => planCrd v a m b
  | .crdStat a d => planCrdStat a d
  | .cclr a b => planCclr a b
  | .ccfg a b => planCcfg a b
  | .cpy t b l => planCpy t b l
  | .cpyh t b l => planCpyh t b l
  | .collAllred t b l => planCollAllred t b l
  | .collRdscat t b l => planCollRdscat t b l
  | .collAllgth t b l => planCollAllgth t b l
  | .tlwait a l => planTlwait a l
  | .tlrd d l => planTlrd d l
  | .nextt d => planNextt d
  | .flsig v o w => planFlsig v o w
  | .erep v c => planErep v c
  | .btree a b c d => planBtree a b c d
  | .jmpRel o => planJmpRel o
  | .jmpReg r => planJmpReg r
  | .callRel o => planCallRel o
  | .callReg r => planCallReg r
  | .ret r => planRet r
  | .loop c l => planLoop c l
  | .loopSp c s l => planLoopSp c s l
  | .lbrk t => planLbrk t
  | .sync n => planSync n
  | .phase s => planPhase s
  | .sev n => planSev n
  | .trap t i => planTrap t i
  | .bkpt t => planBkpt t
  | .dset r => planDset r
  | .solve r => planSolve r
  | .solq t => planSolq t
  | .solrd d s => planSolrd d s
  | .literalBundle _ _ => fun _ => Plan.illegal 0
  | .shortCall _ _ => fun _ => Plan.illegal 0
  | .longCall _ _ => fun _ => Plan.illegal 0
  | .dataFlitReceive _ _ => fun _ => Plan.illegal 0
  | .controlFlitReceive _ _ => fun _ => Plan.illegal 0
  | .idleFlitReceive _ _ => fun _ => Plan.illegal 0
  | .replayRequestReceive _ _ => fun _ => Plan.illegal 0
  | .pauseKeepaliveTimer _ => fun _ => Plan.illegal 0
  | .portRxTimeout _ => fun _ => Plan.illegal 0
  | .pwrReqP0 _ _ => fun _ => Plan.illegal 0
  | .pwrReqP1 _ _ => fun _ => Plan.illegal 0
  | .pwrReqP2 _ _ => fun _ => Plan.illegal 0
  | .pwrReqP3 _ _ => fun _ => Plan.illegal 0
  | .msgQuote _ => fun _ => Plan.illegal 0
  | .msgExtend _ => fun _ => Plan.illegal 0
  | .msgOpenSession _ => fun _ => Plan.illegal 0
  | .msgCloseSession _ => fun _ => Plan.illegal 0
  | .msgLoadFw _ => fun _ => Plan.illegal 0
  | .msgLoadCfg _ => fun _ => Plan.illegal 0
  | .msgReadLog _ => fun _ => Plan.illegal 0
  | .armStart _ => fun _ => Plan.illegal 0
  | .armWait _ _ => fun _ => Plan.illegal 0
  | .armResume _ _ => fun _ => Plan.illegal 0
  | .flInstall _ _ => fun _ => Plan.illegal 0
  | .flRemove _ _ => fun _ => Plan.illegal 0
  | .flStage _ _ => fun _ => Plan.illegal 0
  | .jcCut _ _ _ => fun _ => Plan.illegal 0
  | .jcResumeHeld _ _ _ => fun _ => Plan.illegal 0
  | .jcFaultHeld _ _ _ => fun _ => Plan.illegal 0
  | .jcReadTrap _ _ _ => fun _ => Plan.illegal 0
  | .dbgHalt _ => fun _ => Plan.illegal 0
  | .dbgStep _ => fun _ => Plan.illegal 0
  | .dbgRun _ => fun _ => Plan.illegal 0
  | .dbgRead _ _ => fun _ => Plan.illegal 0
  | .dbgWrite _ _ => fun _ => Plan.illegal 0
  | .dbgWriteDiscard _ _ => fun _ => Plan.illegal 0
  | .cqHeadWrite _ _ => fun _ => Plan.illegal 0
  | .cqCtlWrite _ _ => fun _ => Plan.illegal 0
  | .lnkStatWrite _ _ _ => fun _ => Plan.illegal 0
  | .secStatWrite _ _ => fun _ => Plan.illegal 0
  | .routeWrite _ _ _ => fun _ => Plan.illegal 0
  | .sysSelfWrite _ _ => fun _ => Plan.illegal 0
  | .featMaskWrite _ _ _ => fun _ => Plan.illegal 0
  | .registerWrite _ _ _ => fun _ => Plan.illegal 0
  | .completionRecordWrite _ => fun _ => Plan.illegal 0
  | .msiModerationTimer _ => fun _ => Plan.illegal 0
  | .nexttRequestAccept _ _ => fun _ => Plan.illegal 0
  | .nexttReplyArrive _ => fun _ => Plan.illegal 0
  | .ageingTimer _ _ => fun _ => Plan.illegal 0
  | .preemptTimer _ _ => fun _ => Plan.illegal 0
  | .basinTimer _ => fun _ => Plan.illegal 0
  | .cutTimeout _ => fun _ => Plan.illegal 0
  | .cutRetryTimer _ => fun _ => Plan.illegal 0
  | .trapRollbackComplete _ => fun _ => Plan.illegal 0
  | .resultLanding _ => fun _ => Plan.illegal 0
  | .headReadLanding _ => fun _ => Plan.illegal 0
  | .matrixResultLanding _ => fun _ => Plan.illegal 0
  | .solendDecisionEnd _ => fun _ => Plan.illegal 0
  | .replayEntryLanding _ => fun _ => Plan.illegal 0
  | .checkpointReleaseEnd _ => fun _ => Plan.illegal 0
  | .handrailLineTrue _ => fun _ => Plan.illegal 0
  | .handrailRestart _ => fun _ => Plan.illegal 0
  | .eventArrival _ => fun _ => Plan.illegal 0
  | .streamProducerResume _ => fun _ => Plan.illegal 0
  | .streamConsumerResume _ => fun _ => Plan.illegal 0
  | .phyLockLoss _ => fun _ => Plan.illegal 0
  | .portRetrainEnd _ _ => fun _ => Plan.illegal 0
  | .mgmtSample _ _ _ => fun _ => Plan.illegal 0
  | .kernelNodePlace _ _ _ => fun _ => Plan.illegal 0
  | .nextTaskStart _ _ => fun _ => Plan.illegal 0
  | .taskEnd _ => fun _ => Plan.illegal 0
  | .transformNodeDispatch _ _ => fun _ => Plan.illegal 0
  | .conditionalNodeEval _ _ => fun _ => Plan.illegal 0
  | .whileNodeEval _ _ => fun _ => Plan.illegal 0
  | .notifyNodeDispatch _ _ => fun _ => Plan.illegal 0
  | .nodeCommit _ _ => fun _ => Plan.illegal 0
  | .remoteJobFault _ => fun _ => Plan.illegal 0
  | .domainShareExchange _ _ _ _ _ => fun _ => Plan.illegal 0
  | .level4LineCompletion _ => fun _ => Plan.illegal 0
  | .cutMFormed _ => fun _ => Plan.illegal 0
  | .cutSFormed _ => fun _ => Plan.illegal 0
  | .cutImagesWritten _ => fun _ => Plan.illegal 0
  | .cutRunResume _ => fun _ => Plan.illegal 0
  | .handlerTaskStart _ => fun _ => Plan.illegal 0
  | .poisonRepairComplete _ => fun _ => Plan.illegal 0
  | .translationShootdown _ _ _ => fun _ => Plan.illegal 0
  | .softErrorDetected .. => fun _ => Plan.illegal 0
  | .instructionCacheFill _ => fun _ => Plan.illegal 0
  | .dictionaryCacheFill _ => fun _ => Plan.illegal 0
  | .targetTableLineFill _ => fun _ => Plan.illegal 0
  | .extentWalkComplete _ => fun _ => Plan.illegal 0
  | .headRecordArrival _ _ _ _ => fun _ => Plan.illegal 0
  | .cellReadValueArrival _ _ => fun _ => Plan.illegal 0
  | .remainderTransferEnd _ => fun _ => Plan.illegal 0
  | .tapeWriteAtHome _ => fun _ => Plan.illegal 0
  | .cellOpAtVault _ => fun _ => Plan.illegal 0
  | .phasePublicationEnd _ => fun _ => Plan.illegal 0
  | .engineCommandStart _ _ _ => fun _ => Plan.illegal 0
  | .engineCommandComplete _ => fun _ => Plan.illegal 0
  | .functionLevelReset _ => fun _ => Plan.illegal 0
  | .flightOperationEnd _ => fun _ => Plan.illegal 0
  | .remoteCutRequest _ => fun _ => Plan.illegal 0
  | .packageReset => fun _ => Plan.illegal 0
  | .powerLoss => fun _ => Plan.illegal 0
  | .powerTransitionEnd => fun _ => Plan.illegal 0
  | .revoff => planRevoff
  | .nop => planNop
  | .wfe => planWfe
  | .halt => planHalt
  | .dfence => planDfence
  | .solend => planSolend
  | .messageRequestEnd => fun _ => Plan.illegal 0
  | .collectiveMatch _ _ _ => fun _ => Plan.illegal 0

/-- The instruction pushes or pops the remainder stack from VX (R344). -/
def usesStack (i : Instr) : Bool :=
  match i with
  | .rmulq .. => true
  | .unmulq .. => true
  | .rshr .. => true
  | .unshr .. => true
  | .rleak .. => true
  | .unleak .. => true
  | .rnarw .. => true
  | .unnarw .. => true
  | _ => false

/-- The instruction works on the remainder stack from SB: RSTAG, REVON or REVOFF (R339, R340, R341, R344). -/
def isTag (i : Instr) : Bool :=
  match i with
  | .rstag .. => true
  | .revon .. => true
  | .revoff => true
  | _ => false

/-- What an instruction writes by the constant fields of its word (R270 order 5, R274): destination registers, predicates, masks
and views, heads, descriptors, status words and system registers. -/
def fixedWrites (i : Instr) : List Loc :=
  match i with
  | .add d _ _ => [.reg d.toNat]
  | .sub d _ _ => [.reg d.toNat]
  | .mul d _ _ => [.reg d.toNat]
  | .mulh d _ _ => [.reg d.toNat]
  | .mulhu d _ _ => [.reg d.toNat]
  | .divu d _ _ => [.reg d.toNat]
  | .remu d _ _ => [.reg d.toNat]
  | .and d _ _ => [.reg d.toNat]
  | .or d _ _ => [.reg d.toNat]
  | .xor d _ _ => [.reg d.toNat]
  | .shl d _ _ => [.reg d.toNat]
  | .shr d _ _ => [.reg d.toNat]
  | .sar d _ _ => [.reg d.toNat]
  | .min d _ _ => [.reg d.toNat]
  | .max d _ _ => [.reg d.toNat]
  | .minu d _ _ => [.reg d.toNat]
  | .maxu d _ _ => [.reg d.toNat]
  | .clz d _ => [.reg d.toNat]
  | .popc d _ => [.reg d.toNat]
  | .sel d _ _ _ _ => [.reg d.toNat]
  | .addi d _ _ => [.reg d.toNat]
  | .andi d _ _ => [.reg d.toNat]
  | .ori d _ _ => [.reg d.toNat]
  | .xori d _ _ => [.reg d.toNat]
  | .shli d _ _ => [.reg d.toNat]
  | .shri d _ _ => [.reg d.toNat]
  | .sari d _ _ => [.reg d.toNat]
  | .bfx d _ _ _ => [.reg d.toNat]
  | .bfi d _ _ _ => [.reg d.toNat]
  | .movi d _ => [.reg d.toNat]
  | .movhi d _ => [.reg d.toNat]
  | .cmpCc d _ _ _ => [.pred d.toNat]
  | .pand d _ _ => [.pred d.toNat]
  | .por d _ _ => [.pred d.toNat]
  | .pxor d _ _ => [.pred d.toNat]
  | .pnot d _ => [.pred d.toNat]
  | .cmpiCc _ d _ _ => [.pred d.toNat]
  | .faddS d _ _ _ => [.reg d.toNat]
  | .fmulS d _ _ _ => [.reg d.toNat]
  | .ffmaS d _ _ _ => [.reg d.toNat]
  | .fminS d _ _ => [.reg d.toNat]
  | .fmaxS d _ _ => [.reg d.toNat]
  | .fcmpCc d _ _ _ => [.pred d.toNat]
  | .icvt d _ _ _ => [.reg d.toNat]
  | .fcvt d _ _ _ => [.reg d.toNat]
  | .ldB d _ _ => [.reg d.toNat]
  | .ldH d _ _ => [.reg d.toNat]
  | .ldW d _ _ => [.reg d.toNat]
  | .ldD d _ _ => [.reg d.toNat]
  | .rdsr d _ => [.reg d.toNat]
  | .wrsr _ r => if sysReadOnly r.toNat then [] else [.sys r.toNat]
  | .view v _ _ => if v.toNat < 48 then [.view v.toNat] else [.view v.toNat, .status v.toNat]
  | .ftset .. => [.sys 0x11, .sys 0x12]
  | .rngk .. => [.sys 0x19, .sys 0x1A]
  | .revon .. => [.head 7, .sys 0x28]
  | .rstag d _ _ => [.sys 0x28, .reg d.toNat]
  | .vadd d _ _ _ _ _ => [.dest d.toNat]
  | .vsub d _ _ _ _ _ => [.dest d.toNat]
  | .vmul d _ _ _ _ _ => [.dest d.toNat]
  | .vfma d _ _ _ _ => [.dest d.toNat]
  | .vfms d _ _ _ _ => [.dest d.toNat]
  | .vmin d _ _ _ _ _ => [.dest d.toNat]
  | .vmax d _ _ _ _ _ => [.dest d.toNat]
  | .vabs d _ _ _ _ => [.dest d.toNat]
  | .vneg d _ _ _ _ => [.dest d.toNat]
  | .vaddSr d _ _ _ _ => [.dest d.toNat]
  | .vcmpCc _ e _ _ _ _ => [.mask e.toNat]
  | .vsel d _ _ _ => [.dest d.toNat]
  | .vand d _ _ _ => [.dest d.toNat]
  | .vor d _ _ _ => [.dest d.toNat]
  | .vxor d _ _ _ => [.dest d.toNat]
  | .vshl d _ _ _ _ => [.dest d.toNat]
  | .vshr d _ _ _ _ => [.dest d.toNat]
  | .vsar d _ _ _ _ => [.dest d.toNat]
  | .vcvt d _ _ _ _ _ _ => [.dest d.toNat]
  | .vqnt d _ _ _ => [.dest d.toNat]
  | .vdqnt d _ _ => [.dest d.toNat]
  | .vrsqrta d _ _ => [.dest d.toNat]
  | .vrcpa d _ _ => [.dest d.toNat]
  | .vexp2a d _ _ => [.dest d.toNat]
  | .vlog2a d _ _ => [.dest d.toNat]
  | .vredsum d _ _ _ => [.dest d.toNat]
  | .vredmax d _ _ _ => [.dest d.toNat]
  | .vbcast d _ _ => [.dest d.toNat]
  | .vextr d _ _ _ => [.reg d.toNat]
  | .vperm d _ _ _ => [.dest d.toNat]
  | .vrot d _ _ _ => [.dest d.toNat]
  | .vmov d _ _ => [.dest d.toNat]
  | .viota d _ _ => [.dest d.toNat]
  | .vld d _ _ => [.dest d.toNat]
  | .trowLd d _ _ _ _ => [.dest d.toNat]
  | .tcolLd d _ _ _ _ => [.dest d.toNat]
  | .qmovToMask e _ => [.mask e.toNat]
  | .qmovFromMask d _ => [.reg d.toNat]
  | .qops d _ _ _ => [.mask d.toNat]
  | .radd d _ _ _ _ => [.dest d.toNat]
  | .rsub d _ _ _ _ => [.dest d.toNat]
  | .rxor d _ _ _ _ => [.dest d.toNat]
  | .rmulq d _ _ _ _ => [.dest d.toNat, .sys 0x28]
  | .unmulq d _ _ _ _ => [.dest d.toNat, .sys 0x28]
  | .rshr d _ _ _ => [.dest d.toNat, .sys 0x28]
  | .unshr d _ _ _ => [.dest d.toNat, .sys 0x28]
  | .rleak d _ _ _ => [.dest d.toNat, .sys 0x28]
  | .unleak d _ _ _ => [.dest d.toNat, .sys 0x28]
  | .rnarw d _ _ _ => [.dest d.toNat, .sys 0x28]
  | .unnarw d _ _ _ => [.dest d.toNat, .sys 0x28]
  | .mmaTile c _ _ _ _ _ _ _ => [.dest (48 + c.toNat), .status (48 + c.toNat)]
  | .mmaStream c _ _ _ _ _ _ => [.dest (48 + c.toNat), .status (48 + c.toNat)]
  | .mmas c _ _ _ _ _ _ _ => [.dest (48 + c.toNat), .status (48 + c.toNat)]
  | .mzero c _ z => if z == 1 then [.dest (48 + c.toNat), .status (48 + c.toNat)] else [.dest (48 + c.toNat)]
  | .mload c _ _ _ _ => [.dest (48 + c.toNat)]
  | .mdrain c a _ _ _ _ z => if z == 1 then [.dest (32 + a.toNat), .status (48 + c.toNat)] else [.dest (32 + a.toNat)]
  | .mswap c e _ => if c = e then [.dest (48 + c.toNat)]
    else [.dest (48 + c.toNat), .dest (48 + e.toNat), .status (48 + c.toNat), .status (48 + e.toNat)]
  | .mstat _ d _ => [.reg d.toNat]
  | .maddt c _ _ _ _ => [.dest (48 + c.toNat), .status (48 + c.toNat)]
  | .mscl c _ _ _ => [.dest (48 + c.toNat), .status (48 + c.toNat)]
  | .mxpose c _ _ => [.dest (48 + c.toNat), .status (48 + c.toNat)]
  | .hatt h _ _ _ => [.head h.toNat, .named h.toNat]
  | .hdet h => [.head h.toNat, .named h.toNat]
  | .hrd h v k => [.named h.toNat, .dest (headView v k)]
  | .hrds h v k => [.head h.toNat, .named h.toNat, .dest (headView v k)]
  | .hwr h _ _ => [.named h.toNat]
  | .happ h _ _ => [.head h.toNat, .named h.toNat]
  | .hstep h _ => [.head h.toNat, .named h.toNat]
  | .hstepr h _ => [.head h.toNat, .named h.toNat]
  | .hmark h _ => [.head h.toNat, .named h.toNat]
  | .hrew h _ => [.head h.toNat, .named h.toNat]
  | .hpos h d => [.named h.toNat, .reg d.toNat]
  | .hdist h d _ => [.named h.toNat, .reg d.toNat]
  | .hlen h d _ => [.named h.toNat, .reg d.toNat]
  | .hstat h d => [.named h.toNat, .reg d.toNat]
  | .crd v _ _ _ => [.dest v.toNat]
  | .crdStat _ d => [.reg d.toNat]
  | .cpy t _ _ => [.reg t.toNat]
  | .cpyh t _ _ => [.reg t.toNat]
  | .collAllred t _ _ => [.reg t.toNat]
  | .collRdscat t _ _ => [.reg t.toNat]
  | .collAllgth t _ _ => [.reg t.toNat]
  | .tlrd d _ => [.reg d.toNat]
  | .nextt d => [.reg d.toNat]
  | .callRel .. => [.reg 39]
  | .callReg .. => [.reg 39]
  | .solend => [.pred 7]
  | .solrd d _ => [.reg d.toNat]
  | .revoff => [.head 7, .sys 0x28]
  | _ => []

/-- The lowest slot that, of the slots that commit, writes by its constant fields what an earlier one does (R119, R274). -/
def dupFixed (a : Arch) (h : BitVec 94) (is : List (Nat × Instr)) : Option Nat :=
  dupWrites ((is.filter (fun x => commits (hdrTag h x.1) (leafOf a h))).map (fun x => (x.1, fixedWrites x.2))) []

/-- The slot words of a bundle with their slots. -/
def slotWords (h : BitVec 94) (ws : List W32) : List (Nat × W32) := (hdrSlots h).zip ws

/-- The slots of a bundle, decoded, or the lowest slot whose word is illegal (R263). -/
def decodeSlots : List (Nat × W32) → Except Nat (List (Nat × Instr))
  | [] => .ok []
  | (i, w) :: rest =>
    match decodeSlot i w with
    | .error _ => .error i
    | .ok x =>
      match decodeSlots rest with
      | .error j => .error j
      | .ok l => .ok ((i, x) :: l)

/-- A bundle, its header and slot words given, at its place in the stream: the checks of Table 14.9 orders 5 to 7, then its
issue. -/
def Ctx.bundle (c : Ctx) : State :=
  if !headerLegal c.h || c.words.length != (hdrSlots c.h).length then c.st.trap c.k (c.illegal c.h 8)
  else
    match decodeSlots (slotWords c.h c.words) with
    | .error i => c.st.trap c.k (c.illegal c.h i)
    | .ok is =>
      if is.any (fun x => isTag x.2) && is.any (fun x => usesStack x.2) then c.st.trap c.k (c.illegal c.h 2)
      else
        match dupFixed c.k.arch c.h is with
        | some i => c.st.trap c.k (c.illegal c.h i)
        | none => c.issue { h := c.h, len := c.len, slots := is.map (fun x => (x.1, planOf x.2)), words := c.words }

/-- What the core whose turn it is does with a bundle; one that a stop holds, or without a task, issues nothing. -/
def State.withCtx (s : State) (h : BitVec 94) (words : List W32) (len : Nat) (f : Ctx → State) : Out :=
  match s.ctx h words len 8 with
  | none => .next s
  | some c => if c.k.stops.isEmpty then .next (f c) else .next s.endTurn

/-- A literal bundle (R257 to R263, R270), or a bundle that the core holds decoded (R130, R133). -/
def execLiteralBundle (h : BitVec 94) (ws : List W32) (s : State) : Out :=
  s.withCtx h ws (s.lenHere (12 + 4 * ws.length)) Ctx.bundle

/-! ## Calls (R264 to R269) -/

/-- A trap of a call, before its bundle has slots. -/
def Ctx.callTrap (c : Ctx) (code : Nat) (i0 : W64) : State := c.st.trap c.k (c.info code 0xFF i0 0)

/-- The sixteen words of an entry. -/
def State.entryWords (s : State) (a : Nat) : List W32 := wordsOfBytes (s.hbm.bytes a 64)

/-- The lowest set bit of a word. -/
def lowestBit (w : W32) : Nat := ((List.range 32).find? w.getLsbD).getD 0

/-- A call (R265 to R267, R269): a base pending, the entry's page, the fill of its cache line, and the expansion. -/
def Ctx.call (c : Ctx) (index : Nat) (fill : BitVec 50) : State :=
  let i0 : W64 := BitVec.ofNat 64 index
  let va := (c.k.arch.dictBase.toNat + 64 * index) % 2 ^ 64
  if c.k.arch.pendBase.isSome then c.callTrap 0x03 i0
  else
    match c.fl.code va with
    | none => c.callTrap 0x10 (BitVec.ofNat 64 va)
    | some a =>
      if !c.k.dcache.contains va then
        (c.st.setCore { c.k with stage := .frozen (.dict va) }).endTurn
      else
        let e := dictEntryOf (c.st.entryWords a)
        let missing := (e.eflags &&& 0x7FFFFFFF) &&& ~~~c.feats
        if !e.eflags.getLsbD 31 then c.callTrap 0x02 i0
        else if missing != 0 then c.callTrap 0x0D (BitVec.ofNat 64 (lowestBit missing))
        else if !entryLegal e then c.st.trap c.k (c.illegal (entryHdr e) 8)
        else
          let x := expand e fill
          { c with h := x.1, words := x.2 }.bundle

/-- A short call: fill bits 49–18 are zero (Table 14.1). -/
def execShortCall (i : BitVec 12) (f : BitVec 18) (s : State) : Out :=
  s.withCtx 0 [] 4 (fun c => c.call i.toNat (f.setWidth 50))

/-- A long call (Table 14.1). -/
def execLongCall (i : BitVec 12) (f : BitVec 50) (s : State) : Out :=
  s.withCtx 0 [] 8 (fun c => c.call i.toNat f)

end Sys2Proof.Machine
end

