-- ==== Sys2Proof/Machine/Fetch.lean ====
section
/-! DEFINITION. What a core does on its turn of a tick: the fetch of a bundle's stream words (R120, R179, R257, R258; Table 14.9
orders 1 and 2), the landings and ends that come first, and when a stop takes effect (R128). -/

namespace Sys2Proof.Machine

/-! ## Fetch -/

/-- Stream words as they can be fetched. -/
inductive Fetched where
  | words (ws : List W32)
  /-- the page of this address is unmapped or not executable -/
  | unmapped (va : Nat)
  /-- no stack answers this HBM address (R2) -/
  | hole (a : Nat)
  /-- the fetch of a later word of the bundle with this first word fails (R258) -/
  | broken (w : W32)
  /-- the instruction-cache line is not present -/
  | miss (line : Nat)
  deriving DecidableEq, Repr

/-- The instruction-cache line of an address (log 5). -/
def icLine (va : Nat) : Nat := va / Config.icacheLine

/-- `n` stream words from `va`, in stream order. -/
def State.fetchWords (s : State) (f : Flight) (k : Core) : Nat → Nat → Fetched
  | 0, _ => .words []
  | n + 1, va =>
    let va := va % 2 ^ 64
    match f.code va with
    | none => .unmapped va
    | some a =>
      if decide (hbmSize ≤ a) then .hole a
      else if !k.icache.contains (icLine va) then .miss (icLine va)
      else
        match s.fetchWords f k n (va + 4) with
        | .words ws => .words (BitVec.ofNat 32 (s.hbm.num a 4) :: ws)
        | x => x

/-- Words that the bundle whose first word is `w` takes. -/
def wordsIn (w : W32) : Nat := bundleLen w 0 / 4

/-- The words of the bundle at `va`. A later word that no stack answers fails as R258 gives. -/
def State.fetchBundle (s : State) (f : Flight) (k : Core) (va : Nat) : Fetched :=
  match s.fetchWords f k 1 va with
  | .words (w :: _) =>
    (match s.fetchWords f k (wordsIn w) va with
     | .hole _ => .broken w
     | x => x)
  | x => x

/-! ## A core's turn -/

/-- What the core whose turn it is does. -/
inductive Act where
  /-- an instruction or event of its own -/
  | run (i : Instr)
  /-- nothing more on this tick -/
  | rest (s : State)
  | hole (a : Nat)
  deriving DecidableEq, Repr

/-- The landing event of a class. -/
def LandClass.instr (c : LandClass) (core : Nat) : Instr :=
  match c with
  | .result => .resultLanding core
  | .head => .headReadLanding core
  | .matrix => .matrixResultLanding core
  | .replay => .replayEntryLanding core

/-- A trap of the fetch, with slot 0xFF. -/
def State.fetchTrap (s : State) (k : Core) (code : Nat) (i0 : W64) : State :=
  s.trap k ⟨code, 0xFF, i0, 0, k.arch.pc, []⟩

/-- The core's next bundle: as it holds it decoded (R130, R133, R288), else fetched (R257, R258). -/
def State.fetch (s : State) (f : Flight) (k : Core) : Act :=
  match k.decodedHere with
  | some d => .run (.literalBundle d.h d.words)
  | none =>
  match s.fetchBundle f k k.arch.pc.toNat with
  | .unmapped va => .rest (s.fetchTrap k 0x10 (BitVec.ofNat 64 va))
  | .hole a => .hole a
  | .broken w => .rest (s.fetchTrap k 0x01 (w.setWidth 64))
  | .miss line => .rest (s.setCore { k with stage := k.stage.waiting (.icache line) }).endTurn
  | .words ws =>
    match decodeWords ws with
    | .ok (i, _) => .run i
    | .error _ => .rest (s.fetchTrap k 0x01 ((ws.headD 0).setWidth 64))

/-- A stream window has room for an append, or the record under the consumer's head has been released (R170). -/
def State.streamReady (s : State) (r : Run) (f : Flight) (c : Cause) : Bool :=
  match c with
  | .streamFull t =>
    let w := (r.tapeAt t).window
    decide (s.streamCount r t < (if w = 0 then ((s.dir f t).map Dir.winRecs).getD 0 else w))
  | .streamEmpty t =>
    s.cores.any (fun k => k.run == r.id && k.arch.heads.any (fun h =>
      h.attached && h.tape == t && !h.writer && decide (h.pos.toNat < (r.tapeAt t).fill)))
  | _ => false

/-- A core between two bundles (`run`, `frozen`): results that are due land first, then the bundle is fetched. -/
def State.go (s : State) (f : Flight) (k : Core) : Act :=
  match k.nextLanding with
  | some p => .run (p.landClass.instr k.no)
  | none =>
    match k.stuckLanding with
    | some cause => .rest (s.setCore { k with stage := .frozen cause }).endTurn
    | none => s.fetch f k

/-- A stop takes effect at a bundle boundary, once what is due has landed, matrix results have run to their end and every head
read and NEXTT in flight has its data (R128). -/
def State.stopTurn (s : State) (k : Core) : Act :=
  match k.nextLanding with
  | some p => .run (p.landClass.instr k.no)
  | none =>
    if k.pend.any (fun p => p.need != .ready) then .rest s.endTurn
    else
    match k.overflowTrap with
    | some p => .rest (s.landPend k p)
    | none =>
      let s' := (s.freeze k).endTurn
      .rest (if k.asks.contains .halt && s.cutting k then s'.faultRun k.run 0x37 else s')

/-- One virtual cycle passes without a bundle. -/
def State.idleCycle (s : State) (k : Core) : Act := .rest (s.setCore { k with vc := k.vc + 1 }).endTurn

/-- A core that has issued the bundle of a STEP halts again (R131). -/
def Core.stepped (k : Core) : Core :=
  match k.stepVc with
  | some v => if v < k.vc && !k.asks.contains .halt then { k with asks := k.asks ++ [.halt] } else k
  | none => k

/-- Another core of the run has trapped earlier, and its outcome comes first (R113). -/
def State.earlierTrap (s : State) (k : Core) (tick : Nat) : Bool :=
  s.cores.any (fun x => x.run == k.run && (match x.stage with
    | .trapping _ _ t => t < tick || (t == tick && x.no < k.no)
    | _ => false))

/-- A halt of a core that stands still takes effect at once; one that a cut concerns faults its job (R100, R128). -/
def State.haltNow (s : State) (k : Core) : State :=
  if s.cutting k then (s.stopNow k .halt).faultRun k.run 0x37 else s.stopNow k .halt

/-- What core `k` does on its turn. A halt asked during a rollback takes effect once the core stands behind its trap (R100). -/
def State.act (s : State) (r : Run) (f : Flight) (k : Core) : Act :=
  if k.stepped.asks != k.asks then .rest (s.setCore k.stepped)
  else if k.standsStill && k.asks.contains .power then .rest (s.stopNow k .power).endTurn
  else if k.standsStill && k.asks.contains .halt then .rest (s.haltNow k).endTurn
  else if !k.stops.isEmpty then .rest s.endTurn
  else if !k.asks.isEmpty && k.stage.stopsHere k.asks then s.stopTurn k
  else
    match k.stage with
    | .run => s.go f k
    | .transferred => s.go f k
    | .syncIssue => s.go f k
    | .frozen (.streamFull t) => if s.streamReady r f (.streamFull t) then .run (.streamProducerResume k.no) else .rest s.endTurn
    | .frozen (.streamEmpty t) =>
      if s.streamReady r f (.streamEmpty t) then .run (.streamConsumerResume k.no) else .rest s.endTurn
    | .frozen _ => s.go f k
    | .releasing _ => .run (.checkpointReleaseEnd k.no)
    | .trapping _ _ tick => if s.earlierTrap k tick then .rest s.endTurn else if k.settled then .run (.trapRollbackComplete k.no) else
      (if k.toLand.any (fun p => p.preCk && decide (k.vc < p.due)) then s.idleCycle k else .rest s.endTurn)
    | .halting _ =>
      (match k.nextLanding with
       | some p => .run (p.landClass.instr k.no)
       | none => if k.toLand.isEmpty then .run (.taskEnd k.no)
         else if k.stuckLanding.isSome then .rest s.endTurn else s.idleCycle k)
    | .deciding left d t =>
      (match k.nextLanding with
       | some p => .run (p.landClass.instr k.no)
       | none => if k.stuckLanding.isSome then .rest s.endTurn
         else if left ≤ 1 then .run (.solendDecisionEnd k.no)
         else .rest (s.setCore { k with stage := .deciding (left - 1) d t, vc := k.vc + 1 }).endTurn)
    | .idle => .rest s.endTurn
    | .waitLine _ => .rest s.endTurn
    | .waitEvent _ => .rest s.endTurn
    | .publishing _ => .rest s.endTurn
    | .refilling _ => .run (.phasePublicationEnd k.no)
    | .trapped .. => .rest s.endTurn

/-- What the core whose turn it is does; one without a run or flight passes its turn. -/
def State.turnAct (s : State) (c : Nat) : Act :=
  let s := { s with cur := c }
  match s.coreAt c with
  | none => .rest s.endTurn
  | some k =>
    match s.runAt k.run with
    | none => .rest s.endTurn
    | some r =>
      match s.flightOf r with
      | none => .rest s.endTurn
      | some f => s.act r f k

end Sys2Proof.Machine
end

