-- ==== Sys2Proof/Machine/CoreEvents.lean ====
section
/-! DEFINITION. Events of a core and of what it waits for (06, 08, 10, 18): landings, the end of a release, of a decision and of a
transfer, cache fills, walks, handrails, events, stream resumption, and the next-tile service (R88). -/

namespace Sys2Proof.Machine

/-! ## Landings and ends -/

/-- RESULT_LANDING (R121): the core's next due result, a scalar, predicate, vector, slice or next-tile result. -/
def execResultLanding (core : Nat) (s : State) : Out := .next (s.landNext core .result)

/-- HEAD_READ_LANDING (R356): a head or cell read. -/
def execHeadReadLanding (core : Nat) (s : State) : Out := .next (s.landNext core .head)

/-- MATRIX_RESULT_LANDING (R324). -/
def execMatrixResultLanding (core : Nat) (s : State) : Out := .next (s.landNext core .matrix)

/-- REPLAY_ENTRY_LANDING (R129). -/
def execReplayEntryLanding (core : Nat) (s : State) : Out := .next (s.landNext core .replay)

/-- CHECKPOINT_RELEASE_END (R125): the release goes on as far as it can; when nothing is held, the checkpoint is taken. -/
def execCheckpointReleaseEnd (core : Nat) (s : State) : Out :=
  match s.coreAt core with
  | none => .next s
  | some k =>
    match k.stage with
    | .releasing after => .next ((s.release k after).passTurn core)
    | _ => .next s

/-- SOLEND_DECISION_END (R349). -/
def execSolendDecisionEnd (core : Nat) (s : State) : Out :=
  match s.coreAt core with
  | none => .next s
  | some k =>
    match k.stage with
    | .deciding left d t => if left ≤ 1 then .next ((s.solveEnd k d t).passTurn core) else .next s
    | _ => .next s

/-- REMAINDER_TRANSFER_END (R338): the stall of a spill or fill ends; the bundle issues with its transfer. -/
def execRemainderTransferEnd (core : Nat) (s : State) : Out :=
  .next (s.mapCore core (fun k => match k.stage with
    | .frozen .remainder => { k with stage := .transferred }
    | _ => k))

/-! ## Cache fills (R120, R179, R269, R286) -/

/-- A core that was frozen goes on. -/
def Core.thaw (k : Core) : Core := { k with stage := .run }

/-- INSTRUCTION_CACHE_FILL (R120): the line the core waits for arrives. What the page then holds shows at the fetch (R180). -/
def execInstructionCacheFill (core : Nat) (s : State) : Out :=
  .next (s.mapCore core (fun k => match k.stage with
    | .frozen (.icache line) => ({ k with icache := insertNat line k.icache }).thaw
    | _ => k))

/-- A dictionary cache with one more line, oldest first (R269). -/
def cacheWith (cache : List Nat) (va : Nat) : List Nat :=
  let l := cache.filter (fun x => x != va) ++ [va]
  l.drop (l.length - Config.dictCache)

/-- A fill of the dictionary cache from `va`; an unmapped page shows at the retry, and an address no stack answers stops. -/
def State.dictFill (s : State) (k : Core) (va : Nat) : Out :=
  match ((s.runAt k.run).bind s.flightOf).bind (fun f => f.code va) with
  | none => .next (s.setCore k.thaw)
  | some a =>
    if hbmSize ≤ a then .fault (.hbmHole a)
    else .next (s.setCore ({ k with dcache := cacheWith k.dcache va }).thaw)

/-- DICTIONARY_CACHE_FILL (R269). -/
def execDictionaryCacheFill (core : Nat) (s : State) : Out :=
  match s.coreAt core with
  | none => .next s
  | some k =>
    match k.stage with
    | .frozen (.dict va) => s.dictFill k va
    | _ => .next s

/-- TARGET_TABLE_LINE_FILL (R286). -/
def execTargetTableLineFill (core : Nat) (s : State) : Out :=
  match s.coreAt core with
  | none => .next s
  | some k =>
    match k.stage with
    | .frozen (.targets line) => s.dictFill k line
    | _ => .next s

/-- EXTENT_WALK_COMPLETE (R158, R159): the walker serves the oldest miss; an absent entry is not held. -/
def execExtentWalkComplete (hall : Nat) (s : State) : Out :=
  let h := s.hallAt hall
  match h.walks with
  | [] => .next s
  | w :: rest =>
    let rid := w.run
    let t := w.tape
    let i := w.index
    let done := s.setHall { h with walks := rest }
    match s.runAt rid with
    | none => .next done
    | some r =>
      match s.fnAt r.fn, s.flightOf r with
      | some fn, some f =>
        match s.dir f t with
        | none => .next done
        | some d =>
          let e := s.extEntry f d i
          if holeEntry d e then .fault (.hbmHole ((fld e 10 18).toNat * 2097152))
          else if (s.extPlace fn d e).isNone then .next done
          else
            let l := h.extents.filter (fun x => x != (rid, t, i)) ++ [(rid, t, i)]
            .next (s.setHall { h with walks := rest, extents := l.drop (l.length - Config.extentCache) })
      | _, _ => .next done

/-! ## Head windows (R164, R165, R205) -/

/-- A write of the record that has reached the core, or is its own, has yet to arrive at the record's home; of its own those below
`bound` (R166). -/
def Run.recordInFlight (r : Run) (k : Core) (t : BitVec 20) (record : Nat) (bound : Option Nat) : Bool :=
  r.flying.any (fun x => match x with
    | .tape w => w.tape == t && w.record == record &&
      (if w.core == k.no then (bound.map (fun b => decide (w.wid < b))).getD true else k.reached.contains w.wid)
    | .cell .. => false)

/-- A window gets a record, in place of an older copy. -/
def windowPut (w : List WinRec) (x : WinRec) : List WinRec := w.filter (fun y => y.record != x.record) ++ [x]

/-- What a result in flight that waits for the record waits for: its tape, the bound on the core's own writes, the version that a
later read has returned, its floor and, where it is of a phase that has ended, that phase. -/
def Pend.wants (p : Pend) (head : Nat) (record : Nat) : Option (BitVec 20 × Nat × Option Nat × Nat × Option (List Nat)) :=
  match p.need with
  | .record h t r _ bound cap floor ph => if h == head && r == record then some (t, bound, cap, floor, ph) else none
  | _ => none

/-- The record's data comes to the result. -/
def Pend.feed (p : Pend) (data : List Byte) (bad : List Nat) : Pend :=
  match p.need with
  | .record _ _ _ len _ _ _ _ => { p with data := data.take len, poison := granuleRanges bad, need := .ready }
  | _ => p

/-- The results in flight, in the order of their issue, as data with the earliest and latest version in it comes to those that `hit`
names: the others of their phase that wait for the record return nothing later before them and nothing earlier behind (R205). -/
def feedReads (hit : Pend → Bool) (feed : Pend → Pend) (t : BitVec 20) (record oldest latest : Nat) (ph : Option (List Nat)) :
    Bool → List Pend → List Pend
  | _, [] => []
  | seen, p :: rest =>
    let n := if seen then p.need.raised t record latest ph else p.need
    let n := if rest.any hit then n.capped t record oldest ph else n
    (if hit p then feed p else { p with need := n }) :: feedReads hit feed t record oldest latest ph (seen || hit p) rest

/-- The head's window wants the record: it is in reach and on a stream tape released, and no copy that a read may still return is there. -/
def Run.wantsRecord (r : Run) (k : Core) (n : Nat) (h : Head) (d : Dir) (record : Nat) : Bool :=
  h.attached && inWindow d h record && (!h.isStream || (r.tapeAt h.tape).records.any (fun x => x.1 == record)) &&
  (match windowRec (k.windows.getD n []) record with
   | none => true
   | some w => decide (w.oldest < k.floor h.tape record))

/-- How far a record lies from the head, and whether behind it. -/
def Head.distance (h : Head) (record : Nat) : Nat × Bool :=
  let p := h.pos.toNat
  if h.backward then (if record ≤ p then (p - record, false) else (record - p, true))
  else (if p ≤ record then (record - p, false) else (p - record, true))

/-- A record lies nearer to the head than another; of two as near, the one ahead. -/
def Head.nearer (h : Head) (a b : Nat) : Bool :=
  let x := h.distance a
  let y := h.distance b
  x.1 < y.1 || (x.1 == y.1 && !x.2 && y.2)

/-- No record nearer to the head, which has storage, is still wanted by its window (R164). -/
def State.nearestWanted (s : State) (r : Run) (fn : Fn) (f : Flight) (k : Core) (n : Nat) (h : Head) (d : Dir) (record : Nat) : Bool :=
  let lo := h.pos.toNat - 65536 / d.recSize
  !((List.range (131072 / d.recSize + 3)).map (fun i => lo + i)).any (fun x =>
    h.nearer x record && r.wantsRecord k n h d x && (s.place fn f d x).isSome)

/-- The record comes to the read that waits for it longest (R165), and to those with the same bounds, floor and phase: what R205 lets
it return in its phase, granule by granule as `sel` picks among racing writes; its own later writes stay out of it (R166). -/
def State.feedRead (s : State) (r : Run) (fn : Fn) (f : Flight) (d : Dir) (k : Core) (n record : Nat)
    (w : BitVec 20 × Nat × Option Nat × Nat × Option (List Nat)) (sel : List Nat) : Option Core :=
  if r.recordInFlight k w.1 record (some w.2.1) then none
  else
    let ph := w.2.2.2.2
    let x : Reader := { reached := ph.getD k.phase, own := k.no, floor := w.2.2.2.1, bound := some w.2.1, cap := w.2.2.1 }
    (s.readRecord r fn f d w.1 record x sel).map (fun y =>
      let k := { k with pend := feedReads (fun p => p.wants n record == some w) (fun p => p.feed y.1 y.2.1) w.1 record y.2.2.1 y.2.2.2 ph
                          false k.pend }
      if ph.isNone then k.note w.1 record y.2.2.2 else k)

/-- The record comes to the head's window: the copy is one that R205 lets the core read; a stream record as it was appended, with the
poison of its place in the ring (R169, R171). -/
def State.feedWindow (s : State) (r : Run) (fn : Fn) (f : Flight) (d : Dir) (k : Core) (n : Nat) (h : Head) (record : Nat)
    (sel : List Nat) : Option Core :=
  if h.isStream then
    ((r.tapeAt h.tape).records.find? (fun x => x.1 == record)).map (fun x =>
      { k with windows := k.windows.set n (windowPut (k.windows.getD n []) ⟨record, x.2.1, s.ringPoison r fn f d h.tape record, 0, 0⟩) })
  else if r.recordInFlight k h.tape record none then none
  else
    let x : Reader := { reached := k.phase, own := k.no, floor := k.floor h.tape record, bound := none, cap := none }
    (s.readRecord r fn f d h.tape record x sel).map (fun y =>
      { k with windows := k.windows.set n (windowPut (k.windows.getD n []) ⟨record, y.1, y.2.1, y.2.2.2, y.2.2.1⟩) })

/-- A record fetched for a head arrives (R164, R165): for the read that waits for it, and for the window, nearest first; whether it
did. A fill that meets an extent not cached starts a walk (R158). -/
def State.recordArrives (s : State) (r : Run) (fn : Fn) (f : Flight) (k : Core) (n record : Nat) (sel : List Nat) (refill : Bool) :
    State × Bool :=
  let h := k.arch.heads.getD n Head.detached
  let waiting := k.pend.findSome? (fun p => p.wants n record)
  let t := (waiting.map Prod.fst).getD h.tape
  match s.dir f t with
  | none => (s, false)
  | some d =>
    let inReach := h.tape == t && r.wantsRecord k n h d record && (refill || waiting.isSome || s.nearestWanted r fn f k n h d record)
    if waiting.isNone && !inReach then (s, false)
    else if !s.extCached k.no r.id t (d.extentOf record) then
      (s.startWalk k.no r.id t (d.extentOf record) (some (k.no, n)), false)
    else
      let fed := (waiting.bind (fun w => s.feedRead r fn f d k n record w sel)).getD k
      let put := if inReach then s.feedWindow r fn f d fed n h record sel else none
      ((s.touchExtent k.no r.id t (d.extentOf record)).setCore (put.getD fed), put.isSome)

/-- The core, its run, its function and its flight. -/
def State.coreJob (s : State) (c : Nat) : Option (Core × Run × Fn × Flight) :=
  match s.coreAt c with
  | none => none
  | some k =>
    match s.runAt k.run with
    | none => none
    | some r =>
      match s.fnAt r.fn, s.flightOf r with
      | some fn, some f => some (k, r, fn, f)
      | _, _ => none

/-- HEAD_RECORD_ARRIVAL (R164). -/
def execHeadRecordArrival (core head rec_ : Nat) (sel : List Nat) (s : State) : Out :=
  match s.coreJob core with
  | none => .next s
  | some (k, r, fn, f) => .next (s.recordArrives r fn f k head rec_ sel false).1

/-- STREAM_PRODUCER_RESUME (R170). -/
def execStreamProducerResume (core : Nat) (s : State) : Out :=
  match s.coreJob core with
  | none => .next s
  | some (k, r, _, f) =>
    match k.stage with
    | .frozen (.streamFull t) => .next (if s.streamReady r f (.streamFull t) then s.setCore k.thaw else s)
    | _ => .next s

/-- STREAM_CONSUMER_RESUME (R170). -/
def execStreamConsumerResume (core : Nat) (s : State) : Out :=
  match s.coreJob core with
  | none => .next s
  | some (k, r, _, f) =>
    match k.stage with
    | .frozen (.streamEmpty t) => .next (if s.streamReady r f (.streamEmpty t) then s.setCore k.thaw else s)
    | _ => .next s

/-! ## Home of a record (R205, R389) -/

/-- TAPE_WRITE_AT_HOME (R205). Write numbers are a run's own: the oldest run with this write on its way. -/
def execTapeWriteAtHome (wid : Nat) (s : State) : Out :=
  match s.runs.find? (fun r => r.flying.any (fun x => x.isTape wid)) with
  | none => .next s
  | some r => .next (s.tapeHome r wid)

/-! ## Cells at the vault (R174 to R176, R366 to R369) -/

/-- CELL_OP_AT_VAULT (R176). -/
def execCellOpAtVault (wid : Nat) (s : State) : Out :=
  match s.runs.find? (fun r => r.flying.any (fun x => x.isCell wid)) with
  | none => .next s
  | some r => .next (s.cellHome r wid)

/-- The code a cell reads as: v × 2^−frac in RNE (R175). -/
def cellCode (frac : Nat) (bf : Bool) (v : Int) : Nat :=
  ((if bf then bf16 else fp32).round .rne false (.num (decide (v < 0)) v.natAbs (2 ^ frac))).code

/-- The contributions a cell read takes whatever races: those that have reached the core and its own before the read (R209), and
number 0, what a vault that was off holds (R40). -/
def Core.countsAdd (k : Core) (bound : Nat) (a : Nat × Nat × Int) : Bool :=
  a.1 == 0 || (a.2.1 == k.no && a.1 < bound) || k.reached.contains a.1

/-- One lane of a cell read (R209, R368); `pick` are the racing contributions it includes. -/
def Core.cellLane (k : Core) (as : List CellArray) (array bound : Nat) (frac : Option Nat) (bf : Bool) (pick : List Nat)
    (l : CellLane) : Nat :=
  let a := as.find? (fun x => x.id == array)
  let fr := frac.getD ((a.map (fun x => descFrac x.desc)).getD 0)
  let base : Int :=
    if l.cleared then 0
    else
      match a.bind (fun x => x.cells.find? (fun c => c.index == l.cell)) with
      | none => 0
      | some c => (c.adds.filter (fun d => k.countsAdd bound d || (d.2.1 != k.no && pick.contains d.1))).foldl (fun n d => n + d.2.2) 0
  let own := l.own.foldl (fun n w => n + ((cellTerm fr w.1 w.2).map Prod.fst).getD 0) base
  cellCode fr bf (wrap128 own)

/-- The value of a cell as a core reads it before its racing contributions, and those: number and amount, at the vault or on their
way there (R209). -/
def Run.cellParts (r : Run) (k : Core) (array bound : Nat) (l : CellLane) (frac : Nat) : Int × List (Nat × Int) :=
  let adds := if l.cleared then [] else
    (((r.arrays.find? (fun x => x.id == array)).bind (fun a => a.cells.find? (fun c => c.index == l.cell))).map Cell.adds).getD []
  let flying := r.flying.flatMap (fun x => match x with
    | .tape _ => []
    | .cell wid core ops => if core == k.no then [] else ops.filterMap (fun o => match o with
      | .add a c bf v => if a == array && c == l.cell then (cellTerm frac bf v).map (fun t => (wid, t.1)) else none
      | .clear .. => none))
  ((adds.filter (k.countsAdd bound)).foldl (fun n d => n + d.2.2)
     (l.own.foldl (fun n w => n + ((cellTerm frac w.1 w.2).map Prod.fst).getD 0) 0),
   (adds.filter (fun d => !k.countsAdd bound d && d.2.1 != k.no)).map (fun d => (d.1, d.2.2)) ++ flying)

/-- The sums of the subsets of contributions on top of `base`. -/
def subsetSums (base : Int) (xs : List (Nat × Int)) : List Int :=
  xs.foldl (fun ss x => (ss ++ ss.map (fun s => s + x.2)).eraseDups) [base]

/-- Contributions that a lane's value `code` includes under every subset of the racing ones that gives it (Table 10.2). -/
def Run.cellShows (r : Run) (k : Core) (array bound frac : Nat) (bf : Bool) (l : CellLane) (code : Nat) : List Nat :=
  let x := r.cellParts k array bound l frac
  (x.2.filter (fun d =>
    !(subsetSums x.1 (x.2.filter (fun e => e.1 != d.1))).any (fun n => cellCode frac bf (wrap128 n) == code))).map Prod.fst

/-- What the adds that a cell read shows carry (Table 10.2): those that have reached the reader, and those that its value tells. -/
def Run.cellCarried (r : Run) (k : Core) (array bound frac : Nat) (bf : Bool) (ls : List (CellLane × Nat)) : List Carried :=
  match r.arrays.find? (fun x => x.id == array) with
  | none => []
  | some a =>
    let wids := ls.flatMap (fun l =>
      (if l.1.cleared then [] else (((a.cells.find? (fun c => c.index == l.1.cell)).map Cell.adds).getD []).filterMap (fun d =>
        if k.countsAdd bound d then some d.1 else none)) ++ r.cellShows k array bound frac bf l.1 l.2)
    (r.cellReleases.filter (fun x => wids.contains x.1)).map Prod.snd

/-- CELL_READ_VALUE_ARRIVAL (R368): the core's oldest cell read that waits gets its value, once its own earlier cell operations
are at the vault; `pick` names the racing contributions it includes (R209). A poisoned granule
of the array's slots has no effect on it (the model's choice, log 110). -/
def State.cellValue (s : State) (r : Run) (k : Core) (pick : List Nat) : State :=
  match k.pend.find? (fun p => p.need.cause == .cell) with
  | none => s
  | some p =>
    let put (q : Pend) : Core := { k with pend := k.pend.map (fun x => if x == p then q else x) }
    match p.need with
    | .status array =>
      let d := ((r.arrays.find? (fun x => x.id == array)).map CellArray.desc).getD 0
      s.setCore (put { p with val := d, need := .ready })
    | .cells array bound frac bf ls =>
      let early := r.flying.any (fun x => match x with
        | .cell i c _ => c == k.no && decide (i < bound)
        | .tape _ => false)
      if early then s
      else
        let ws := ls.map (k.cellLane r.arrays array bound frac bf pick)
        let fr := frac.getD (((r.arrays.find? (fun x => x.id == array)).map (fun x => descFrac x.desc)).getD 0)
        s.setCore ((put { p with data := ws.flatMap (leBytes 4), need := .ready }).acquire
          (r.cellCarried k array bound fr bf (ls.zip ws)))
    | _ => s

/-- CELL_READ_VALUE_ARRIVAL (R368). -/
def execCellReadValueArrival (core : Nat) (pick : List Nat) (s : State) : Out :=
  match s.coreJob core with
  | none => .next s
  | some (k, r, _, _) => .next (s.cellValue r k pick)

/-! ## Phases (R167, R204, R207) -/

/-- Records that the windows of a core hold, by head. -/
def Core.windowRecords (k : Core) : List (Nat × Nat) :=
  k.windows.zipIdx.flatMap (fun w => w.1.map (fun x => (w.2, x.record)))

/-- Free picks among racing writes for the granules of one fetch (R205; log 2). -/
def State.freePicks (s : State) (n : Nat) : State × List Nat :=
  ({ s with free := s.free + n }, (List.range n).map (fun i => (Config.freeValue (s.free + i)).toNat))

/-- The refill of one record (R167): whether it is still to be made. -/
def State.refillOne (s : State) (c : Nat) (x : Nat × Nat) : State × Bool :=
  match s.coreJob c with
  | none => (s, false)
  | some (k, r, fn, f) =>
    let h := k.arch.heads.getD x.1 Head.detached
    match s.dir f h.tape with
    | none => (s, false)
    | some d =>
      if (s.place fn f d x.2).isNone || !r.wantsRecord k x.1 h d x.2 then (s, false)
      else
        let p := s.freePicks ((d.recSize + 63) / 64)
        let y := p.1.recordArrives r fn f k x.1 x.2 p.2 true
        (y.1, !y.2)

/-- The refill of the windows goes on: the records that are still to be fetched, whose extents are walked. -/
def State.refill (s : State) (c : Nat) : List (Nat × Nat) → State × List (Nat × Nat)
  | [] => (s, [])
  | x :: rest =>
    let y := s.refillOne c x
    let z := y.1.refill c rest
    (z.1, if y.2 then x :: z.2 else z.2)

/-- The refill of core `c`'s windows as far as it goes; when nothing is left the core goes on (R204). -/
def State.refillAll (s : State) (c : Nat) (want : List (Nat × Nat)) : State :=
  let x := s.refill c want
  x.1.mapCore c (fun k => { k with stage := if x.2.isEmpty then .run else .refilling x.2 })

/-- Released work that has reached the core is on its way. -/
def Run.reachedFlying (r : Run) (k : Core) : Bool :=
  r.flying.any (fun x => match x with
    | .tape w => k.reached.contains w.wid
    | .cell i _ _ => k.reached.contains i)

/-- PHASE_PUBLICATION_END (R204): everything that has reached the core can be fetched, and every head read issued before the adds
that the boundary releases holds its record (R208); the new phase begins and the windows are filled again. -/
def execPhasePublicationEnd (core : Nat) (s : State) : Out :=
  match s.coreJob core with
  | none => .next s
  | some (k, r, _, _) =>
    match k.stage with
    | .publishing scope =>
      if r.reachedFlying k || !(k.cellAdds.isEmpty || k.readsHeld) then .next s
      else
        let want := k.windowRecords
        let k1 := r.boundaryOf k scope
        let c := k1.carries scope
        let s := s.mapRun r.id (fun r => { r with cellReleases := r.cellReleases ++ k.cellAdds.map (fun w => (w, c)) })
        let s := s.setCore { k1 with cellAdds := [], stage := .refilling want }
        .next (s.refillAll core want)
    | .refilling want => .next ((s.refillAll core want).passTurn core)
    | _ => .next s

/-! ## Handrails (R133) -/

/-- Every member's input is raised; a member whose task has ended holds it raised. -/
def Line.all (l : Line) : Bool := l.members.all (fun c => l.raised.contains c || l.ended.contains c)

/-- Every member that waits issues its SYNC bundle next, having acquired from every other (R133, R206). -/
def State.restartLine (s : State) (l : Line) : State :=
  let s := { s with cores := s.cores.map (fun (k : Core) =>
    if k.stage == Stage.waitLine l.no then ({ k with stage := .syncIssue } : Core).acquire l.carried else k) }
  s.mapLine l.no (fun l => { l with raised := [], carried := [], trueTick := none, remote := false })

/-- Packages of the line's job. -/
def State.linePackages (s : State) (l : Line) : Nat := (((s.runAt l.run).bind s.flightOf).map Flight.nPkg).getD 0

/-- HANDRAIL_LINE_TRUE (R133): the AND becomes true; at level 4 the line completes when every other package's has too,
and restarts at once where its own completion is the last (the model's choice, log 96). -/
def execHandrailLineTrue (line : Nat) (s : State) : Out :=
  match s.lineAt line with
  | none => .next s
  | some l =>
    if !l.all || l.trueTick.isSome then .next s
    else if l.level == 4 && (l.remote || decide (s.linePackages l ≤ 1)) then .next ((s.restartLine l).report l.run 3)
    else
      let s := s.mapLine line (fun l => { l with trueTick := some s.pcyc })
      .next (if l.level == 4 then s.report l.run 3 else s)

/-- HANDRAIL_RESTART (R133): tick R + 12 of a line of level 1 to 3. -/
def execHandrailRestart (line : Nat) (s : State) : Out :=
  match s.lineAt line with
  | none => .next s
  | some l =>
    match l.trueTick with
    | none => .next s
    | some t => if l.level != 4 && decide (t + Config.handrail ≤ s.pcyc) then .next (s.restartLine l) else .next s

/-- LEVEL4_LINE_COMPLETION (R133, R87): the completions of the job's other packages have arrived. -/
def execLevel4LineCompletion (line : Nat) (s : State) : Out :=
  match s.lineAt line with
  | none => .next s
  | some l =>
    if l.level != 4 then .next s
    else if l.trueTick.isSome then .next (s.restartLine l)
    else .next (s.mapLine line (fun l => { l with remote := true }))

/-! ## Events (R134) -/

/-- An event reaches core `k` on a tick: the pending bit, in the shadow too (R127), and a WFE that waits consumes it, also one whose
bundle's release has yet to end. A WFE of a checkpoint bundle that waits clears the bit of the shadow with its own (the model's choice,
log 95). -/
def Core.eventIn (k : Core) (tick : Nat) (c : Carried) : Core :=
  let set (a : Arch) (b : Bool) : Arch := { a with event := b }
  let woken (stage : Stage) (shadow : Bool) : Core :=
    { ({ k with eventFrom := [], stage := stage } : Core).acquire (k.eventFrom.map Prod.snd ++ [c]) with
      arch := set k.arch false, shadow := set k.shadow shadow }
  match k.stage with
  | .waitEvent ck => woken .run (!ck)
  | .releasing .event => woken (.releasing .go) true
  | _ => { k with eventFrom := k.eventFrom ++ [(tick, c)], eventSince := if k.arch.event then k.eventSince else tick
                  arch := set k.arch true, shadow := set k.shadow true }

/-- The core is a member of a domain of level 4 of a job on several packages. -/
def State.farMember (s : State) (k : Core) : Bool :=
  k.dom.any (fun w => w.getLsbD 28 && (fld w 29 3).toNat == 4) &&
  decide (1 < (((s.runAt k.run).bind s.flightOf).map Flight.nPkg).getD 0)

/-- What an event of another package's core carries here: nothing that this package's writes could show (log 53). -/
def farEvent : Carried := ⟨4096, 3, [], ⟨4096, []⟩⟩

/-- EVENT_ARRIVAL (R134): the oldest event on its way to the core, else one that a member on another package has sent it over a
domain of level 4 (R87). -/
def execEventArrival (core : Nat) (s : State) : Out :=
  match s.events.find? (fun e => e.1 == core) with
  | none => .next (s.mapCore core (fun k => if s.farMember k then k.eventIn s.pcyc farEvent else k))
  | some e => .next (({ s with events := s.events.erase e } : State).mapCore core (fun k => k.eventIn s.pcyc e.2))

/-! ## The next-tile service (R82, R88, R89) -/

/-- Tiles of a kernel node. -/
def Node.tileCount (n : Node) : Nat := n.xdim * n.ydim * n.zdim

/-- Packed coordinates of tile `i` (R82). -/
def Node.tile (n : Node) (i : Nat) : W64 :=
  BitVec.ofNat 64 (i % n.xdim + (i / n.xdim % n.ydim) * 2 ^ 20 + (i / n.xdim / n.ydim) * 2 ^ 40)

/-- The `i`-th number from 0 that an ascending list lacks. -/
def nthMissing : List Nat → Nat → Nat
  | [], i => i
  | x :: xs, i => if i < x then i else nthMissing xs (i + 1)

/-- One more tile is handed out: which one is open (R82); the node's state and the tile, or the null value when none is left. -/
def NodeState.hand (ns : NodeState) (n : Node) (pick : Nat) : NodeState × W64 :=
  let left := n.tileCount - ns.handed.length
  if left = 0 then (ns, nullTile)
  else
    let i := nthMissing ns.handed (pick % left)
    ({ ns with handed := insertNat i ns.handed }, n.tile i)

/-- A tile of node `node` of a run is handed out. -/
def State.handTile (s : State) (rid node pick : Nat) : State × W64 :=
  match s.runAt rid with
  | none => (s, nullTile)
  | some r =>
    match ((s.flightOf r).bind (fun f => f.nodes[node]?)), r.nodes[node]? with
    | some n, some ns =>
      let x := ns.hand n pick
      (s.mapRun rid (fun r => { r with nodes := r.nodes.set node x.1 }), x.2)
    | _, _ => (s, nullTile)

/-- A request that its agent has yet to accept. -/
def Core.asksTile (k : Core) : Bool := k.tileReq.any (fun q => q.answer.isNone)

/-- The oldest such request is answered 14 ticks from now. -/
def answerFirst (tick : Nat) (v : W64) : List TileReq → List TileReq
  | [] => []
  | q :: rest => if q.answer.isNone then { q with answer := some (tick + Config.nexttReply, v) } :: rest
    else q :: answerFirst tick v rest

/-- NEXTT_REQUEST_ACCEPT (R88): the die's agent accepts the request of the lowest core of all that wait, whichever tick each
arrived on (log 70). -/
def execNexttRequestAccept (die pick : Nat) (s : State) : Out :=
  match s.cores.find? (fun k => dieOf (hallOf k.no) == die && k.asksTile) with
  | none => .next s
  | some k =>
    let x := s.handTile k.run k.node pick
    .next (x.1.mapCore k.no (fun k => { k with tileReq := answerFirst s.pcyc x.2 k.tileReq }))

/-- The answer of request number `n` comes to the result that waits for it. -/
def Pend.feedTile (p : Pend) (n : Nat) (v : W64) : Pend :=
  if p.need == .tile n then { p with val := v, need := .ready } else p

/-- NEXTT_REPLY_ARRIVE (R88): provisional until the next checkpoint (R89). -/
def execNexttReplyArrive (core : Nat) (s : State) : Out :=
  match s.coreAt core with
  | none => .next s
  | some k =>
    match k.tileReq with
    | ⟨_, some (tick, v)⟩ :: rest =>
      if s.pcyc < tick then .next s
      else
        let n := k.tileCount
        .next (s.setCore { k with
          tileReq := rest
          tileCount := n + 1
          tiles := if v = nullTile || n < k.tileBase then k.tiles else k.tiles ++ [(n, v)]
          nullSeen := k.nullSeen || v == nullTile
          pend := k.pend.map (fun p => p.feedTile n v) })
    | _ => .next s

end Sys2Proof.Machine
end

