-- ==== Sys2Proof/Machine/Runs.lean ====
section
/-! DEFINITION. The landing's runs (04): a run's start (R76, R87), counters and commits (R62, R77, R80, R396), held wait arms
(R56), the end of a run and the next queued one (R81), resumption of a faulted run (R63), and the order of dispatch (R91,
R92, Table 4.7). -/

namespace Sys2Proof.Machine

/-! ## Nodes -/

/-- A node's stage for a counter value (R76, R80). A wait node whose counter a predecessor takes from 1 to 0 is neither active nor
committed (log 71). -/
def Node.stageAt (n : Node) (counter : Nat) : NodeStage :=
  match n.kind with
  | .wait => if counter = 1 then .active else .waiting
  | _ => if counter = 0 then .ready else .waiting

/-- A node's state with its counter just set to dep_init. -/
def Node.fresh (n : Node) (tick iterations : Nat) : NodeState :=
  { counter := n.depInit, stage := n.stageAt n.depInit, readyTick := tick, iterations := iterations, dispatched := false
    committed := false, handed := [], cmds := 0, cores := [], placing := none, triggered := false, aged := 0 }

/-- The node's counter takes a new value; it may become ready or active now. -/
def NodeState.count (ns : NodeState) (n : Node) (counter tick : Nat) : NodeState :=
  { ns with counter := counter, stage := n.stageAt counter, readyTick := tick, triggered := false, aged := 0 }

/-- The run's nodes with an update at `i`. -/
def Run.mapNode (r : Run) (i : Nat) (g : NodeState → NodeState) : Run :=
  { r with nodes := r.nodes.zipIdx.map (fun x => if x.2 == i then g x.1 else x.1) }

/-- A successor's counter falls by one; none: it would fall below zero (R77). -/
def Run.decrement (r : Run) (f : Flight) (tick i : Nat) : Option Run :=
  match f.nodes[i]?, r.nodes[i]? with
  | some n, some ns => if ns.counter = 0 then none else some (r.mapNode i (fun x => x.count n (x.counter - 1) tick))
  | _, _ => some r

/-- Several successors in order. -/
def Run.decrementAll (f : Flight) (tick : Nat) : List Nat → Run → Option Run
  | [], r => some r
  | i :: rest, r =>
    match r.decrement f tick i with
    | none => none
    | some r => Run.decrementAll f tick rest r

/-- The entries of a succ list that name a node, of those at the places `js`. -/
def Node.taken (n : Node) (js : List Nat) : List Nat := (js.filterMap (fun j => n.succ[j]?)).filter (fun i => i != 0xFFFF)

/-- What the landing keeps at a commit of node `i` (R62). -/
def Run.image (r : Run) (i : Nat) : CommitImage :=
  { node := i, counters := r.nodes.map NodeState.counter, conds := r.conds, args := r.args
    iterations := r.nodes.map NodeState.iterations, dispatched := r.nodes.map NodeState.dispatched
    committed := r.nodes.map NodeState.committed, endDone := r.endDone }

/-- Numbers of the writes that the work of node `i` has released. -/
def Run.nodeWrites (r : Run) (i : Nat) : List Nat := (r.widNodes.filter (fun x => x.2 == i)).map Prod.fst

/-- The node's own part of its commit: counted, and what it held is free (R62, R85). Its writes, and all that had reached its writers,
reach every core of the job, as if each writer had passed a boundary of scope pkg (R207, R396). -/
def State.closeNode (s : State) (rid i : Nat) (settled : Bool) : State :=
  match s.runAt rid with
  | none => s
  | some r =>
    let ws := (r.gained.filter (fun x => x.1 == i)).foldl (fun l x => unionNat x.2 l) (r.nodeWrites i)
    let s := s.mapRun rid (fun r =>
      { r.mapNode i (fun ns => if settled then { ns with stage := .waiting, committed := true } else ns) with
        commits := r.commits + 1
        tapes := r.tapes.map (fun t => { t with by_ := t.by_.filter (fun j => j != i), fresh := t.fresh.filter (fun x => x.2 != i) })
        arrays := r.arrays.map (fun a => { a with by_ := a.by_.filter (fun j => j != i) })
        lastNode := BitVec.ofNat 16 i
        committedWrites := unionNat ws r.committedWrites
        widNodes := r.widNodes.filter (fun x => x.2 != i)
        gained := r.gained.filter (fun x => x.1 != i) })
    let s := s.dropCores (fun k => k.run == rid && k.node == i)
    { s with
      cores := s.cores.map (fun (k : Core) => if k.run == rid then ({ k with reached := unionNat ws k.reached } : Core) else k)
      contexts := s.contexts.filter (fun x => !(x.run == rid && x.node == i && x.core.isSome))
      lines := s.lines.filter (fun l => !(l.run == rid && l.node == i)) }

/-- Node `i` commits and takes the successors at the places `js` (R62, R77); `settled` is false for a while node that its own
reset has put back (R79). -/
def State.commitNode (s : State) (rid i : Nat) (js : List Nat) (settled : Bool) : State :=
  let s := s.closeNode rid i settled
  match s.runAt rid with
  | none => s
  | some r =>
    match s.flightOf r with
    | none => s
    | some f =>
      match f.nodes[i]? with
      | none => s
      | some n =>
        let r := { r with endDone := r.endDone || n.isEnd }
        match Run.decrementAll f s.pcyc (n.taken js) r with
        | none => (s.mapRun rid (fun _ => { r with images := r.images.filter (fun x => x.node != i) ++ [r.image i] })).faultRun rid 0x34
        | some r => s.mapRun rid (fun _ => { r with images := r.images.filter (fun x => x.node != i) ++ [r.image i] })

/-! ## Held wait arms (R56, R80) -/

/-- Argument words of an arm over a block: the first n_arg words (R56). -/
def armOver (a : ArmWrite) (args : List W32) : List W32 :=
  args.zipIdx.map (fun x => if x.2 < a.nArg.toNat then a.args.getD x.2 0 else x.1)

/-- A wait arm is applied to an active node, which commits at once (R56, R80). -/
def State.applyWait (s : State) (rid i : Nat) (a : ArmWrite) : State :=
  let s := s.mapRun rid (fun r => { r.mapNode i (fun ns => { ns with counter := 0 }) with args := armOver a r.args })
  s.commitNode rid i (List.range 8) true

/-- An active wait node of the run for which an arm of the run is held. -/
def State.heldFor (s : State) (rid : Nat) : Option (ArmWrite × Nat) :=
  match s.runAt rid with
  | none => none
  | some r =>
    match s.flightOf r with
    | none => none
    | some f =>
      if r.endDone then none
      else (f.heldWaits.find? (fun w => w.2.2 == some rid &&
        ((r.nodes[w.2.1]?).map NodeState.stage) == some .active)).map (fun w => (w.1, w.2.1))

/-- Held arms are applied while their activations are active; each application uses one of at most `n`. -/
def State.applyHeld (s : State) (rid : Nat) : Nat → State
  | 0 => s
  | n + 1 =>
    match s.heldFor rid, s.runAt rid with
    | some (a, i), some r =>
      let s := s.mapFn r.fn (fun f => f.mapFlight r.flight (fun fl =>
        { fl with heldWaits := fl.heldWaits.erase (a, i, some rid) }))
      (s.applyWait rid i a).applyHeld rid n
    | _, _ => s

/-! ## Start and end of a run -/

/-- A node of the run is running. -/
def Run.busy (r : Run) : Bool := r.nodes.any (fun ns => ns.stage == .running)

/-- A node of the run could still be dispatched or waits for its arm (R63, R81). -/
def Run.open_ (r : Run) : Bool :=
  r.nodes.any (fun ns => (ns.stage == .ready && (!r.endDone || ns.dispatched)) || (ns.stage == .active && !r.endDone))

/-- The run has come to its end (R81); not while it is cut. -/
def Run.done (r : Run) : Bool := (r.stage == .active || r.stage == .ended) && r.cut.isNone && !r.busy && !r.open_

/-- A fresh run (R76). -/
def Flight.newRun (f : Flight) (id fn order tick : Nat) (a : ArmWrite) : Run :=
  { id := id, fn := fn, flight := f.id, arm := a, armTick := tick, order := order
    args := armOver a (List.replicate 12 0), conds := List.replicate 64 0
    nodes := f.nodes.map (fun n => n.fresh tick 0), endDone := false, commits := 0, lastNode := 0xFFFF, images := []
    stage := .active, cut := none, cutClass := 0, cutTick := 0, retryAt := none, saved := [], engines := [], heldTraps := [], tapes := []
    arrays := [], writes := [], flying := [], cellReleases := [], nextWid := id * 2 ^ 64 + 1, widNodes := [], confined := [], gained := []
    known := [], torn := [], basin := 0
    blockedSince := none, committedWrites := [], shares := [], areas := [] }

/-- A run joins the package; it owns the flight's held arms of no run, and the kept image is gone (R56, R63). A system-wide run
of a package without identity faults (R87). -/
def State.addRun (s : State) (f : Flight) (r : Run) : State :=
  let s := { s with runs := s.runs ++ [r], nextRun := s.nextRun + 1 }
  let s := s.mapFn r.fn (fun fn => fn.mapFlight r.flight (fun fl =>
    { fl with kept := none
              heldWaits := fl.heldWaits.map (fun w => if w.2.2.isNone then (w.1, w.2.1, some r.id) else w) }))
  if f.sysJob != 0 && !s.sysSelf.getLsbD 31 then s.faultRun r.id 0x39 else s.applyHeld r.id f.heldWaits.length

/-- The oldest queued start arm of a flight begins a run, when none is active and no image is kept (R56, R63, R81). -/
def State.startNext (s : State) (fn flight : Nat) : State :=
  match (s.fnAt fn).bind (fun f => f.flightAt flight) with
  | none => s
  | some f =>
    if (s.activeRun fn flight).isSome || f.kept.isSome then s
    else
      match f.queue with
      | [] => s
      | (order, a) :: rest =>
        let s := s.mapFn fn (fun x => x.mapFlight flight (fun fl => { fl with queue := rest }))
        s.addRun f (f.newRun s.nextRun fn order s.pcyc a)

/-- Held arms of a run that ends pass to the next run (R56). -/
def Flight.passArms (f : Flight) (rid : Nat) : Flight :=
  { f with heldWaits := f.heldWaits.map (fun w => if w.2.2 == some rid then (w.1, w.2.1, none) else w) }

/-- A run that has come to its end writes its record and goes; the next queued one begins. While no place is free for the
record the end stays incomplete (R60, R81); the record is made, and stamped, when a place frees (log 68). -/
def State.endRun (s : State) (rid : Nat) : State :=
  match s.runAt rid with
  | none => s
  | some r =>
    if !r.done then s
    else
      match s.fnAt r.fn with
      | none => s
      | some f =>
        if !f.roomFor then s.mapRun rid (fun r => { r with stage := .ended })
        else
          let s := s.post r.fn (s.runRec r 2 0 r.lastNode (BitVec.ofNat 32 r.commits))
          let s := s.mapFn r.fn (fun f => f.mapFlight r.flight (fun fl => fl.passArms rid))
          (s.dropRun r).startNext r.fn r.flight

/-- After a commit or a start: held arms, then the run's end; a next run's start may end at once too. -/
def State.settle (s : State) (rid : Nat) : State :=
  let n := (((s.runAt rid).bind s.flightOf).map (fun f => f.heldWaits.length)).getD 0
  (s.applyHeld rid n).endRun rid

/-- Runs of a function that have ended and wait for a place for their record (R60). -/
def State.endWaiting (s : State) (fn : Nat) : State :=
  (s.runs.filter (fun r => r.fn == fn && r.stage == .ended)).foldl (fun s r => s.endRun r.id) s

/-- What a resumed run has of its tapes: of a tape that only committed nodes have written, all of it (R62), with the records freed that
any consumer has freed (log 81). Of another the contents are undefined: the appends of an append tape may or may not count (log 2), and a
stream tape is empty. Basin space has been returned (R93). -/
def State.keptTapes (s : State) (f : Flight) (ts : List TapeState) : State × List TapeState :=
  ts.foldl (fun x t =>
    if t.by_.isEmpty then (x.1, x.2 ++ [{ t with window := 0 }])
    else if ((s.dir f t.id).map Dir.attr) == some attrStream then x
    else
      ({ x.1 with free := x.1.free + 1 },
       x.2 ++ [{ t with by_ := [], fresh := [], fill := (Config.freeValue x.1.free).toNat % (t.fill + 1), freed := 0, window := 0 }])) (s, [])

/-- A cell array of a faulted run takes slots again (R366), which it gave back at the fault (R173); one whose vault lacks them is not
configured (log 61). -/
def State.retake (s : State) (r : Run) (fn : Fn) (a : CellArray) : State :=
  match s.takeSlots r fn 0 a.id a.desc with
  | none => s
  | some t => t.mapRun r.id (fun r => { r with arrays := r.arrays.map (fun x =>
      if x.id == a.id then { x with desc := a.desc, cells := a.cells, by_ := [] } else x) })

/-- The cell arrays that a resumed run has: those kept that find slots (R62), which are zero in storage until they go back. -/
def State.keptArrays (s : State) (r : Run) (as : List CellArray) : State × List CellArray :=
  match s.fnAt r.fn with
  | none => (s, [])
  | some fn =>
    let t := as.foldl (fun s a => s.retake r fn a) { s with runs := s.runs ++ [r] }
    ({ t with runs := s.runs }, ((t.runAt r.id).map Run.arrays).getD [])

/-- A faulted run goes on from a commit image (R63): its last commit is that image's, and the other images that were kept go with the
arm that is accepted (log 63). -/
def State.resumeRun (s : State) (fn : Nat) (f : Flight) (k : Kept) (im : CommitImage) : State :=
  let x := s.keptTapes f k.tapes
  let s := x.1
  let fresh := f.newRun s.nextRun fn k.order s.pcyc k.arm
  let y := s.keptArrays fresh k.arrays
  let node (i : Nat) (n : Node) : NodeState :=
    let c := im.counters.getD i 0
    let sent := im.dispatched.getD i false
    let com := im.committed.getD i false
    let base : NodeState := { n.fresh s.pcyc (im.iterations.getD i 0) with counter := c, dispatched := sent, committed := com }
    let again : NodeStage :=
      if im.endDone then (if sent && !com then .ready else .waiting)
      else if com && n.kind != .wait then .waiting else n.stageAt c
    { base with stage := again }
  y.1.addRun f { fresh with
    arrays := y.2
    args := im.args, conds := im.conds, endDone := im.endDone, commits := k.commits, lastNode := BitVec.ofNat 16 im.node, images := [im]
    tapes := x.2, torn := k.torn, nodes := f.nodes.zipIdx.map (fun y => node y.2 y.1) }

/-! ## Dispatch order (R91, R92, Table 4.7) -/

/-- A node's class before ageing (R91). -/
def Run.classOf (r : Run) (f : Flight) (n : Node) : Nat :=
  if n.useClass then n.cls else if r.arm.flags.getLsbD 2 then (fld r.arm.flags 0 2).toNat else f.defClass

/-- The effective class of a ready node. -/
def Run.effClass (r : Run) (f : Flight) (n : Node) (ns : NodeState) : Nat := r.classOf f n - ns.aged

/-- The dispatch key: class, tick, order, index. -/
abbrev Key := Nat × Nat × Nat × Nat

def Key.before (a b : Key) : Bool :=
  a.1 < b.1 || (a.1 == b.1 && (a.2.1 < b.2.1 || (a.2.1 == b.2.1 &&
    (a.2.2.1 < b.2.2.1 || (a.2.2.1 == b.2.2.1 && a.2.2.2 < b.2.2.2)))))

/-- The run dispatches nodes: it is not cutting (Table 5.1 step 1), holds no trap for the hypervisor (R112), and its function's
record buffer has room (R60). -/
def State.dispatches (s : State) (r : Run) : Bool :=
  r.stage == .active && r.cut.isNone && r.heldTraps.isEmpty && ((s.fnAt r.fn).map Fn.roomFor).getD false

/-- A while node's loop range has a running node (R79). -/
def Run.rangeRuns (r : Run) (n : Node) : Bool :=
  r.nodes.zipIdx.any (fun x => n.loopFirst ≤ x.2 && x.2 ≤ n.loopLast && x.1.stage == .running)

end Sys2Proof.Machine
end

