-- ==== Sys2Proof/Machine/Place.lean ====
section
/-! DEFINITION. Dispatch (R91, R92, Table 4.7): placing a kernel node (R85 to R87, R103), its tasks (R83, R84, R294), the nodes that
the landing evaluates itself (R79, R80), commits (R62, R84, R90), the arms (R54 to R57, R63), and the job faults and shares
of other packages (R87). -/

namespace Sys2Proof.Machine

/-! ## Choosing cores and lines (R85, R103) -/

/-- A core has been placed for a node whose tasks have yet to start (R87). -/
def State.reserved (s : State) (c : Nat) : Bool := s.runs.any (fun r => r.nodes.any (fun ns => ns.placing.isSome && ns.cores.contains c))

/-- Cores of the function that hold no task, ascending. -/
def State.freeCores (s : State) (fn : Fn) : List Nat := fn.cores.filter (fun c => !s.cores.any (fun k => k.no == c) && !s.reserved c)

/-- Cores the node occupies. -/
def Node.width (n : Node) (fn : Fn) : Nat := if n.nCore = 0 then fn.cores.length else n.nCore

/-- The domains a node names, with their descriptors. -/
def Flight.used (f : Flight) (n : Node) : List (Nat × DomDesc) :=
  (List.range 4).filterMap (fun d => if n.domUse.getLsbD d then some (d, f.dom.getD d ⟨0, 0⟩) else none)

/-- Cores by R85 from a list of free ones: whole halls first for sixteen or more, else in ascending order. -/
def pickCores (free : List Nat) (n : Nat) : Option (List Nat) :=
  if free.length < n then none
  else if n < 16 then some (free.take n)
  else
    let whole := ((free.map hallOf).eraseDups.filter (fun h => (free.filter (fun c => hallOf c == h)).length == 16)).take (n / 16)
    let first := free.filter (fun c => whole.contains (hallOf c))
    let rest := (free.filter (fun c => !first.contains c)).take (n - first.length)
    some (unionNat rest first)

/-- The choice for a node: a domain of level 1 keeps it in the lowest hall, one of level 2 in the lowest die, that has room. -/
def Flight.choose (f : Flight) (fn : Fn) (n : Node) (free : List Nat) : Option (List Nat) :=
  let levels := (f.used n).map (fun x => x.2.level)
  let w := n.width fn
  if levels.contains 1 then fn.halls.findSome? (fun h => pickCores (free.filter (fun c => hallOf c == h)) w)
  else if levels.contains 2 then [0, 1, 2, 3].findSome? (fun d => pickCores (free.filter (fun c => dieOf (hallOf c) == d)) w)
  else pickCores free w

/-- The handrail lines that are free (R132). -/
def State.freeLines (s : State) : List Nat := (List.range 64).filter (fun n => !s.lines.any (fun l => l.no == n))

/-- The context area of a node of `w` cores (R103): images, engine contexts, run state. -/
def areaSize (w : Nat) : Nat := w * 524288 + 8 * w * 65536 + 16384

/-- Bytes of the function's quota not reserved. -/
def State.quotaLeft (s : State) (fn : Fn) : Nat :=
  fn.quota * 2097152 - s.runs.foldl (fun n r => if r.fn == fn.no then r.areas.foldl (fun n a => n + a.2) n else n) 0

/-- The node's area is reserved or can be. -/
def State.areaReady (s : State) (fn : Fn) (r : Run) (i w : Nat) : Bool :=
  r.areas.any (fun a => a.1 == i) || decide (areaSize w ≤ s.quotaLeft fn)

/-- The domain has members on other packages (R87). -/
def Flight.spans (f : Flight) (x : Nat × DomDesc) : Bool := f.sysJob != 0 && x.2.level == 4 && decide (1 < f.nPkg)

/-- The share exchange of a domain is done, or there is no other package (R87). -/
def Run.shared (r : Run) (f : Flight) (i : Nat) (x : Nat × DomDesc) : Bool :=
  !f.spans x || r.shares.any (fun y => y.1 == i && y.2.1 == x.1)

/-- Members on packages of lower index (R87). -/
def Run.membersBefore (r : Run) (i d : Nat) : Nat :=
  ((r.shares.find? (fun y => y.1 == i && y.2.1 == d)).map (fun y => y.2.2.1)).getD 0

/-! ## Dispatch faults (R86, R87) -/

/-- The most cores of the function that a domain level can hold together. -/
def Fn.levelCores (fn : Fn) (level : Nat) : Nat :=
  if level = 1 then min 16 fn.cores.length
  else if level = 2 then ([0, 1, 2, 3].map (fun d => (fn.cores.filter (fun c => dieOf (hallOf c) == d)).length)).foldl max 0
  else fn.cores.length

/-- A word of feature bits is available to the function (R67). -/
def State.hasFeatures (s : State) (fn : Fn) (req : W32) : Bool := req &&& ~~~(s.features fn.no) == 0

/-- The cause of the fault that dispatching a kernel node gives, if it does. -/
def State.placeFault (s : State) (fn : Fn) (f : Flight) (n : Node) : Option Nat :=
  let w := n.width fn
  let us := f.used n
  if fn.cores.length < w || us.any (fun x => decide (fn.levelCores x.2.level < w)) then some 0x34
  else if us.any (fun x => x.2.level != 4 && x.2.members != w) then some 0x34
  else if !s.hasFeatures fn n.featReq then some 0x31
  else none

/-- A node of a system-wide flight needs feature bit 7 (R87). -/
def State.nodeFault (s : State) (fn : Fn) (f : Flight) (n : Node) : Option Nat :=
  if f.sysJob != 0 && !s.hasFeatures fn 0x80 then some 0x31
  else if n.kind == .kernel then s.placeFault fn f n else none

/-! ## What is dispatched next -/

/-- A transition into P2 or P3 is in progress: no core starts work (R40, R41). -/
def Power.goingDown (p : Power) : Bool :=
  match p.busy with
  | some (t, _, _) => t == .p2 || t == .p3
  | none => false

/-- A transition into P3 is in progress: the jobs run on to their cuts (R41). -/
def Power.cutting (p : Power) : Bool :=
  match p.busy with
  | some (t, _, _) => t == .p3
  | none => false

/-- The engines take new commands: in P2, and on entry to it, they wait (R218). -/
def State.enginesRun (s : State) : Bool :=
  match s.power.state with
  | .p0 => !s.power.goingDown || s.power.cutting
  | .p1 => !s.power.goingDown || s.power.cutting
  | .p2 => s.power.cutting
  | _ => false

/-- The arithmetic clock runs (Table 2.5a), and goes on running: cores can start work. -/
def State.awake (s : State) : Bool :=
  (s.power.state == .p0 || s.power.state == .p1) && !s.power.goingDown

/-- A kernel node can be placed now. A handler task that waits for a core goes first (R111). -/
def State.placeable (s : State) (fn : Fn) (f : Flight) (r : Run) (i : Nat) (n : Node) : Bool :=
  s.awake && fn.handlers.isEmpty && (f.choose fn n (s.freeCores fn)).isSome &&
  decide ((f.used n).length ≤ s.freeLines.length) && s.areaReady fn r i (n.width fn)

/-- Node `i` of the run can be dispatched now: it is ready, and it faults or can be evaluated, issued or placed. -/
def State.canDispatch (s : State) (r : Run) (i : Nat) : Bool :=
  match s.fnAt r.fn, s.flightOf r with
  | some fn, some f =>
    (match f.nodes[i]?, r.nodes[i]? with
     | some n, some ns =>
       s.dispatches r && ns.stage == .ready && (!r.endDone || ns.dispatched) &&
       ((s.nodeFault fn f n).isSome ||
        (match n.kind with
         | .kernel => s.placeable fn f r i n
         | .while_ => !r.rangeRuns n
         | .wait => false
         | _ => true))
     | _, _ => false)
  | _, _ => false

/-- Nodes of a cut run that were running when it was cut (R108). -/
def Run.cutNodes (r : Run) : List Nat := (List.range r.nodes.length).filter (fun i => ((r.nodes[i]?).map NodeState.stage) == some .running)

/-- Cores for several nodes together, in order. -/
def Flight.chooseAll (f : Flight) (fn : Fn) : List Node → List Nat → Option (List (List Nat))
  | [], _ => some []
  | n :: rest, free =>
    if n.kind != .kernel then (f.chooseAll fn rest free).map (fun l => [] :: l)
    else
      match f.choose fn n free with
      | none => none
      | some cs => (f.chooseAll fn rest (free.filter (fun c => !cs.contains c))).map (fun l => cs :: l)

/-- The cut nodes' records. -/
def Run.cutRecords (r : Run) (f : Flight) : List Node := r.cutNodes.filterMap (fun i => f.nodes[i]?)

/-- A cut run lacks a feature its code needs (R108 step 1). -/
def State.resumeFault (s : State) (fn : Fn) (f : Flight) (r : Run) : Bool :=
  (r.cutRecords f).any (fun n => !s.hasFeatures fn n.featReq)

/-- A cut run can be placed now: what it released is at its home (R211), there are cores for all its cut nodes together, and their lines. -/
def State.canResume (s : State) (r : Run) : Bool :=
  match s.fnAt r.fn, s.flightOf r with
  | some fn, some f =>
    r.stage == .cutOut && r.heldTraps.isEmpty && r.flying.isEmpty && fn.roomFor && s.awake &&
    (s.resumeFault fn f r ||
     (fn.handlers.isEmpty && (f.chooseAll fn (r.cutRecords f) (s.freeCores fn)).isSome &&
      decide (((r.cutRecords f).map (fun n => (f.used n).length)).foldl (· + ·) 0 ≤ s.freeLines.length)))
  | _, _ => false

/-- The dispatch key of a ready node. -/
def State.nodeKey (s : State) (r : Run) (i : Nat) : Key :=
  match s.flightOf r with
  | none => (0, 0, 0, 0)
  | some f =>
    match f.nodes[i]?, r.nodes[i]? with
    | some n, some ns => (r.effClass f n ns, ns.readyTick, r.order, i)
    | _, _ => (0, 0, 0, 0)

/-- The dispatch key of a cut run (R92): its class ages from the tick of the cut. -/
def State.cutKey (s : State) (r : Run) : Key :=
  (r.cutClass - (s.pcyc - r.cutTick) / Config.ageing, r.cutTick, r.order, r.cutNodes.headD 0)

/-- The keys of what a function could dispatch now. -/
def State.dispatchKeys (s : State) (fn : Nat) : List Key :=
  s.runs.flatMap (fun r =>
    if r.fn != fn then []
    else if r.stage == .cutOut then (if s.canResume r then [s.cutKey r] else [])
    else ((List.range r.nodes.length).filter (s.canDispatch r)).map (s.nodeKey r))

/-- Nothing that can be dispatched stands before this key (Table 4.7). -/
def State.leads (s : State) (fn : Nat) (k : Key) : Bool := (s.dispatchKeys fn).all (fun x => !x.before k)

/-- Node `i` of run `rid` is what the landing dispatches next for its function. -/
def State.mayDispatch (s : State) (rid i : Nat) : Option (Run × Fn × Flight × Node) :=
  match s.runAt rid with
  | none => none
  | some r =>
    match s.fnAt r.fn, s.flightOf r with
    | some fn, some f =>
      (match f.nodes[i]? with
       | none => none
       | some n => if s.canDispatch r i && s.leads r.fn (s.nodeKey r i) then some (r, fn, f, n) else none)
    | _, _ => none

/-! ## Tasks (R83, R84) -/

/-- s1 to s7 of a task: its tile and the argument block in pairs. -/
def taskRegs (tile : W64) (args : List W32) : List (Nat × W64) :=
  (1, tile) :: (List.range 6).map (fun k => (k + 2, (args.getD (2 * k + 1) 0).setWidth 64 <<< 32 ||| (args.getD (2 * k) 0).setWidth 64))

/-- The eight engine contexts of a task on core `c`, numbered from `id` (R216). -/
def taskContexts (id run node c : Nat) : List Context :=
  (List.range 8).map (fun tl => { id := id + tl, run := run, node := node, core := some c, ended := false, tl := tl, counter := 0
                                  last := 0, step := 0, lastStep := 0, queue := [], collSeq := [0, 0, 0, 0], done := [] })

/-- A task starts on core `c` (R83): its first phase has what commits have brought and what the core's earlier tasks of the run knew
(R204, R207, R396). -/
def State.startTask (s : State) (r : Run) (fn : Fn) (i c : Nat) (pc dict : W64) (regs : List (Nat × W64)) (dom : List W32)
    (coll : List Nat) (handler : Option Nat) : State :=
  let kn := ((s.coreAt c).map Core.knows).getD (r.knowing c)
  let k := Core.start c r.id i (Arch.start pc dict regs) s.gens (fn.coreIdOf c) dom (unionNat r.committedWrites kn.reached)
  let k := { k with collSeq := coll, handlerOf := handler, published := kn.published, acquired := kn.acquired, cellAdds := kn.cellAdds }
  let s := (s.unwalk c none).addCore k
  { s with gens := s.gens + 4, nextContext := s.nextContext + 8
           contexts := s.contexts ++ taskContexts s.nextContext r.id i c }

/-- A core receives its next tile and starts a task (R82, R84). -/
def State.nextTask (s : State) (rid i c pick : Nat) (dom : List W32) (coll : List Nat) : State :=
  let x := s.handTile rid i pick
  match x.1.runAt rid with
  | none => s
  | some r =>
    match x.1.fnAt r.fn, x.1.flightOf r with
    | some fn, some f =>
      (match f.nodes[i]? with
       | none => s
       | some n => x.1.startTask r fn i c n.codeVa n.dictVa (taskRegs x.2 r.args) dom coll none)
    | _, _ => s

/-- %dom of the member of rank `j` (Table 6.5). -/
def domWord (level line rank : Nat) : W32 := BitVec.ofNat 32 (level * 2 ^ 29 + 2 ^ 28 + line * 2 ^ 22 + rank)

/-- The four %dom words of a placed core. -/
def Run.domWords (r : Run) (i j : Nat) (us : List ((Nat × DomDesc) × Nat)) : List W32 :=
  (List.range 4).map (fun d =>
    match us.find? (fun u => u.1.1 == d) with
    | none => 0
    | some u => domWord u.1.2.level u.2 (r.membersBefore i d + j))

/-- The lines a node takes: the lowest free ones, one for each domain in order (R132). -/
def State.linesFor (s : State) (f : Flight) (n : Node) : List ((Nat × DomDesc) × Nat) := (f.used n).zip s.freeLines

/-- The node's lines with their members. -/
def State.takeLines (s : State) (rid i : Nat) (us : List ((Nat × DomDesc) × Nat)) (cores : List Nat) : State :=
  { s with lines := s.lines ++ us.map (fun u =>
      { no := u.2, run := rid, node := i, dom := u.1.1, level := u.1.2.level, members := cores, raised := [], carried := []
        ended := [], trueTick := none, remote := false }) }

/-- A node begins to run: it has been dispatched. -/
def State.beginNode (s : State) (rid i : Nat) (cores : List Nat) : State :=
  s.mapRun rid (fun r => r.mapNode i (fun ns => { ns with stage := .running, dispatched := true, handed := [], cmds := 0, cores := cores }))

/-- The lines that a placed node holds, with the domains they stand for. -/
def State.nodeLines (s : State) (rid i : Nat) (f : Flight) (n : Node) : List ((Nat × DomDesc) × Nat) :=
  (f.used n).filterMap (fun x => (s.lines.find? (fun l => l.run == rid && l.node == i && l.dom == x.1)).map (fun l => (x, l.no)))

/-- Every core of a placed node starts its first task, all on one tick (R85). -/
def State.startTasks (s : State) (r : Run) (i : Nat) (us : List ((Nat × DomDesc) × Nat)) (cores pick : List Nat) : State :=
  cores.zipIdx.foldl (fun s c => s.nextTask r.id i c.1 (pick.getD c.2 0) (r.domWords i c.2 us) [0, 0, 0, 0]) s

/-- A level-4 domain of a flight that no other package shares has other members than the node places (R86). -/
def Flight.miscounts (f : Flight) (fn : Fn) (n : Node) : Bool :=
  (f.used n).any (fun x => x.2.level == 4 && !f.spans x && x.2.members != n.width fn)

/-- A kernel node is placed (R85): its lines, its area, and a first task on every core. A node with a domain on other packages tells
them its shares, and its tasks start once theirs have come (R86, R87). -/
def State.placeNode (s : State) (r : Run) (fn : Fn) (f : Flight) (n : Node) (i : Nat) (cores pick : List Nat) : State :=
  let us := s.linesFor f n
  let far := (f.used n).filter f.spans
  let s := (s.takeLines r.id i us cores).beginNode r.id i cores
  let s := s.mapRun r.id (fun r =>
    { r with areas := if r.areas.any (fun a => a.1 == i) then r.areas else r.areas ++ [(i, areaSize (n.width fn))]
             shares := r.shares.filter (fun x => x.1 != i) })
  if far.isEmpty then (if f.miscounts fn n then s.faultRun r.id 0x34 else s.startTasks r i us cores pick)
  else far.foldl (fun s _ => s.report r.id 3) (s.mapRun r.id (fun r => r.mapNode i (fun ns => { ns with placing := some pick })))

/-- KERNEL_NODE_PLACE (R85, R86): the cores are R85's; which tile each receives is open (R82). -/
def execKernelNodePlace (run node : Nat) (pick : List Nat) (s : State) : Out :=
  match s.mayDispatch run node with
  | none => .next s
  | some (r, fn, f, n) =>
    if n.kind != .kernel then .next s
    else
      match s.nodeFault fn f n with
      | some c => .next (s.faultRun run c)
      | none =>
        match f.choose fn n (s.freeCores fn) with
        | none => .next s
        | some cores => .next (s.placeNode r fn f n node cores pick)

/-- A tile of the node remains. -/
def State.tilesLeft (s : State) (rid i : Nat) : Bool :=
  match s.runAt rid with
  | none => false
  | some r =>
    match ((s.flightOf r).bind (fun f => f.nodes[i]?)), r.nodes[i]? with
    | some n, some ns => decide (ns.handed.length < n.tileCount)
    | _, _ => false

/-- The node is persistent: its cores run one task each (R84). -/
def State.persistent (s : State) (rid i : Nat) : Bool :=
  (((s.runAt rid).bind s.flightOf).bind (fun f => f.nodes[i]?)).elim false Node.persistent

/-- The run gives its cores new tiles: it is not being cut (Table 5.1 step 1). -/
def State.handsTiles (s : State) (rid : Nat) : Bool := ((s.runAt rid).map (fun r => r.cut.isNone)).getD false

/-- The function has every feature that the node requires (R86). -/
def State.nodeFeatures (s : State) (rid node : Nat) : Bool :=
  match s.runAt rid with
  | none => false
  | some r =>
    match s.fnAt r.fn, s.flightOf r with
    | some fn, some f => s.hasFeatures fn ((f.nodes[node]?).map Node.featReq |>.getD 0)
    | _, _ => false

/-- NEXT_TASK_START (R84): a core that has ended its task receives the next tile in a new one; with none left it is free. No task
starts while a feature that the node requires is masked (R86; log 41). -/
def execNextTaskStart (core pick : Nat) (s : State) : Out :=
  match s.coreAt core with
  | none => .next s
  | some k =>
    if k.stage != .idle || !s.awake || !s.handsTiles k.run then .next s
    else if !s.tilesLeft k.run k.node then .next ((s.mapRun k.run (fun r => r.learn k.knows)).dropCore core)
    else
      if !s.nodeFeatures k.run k.node then .next s
      else
      let s := { s with lines := s.lines.map (fun (l : Line) =>
        if l.run == k.run && l.node == k.node then ({ l with ended := l.ended.filter (fun c => c != core) } : Line) else l) }
      .next (s.nextTask k.run k.node core pick k.dom k.collSeq)

/-! ## The end of a task (R111, R133, R294) -/

/-- The contexts of a task that ends: their outstanding commands continue, and its counts of collectives stay with them (R224, R230). -/
def State.endContexts (s : State) (rid c : Nat) : State :=
  { s with contexts := (s.contexts.map (fun (x : Context) =>
      if x.run == rid && x.core == some c && !x.ended then
        ({ x with ended := true, collSeq := ((s.coreAt c).map Core.collSeq).getD x.collSeq } : Context)
      else x)).filter (fun x => !x.ended || !x.queue.isEmpty) }

/-- A handler's outcome (R111): 0 restarts the trapped core, any other value is a job fault with the trapped code. -/
def State.handlerOutcome (s : State) (c : Nat) (v : W64) : State :=
  match s.coreAt c with
  | none => s
  | some k =>
    match k.stage with
    | .trapped r _ => if v = 0 then s.setCore k.restart else s.faultRun k.run r.code
    | _ => s

/-- The task of core `k` ends. -/
def State.endTask (s : State) (k : Core) (s1 : W64) : State :=
  let s := (s.endContexts k.run k.no).mapRun k.run (fun r =>
    let r := r.learn k.knows
    if k.wrote then r.gain k.node (r.boundaryOf k 2).phase else r)
  match k.handlerOf with
  | some c => (s.dropCore k.no).handlerOutcome c s1
  | none =>
    let s := { s with lines := s.lines.map (fun (l : Line) =>
      if l.run == k.run && l.node == k.node && l.members.contains k.no then ({ l with ended := insertNat k.no l.ended } : Line) else l) }
    if s.tilesLeft k.run k.node && !s.persistent k.run k.node then
      s.setCore { k with stage := .idle, asks := [], stops := [] }
    else s.dropCore k.no

/-- TASK_END (R294): every result has landed. -/
def execTaskEnd (core : Nat) (s : State) : Out :=
  match s.coreAt core with
  | none => .next s
  | some k =>
    match k.stage with
    | .halting s1 => if k.toLand.isEmpty && k.stops.isEmpty then .next ((s.endTask k s1).passTurn core) else .next s
    | _ => .next s

/-! ## Commits (R62, R84, R90) -/

/-- All of a node's work is done: tiles handed out and tasks ended, held work at its home, commands completed. -/
def State.nodeDone (s : State) (r : Run) (n : Node) (ns : NodeState) (i : Nat) : Bool :=
  match n.kind with
  | .kernel =>
    ns.handed.length == n.tileCount && !s.cores.any (fun k => k.run == r.id && k.node == i) &&
    !s.contexts.any (fun x => x.run == r.id && x.node == i && x.core.isSome && !x.queue.isEmpty) &&
    r.flying.all (fun x => match x with
      | .tape w => !(r.nodeWrites i).contains w.wid
      | .cell w _ _ => !(r.nodeWrites i).contains w)
  | .transform => ns.cmds == n.nCmd && ns.handed.isEmpty
  | _ => false

/-- NODE_COMMIT (R62, R84, R90): a running kernel or transform node commits and takes all its successors (R77). While
the run is being cut the commit waits (the model's choice, log 105). -/
def execNodeCommit (run node : Nat) (s : State) : Out :=
  match s.runAt run with
  | none => .next s
  | some r =>
    match ((s.flightOf r).bind (fun f => f.nodes[node]?)), r.nodes[node]? with
    | some n, some ns =>
      if ns.stage == .running && r.stage == .active && r.cut.isNone && s.nodeDone r n ns node then
        .next ((s.commitNode run node (List.range 8) true).settle run)
      else .next s
    | _, _ => .next s

/-! ## Nodes the landing evaluates (R79, R80) -/

/-- A node's test (R79). -/
def Run.test (r : Run) (n : Node) : Bool := r.conds.getD n.condNo 0 &&& n.condMask != 0

/-- CONDITIONAL_NODE_EVAL (R79). -/
def execConditionalNodeEval (run node : Nat) (s : State) : Out :=
  match s.mayDispatch run node with
  | none => .next s
  | some (r, fn, f, n) =>
    if n.kind != .conditional then .next s
    else
      match s.nodeFault fn f n with
      | some c => .next (s.faultRun run c)
      | none =>
        .next (((s.beginNode run node []).commitNode run node (if r.test n then [0, 1, 2, 3] else [4, 5, 6, 7]) true).settle run)

/-- Every node of a loop range has its counter reset (R79). -/
def Run.resetRange (r : Run) (f : Flight) (n : Node) (tick : Nat) : Run :=
  { r with nodes := r.nodes.zipIdx.map (fun x =>
      if n.loopFirst ≤ x.2 && x.2 ≤ n.loopLast then
        match f.nodes[x.2]? with
        | some m => m.fresh tick x.1.iterations
        | none => x.1
      else x.1) }

/-- A true outcome of a while node: one iteration, the reset, then the successors (R79). -/
def State.loopAgain (s : State) (r : Run) (f : Flight) (n : Node) (i : Nat) : State :=
  let its := ((r.nodes[i]?).map NodeState.iterations).getD 0 + 1
  if n.maxIter < its then s.faultRun r.id 0x30
  else
    let s := s.mapRun r.id (fun r => (r.mapNode i (fun ns => { ns with iterations := its })).resetRange f n s.pcyc)
    (s.commitNode r.id i [0, 1, 2, 3] false).settle r.id

/-- WHILE_NODE_EVAL (R79). -/
def execWhileNodeEval (run node : Nat) (s : State) : Out :=
  match s.mayDispatch run node with
  | none => .next s
  | some (r, fn, f, n) =>
    if n.kind != .while_ then .next s
    else
      match s.nodeFault fn f n with
      | some c => .next (s.faultRun run c)
      | none =>
        if r.test n then .next (s.loopAgain r f n node)
        else .next (((s.beginNode run node []).commitNode run node [4, 5, 6, 7] true).settle run)

/-- NOTIFY_NODE_DISPATCH (R80): its record has a place (R60), so it is written and the node commits. -/
def execNotifyNodeDispatch (run node : Nat) (s : State) : Out :=
  match s.mayDispatch run node with
  | none => .next s
  | some (r, fn, f, n) =>
    if n.kind != .notify then .next s
    else
      match s.nodeFault fn f n with
      | some c => .next (s.faultRun run c)
      | none =>
        let v := if n.fromCond then r.conds.getD n.condNo 0 else n.value
        let s := (s.beginNode run node []).post r.fn (s.runRec r 1 0 (BitVec.ofNat 16 node) v)
        .next ((s.commitNode run node (List.range 8) true).settle run)

/-- AGEING_TIMER (R91): one step of a ready node's effective class. -/
def State.agesNow (s : State) (r : Run) (i : Nat) : Bool :=
  match s.flightOf r with
  | none => false
  | some f =>
    match f.nodes[i]?, r.nodes[i]? with
    | some n, some ns =>
      ns.stage == .ready && decide (0 < r.effClass f n ns) && decide (ns.readyTick + Config.ageing * (ns.aged + 1) ≤ s.pcyc)
    | _, _ => false

/-- AGEING_TIMER (R91). -/
def execAgeingTimer (run node : Nat) (s : State) : Out :=
  match s.runAt run with
  | none => .next s
  | some r =>
    if s.agesNow r node then .next (s.mapRun run (fun r => r.mapNode node (fun ns => { ns with aged := ns.aged + 1 })))
    else .next s

/-! ## System-wide jobs (R87) -/

/-- The shares of one domain of a placed node have come: the tasks start when no domain lacks its own. -/
def State.takeShare (s : State) (rid : Nat) (f : Flight) (n : Node) (node dom before after : Nat) (cores pick : List Nat) : State :=
  let s := s.mapRun rid (fun r =>
    { r with shares := r.shares.filter (fun x => !(x.1 == node && x.2.1 == dom)) ++ [(node, dom, before, after)] })
  match s.runAt rid with
  | none => s
  | some r =>
    if (f.used n).all (r.shared f node) then
      (s.mapRun rid (fun r => r.mapNode node (fun ns => { ns with placing := none }))).startTasks r node (s.nodeLines rid node f n) cores pick
    else s

/-- DOMAIN_SHARE_EXCHANGE (R86, R87): the members that the other packages have placed of a level-4 domain of a placed node. n_members
must be the sum. While cores start no work, the exchange waits. -/
def execDomainShareExchange (run node dom before after : Nat) (s : State) : Out :=
  match s.runAt run with
  | none => .next s
  | some r =>
    match s.fnAt r.fn, s.flightOf r with
    | some fn, some f =>
      (match f.nodes[node]?, r.nodes[node]? with
       | some n, some ns =>
         let d := f.dom.getD dom ⟨0, 0⟩
         match ns.placing with
         | none => .next s
         | some pick =>
           if !n.domUse.getLsbD dom || !f.spans (dom, d) then .next s
           else if !s.awake || r.cut.isSome || !s.hasFeatures fn n.featReq then
             .next { s with agenda := s.agenda ++ [(s.pcyc + 1, .domainShareExchange run node dom before after)] }
           else if d.members != before + n.width fn + after then .next (s.faultRun run 0x34)
           else .next (s.takeShare run f n node dom before after ns.cores pick)
       | _, _ => .next s)
    | _, _ => .next s

/-- REMOTE_JOB_FAULT (R87). -/
def execRemoteJobFault (run : Nat) (s : State) : Out :=
  match (s.runAt run).bind s.flightOf with
  | none => .next s
  | some f => if f.sysJob != 0 then .next (s.faultRun run 0x3A) else .next s

/-! ## Arms (R54 to R57, R63) -/

/-- last_seq of a slot (R55). -/
def Fn.seqOf (f : Fn) (slot : Nat) : BitVec 48 := ((f.lastSeq.find? (fun x => x.1 == slot)).map Prod.snd).getD 0
def Fn.setSeq (f : Fn) (slot : Nat) (v : BitVec 48) : Fn := { f with lastSeq := (slot, v) :: f.lastSeq.filter (fun x => x.1 != slot) }

/-- An arm's resume flag (Table 3.3). -/
def resumeBit (w : ArmWrite) : Bool := w.flags.getLsbD 3

/-- The record of a job fault of the flight waits in the landing: the fault is not complete (R60). -/
def Fn.faultWaits (f : Fn) (flight : Nat) : Bool := f.waiting.any (fun r => r.kind == 3 && r.flight.toNat == flight)

/-- The refusal of an arm, tested in the order of Table 3.4. A faulted run can be resumed once its fault is complete (R60). -/
def Fn.refusal (f : Fn) (w : ArmWrite) (node : W16) : Option Nat :=
  if !w.whole then some 1
  else if w.reserved != 0 || decide (12 < w.nArg.toNat) || decide (16 ≤ w.flags.toNat) || decide (1024 ≤ w.flightId.toNat) then some 2
  else if decide (w.hostSeq.toNat ≤ (f.seqOf w.slot).toNat) then some 3
  else
    match f.flightAt w.flightId.toNat with
    | none => some 4
    | some fl =>
      let ok : Bool := if resumeBit w then !f.faultWaits fl.id && (fl.kept.map (fun (k : Kept) => k.images.any (fun x => x.node == node.toNat))).getD false
                else node == 0xFFFF || (fl.nodes[node.toNat]?).map Node.kind == some NodeKind.wait
      if !ok then some 5 else if 16 ≤ fl.queue.length + fl.heldWaits.length then some 6 else none

/-- The record of a refused arm (R55). -/
def State.refusedRec (s : State) (w : ArmWrite) (node : W16) (status : Nat) : Rec :=
  { tick := s.pcyc, src := srcId (if w.link = 0 then 4 else 5) w.slot, kind := 4, status := status
    flight := if status = 1 then 0 else w.flightId, node := if status = 1 then 0xFFFF else node
    hostSeq := if status = 1 then 0 else w.hostSeq, slot := BitVec.ofNat 16 w.slot, detail := 0 }

/-- A refused arm's record waits in the landing: no further arm of the function is accepted (R60). -/
def Fn.armsHeld (f : Fn) : Bool := f.waiting.any (fun r => r.kind == 4)

/-- A resume arm (R63): the named node's commit image, under held arms of the faulted run. -/
def State.armResumes (s : State) (fn flight : Nat) (node : W16) : State :=
  match (s.fnAt fn).bind (fun f => f.flightAt flight) with
  | none => s
  | some f =>
    match f.kept with
    | none => s
    | some k =>
      match k.images.find? (fun x => x.node == node.toNat) with
      | none => s
      | some im =>
        let rid := s.nextRun
        ((s.mapFn fn (fun x => x.mapFlight flight (fun fl => fl.passArms k.rid))).resumeRun fn (f.passArms k.rid) k im).settle rid

/-- A start arm (R56, R63): it joins the queue, a kept image is discarded, and the oldest queued arm starts if none is active. While a
job fault of the flight is not complete (R60) the arm queues as behind an active run. -/
def State.armStarts (s : State) (fn : Nat) (w : ArmWrite) (order : Nat) : State :=
  let s := s.mapFn fn (fun x => x.mapFlight w.flightId.toNat (fun fl =>
    let fl := match fl.kept with
      | some k => if x.faultWaits fl.id then fl else { fl.passArms k.rid with kept := none }
      | none => fl
    { fl with queue := fl.queue ++ [(order, w)] }))
  let rid := s.nextRun
  (s.startNext fn w.flightId.toNat).settle rid

/-- A wait arm (R56): held for the run it belongs to, and applied when its activation is active. -/
def State.armWaits (s : State) (fn : Nat) (w : ArmWrite) (node : W16) : State :=
  let flight := w.flightId.toNat
  let kept := (((s.fnAt fn).bind (fun f => f.flightAt flight)).bind Flight.kept).map Kept.rid
  match s.activeRun fn flight with
  | some r =>
    (s.mapFn fn (fun x => x.mapFlight flight (fun fl => { fl with heldWaits := fl.heldWaits ++ [(w, node.toNat, some r.id)] }))).settle r.id
  | none =>
    s.mapFn fn (fun x => x.mapFlight flight (fun fl => { fl with heldWaits := fl.heldWaits ++ [(w, node.toNat, kept)] }))

/-- The function whose arm window takes a write (R47, R54): one on its own link; the companion has none, and in recovery mode no function
has (R33). -/
def State.armFn (s : State) (w : ArmWrite) : Option Fn := (s.answering w.fn).filter (fun f => f.link == w.link)

/-- An arm write is tested and acts (R55, R56, R63). -/
def State.arm (s : State) (w : ArmWrite) (node : W16) : State :=
  match s.armFn w with
  | none => s
  | some f =>
    match f.refusal w node with
    | some status =>
      let s := if status = 6 then s.mapFn w.fn (fun f => f.setSeq w.slot w.hostSeq) else s
      s.post w.fn (s.refusedRec w node status)
    | none =>
      let order := s.nextOrder
      let s := { s.mapFn w.fn (fun f => f.setSeq w.slot w.hostSeq) with nextOrder := order + 1 }
      if resumeBit w then s.armResumes w.fn w.flightId.toNat node
      else if node = 0xFFFF then s.armStarts w.fn w order
      else s.armWaits w.fn w node

/-- An arm that the landing cannot take yet waits on its link (R60). -/
def State.armHeld (s : State) (fn : Nat) : Bool := ((s.fnAt fn).map Fn.armsHeld).getD false

/-- ARM_START (R56). -/
def execArmStart (w : ArmWrite) (s : State) : Out :=
  if s.armHeld w.fn then .next { s with agenda := (s.pcyc + 1, .armStart w) :: s.agenda } else .next (s.arm w 0xFFFF)

/-- ARM_WAIT (R56). -/
def execArmWait (w : ArmWrite) (node : W16) (s : State) : Out :=
  if s.armHeld w.fn then .next { s with agenda := (s.pcyc + 1, .armWait w node) :: s.agenda } else .next (s.arm w node)

/-- ARM_RESUME (R63). -/
def execArmResume (w : ArmWrite) (node : W16) (s : State) : Out :=
  if s.armHeld w.fn then .next { s with agenda := (s.pcyc + 1, .armResume w node) :: s.agenda } else .next (s.arm w node)

end Sys2Proof.Machine
end

