-- ==== Sys2Proof/Machine/Rings.lean ====
section
/-! DEFINITION. A function as boot makes it (R46 to R53, Table 3.1), its completion ring and interrupts (R58 to R61, Tables 3.5,
3.5a, 3.7), and the registers of the package that have no operation behind them: lnk_stat, sec_stat, routing and feature
masks (R25, R26, R45, R67). -/

namespace Sys2Proof.Machine

/-! ## A function after boot -/

/-- A function with its registers at their reset values (Tables 3.5a, 3.6, 3.10, 4.2, 4.3, 5.6); 0 where
the spec gives none, msg_ctl.go (R69) among them (log 20). -/
def Fn.fresh (no link : Nat) (groups : W16) (secured : Bool) (quota extent0 : Nat) (ports : W16) : Fn :=
  { no := no, link := link, groups := groups, secured := secured, quota := quota, extent0 := extent0, ports := ports
    cqCtl := 0x100, cqBase := 0, cqHead := 0, cqTail := 0, msiMap := 0, buffer := [], waiting := [], unsignalled := []
    msiOut := [], flCmd := 0, flSrc := 0, flStat := 0, flights := [], staged := [], windows := List.replicate 64 0
    msgGo := false, msgStat := 0, msgReq := Mem.empty 0, msgResp := Mem.empty 0, jcCmd := 0, jcStat := 0, hndCode := 0
    hndDict := 0, trapPol := 0, trapBuf := List.replicate 64 0, dbgCmd := 0, dbgAddr := 0, dbgStat := 0
    dbgData := Mem.empty 0, traps := [], handlers := [], lastSeq := [], host := Mem.empty 0, hostAbort := [], basinUsed := 0 }

/-! ## Interrupts (R61, Table 3.5a) -/

/-- The vector of a record kind. -/
def Fn.vector (f : Fn) (kind : Nat) : Nat := (fld f.msiMap (5 * (kind - 1)) 5).toNat

/-- Records after which the vector is raised: 0 acts as 1. -/
def Fn.modCount (f : Fn) : Nat := max 1 (fld f.cqCtl 8 8).toNat
def Fn.modTime (f : Fn) : Nat := (fld f.cqCtl 0 8).toNat

/-- A vector is raised: its records are signalled. -/
def Fn.raiseVector (f : Fn) (v : Nat) : Fn :=
  { f with msiOut := f.msiOut ++ [v], unsignalled := f.unsignalled.filter (fun u => u.1 != v) }

/-- A record of this kind has been written at `tick`. The counts of moderation stand for each vector by itself (log 55). -/
def Fn.signal (f : Fn) (kind tick : Nat) : Fn :=
  let v := f.vector kind
  let old := (f.unsignalled.find? (fun u => u.1 == v)).getD (v, 0, tick)
  let f := { f with unsignalled := f.unsignalled.filter (fun u => u.1 != v) ++ [(v, old.2.1 + 1, old.2.2)] }
  if f.modCount ≤ old.2.1 + 1 then f.raiseVector v else f

/-- The vector whose moderation time is over: mod_time units of 120 ticks since its first unsignalled record. -/
def Fn.moderated (f : Fn) (tick : Nat) : Option Nat :=
  if f.modTime = 0 then none
  else (f.unsignalled.find? (fun u => u.2.2 + 120 * f.modTime ≤ tick)).map Prod.fst

/-- MSI_MODERATION_TIMER (R61, Table 3.5a). -/
def execMsiModerationTimer (fn : Nat) (s : State) : Out :=
  .next (s.mapFn fn (fun f => match f.moderated s.pcyc with
    | some v => f.raiseVector v
    | none => f))

/-! ## The ring (R60) -/

/-- The address of record `i`. -/
def Fn.slotAddr (f : Fn) (i : Nat) : Nat := f.cqBase.toNat / 4096 * 4096 + 32 * (i % f.ringSize)

/-- A waiting record takes the place that has become free; the buffer is full again (R60). -/
def Fn.refill (f : Fn) : Fn :=
  match f.waiting with
  | [] => f
  | r :: rest =>
    let b := f.buffer ++ [r]
    { f with buffer := b, waiting := rest, cqCtl := if b.length = Config.recordBuffer then f.cqCtl ||| 0x40000000 else f.cqCtl }

/-- The oldest record of the device buffer goes to the ring, and a waiting one takes its place (R59, R60). -/
def Fn.writeRecord (f : Fn) (tick : Nat) : Fn :=
  match f.buffer with
  | [] => f
  | r :: rest =>
    let i := f.cqTail.toNat
    let f : Fn := { f with host := f.host.write (f.slotAddr i) (r.bytes i f.ringSize), cqTail := f.cqTail + 1, buffer := rest }
    f.refill.signal r.kind tick

/-- A record can be written to the ring. -/
def Fn.writes (f : Fn) : Bool := f.ringOpen && !f.buffer.isEmpty

/-- COMPLETION_RECORD_WRITE (R60, R61); runs whose end waited for a place go on. -/
def execCompletionRecordWrite (fn : Nat) (s : State) : Out :=
  match s.fnAt fn with
  | none => .next s
  | some f => if f.writes then .next ((s.mapFn fn (fun f => f.writeRecord s.pcyc)).endWaiting fn) else .next s

/-- CQ_HEAD_WRITE (R60): accepted when it lies within the ring's bounds. -/
def execCqHeadWrite (fn : Nat) (v : W32) (s : State) : Out :=
  match s.answering fn with
  | none => .next s
  | some f => if (f.cqTail - v).toNat ≤ f.ringSize then .next (s.mapFn fn (fun f => { f with cqHead := v })) else .next s

/-- cq_ctl after a write of `v` (Table 3.5a): log_size stays while the ring is enabled, overflow is W1C. -/
def cqCtlNext (old v : W32) : W32 :=
  (v &&& 0x8000FFFF) ||| (old &&& ~~~v &&& 0x40000000) ||| ((if old.getLsbD 31 then old else v) &&& 0x00F00000)

/-- CQ_CTL_WRITE (R60). -/
def execCqCtlWrite (fn : Nat) (v : W32) (s : State) : Out :=
  match s.answering fn with
  | none => .next s
  | some _ => .next (s.mapFn fn (fun f => { f with cqCtl := cqCtlNext f.cqCtl v }))

/-- FUNCTION_LEVEL_RESET (R55, R60): the three registers that rules name, and nothing else (log 82). -/
def execFunctionLevelReset (fn : Nat) (s : State) : Out :=
  .next (s.mapFn fn (fun f => { f with lastSeq := [], cqHead := 0, cqTail := 0 }))

/-! ## lnk_stat, sec_stat (R25, R45) -/

/-- The code of a port's state (Table 1.4). -/
def PortStage.code : PortStage → Nat
  | .down => 0
  | .training => 1
  | .up => 2
  | .failed => 3

/-- lnk_stat as it reads (Table 1.4). -/
def Port.status (p : Port) : W32 :=
  BitVec.ofNat 32 (p.stage.code * 2 ^ 30 + min 4095 p.replayCount * 256 + p.downEvent.toNat * 128 + p.retrain.toNat * 64 +
    p.replayLimit.toNat * 32 + (p.pauseRx != 0).toNat * 16 + (p.pauseTx != 0).toNat * 8)

/-- lnk_stat after a write: its W1C flags (Table 1.4). -/
def Port.clearFlags (p : Port) (v : W32) : Port :=
  { p with downEvent := p.downEvent && !v.getLsbD 7, retrain := p.retrain && !v.getLsbD 6
           replayLimit := p.replayLimit && !v.getLsbD 5 }

/-- LNK_STAT_WRITE (R25): of the PF of link 0 alone (R48). -/
def execLnkStatWrite (fn port : Nat) (v : W32) (s : State) : Out :=
  match s.answering fn with
  | none => .next s
  | some _ => if fn = 0 then .next (s.mapPort port (fun p => p.clearFlags v)) else .next s

/-- The code of a power state (Table 2.6). -/
def PowerState.code : PowerState → Nat
  | .p0 => 0
  | .p1 => 1
  | .p2 => 2
  | .p3 => 3
  | .p4 => 4

/-- The session is seen by the function: always by a PF, by a VF when it is bound to its virtual device (R45). -/
def Session.seenBy (x : Session) (fn : Nat) : Bool := fn == 0 || fn == 17 || x.vd == some (fn - 1)

/-- sec_stat as function `fn` reads it: a VF sees the session when it is bound to its own virtual device (Table 2.6, R45). -/
def State.secStat (s : State) (fn : Nat) : W32 :=
  let r := s.rot
  let state := if r.recovery then 3 else r.cfg.secState
  let see := (r.session).filter (fun x => x.seenBy fn)
  let level := match see with
    | some x => if x.halt then 2 else 1
    | none => 0
  let vd := (see.bind (fun x => x.vd)).getD 0
  let all : Bool := (see.map (fun x => x.vd.isNone)).getD true
  BitVec.ofNat 32 (state * 2 ^ 30 + level * 2 ^ 28 + vd * 2 ^ 24 + (decide (1048576 < r.qNext + 65536)).toNat * 2 ^ 23 +
    s.power.state.code * 2 ^ 20 + s.power.busy.isSome.toNat * 2 ^ 19 + r.measFail.toNat * 2 ^ 18 +
    r.sessEnd.toNat * 2 ^ 17 + all.toNat * 2 ^ 16 + r.cfg.version % 65536)

/-- SEC_STAT_WRITE (R45): a PF clears meas_fail and sess_end; a VF holds a copy. -/
def execSecStatWrite (fn : Nat) (v : W32) (s : State) : Out :=
  match s.bar0 fn with
  | none => .next s
  | some f =>
    if f.isPf then
      .next { s with rot := { s.rot with measFail := s.rot.measFail && !v.getLsbD 18, sessEnd := s.rot.sessEnd && !v.getLsbD 17 } }
    else .next s

/-! ## Routing (R26) and feature masks (R67) -/

/-- Entries with `(d, v)` before those of higher destinations. -/
def insertRoute (d : Nat) (v : W32) : List (Nat × W32) → List (Nat × W32)
  | [] => [(d, v)]
  | x :: xs => if d < x.1 then (d, v) :: x :: xs else x :: insertRoute d v xs

/-- Routes by destination, ascending, with one entry replaced; none is zero. -/
def putRoute (d : Nat) (v : W32) (l : List (Nat × W32)) : List (Nat × W32) :=
  let rest := l.filter (fun x => x.1 != d)
  if v = 0 then rest else insertRoute d v rest

/-- ROUTE_WRITE (R26): of the PF of link 0 alone. -/
def execRouteWrite (fn d : Nat) (v : W32) (s : State) : Out :=
  match s.answering fn with
  | none => .next s
  | some _ => if fn = 0 then .next { s with routes := putRoute d (v &&& 0x000FFFFF) s.routes } else .next s

/-- SYS_SELF_WRITE (R26, Table 1.7). -/
def execSysSelfWrite (fn : Nat) (v : W32) (s : State) : Out :=
  match s.answering fn with
  | none => .next s
  | some _ => if fn = 0 then .next { s with sysSelf := v &&& 0x80000FFF } else .next s

/-- FEAT_MASK_WRITE (R67): bit 0 cannot be masked. -/
def execFeatMaskWrite (fn vd : Nat) (v : W32) (s : State) : Out :=
  match s.answering fn with
  | none => .next s
  | some _ => if fn = 0 then .next { s with featMask := s.featMask.set vd (v &&& 0xFFFFFFFE) } else .next s

end Sys2Proof.Machine
end

