-- ==== Sys2Proof/Machine/Image.lean ====
section
/-! DEFINITION. The context image of a core (R104 to R107, Tables 5.2 to 5.5b) and of an engine context (R230, Table 11.3): how a
core's state reads at its image offsets, and what loading the bytes gives. -/

namespace Sys2Proof.Machine

/-! ## Writing -/

/-- Bytes padded with zeros, or cut, to a length. -/
def imgPad (n : Nat) (bs : List Byte) : List Byte := bs.take n ++ List.replicate (n - bs.length) 0

/-- A loop_stk entry; the rotation offset is the core's (Table 5.3). -/
def LoopEntry.bytes (e : LoopEntry) (rot : Nat) : List Byte :=
  leBytes 8 e.start.toNat ++ leBytes 4 e.count.toNat ++ leBytes 4 e.index.toNat ++
  leBytes 1 (match e.kind with
    | .plain => 1
    | .pipelined => 2) ++
  leBytes 1 e.stagesM1.toNat ++ leBytes 1 e.lenM1.toNat ++ leBytes 1 rot ++ leBytes 4 0

/-- Bytes of the remainder stack held on the core (R338). -/
def Arch.onCore (a : Arch) : Nat := a.rsDepth.toNat - a.rsSp

/-- The image header (Table 5.3). -/
def Core.headerBytes (k : Core) (vno : Nat) (feat : W32) : List Byte :=
  let a := k.arch
  leBytes 4 0x49435843 ++ leBytes 2 1 ++ leBytes 2 vno ++ leBytes 4 feat.toNat ++
  leBytes 4 (a.solve.active.toNat + 2 * a.revOn.toNat + 4 * k.nullSeen.toNat) ++ leBytes 8 a.pc.toNat ++
  leBytes 8 a.dictBase.toNat ++ leBytes 8 k.frozenAt ++ imgPad 144 (a.loops.flatMap (fun e => e.bytes a.rot)) ++
  leBytes 4 a.onCore ++ leBytes 4 k.replay.length ++ leBytes 32 k.dirty.toNat ++ leBytes 32 0

/-- A head entry (Table 5.5), with its mode word as HSTAT returns it. -/
def Head.bytes (h : Head) (mode : W32) : List Byte :=
  leBytes 4 (h.tape.toNat + h.attached.toNat * 2 ^ 31) ++ leBytes 4 mode.toNat ++ leBytes 8 h.pos.toNat ++
  imgPad 32 (h.marks.flatMap (fun m => leBytes 8 (match m with
    | some p => 2 ^ 63 + p.toNat
    | none => 0))) ++ leBytes 16 0

/-- The solve control (Table 5.5a). -/
def Solve.bytes (s : Solve) : List Byte :=
  imgPad 128 (leBytes 8 s.start.toNat ++ imgPad 4 s.carried ++ leBytes 1 s.thr.toNat ++ leBytes 1 s.beta.toNat ++ leBytes 1 s.ceiling ++
    leBytes 1 s.depth ++ leBytes 1 s.traps.toNat ++ leBytes 1 s.iter ++ leBytes 1 s.fill ++ leBytes 5 0 ++ leBytes 4 s.norm.toNat)

/-- The system registers (Table 5.4). -/
def Core.sysBytes (k : Core) : List Byte :=
  let a := k.arch
  imgPad 256 (leBytes 8 a.ftab.toNat ++ leBytes 8 a.bgeo.toNat ++ leBytes 8 a.rngSeed.toNat ++ leBytes 8 a.rngKey.toNat ++
    leBytes 8 a.rngStep.toNat ++ leBytes 4 a.absorb.toNat ++ leBytes 4 a.fstat.toNat ++
    imgPad 16 (k.dom.flatMap (fun d => leBytes 4 d.toNat)) ++ leBytes 4 a.rsDepth.toNat ++ leBytes 4 a.rsLimit.toNat ++
    leBytes 8 a.vt.toNat ++ leBytes 8 a.cpos.toNat)

/-- The replay class of a result (Table 5.5b). -/
def Kind.rclass : Kind → Nat
  | .scalar => 1
  | .vector => 2
  | .slice => 3
  | .head => 4
  | .tile => 5
  | .pred => 6
  | .matrix => 2
  | .mma => 2

/-- The bytes of an entry's ranges once it has landed: its own over the locked ones. -/
def Core.pieceBytes (k : Core) (p : Pend) : List Byte :=
  let g := (splitData p.segs p.data).foldl (fun g x => g.write x.1 x.2) k.gallery
  p.lock.flatMap (fun x => g.bytes x.1 x.2)

/-- Kind, destination and data of an entry; a lane mask stands as register 8 + n of the predicates (log 18). -/
def Core.entryData (k : Core) (p : Pend) : Nat × Nat × List Byte :=
  match p.dest with
  | .none => (0, 0, leBytes 8 0)
  | .reg n => (0, regName k.arch.rot n, leBytes 8 p.val.toNat)
  | .pred n => (1, n, leBytes 1 (p.val.toNat % 2))
  | .mask n => (1, 8 + n, leBytes 8 p.val.toNat)
  | .bytes _ => (2, (p.lock.headD (0, 0)).1, k.pieceBytes p)

/-- The data of an entry carries poison (Table 5.5b): the result's own, or that of a poisoned line which the entry holds whole and the
result writes in part (R148, R300; log 18). -/
def Core.entryPoison (k : Core) (p : Pend) : Bool :=
  !p.poison.isEmpty || (segLines p.lock).any (fun l => k.poison.contains l && coversLine p.lock l && !coversLine p.segs l)

/-- A replay entry (Table 5.5b). -/
def Core.entryBytes (k : Core) (p : Pend) : List Byte :=
  let d := k.entryData p
  imgPad 272 (leBytes 1 p.kind.rclass ++ leBytes 1 (p.due - k.vc) ++ leBytes 1 d.1 ++ leBytes 1 0 ++ leBytes 4 d.2.1 ++
    leBytes 2 d.2.2.length ++ leBytes 1 (k.entryPoison p).toNat ++ leBytes 1 p.flags.toNat ++ leBytes 2 p.absorb ++
    leBytes 2 0 ++ d.2.2)

/-- Poison bits, one for each line (Table 5.2). -/
def Core.poisonBytes (k : Core) : List Byte := leBytes 128 (k.poison.foldl (fun n l => n + 2 ^ l) 0)

/-- Image bytes 0 to 0x53FF (Table 5.2); `modes` are the mode words of the heads. -/
def Core.imageHead (k : Core) (vno : Nat) (feat : W32) (tl : List W64) (modes : List W32) : List Byte :=
  let a := k.arch
  k.headerBytes vno feat ++ (List.range 64).flatMap (fun n => leBytes 8 (a.reg n).toNat) ++
  imgPad 64 (leBytes 8 a.p.toNat ++ (List.range 4).flatMap (fun n => leBytes 8 (a.mask n).toNat)) ++
  imgPad 64 (k.tiles.flatMap (fun t => leBytes 8 t.2.toNat)) ++ imgPad 64 (tl.flatMap (fun v => leBytes 8 v.toNat)) ++
  leBytes 64 0 ++ k.sysBytes ++ (a.heads.zip modes).flatMap (fun x => x.1.bytes x.2) ++ a.views.flatMap (fun d => leBytes 16 d.toNat) ++
  a.solve.bytes ++ k.poisonBytes ++ List.replicate 1152 0 ++ imgPad 17408 (k.replay.flatMap k.entryBytes)

/-- The remainder stack on the core, oldest first. -/
def Core.stackBytes (k : Core) : List Byte := (List.range k.arch.onCore).map (fun i => k.ring.read ((k.arch.rsSp + i) % 32768))

/-- The byte at an image offset; `head` is the image's first part (Table 5.2). -/
def Core.imageByte (k : Core) (head : List Byte) (off : Nat) : Byte :=
  if off < 0x8000 then head.getD off 0
  else if off < 0x10000 then (if off - 0x8000 < k.arch.onCore then k.ring.read ((k.arch.rsSp + (off - 0x8000)) % 32768) else 0)
  else if off < 0x20000 then k.scratch.read (off - 0x10000)
  else if off < 0x3C000 then (if k.arch.solve.active then k.history.read (off - 0x20000) else 0)
  else if off < 0x40000 then 0
  else if off < 0x80000 then k.gallery.read (off - 0x40000)
  else 0

/-- An image after a save: everything but gallery blocks that are clean, and the history outside a region, which stay (R107). -/
def Core.save (k : Core) (head : List Byte) (old : Mem) : Mem :=
  let m := ((old.write 0 (imgPad 0x8000 head)).write 0x8000 (imgPad 0x8000 k.stackBytes)).write 0x10000 (k.scratch.bytes 0 65536)
  let m := if k.arch.solve.active then m.write 0x20000 (k.history.bytes 0 0x1C000) else m
  (List.range 256).foldl (fun m b =>
    if k.dirty.getLsbD b then m.write (0x40000 + 1024 * b) (k.gallery.bytes (1024 * b) 1024) else m) m

/-! ## Loading -/

/-- An `n`-byte number of an image. -/
def imgNum (img : Nat → Byte) (o n : Nat) : Nat := leVal ((List.range n).map (fun i => img (o + i)))

/-- Loop entry `i`, when its kind is not 0. -/
def loopOf (img : Nat → Byte) (i : Nat) : Option LoopEntry :=
  let o := 40 + 24 * i
  let n := imgNum img
  if n (o + 16) 1 = 0 then none
  else some { start := pcAligned (BitVec.ofNat 64 (n o 8)), count := BitVec.ofNat 32 (n (o + 8) 4), index := BitVec.ofNat 33 (n (o + 12) 4)
              kind := if n (o + 16) 1 = 2 then .pipelined else .plain, stagesM1 := BitVec.ofNat 2 (n (o + 17) 1)
              lenM1 := BitVec.ofNat 6 (n (o + 18) 1) }

/-- The bits of a head's mode word that it holds: reserved ones read zero, and bits 8, 10 and 11 are sampled (Table 8.6, R364). -/
def headModeMask : W32 := 0x2FF

/-- Head `i`; what it counts beside its entry stays. -/
def headOf (img : Nat → Byte) (old : Arch) (i : Nat) : Head :=
  let o := 0x500 + 64 * i
  let t := imgNum img o 4
  { attached := t.testBit 31, tape := BitVec.ofNat 20 t, mode := BitVec.ofNat 32 (imgNum img (o + 4) 4) &&& headModeMask
    pos := BitVec.ofNat 40 (imgNum img (o + 8) 8)
    marks := (List.range 4).map (fun j =>
      let m := imgNum img (o + 16 + 8 * j) 8
      if m.testBit 63 then some (BitVec.ofNat 40 m) else none)
    used := (old.heads.getD i Head.detached).used }

/-- The solve control; what the region counts beside it stays. -/
def solveOf (img : Nat → Byte) (old : Solve) : Solve :=
  let n (o len : Nat) : Nat := imgNum img (0xA80 + o) len
  { active := (imgNum img 12 4).testBit 0, start := BitVec.ofNat 64 (n 0 8), carried := (List.range 4).map (fun i => img (0xA80 + 8 + i))
    thr := BitVec.ofNat 6 (n 12 1), beta := BitVec.ofNat 6 (n 13 1), ceiling := n 14 1, depth := n 15 1, traps := (n 16 1).testBit 0
    iter := n 17 1, fill := n 18 1, norm := BitVec.ofNat 32 (n 24 4), shape := old.shape, loops := old.loops }

/-- The rotation offset an image carries in its innermost loop entry; with no entry it says none, and the registers, which it
holds by name, and the tokens among them stay in the places they had (R289, Table 5.2). -/
def rotOf (img : Nat → Byte) (old : Nat) : Nat := if imgNum img 56 1 = 0 then old else imgNum img 59 1 % 24

/-- The registers of a core loaded from an image (R108); reserved bits stay zero whatever it holds (R7, R10). -/
def Arch.load (old : Arch) (rot : Nat) (img : Nat → Byte) : Arch :=
  let n := imgNum img
  let heads := (List.range 8).map (headOf img old)
  let depth := n 0x440 4
  let sp := depth - n 184 4
  { x := (List.range 64).map (fun p => BitVec.ofNat 64 (n (0x100 + 8 * regName rot p) 8)), rot := rot
    p := BitVec.ofNat 8 (n 0x300 1) ||| 1, q := (List.range 4).map (fun i => BitVec.ofNat 64 (n (0x308 + 8 * i) 8))
    views := (List.range 56).map (fun i => BitVec.ofNat 128 (n (0x700 + 16 * i) 16) &&& descMask i), heads := heads
    loops := ((List.range 6).map (loopOf img)).takeWhile Option.isSome |>.filterMap id
    pc := pcAligned (BitVec.ofNat 64 (n 16 8)), dictBase := baseAligned (BitVec.ofNat 64 (n 24 8)), pendBase := old.pendBase
    rsDepth := BitVec.ofNat 32 depth, revOn := (n 12 4).testBit 1
    revBase := if (n 12 4).testBit 1 then BitVec.ofNat 40 ((heads.getD 7 Head.detached).pos.toNat - sp / 256) else old.revBase
    rsSp := sp
    rsLimit := BitVec.ofNat 32 (n 0x444 4) &&& 0xFF00, solve := solveOf img old.solve, ftab := BitVec.ofNat 64 (n 0x400 8)
    bgeo := BitVec.ofNat 64 (n 0x408 8) &&& 0xF7, rngSeed := BitVec.ofNat 64 (n 0x410 8), rngKey := BitVec.ofNat 64 (n 0x418 8)
    rngStep := BitVec.ofNat 64 (n 0x420 8), absorb := BitVec.ofNat 32 (n 0x428 4), fstat := BitVec.ofNat 32 (n 0x42C 4) &&& fstatMask
    cpos := BitVec.ofNat 64 (n 0x450 8) &&& 0xFFFFFFFFFFFF, event := old.event, detached := old.detached }

/-- The kind of a replay class. -/
def kindOf (rclass : Nat) : Kind :=
  if rclass = 1 then .scalar else if rclass = 2 then .vector else if rclass = 3 then .slice else if rclass = 4 then .head
  else if rclass = 5 then .tile else .pred

/-- The gallery ranges of an entry: those of the result it was captured from, when dest and n_bytes still name them (log 17). -/
def rangesOf (old : Option Pend) (dest len : Nat) : List (Nat × Nat) :=
  match old with
  | none => [(dest, len)]
  | some p =>
    if (p.lock.headD (0, 0)).1 = dest && p.lock.foldl (fun n x => n + x.2) 0 = len then p.lock else [(dest, len)]

/-- The destination and locked ranges of an entry. -/
def destOf (old : Option Pend) (rot dkind dest len : Nat) : Dest × List (Nat × Nat) :=
  if dkind = 0 then (.reg (physReg rot dest), [])
  else if dkind = 1 then (if dest < 8 then (.pred dest, []) else (.mask (dest - 8), []))
  else (.bytes (rangesOf old dest len), rangesOf old dest len)

/-- The slot of the instruction whose result an entry holds (R145, R201): VX for vector and slice entries, else the one it was
captured with. -/
def slotOf (old : Option Pend) (rclass : Nat) : Nat :=
  if rclass = 2 || rclass = 3 then 2 else (old.map Pend.slot).getD 0xFF

/-- The poisoned record ranges of an entry whose rpoison bit is set: those it was captured with, else all of it (R148). -/
def badOf (old : Option Pend) (segs : List (Nat × Nat)) (len : Nat) : Nat × List (Nat × Nat) :=
  match old with
  | some p => if p.lock == segs && !p.poison.isEmpty then (p.at_, p.poison) else (0, [(0, len)])
  | none => (0, [(0, len)])

/-- Replay entry `i`, captured as `old`; the result it stands for was issued before the checkpoint (R108). -/
def entryOf (old : Option Pend) (img : Nat → Byte) (rot vc : Nat) (pc : W64) (i : Nat) : Option Pend :=
  let o := 0x1000 + 272 * i
  let n := imgNum img
  if n o 1 = 0 then none
  else
    let len := n (o + 8) 2
    let d := destOf old rot (n (o + 2) 1) (n (o + 4) 4) len
    let data := (List.range len).map (fun j => img (o + 16 + j))
    let bad := badOf old d.2 len
    some { issue := vc, due := vc + n (o + 1) 1, slot := slotOf old (n o 1), kind := kindOf (n o 1), dest := d.1, lock := d.2
           val := BitVec.ofNat 64 (leVal data % 2 ^ 64), data := data, flags := BitVec.ofNat 6 (n (o + 11) 1), absorb := n (o + 12) 2
           accView := none, accFlags := 0, accClear := false, poison := if (n (o + 10) 1).testBit 0 then bad.2 else []
           source := none, need := .ready, preCk := true, pc := pc, at_ := bad.1, replay := true }

/-- The poisoned lines of an image. -/
def poisonOf (img : Nat → Byte) : List Nat := (List.range 1024).filter (fun l => (img (0xB00 + l / 8)).getLsbD (l % 8))

/-- What a core takes from image bytes 0 to 0xB7F. -/
def Core.loadRegs (k : Core) (rot : Nat) (img : Nat → Byte) : Core :=
  let lines := poisonOf img
  { k with
    arch := k.arch.load rot img
    nullSeen := (imgNum img 12 4).testBit 2
    tiles := k.tiles.zipIdx.map (fun t => (t.1.1, BitVec.ofNat 64 (imgNum img (0x340 + 8 * t.2) 8)))
    dom := (List.range 4).map (fun i => BitVec.ofNat 32 (imgNum img (0x430 + 4 * i) 4))
    poison := lines
    tags := k.tags.filter (fun t => lines.contains t.line) }

/-- Part of a store, from address 0; the store's unlisted bytes read 0. -/
def Mem.slice (m : Mem) (lo len : Nat) : Mem :=
  ⟨m.gen, (m.cells.filter (fun c => decide (lo ≤ c.1) && decide (c.1 < lo + len))).map (fun c => (c.1 - lo, c.2))⟩

/-- A ring with stack bytes from `x` at their offsets (R345). -/
def ringFrom (x : Nat) : List Byte → Mem → Mem
  | [], g => g
  | b :: bs, g => ringFrom (x + 1) bs (g.write (x % 32768) [b])

/-- A core loaded in full from an image (R107, R108, R345): dirty bits clear, no tags, empty windows and caches. Results that landed at
the freeze for want of an entry keep their destinations locked (R128; log 17). -/
def CoreImage.load (im : CoreImage) : Core :=
  let img := im.bytes.read
  let k := im.core.loadRegs (rotOf img im.core.arch.rot) img
  let a := k.arch
  { k with
    stage := .run, stops := [], asks := [], stepVc := none, shadow := a, gallery := im.bytes.slice 0x40000 0x40000
    scratch := im.bytes.slice 0x10000 0x10000
    history := if a.solve.active then im.bytes.slice 0x20000 0x1C000 else k.history
    ring := ringFrom a.rsSp (im.bytes.bytes 0x8000 a.onCore) k.ring
    dirty := 0, tags := [], tokensCk := k.tokensIn, undo := [], held := [], windows := List.replicate 8 [], icache := [], dcache := [], loopBuf := []
    synced := none, syncExtents := []
    pend := joinEntries ((List.range 64).filterMap (fun i => entryOf im.core.replay[i]? img a.rot k.vc a.pc i)) ++ im.core.pend, replay := [] }

/-! ## Engine contexts -/

/-- The image of an engine context without the zeros that end it (Table 11.3); a core's counts of collectives are those of `seq`. -/
def Context.imageBytes (x : Context) (seq : List Nat) : List Byte :=
  leBytes 8 x.counter.toNat ++ leBytes 8 x.last.toNat ++ leBytes 2 x.step.toNat ++ leBytes 2 x.queue.length ++
  leBytes 1 (x.tl + (if x.core.isNone then 128 else 0)) ++ leBytes 11 0 ++ seq.flatMap (leBytes 4) ++ leBytes 208 0 ++
  x.queue.flatMap (fun c => imgPad 128 c.block)

/-- The image of an engine context: 64 KiB (R230, Table 11.3). -/
def Context.bytes (x : Context) (seq : List Nat) : List Byte := imgPad 65536 (x.imageBytes seq)

/-- The image as a context area holds it. -/
def Context.image (x : Context) (seq : List Nat) : Mem := (Mem.empty 0).write 0 (x.imageBytes seq)

/-- A context goes on from its image: its queued commands restart from their blocks, with their numbers (R230): a collective that was
serviced and had yet to meet the others of its match reads its source again (log 19). -/
def Context.load (x : Context) (img : Mem) : Context :=
  let n (o len : Nat) : Nat := img.num o len
  let last := n 8 8
  let count := n 0x12 2
  { x with
    counter := BitVec.ofNat 64 (n 0 8), last := BitVec.ofNat 64 last, step := BitVec.ofNat 16 (n 0x10 2)
    queue := (x.queue.take count).zipIdx.map (fun c =>
      { c.1 with num := last + 1 + c.2 - count, block := img.bytes (0x100 + 128 * c.2) 128, started := false, ready := false
                 out := if c.1.matched then c.1.out.filter (fun o => o.1 != c.1.rank) else [], sources := [] })
    collSeq := if x.core.isNone || x.ended then (List.range 4).map (fun d => n (0x20 + 4 * d) 4) else x.collSeq }

/-- The per-domain counts of collectives in an image. -/
def seqOfImage (img : Mem) : List Nat := (List.range 4).map (fun d => img.num (0x20 + 4 * d) 4)

end Sys2Proof.Machine
end

