-- ==== Sys2Proof/Machine/Cuts.lean ====
section
/-! DEFINITION. The cut protocol (R97 to R102, Table 5.1), the writing of images and the resumption from them (R103 to R108, R211),
pre-emption (R92) and the basin (R93, R99). -/

namespace Sys2Proof.Machine

/-! ## Starting a cut -/

/-- Cores of the run that take part in a cut: they hold a task that has not ended, and serve no trap (R98). -/
def Core.takesPart (k : Core) (rid : Nat) : Bool := k.run == rid && k.stage != .idle && k.handlerOf.isNone

/-- The class of a run for the choice of victim (R92): the lowest class number among its running nodes. -/
def Run.victimClass (r : Run) (f : Flight) : Nat :=
  (r.cutNodes.map (fun i => ((f.nodes[i]?).map (r.classOf f)).getD 3)).foldl min 3

/-- A cut of a run is requested (R97): a second request joins the one in progress, which pre-emption alone then no longer asks
for. A halted core of the run, one that serves a trap too, faults the job (R100). -/
def State.beginCut (s : State) (rid : Nat) (reason : CutReason) (abandoned : Nat) : State :=
  match s.runAt rid with
  | none => s
  | some r =>
    if r.stage != .active then s
    else
      match r.cut with
      | some c =>
        let c := { c with preempts := c.preempts || reason == .preempt }
        let c := if c.reason == .power || reason == .preempt then c else { c with reason := reason }
        s.mapRun rid (fun r => { r with cut := some c })
      | none =>
        let s := s.mapRun rid (fun r =>
          { r with cut := some { reason := reason, step := 2, left := Config.cutTimeout, waited := 0, m := 0, s := 0, abandoned := abandoned
                                 preempts := reason == .preempt }
                   retryAt := none })
        if s.cores.any (fun k => k.run == rid && k.stops.contains .halt) then s.faultRun rid 0x37 else s

/-- A cut requested on this package; a cut that it begins is carried to the other packages of the job (R87). -/
def State.startCut (s : State) (rid : Nat) (reason : CutReason) (abandoned : Nat) : State :=
  let t := s.beginCut rid reason abandoned
  if ((s.runAt rid).bind Run.cut).isNone && ((t.runAt rid).bind Run.cut).isSome then t.report rid 3 else t

/-- Every core that takes part has stopped at the cut. -/
def State.allStopped (s : State) (rid : Nat) : Bool := s.cores.all (fun k => !k.takesPart rid || k.stops.contains .cut)

/-- The run's cut, when it stands at this step. -/
def State.cutAt (s : State) (rid step : Nat) : Option (Run × Cut) :=
  match s.runAt rid with
  | none => none
  | some r =>
    match r.cut with
    | none => none
    | some c => if c.step = step then some (r, c) else none

/-- A core leaves its cut stop; it moves again when no other stop holds it. -/
def Core.leaveCut (k : Core) : Core :=
  let k := { k with stops := k.stops.filter (fun x => x != StopKind.cut), asks := k.asks.filter (fun x => x != StopKind.cut) }
  if k.stops.isEmpty then k.resumed else k

/-- The parties of the run's other packages may stand anywhere: a free value takes their part (log 2). -/
def State.remoteMax (s : State) (r : Run) (width v : Nat) : State × Nat :=
  match s.flightOf r with
  | none => (s, v)
  | some f =>
    if f.nPkg ≤ 1 then (s, v) else ({ s with free := s.free + 1 }, max v ((Config.freeValue s.free).toNat % 2 ^ width))

/-- CUT_M_FORMED (Table 5.1 steps 3 and 4): the agents form M; cores below it run on to it, and the others' stops create their
records (log 16). -/
def execCutMFormed (run : Nat) (s : State) : Out :=
  match s.cutAt run 2 with
  | none => .next s
  | some (r, c) =>
    if !s.allStopped run then .next s
    else
      let m := (s.cores.map (fun k => if k.takesPart run then k.arch.cpos.toNat else 0)).foldl max 0
      let x := s.remoteMax r 48 m
      let s := x.1.mapRun run (fun r => { r with cut := some { c with step := 4, m := BitVec.ofNat 64 x.2 } })
      let behind (k : Core) : Bool := decide (k.arch.cpos.toNat < x.2)
      let there := s.cores.filter (fun k => k.takesPart run && !behind k)
      let s := there.foldl (fun s k => s.stopRecord k .cut) s
      .next { s with cores := s.cores.map (fun (k : Core) => if k.takesPart run && behind k then k.leaveCut else k) }

/-- CUT_S_FORMED (Table 5.1 step 5, R229): S is the maximum step count of the job's contexts. -/
def execCutSFormed (run : Nat) (s : State) : Out :=
  match s.cutAt run 4 with
  | none => .next s
  | some (r, c) =>
    if !s.allStopped run then .next s
    else
      let v := (s.contexts.map (fun x => if x.run == run then x.step.toNat else 0)).foldl max 0
      let x := s.remoteMax r 16 v
      .next (x.1.mapRun run (fun r => { r with cut := some { c with step := 5, s := x.2 } }))

/-- The members of a matched collective: commands of one domain, node and sequence count. -/
def sameMatch (x : Context) (c : Command) (y : Context) (d : Command) : Bool :=
  d.matched && x.run == y.run && x.node == y.node && x.core.isSome == y.core.isSome && blkDom c.block == blkDom d.block &&
  c.collSeq == d.collSeq && !d.ready && decide (16 ≤ blkOp d.block)

/-- The commands of the match that context `x` heads. -/
def State.matchOf (s : State) (x : Context) (c : Command) : List (Context × Command) :=
  s.contexts.flatMap (fun y => (y.queue.filter (sameMatch x c y)).map (fun d => (y, d)))

/-- A command in progress, which neither a cut nor P2 splits (R218, R229): a copy that has started, a collective that has its result,
and one of which a rank has been serviced and every rank is the oldest command of its context, so that the engines can finish it. One
serviced before the others of its match could be is no command in progress (log 19). -/
def State.inProgress (s : State) (x : Context) (c : Command) : Bool :=
  if blkOp c.block < 16 then c.started
  else c.ready || (c.matched && (s.matchOf x c).any (fun m => m.2.started) &&
    (s.matchOf x c).all (fun m => (m.1.queue.head?.map Command.num) == some m.2.num))

/-- A command of the context is at or below its run's S, or in progress: the context has yet to complete it (R229). -/
def State.owes (s : State) (x : Context) (bound : Nat) : Bool :=
  x.queue.any (fun c => s.inProgress x c || decide (blkStep c.block ≤ bound))

/-! ## Images (R103 to R107) -/

/-- Timeline counters of the task on a core. -/
def State.timelines (s : State) (rid c : Nat) : List W64 :=
  (List.range 8).map (fun tl => ((s.contextOf rid c tl).map Context.counter).getD 0)

/-- The mode words of the core's heads as HSTAT would return them now (Tables 5.5, 8.6). -/
def State.headModes (s : State) (r : Run) (k : Core) : List W32 :=
  (k.arch.heads.zip (List.range 8)).map (fun x =>
    if x.1.attached then
      k.hstat (s.hallAt (hallOf k.no)) x.2 ((((s.flightOf r).bind (fun f => s.dir f x.1.tape)).map Dir.length).getD 0)
    else x.1.mode)

/-- The image's first part for a core of the package. -/
def State.imageHead (s : State) (k : Core) : List Byte :=
  match s.runAt k.run with
  | none => []
  | some r =>
    let vno := ((s.fnAt r.fn).map (fun f => f.virtualCore k.no)).getD k.no
    let feat := (((s.flightOf r).bind (fun f => f.nodes[k.node]?)).map Node.featReq).getD 0
    k.imageHead vno feat (s.timelines r.id k.no) (s.headModes r k)

/-- The core's place in its node's placement. -/
def Run.placeOf (r : Run) (k : Core) : Nat := (((r.nodes[k.node]?).map NodeState.cores).getD []).idxOf k.no

/-- A run's context areas with a core's image written; a core between two tasks has none of its own (R107). -/
def State.saveCore (s : State) (r : Run) (saved : List CoreImage) (k : Core) : List CoreImage :=
  let place := r.placeOf k
  let old := saved.find? (fun x => x.node == k.node && x.place == place)
  let area := (old.map CoreImage.bytes).getD (Mem.empty 0)
  let bytes := if k.stage == .idle then area else k.save (s.imageHead k) area
  saved.filter (fun x => !(x.node == k.node && x.place == place)) ++ [⟨k.node, place, bytes, k⟩]

/-- Events on their way to the run's cores reach them (R134). -/
def State.deliverEvents (s : State) (rid : Nat) : State :=
  let mine (c : Nat) : Bool := s.cores.any (fun k => k.no == c && k.run == rid)
  { s with
    events := s.events.filter (fun e => !mine e.1)
    cores := s.cores.map (fun k =>
      if k.run == rid then (s.events.filter (fun e => e.1 == k.no)).foldl (fun (k : Core) e => k.eventIn s.pcyc e.2) k else k) }

/-- The images of a run's engine contexts (R230); the counts of collectives of a core's contexts are the core's, while its task goes on
(R224). -/
def State.engineImages (s : State) (rid : Nat) : List (Nat × Mem) :=
  (s.contexts.filter (fun x => x.run == rid)).map (fun x =>
    (x.id, x.image (if x.ended then x.collSeq else ((x.core.bind s.coreAt).map Core.collSeq).getD x.collSeq)))

/-- A node whose tasks still wait for the shares of other packages has none to cut: it is to be placed again (R87). -/
def NodeState.unplaced (ns : NodeState) : NodeState :=
  if ns.placing.isSome then { ns with stage := .ready, placing := none, cores := [] } else ns

/-- The run's images are written and its cores are free (Table 5.1 steps 6 and 7). -/
def State.cutOut (s : State) (r : Run) (c : Cut) : State :=
  let s := s.deliverEvents r.id
  let mine := s.cores.filter (fun k => k.run == r.id)
  let saved := mine.foldl (s.saveCore r) (r.saved.filter (fun x => mine.any (fun k => k.node == x.node && r.placeOf k == x.place)))
  let cls := ((s.flightOf r).map r.victimClass).getD 3
  let imgs := s.engineImages r.id
  let s := s.post r.fn (s.runRec r 6 0 0xFFFF (fld c.m 0 32))
  { (s.mapRun r.id (fun r => { r with stage := .cutOut, cut := none, cutClass := cls, cutTick := s.pcyc, saved := saved
                                      engines := imgs, blockedSince := none, nodes := r.nodes.map NodeState.unplaced })).dropCores
      (fun k => k.run == r.id) with
    turn := s.turn.filter (fun c => !mine.any (fun k => k.no == c))
    lines := s.lines.filter (fun l => l.run != r.id)
    halls := s.halls.map (fun (h : Hall) =>
      { h with walks := h.walks.map (fun w => if w.run == r.id then ({ w with windows := [] } : Walk) else w) }) }

/-- The trap records of the run's cores have stamps before this tick (R114). -/
def State.stampsPast (s : State) (r : Run) : Bool :=
  s.cores.all (fun k => k.run != r.id || (match s.fnAt r.fn with
    | none => true
    | some f => (match s.lastStamp r.fn (srcId 0 (f.virtualCore k.no)) with
      | some t => decide (t < s.pcyc)
      | none => true)))

/-- Every core of the run stands at M, no trap is being served, and every context stands at S (Table 5.1 steps 4 and 5). -/
def State.cutComplete (s : State) (r : Run) (c : Cut) : Bool :=
  c.step == 5 && s.allStopped r.id && !s.cores.any (fun k => k.run == r.id && k.handlerOf.isSome) &&
  s.contexts.all (fun x => x.run != r.id || !s.owes x c.s)

/-- CUT_IMAGES_WRITTEN (Table 5.1 steps 6 and 7): every core at M and every context at S, and a place for the record. -/
def execCutImagesWritten (run : Nat) (s : State) : Out :=
  match s.cutAt run 5 with
  | none => .next s
  | some (r, c) =>
    if s.cutComplete r c && ((s.fnAt r.fn).map Fn.roomFor).getD false && s.stampsPast r then
      .next (s.cutOut r c)
    else .next s

/-! ## Timeout and retry (R100) -/

/-- The cut's time is over and a party is short of its stopping point (R100). -/
def State.cutShort (s : State) (r : Run) : Bool :=
  match r.cut with
  | none => false
  | some c => c.left == 0 && !s.cutComplete r c

/-- CUT_TIMEOUT (R100): a pre-emption cut is abandoned once; any other times out. -/
def execCutTimeout (run : Nat) (s : State) : Out :=
  match s.runAt run, (s.runAt run).bind Run.cut with
  | none, _ => .next s
  | _, none => .next s
  | some r, some c =>
    if !s.cutShort r then .next s
    else if c.reason == .preempt && c.abandoned == 0 then
      let s := s.mapRun run (fun r => { r with cut := none, retryAt := some (s.pcyc + Config.cutRetry, 1) })
      .next { s with cores := s.cores.map (fun (k : Core) => if k.run == run then k.leaveCut else k) }
    else .next (s.faultRun run 0x36)

/-- A cut for pre-emption is in progress in the function of the run (R92). -/
def State.preempting (s : State) (rid : Nat) : Bool :=
  match s.runAt rid with
  | none => false
  | some r => s.runs.any (fun x => x.fn == r.fn && (x.cut.map Cut.preempts).getD false)

/-- CUT_RETRY_TIMER (R100): an abandoned cut is requested again, once no other cut for pre-emption is in progress (R92). -/
def execCutRetryTimer (run : Nat) (s : State) : Out :=
  match (s.runAt run).bind Run.retryAt with
  | none => .next s
  | some (t, n) => if s.pcyc < t || s.preempting run then .next s else .next ((s.mapRun run (fun r => { r with retryAt := none })).startCut run .preempt n)

/-- REMOTE_CUT_REQUEST (R87): another package of the job carries its cut here, taken as a command cut whatever its reason
(the model's choice, log 94). -/
def execRemoteCutRequest (run : Nat) (s : State) : Out :=
  match (s.runAt run).bind s.flightOf with
  | none => .next s
  | some f => if f.sysJob != 0 then .next (s.beginCut run .command 0) else .next s

/-! ## Resumption (R108, R211) -/

/-- The scope of the boundary with which a resumed core begins (R211). -/
def Flight.resumeScope (f : Flight) : Nat := if f.sysJob = 0 then 2 else 3

/-- Where the cores of a cut run come to stand: old and new number. -/
abbrev Moves := List (Nat × Nat)

/-- The new number of core `c`; one that took no part, and whose number another core of the run now has, goes by a number of its own,
of the same hall and die (R211; log 54). -/
def Moves.to (m : Moves) (c : Nat) : Nat :=
  match m.find? (fun p => p.1 == c) with
  | some p => p.2
  | none => if m.any (fun p => p.2 == c) then 2 ^ 20 + c else c

/-- What was done there stays done there: cores that move are known by the numbers they had (R211). -/
def Spot.moved (m : Moves) (p : Spot) : Spot :=
  { p with seen := m.map (fun x => (x.2, p.was x.1)) ++ p.seen.filter (fun e => !m.any (fun x => x.1 == e.1 || x.2 == e.1)) }

def Carried.moved (m : Moves) (c : Carried) : Carried := { c with from_ := m.to c.from_, spot := c.spot.moved m }
def Acquired.moved (m : Moves) (a : Acquired) : Acquired := { a with from_ := m.to a.from_ }

/-- A core, its knowledge and its events under new numbers. -/
def Core.moved (m : Moves) (k : Core) : Core :=
  { k with acquired := k.acquired.map (Acquired.moved m), eventFrom := k.eventFrom.map (fun e => (e.1, e.2.moved m)) }

/-- What the run holds about its cores under new numbers (R211). -/
def Run.moved (m : Moves) (r : Run) : Run :=
  { r with
    writes := r.writes.map (fun w => { w with core := m.to w.core })
    cellReleases := r.cellReleases.map (fun x => (x.1, x.2.moved m))
    arrays := r.arrays.map (fun a => { a with cells := a.cells.map (fun c => { c with adds := c.adds.map (fun d => (d.1, m.to d.2.1, d.2.2)) }) })
    tapes := r.tapes.map (fun t => { t with records := t.records.map (fun x => (x.1, x.2.1, x.2.2.moved m)) })
    confined := r.confined.map (fun x => (x.1, x.2.1, x.2.2.moved m))
    known := r.known.map (fun x => { x with acquired := x.acquired.map (Acquired.moved m) }) }

/-- The cores of a cut run that have an image, with the cores they are resumed on. -/
def Run.moves (r : Run) (css : List (Nat × List Nat)) : Moves :=
  css.flatMap (fun x => x.2.zipIdx.filterMap (fun c =>
    (r.saved.find? (fun y => y.node == x.1 && y.place == c.2)).map (fun y => (y.core.no, c.1))))

/-- The core that takes the place of core `c` in the placement of node `i`: also one that had ended its task and left no image, whose
contexts go on with their queued commands (R224, R230). -/
def Run.seat (r : Run) (css : List (Nat × List Nat)) (i c : Nat) : Option Nat :=
  match css.find? (fun x => x.1 == i), r.nodes[i]? with
  | some x, some ns => ((ns.cores.zip x.2).find? (fun y => y.1 == c)).map Prod.snd
  | _, _ => none

/-- The run and its contexts under the numbers of the cores `css` that its nodes take, the contexts loaded from their images (R230). -/
def State.moveRun (s : State) (r : Run) (css : List (Nat × List Nat)) : State :=
  let m := r.moves css
  { s.mapRun r.id (fun r => { r.moved m with engines := [] }) with
    contexts := s.contexts.map (fun (x : Context) =>
      if x.run == r.id then
        let x := match r.engines.find? (fun e => e.1 == x.id) with
          | some e => x.load e.2
          | none => x
        { x with core := x.core.map (fun c => (r.seat css x.node c).getD (m.to c)) }
      else x) }

/-- The lines that hold the bundle at the core's pc, and the dictionary entry that it calls: with them in its caches the core issues
on its first tick (R108 step 3). -/
def State.firstLines (s : State) (f : Flight) (k : Core) : Core :=
  let pc := k.arch.pc.toNat
  let ws := (List.range 11).filterMap (fun i => s.codeWord f (pc + 4 * i))
  let entry (i : Nat) : List Nat := [(k.arch.dictBase.toNat + 64 * i) % 2 ^ 64]
  let called : List Nat := match decodeWords ws with
    | .ok (.shortCall i _, _) => entry i.toNat
    | .ok (.longCall i _, _) => entry i.toNat
    | _ => []
  { k with icache := unionNat [icLine pc, icLine (pc + 40)] k.icache, dcache := called ++ k.dcache }

/-- One core of a cut run takes its place again. Its cell adds from before the cut wait for its next PHASE (log 86). -/
def State.resumeCore (s : State) (r : Run) (fn : Fn) (f : Flight) (m : Moves) (i c : Nat) (dom : List W32) (im : CoreImage) : State :=
  let seq := ((s.contextOf r.id c 4).bind (fun x => r.engines.find? (fun e => e.1 == x.id))).map (fun e => seqOfImage e.2)
  if im.core.stage == .idle then s.addCore { im.core.moved m with no := c, dom := dom, coreId := fn.coreIdOf c }
  else
    let k := im.load.moved m
    let k := { k with no := c, node := i, run := r.id, dom := dom, coreId := fn.coreIdOf c, collSeq := seq.getD k.collSeq }
    (s.unwalk c none).addCore (s.firstLines f ((r.moved m).boundaryOf k f.resumeScope))

/-- A cut kernel node takes the cores `cs` and its lines; members without a task hold their inputs raised. -/
def State.resumeNode (s : State) (r : Run) (fn : Fn) (f : Flight) (m : Moves) (i : Nat) (n : Node) (cs : List Nat) : State :=
  let us := s.linesFor f n
  let im (j : Nat) : Option CoreImage := r.saved.find? (fun x => x.node == i && x.place == j)
  let s := s.takeLines r.id i us cs
  let away := cs.zipIdx.filterMap (fun c => match im c.2 with
    | none => some c.1
    | some x => if x.core.stage == .idle then some c.1 else none)
  let s := { s with lines := s.lines.map (fun (l : Line) => if l.run == r.id && l.node == i then ({ l with ended := away } : Line) else l) }
  let s := s.mapRun r.id (fun r => r.mapNode i (fun ns => { ns with cores := cs }))
  cs.zipIdx.foldl (fun s c => match im c.2 with
    | none => s
    | some x => s.resumeCore r fn f m i c.1 (r.domWords i c.2 us) x) s

/-- The nodes of a cut run take their cores, one after another. -/
def State.resumeNodes (s : State) (r : Run) (fn : Fn) (f : Flight) (m : Moves) : List (Nat × List Nat) → State
  | [] => s
  | (i, cs) :: rest =>
    match f.nodes[i]? with
    | none => s.resumeNodes r fn f m rest
    | some n => if n.kind == .kernel then (s.resumeNode r fn f m i n cs).resumeNodes r fn f m rest else s.resumeNodes r fn f m rest

/-- CUT_RUN_RESUME (R92, R108): the cut run is what the landing dispatches next for its function. -/
def execCutRunResume (run : Nat) (s : State) : Out :=
  match s.runAt run with
  | none => .next s
  | some r =>
    if !s.canResume r || !s.leads r.fn (s.cutKey r) then .next s
    else
      match s.fnAt r.fn, s.flightOf r with
      | some fn, some f =>
        if s.resumeFault fn f r then .next (s.faultRun run 0x31)
        else
          (match f.chooseAll fn (r.cutRecords f) (s.freeCores fn) with
           | none => .next s
           | some css =>
             let m := r.moves (r.cutNodes.zip css)
             let s := (s.mapRun run (fun r => { r with stage := .active, retryAt := none })).moveRun r (r.cutNodes.zip css)
             .next (s.resumeNodes r fn f m (r.cutNodes.zip css)))
      | _, _ => .next s

/-! ## Pre-emption (R92) -/

/-- A ready kernel node of class 0 before ageing that has waited 60,000 ticks, while no such cut is in progress. -/
def State.triggers (s : State) (r : Run) (i : Nat) : Bool :=
  match s.flightOf r with
  | none => false
  | some f =>
    match f.nodes[i]?, r.nodes[i]? with
    | some n, some ns =>
      n.kind == .kernel && ns.stage == .ready && !ns.triggered && r.classOf f n == 0 && (!r.endDone || ns.dispatched) &&
      decide (ns.readyTick + Config.preempt ≤ s.pcyc) &&
      !s.preempting r.id
    | _, _ => false

/-- A running run of the function other than the trigger's. -/
def State.victims (s : State) (r : Run) : List (Run × Nat) :=
  s.runs.filterMap (fun x =>
    if x.fn == r.fn && x.id != r.id && x.stage == .active && x.busy then ((s.flightOf x).map (fun f => (x, x.victimClass f))) else none)

/-- Of two victims the one of the highest class number, then the one whose arm was accepted last. -/
def laterVictim (a b : Run × Nat) : Run × Nat :=
  if a.2 < b.2 || (a.2 == b.2 && decide (a.1.order < b.1.order)) then b else a

/-- The victim (R92). -/
def State.victim (s : State) (r : Run) : Option Run :=
  match s.victims r with
  | [] => none
  | v :: rest => some (rest.foldl laterVictim v).1

/-- PREEMPT_TIMER (R92). -/
def execPreemptTimer (run node : Nat) (s : State) : Out :=
  match s.runAt run with
  | none => .next s
  | some r =>
    if !s.triggers r node then .next s
    else
      let s := s.mapRun run (fun r => r.mapNode node (fun ns => { ns with triggered := true }))
      match s.victim r with
      | none => .next s
      | some v => .next (s.startCut v.id .preempt 0)

/-! ## The basin (R93, R99) -/

/-- A context is blocked while its oldest command waits for its collective match. -/
def Context.blocked (x : Context) : Bool :=
  match x.queue with
  | [] => false
  | c :: _ => decide (16 ≤ blkOp c.block) && !c.matched

/-- The timeline's context on the core's task is blocked. -/
def State.tlBlocked (s : State) (k : Core) (tl : Nat) : Bool := ((s.contextOf k.run k.no tl).map Context.blocked).getD false

/-- A core is blocked (R93), or stopped by a cut (R99); a publication of scope sys waits for other packages (R87). -/
def State.coreBlocked (s : State) (k : Core) : Bool :=
  k.stops.contains .cut ||
  (match k.stage with
   | .frozen (.streamFull _) => true
   | .frozen (.streamEmpty _) => true
   | .waitLine _ => true
   | .waitEvent _ => true
   | .publishing scope => scope == 3 && decide (1 < (((s.runAt k.run).bind s.flightOf).map Flight.nPkg).getD 0)
   | .frozen (.timeline tl _) => s.tlBlocked k tl
   | .frozen (.token p) => (match k.tokenOn p with
     | some (_, tl, some _) => s.tlBlocked k tl
     | _ => false)
   | _ => false)

/-- Every unit of the job is blocked, and there is one. -/
def State.jobBlocked (s : State) (r : Run) : Bool :=
  let cores := s.cores.filter (fun k => k.run == r.id && k.stage != .idle)
  let ctxs := s.contexts.filter (fun x => x.run == r.id && !x.queue.isEmpty)
  r.stage == .active && (!cores.isEmpty || !ctxs.isEmpty) && cores.all s.coreBlocked && ctxs.all Context.blocked

/-- The window of a stream tape in records, and in bytes. -/
def Run.windowOf (r : Run) (t : BitVec 20) (d : Dir) : Nat := if (r.tapeAt t).window = 0 then d.winRecs else (r.tapeAt t).window
def Run.windowSize (r : Run) (t : BitVec 20) (d : Dir) : Nat := r.windowOf t d * d.recSize

/-- Tapes that the job's heads hold or have appended to. -/
def State.streamTapes (s : State) (r : Run) : List (BitVec 20) :=
  (r.tapes.map TapeState.id ++ s.cores.flatMap (fun k =>
    if k.run == r.id then (k.arch.heads.filter Head.attached).map Head.tape else [])).eraseDups

/-- The full stream windows of the job: tape and size. -/
def State.fullWindows (s : State) (r : Run) (f : Flight) : List (BitVec 20 × Dir) :=
  (s.streamTapes r).filterMap (fun t => match s.dir f t with
    | none => none
    | some d => if d.attr == attrStream && decide (r.windowOf t d ≤ s.streamCount r t) then some (t, d) else none)

/-- Of two full windows the smaller, then the lower tape id. -/
def Run.smaller (r : Run) (a b : BitVec 20 × Dir) : BitVec 20 × Dir :=
  let x := r.windowSize a.1 a.2
  let y := r.windowSize b.1 b.2
  if y < x || (y == x && decide (b.1.toNat < a.1.toNat)) then b else a

/-- The smallest full window grows by its own size, rounded up to 64 KiB, from the function's share (R51, R93). -/
def State.enlarge (s : State) (r : Run) (fn : Fn) (x : BitVec 20 × Dir) : State :=
  let size := r.windowSize x.1 x.2
  let extra := (size + 65535) / 65536 * 65536
  let share := 16777216 * ((List.range 16).filter (fun g => fn.groups.getLsbD g)).length
  if share < fn.basinUsed + extra then s.faultRun r.id 0x32
  else
    (s.mapFn fn.no (fun f => { f with basinUsed := f.basinUsed + extra })).mapRun r.id (fun r =>
      { r.mapTape x.1 (fun t => { t with window := (size + extra) / x.2.recSize }) with basin := r.basin + extra, blockedSince := none })

/-- The run's units have been blocked for 4,096 ticks. -/
def State.basinDue (s : State) (r : Run) : Bool :=
  match r.blockedSince with
  | none => false
  | some t => decide (t + Config.basinWait ≤ s.pcyc) && s.jobBlocked r

/-- BASIN_TIMER (R93). -/
def execBasinTimer (run : Nat) (s : State) : Out :=
  match s.runAt run with
  | none => .next s
  | some r =>
    if !s.basinDue r then .next s
    else
      match s.fnAt r.fn, s.flightOf r with
      | some fn, some f =>
        (match s.fullWindows r f with
         | [] => .next (s.faultRun run 0x33)
         | w :: rest => .next (s.enlarge r fn (rest.foldl r.smaller w)))
      | _, _ => .next s

/-! ## What a tick counts -/

/-- A trap of the run is with a handler or held for the hypervisor: the cut's clock stands (R101). -/
def State.trapOut (s : State) (r : Run) : Bool :=
  !r.heldTraps.isEmpty ||
  s.cores.any (fun k => k.run == r.id && (k.handlerOf.isSome || s.fns.any (fun f => f.handlers.contains k.no)))

/-- M is due: 64 ticks have passed since the last report (Table 5.1 step 3). -/
def Run.dueM (r : Run) : Bool := (r.cut.map (fun c => c.step == 2 && decide (64 ≤ c.waited))).getD false

/-- A run as a tick passes: the clocks of its cut, and since when its units are blocked. -/
def State.runTick (s : State) (r : Run) : Run :=
  { r with
    cut := r.cut.map (fun c =>
      let c := { c with waited := if c.step == 2 && s.allStopped r.id then c.waited + 1 else 0 }
      if s.trapOut r then c else { c with left := c.left - 1 })
    blockedSince := if s.jobBlocked r then some (r.blockedSince.getD s.pcyc) else none }

end Sys2Proof.Machine
end

