-- ==== Sys2Proof/Machine/Traps.lean ====
section
/-! DEFINITION. The outcomes of traps (R111 to R113), handler tasks (R111), the repair of poison (R149, R172, R383), the job
control commands (R109, R112, Table 5.9), soft errors (R116) and translation shootdowns (R180). -/

namespace Sys2Proof.Machine

/-! ## The end of a rollback (R111) -/

/-- A trap held for the hypervisor: the record of kind 0x05 goes to the PF's ring alone, under the agent's physical number (R53, R112). -/
def State.holdTrap (s : State) (r : Run) (fn : Fn) (k : Core) (t : TrapRec) : State :=
  let s := s.mapRun r.id (fun r => { r with heldTraps := r.heldTraps ++ [⟨k.no, t.code, t.tick⟩] })
  let rec_ := s.runRec r 5 0 (BitVec.ofNat 16 k.node) (BitVec.ofNat 32 t.code)
  s.post (s.pfOf fn) { rec_ with tick := max rec_.tick (t.tick + 1), src := fn.agentPf }

/-- The policy acts on core `k`, rolled back, whose stage is `trapped` (R111, R112). -/
def State.applyPolicy (s : State) (r : Run) (fn : Fn) (k : Core) (t : TrapRec) (p : Policy) : State :=
  match p with
  | .resume => s
  | .fault => s.faultRun r.id t.code
  | .handler => s.mapFn fn.no (fun f => { f with handlers := f.handlers ++ [k.no] })
  | .hypervisor => if (r.cut.map Cut.reason) == some .power then s.faultRun r.id t.code else s.holdTrap r fn k t
  | .debug =>
    if r.cut.isSome then s.faultRun r.id 0x37 else s.setCore { k with stage := .run, stops := k.stops ++ [.halt] }

/-- After a rollback, walks that the window of one of the core's heads does not wait for are no longer marked as its own (R161). -/
def State.keepWalks (s : State) (f : Flight) (k : Core) : State :=
  let wants (w : Walk) (n : Nat) : Bool :=
    let h := k.arch.heads.getD n Head.detached
    match s.dir f w.tape with
    | none => false
    | some d => h.attached && h.tape == w.tape && (List.range (131072 / d.recSize + 3)).any (fun i =>
        let x := h.pos.toNat - 65536 / d.recSize + i
        inWindow d h x && d.extentOf x == w.index)
  { s with halls := s.halls.map (fun h => { h with walks := h.walks.map (fun w =>
      { w with windows := w.windows.filter (fun x => x.1 != k.no || wants w x.2) }) }) }

/-- The outcome of the policy is a job fault (R111, R112): by itself, of a trap held while a cut is made for P3, or of a halt in a cut. -/
def Run.endsWith (r : Run) (p : Policy) : Bool :=
  p == .fault || (p == .hypervisor && (r.cut.map Cut.reason) == some .power) || (p == .debug && r.cut.isSome)

/-- A trap on core `k` as its rollback ends. Where it is a job fault, the traps of the run still in their rollback have their records
behind it (R109, R113). -/
def State.trapTaken (s : State) (r : Run) (fn : Fn) (f : Flight) (k : Core) (t : TrapInfo) (dict : W64) (tick : Nat) : State :=
  let y := s.recordTrap fn f k t dict tick
  let k1 := { k.rollback.1 with stage := .trapped y.2 (t.records k) }
  ((y.1.setCore k1).keepWalks f k1).applyPolicy r fn k1 y.2 (s.policyOf fn f k t)

/-- TRAP_ROLLBACK_COMPLETE (R109 to R113, R127): everything issued at or before the checkpoint has landed, and no trap of the run with
an earlier stamp is still in its rollback (R113); the checkpoint's state is restored, the trap record made, and the policy acts. -/
def execTrapRollbackComplete (core : Nat) (s : State) : Out :=
  match s.coreJob core with
  | none => .next s
  | some (k, r, fn, f) =>
    match k.stage with
    | .trapping t dict tick =>
      if k.settled && !s.earlierTrap k tick then .next ((s.trapTaken r fn f k t dict tick).passTurn core) else .next s
    | _ => .next s

/-! ## Handler tasks (R111) -/

/-- The 64 bytes of a trap record (Table 5.7). -/
def TrapRec.bytes (t : TrapRec) : List Byte :=
  leBytes 8 t.tick ++ leBytes 2 t.src.toNat ++ leBytes 1 t.code ++ leBytes 1 t.slot ++ leBytes 2 t.tflags.toNat ++
  leBytes 2 t.flight.toNat ++ leBytes 8 t.pc.toNat ++ leBytes 8 t.ckPc.toNat ++ leBytes 8 t.dict.toNat ++
  leBytes 8 t.info0.toNat ++ leBytes 8 t.info1.toNat ++ leBytes 2 t.node.toNat ++ leBytes 6 0

/-- s1 to s7 of a handler task: record bytes 0 to 55. -/
def TrapRec.regs (t : TrapRec) : List (Nat × W64) :=
  (List.range 7).map (fun i => (i + 1, BitVec.ofNat 64 (leVal ((t.bytes.drop (8 * i)).take 8))))

/-- HANDLER_TASK_START (R111): on the free core of lowest virtual number, for the trap that has waited longest; during a cut for P3 too
(R101). -/
def execHandlerTaskStart (trapped : Nat) (s : State) : Out :=
  match s.coreJob trapped with
  | none => .next s
  | some (k, r, fn, _) =>
    match k.stage, (s.freeCores fn).head? with
    | .trapped t _, some c =>
      if fn.handlers.head? == some trapped && s.enginesRun then
        let s := s.mapFn fn.no (fun f => { f with handlers := f.handlers.drop 1 })
        .next (s.startTask r fn k.node c fn.hndCode fn.hndDict t.regs [0, 0, 0, 0] [0, 0, 0, 0] (some trapped))
      else .next s
    | _, _ => .next s

/-! ## Repairing poison (R149, R172, R383) -/

/-- Bytes with some 64-byte granules taken from another list. -/
def patchGranules (gs : List Nat) (good old : List Byte) : List Byte :=
  old.zipIdx.map (fun b => if gs.contains (b.2 / 64) then good.getD b.2 0 else b.1)

/-- The record that lies at place `p` of a tape's storage: on a stream tape the last released one of that place in the ring (R169). -/
def Dir.recordAt (d : Dir) (fill p : Nat) : Option Nat :=
  if d.attr != attrStream then (if p < d.length then some p else none)
  else
    let w := max 1 d.winRecs
    let x := fill / w * w + p
    if w ≤ p then none else if x < fill then some x else if w ≤ x then some (x - w) else none

/-- The records that share a record's first granule in storage: itself, where it fills granules of its own (R383). -/
def Dir.mates (d : Dir) (fill record : Nat) : List Nat :=
  if d.recSize < 64 then
    (List.range (64 / d.recSize)).filterMap (fun i => d.recordAt fill (d.ring record / (64 / d.recSize) * (64 / d.recSize) + i))
  else [record]

/-- The core's own released rewrite of a record, where it has arrived, takes in what the repair has written over it (R383). -/
def Core.patchOwn (k : Core) (r : Run) (t : BitVec 20) (gs : List Nat) (record : Nat) (good : List Byte) : Core :=
  { k with ownWrites := k.ownWrites.map (fun w =>
      if w.1 == t.toNat && w.2.1 == record && !r.flying.any (fun x => x.isTape w.2.2.1) then
        (w.1, w.2.1, w.2.2.1, patchGranules gs good w.2.2.2)
      else w) }

/-- Granules `gs` of a record receive the backing copy's bytes, one write in coherence order for every reader, and no window keeps the
record. -/
def State.patchRecord (s : State) (r : Run) (fn : Fn) (f : Flight) (t : BitVec 20) (d : Dir) (gs : List Nat) (record : Nat) : State :=
  match s.place fn f d record, s.backingBytes r fn f d record with
  | some p, some good =>
    let s := s.storeWrite p (patchGranules gs good (s.storeBytes p d.recSize))
    let s := s.mapRun r.id (fun r => { r.mapTape t (fun x => { x with records := x.records.map (fun y =>
        if y.1 == record then (y.1, patchGranules gs good y.2.1, y.2.2) else y) }) with
      writes := r.writes.map (fun w =>
        if w.tape == t && w.record == record then ({ w with data := patchGranules gs good w.data } : TapeWrite) else w) })
    { s with cores := s.cores.map (fun (k : Core) =>
      if k.run == r.id then
        { k.patchOwn r t gs record good with windows := (k.windows.zip k.arch.heads).map (fun x =>
            if x.2.tape == t then x.1.filter (fun y => y.record != record) else x.1) }
      else k) }
  | _, _ => s

/-- The still poisoned granules of a record receive the backing copy's bytes, for every reader (R172, R383): a granule that several
short records share, whole. Where one of them has no backing storage, or another record lies in the ring place now, nothing is
written. -/
def State.repairRecord (s : State) (r : Run) (fn : Fn) (f : Flight) (t : BitVec 20) (record : Nat) : State :=
  match s.dir f t with
  | none => s
  | some d =>
    match s.place fn f d record with
    | none => s
    | some p =>
      let fill := (r.tapeAt t).fill
      let ms := d.mates fill record
      if r.isTorn t || (d.attr == attrStream && decide (record + d.winRecs < fill)) ||
          !ms.all (fun x => (s.place fn f d x).isSome && (s.backingPlace fn f d x).isSome) then s
      else
        let gs := s.badGranules p d.recSize
        (ms.foldl (fun s x => s.patchRecord r fn f t d gs x) s).cleanGranules (p.1, p.2 / 64 * 64) (max 64 d.recSize)

/-- The corrected bytes go to the core's tagged lines that name the record; their bits and tags clear. -/
def Core.repairLines (k : Core) (t : BitVec 20) (record : Nat) (good : List Byte) : Core :=
  let mine := k.tags.filter (fun g => g.tape == t && g.record == record)
  let k := mine.foldl (fun k g => g.parts.foldl (fun k x =>
    let bs := (good.drop x.1).take x.2.2
    { k with gallery := k.gallery.write (256 * g.line + x.2.1) bs, dirty := dirtyWith k.dirty (256 * g.line + x.2.1, bs.length) }) k) k
  { k with
    poison := k.poison.filter (fun l => !mine.any (fun g => g.line == l))
    tags := k.tags.filter (fun g => !(g.tape == t && g.record == record)) }

/-- One record repaired for the trapped core. -/
def State.repairOne (s : State) (r : Run) (fn : Fn) (f : Flight) (c : Nat) (x : BitVec 20 × Nat) : State :=
  let s := s.repairRecord r fn f x.1 x.2
  match s.dir f x.1 with
  | none => s
  | some d =>
    match s.backingBytes r fn f d x.2 with
    | none => s
    | some good => s.mapCore c (fun k => k.repairLines x.1 x.2 good)

/-- POISON_REPAIR_COMPLETE (R149, R172): the records are repaired and the trapped core restarts. -/
def execPoisonRepairComplete (core : Nat) (s : State) : Out :=
  match s.coreJob core with
  | none => .next s
  | some (k, r, fn, f) =>
    match k.stage with
    | .trapped t records =>
      if t.code = 0x07 then
        let s := records.foldl (fun s x => s.repairOne r fn f core x) s
        .next (s.mapCore core Core.restart)
      else .next s
    | _ => .next s

/-! ## Job control (R109, R112, R115, Tables 5.6, 5.9) -/

/-- jc_cmd as it stands once a command has ended: the field values, with go clear. -/
def jcWord (op : Nat) (fnNo : BitVec 5) (index : BitVec 8) (flight : BitVec 10) : W32 :=
  BitVec.ofNat 32 (op * 2 ^ 28 + fnNo.toNat * 2 ^ 21 + index.toNat * 2 ^ 10 + flight.toNat)

/-- jc_cmd of the function once a command has ended: a field that the command's event does not name stays as it stood (log 77). -/
def Fn.jcWordOf (f : Fn) (op : Nat) (fnNo : BitVec 5) (index : Option (BitVec 8)) (flight : Option (BitVec 10)) : W32 :=
  jcWord op fnNo (index.getD (fld f.jcCmd 10 8)) (flight.getD (fld f.jcCmd 0 10))

/-- A job control command of function `fn` ends. None ends with 0x42 BUSY (the model's choice, log 106). -/
def State.jcEnd (s : State) (fn : Nat) (word : W32) (status : Nat) : State :=
  s.mapFn fn (fun f => { f with jcCmd := word, jcStat := status })

/-- The function a command addresses: its own for a VF (R115). -/
def State.jcTarget (s : State) (fn : Nat) (fnNo : BitVec 5) : Option Fn :=
  match s.answering fn with
  | none => none
  | some f => if f.isPf then s.fnAt fnNo.toNat else some f

/-- The run a command names. -/
def State.jcRun (s : State) (fn : Nat) (fnNo : BitVec 5) (flight : BitVec 10) : Option Run :=
  (s.jcTarget fn fnNo).bind (fun f => s.activeRun f.no flight.toNat)

/-- JC_CUT (R97). -/
def execJcCut (fn : Nat) (fnNo : BitVec 5) (flight : BitVec 10) (s : State) : Out :=
  match s.answering fn with
  | none => .next s
  | some f =>
    let w := f.jcWordOf 1 fnNo none (some flight)
    match s.jcRun fn fnNo flight with
    | none => .next (s.jcEnd fn w 0x40)
    | some r => .next ((s.jcEnd fn w 0).startCut r.id .command 0)

/-- The function may settle traps of the target: it is the PF of its link (R48, R112). -/
def State.settles (s : State) (fn : Nat) (t : Fn) : Bool := fn == t.no && t.isPf || fn == s.pfOf t

/-- A hold is complete once its record has a place in the PF's buffer (R60): the last of the run's holds are those whose records
wait. -/
def State.heldSaid (s : State) (r : Run) : List HeldTrap :=
  let pf := ((s.fnAt r.fn).map s.pfOf).getD 0
  let waits := (((s.fnAt pf).map Fn.waiting).getD []).filter (fun x =>
    x.kind == 5 && x.flight.toNat == r.flight && x.hostSeq == r.arm.hostSeq && x.slot.toNat == r.arm.slot)
  r.heldTraps.take (r.heldTraps.length - waits.length)

/-- The held trap of lowest stamp. -/
def Run.oldestHeld (r : Run) : Option HeldTrap :=
  match r.heldTraps with
  | [] => none
  | h :: rest => some (rest.foldl (fun a b => if b.tick < a.tick || (b.tick == a.tick && decide (b.core < a.core)) then b else a) h)

/-- RESUME_HELD and FAULT_HELD: how each settles the oldest held trap (R112). -/
def State.settleHeld (s : State) (fn op : Nat) (fnNo : BitVec 5) (flight : BitVec 10) (act : State → Run → HeldTrap → State) : State :=
  match s.answering fn with
  | none => s
  | some f =>
    let w := f.jcWordOf op fnNo none (some flight)
    match s.jcTarget fn fnNo with
    | none => s.jcEnd fn w 0x40
    | some t =>
      if !s.settles fn t then s.jcEnd fn w 0x43
      else
        match s.activeRun t.no flight.toNat with
        | none => s.jcEnd fn w 0x40
        | some r =>
          match ({ r with heldTraps := s.heldSaid r } : Run).oldestHeld with
          | none => s.jcEnd fn w 0x41
          | some h => act (s.jcEnd fn w 0) r h

/-- JC_RESUME_HELD (R112): the core restarts at ck_pc. -/
def execJcResumeHeld (fn : Nat) (fnNo : BitVec 5) (flight : BitVec 10) (s : State) : Out :=
  .next (s.settleHeld fn 2 fnNo flight (fun s r h =>
    (s.mapRun r.id (fun r => { r with heldTraps := r.heldTraps.erase h })).mapCore h.core Core.restart))

/-- JC_FAULT_HELD (R112): a job fault whose cause is the code. -/
def execJcFaultHeld (fn : Nat) (fnNo : BitVec 5) (flight : BitVec 10) (s : State) : Out :=
  .next (s.settleHeld fn 3 fnNo flight (fun s r h => s.faultRun r.id h.code))

/-- JC_READ_TRAP (R109). -/
def execJcReadTrap (fn : Nat) (fnNo : BitVec 5) (index : BitVec 8) (s : State) : Out :=
  match s.answering fn with
  | none => .next s
  | some f =>
    let w := f.jcWordOf 4 fnNo (some index) none
    match (s.jcTarget fn fnNo).bind (fun t => t.traps[index.toNat]?) with
    | none => .next (s.jcEnd fn w 0x44)
    | some t => .next ((s.jcEnd fn w 0).mapFn fn (fun f => { f with trapBuf := t.bytes }))

/-! ## Soft errors and page-table changes -/

/-- SOFT_ERROR_DETECTED (R116, R171): in a granule of storage, named by its place, it marks the granule poisoned and no job sees it
before it reads it; elsewhere it is the run's fault UNCORRECTABLE (log 62). -/
def execSoftErrorDetected (site : ErrorSite) (s : State) : Out :=
  match site with
  | .storage far a =>
    .next (if a < (if far then hbmSize else 4294967296) then { s with poison := insertNat (granule (far, a)) s.poison } else s)
  | .elsewhere run => .next (s.faultRun run 0x38)

/-- An address lies in a page. -/
def inPage (vpn va : Nat) : Bool := va / 65536 == vpn

/-- A core forgets what its caches hold of a page (R180); its loop buffer keeps the bundles it has captured (R288). -/
def Core.shoot (k : Core) (vpn : Nat) : Core :=
  { k with
    icache := k.icache.filter (fun l => !inPage vpn (l * Config.icacheLine))
    dcache := k.dcache.filter (fun a => !inPage vpn a) }

/-- TRANSLATION_SHOOTDOWN (R180; log 6): the page changes, and every core of the job forgets it. -/
def execTranslationShootdown (fn flight : Nat) (page : PageEntry) (s : State) : Out :=
  let s := s.mapFn fn (fun f => f.mapFlight flight (fun fl =>
    { fl with pages := fl.pages.filter (fun p => p.vpn != page.vpn) ++ [page] }))
  let mine (rid : Nat) : Bool := s.runs.any (fun r => r.id == rid && r.fn == fn && r.flight == flight)
  .next { s with cores := s.cores.map (fun k => if mine k.run then k.shoot page.vpn else k) }

end Sys2Proof.Machine
end

