-- ==== Sys2Proof/Machine/Debug.lean ====
section
/-! DEFINITION. The debug window (R38, R43, R44, R115, R131, Tables 2.5, 5.6): HALT, STEP, RUN, READ, WRITE, and the end of a
session. -/

namespace Sys2Proof.Machine

/-! ## Who may do what -/

/-- The core that dbg_addr names, in the function's own numbering (R53). -/
def Fn.dbgCore (f : Fn) : Option Nat :=
  let n := (fld f.dbgAddr 54 10).toNat
  if f.isPf then some n else f.cores[n]?

/-- The offset that dbg_addr names. -/
def Fn.dbgOff (f : Fn) : Nat := (fld f.dbgAddr 0 19).toNat

/-- The function that owns a core. -/
def State.ownerOf (s : State) (c : Nat) : Option Fn := s.fns.find? (fun f => f.halls.contains (hallOf c))

/-- The session reaches the core: the whole package, or the cores of its virtual device (Table 2.5). -/
def State.reaches (s : State) (x : Session) (c : Nat) : Bool :=
  match x.vd with
  | none => true
  | some n => ((s.ownerOf c).map Fn.no) == some (n + 1)

/-- Gallery or scratch of a secured virtual device, which a physical function cannot read (R37). -/
def State.sealed (s : State) (f : Fn) (c off len : Nat) : Bool :=
  f.isPf && s.rot.cfg.secState == 2 && ((s.ownerOf c).map Fn.secured).getD false &&
  (rangesMeet (off, len) (0x10000, 0x10000) || rangesMeet (off, len) (0x40000, 0x40000))

/-- The status with which a command of function `f` is turned away, or none: the session, its level and scope, the power state
(Table 2.5), and the byte count of the commands that move data. In P3 the table leaves no core state to an OBSERVE session and names no
status: a READ ends with GATED (log 59). In P2 it names GATED for writes alone; HALT, STEP and RUN end with it too (log 90). -/
def State.dbgRefusal (s : State) (f : Fn) (writes : Bool) (count : Option Nat) : Option Nat :=
  match s.rot.session with
  | none => some 0x53
  | some x =>
    if x.fn != f.no then some 0x53
    else if writes && !x.halt then some 0x52
    else if s.power.state == .p3 || (writes && s.power.state == .p2) then some 0x51
    else
      match f.dbgCore with
      | none => some 0x52
      | some c =>
        if !s.reaches x c then some 0x52
        else
          match count with
          | none => none
          | some n => if n = 0 || 4096 < n || (!writes && s.sealed f c f.dbgOff n) then some 0x52 else none

/-- A debug command of function `fn` ends: its word without go, the byte count of a command that has none as it stood (log 77), and its
status. -/
def State.dbgEnd (s : State) (fn op : Nat) (count : Option Nat) (status : Nat) : State :=
  s.mapFn fn (fun f => { f with
    dbgCmd := BitVec.ofNat 32 (op * 2 ^ 28 + count.getD (fld f.dbgCmd 12 16).toNat * 2 ^ 12), dbgStat := status })

/-- Core `c` as the debugger finds it: with its task, or as its last task left it (R44, R395). -/
def State.dbgTarget (s : State) (c : Nat) : Option Core := if c < 1024 then some ((s.coreAt c).getD (s.idleCore c)) else none

/-- A command that acts on a core; HALT, STEP, RUN and the writes are denied on one that holds no task (log 59). -/
def State.dbgCommand (s : State) (fn op : Nat) (count : Option Nat) (writes : Bool) (act : State → Core → State × Nat) : State :=
  match s.answering fn with
  | none => s
  | some f =>
    match s.dbgRefusal f writes count with
    | some st => s.dbgEnd fn op count st
    | none =>
      match (f.dbgCore.bind s.dbgTarget).filter (fun k => !writes || k.stage != .idle) with
      | none => s.dbgEnd fn op count 0x52
      | some k =>
        let x := act s k
        x.1.dbgEnd fn op count x.2

/-! ## HALT, STEP, RUN -/

/-- DBG_HALT (R38): the core freezes at its next bundle boundary, code 0x41 (R128): at once, when it stands there already. A core that a
cut holds then faults its job (R100). -/
def execDbgHalt (fn : Nat) (s : State) : Out :=
  .next (s.dbgCommand fn 1 none true (fun s k =>
    if k.stops.contains .halt || k.asks.contains .halt then (s, 0)
    else if k.standsStill then (s.haltNow k, 0)
    else (s.setCore { k with asks := k.asks ++ [.halt] }, 0)))

/-- A core leaves its halt; it moves when no other stop holds it (R115, R129). -/
def Core.leaveHalt (k : Core) : Core :=
  let k := { k with stops := k.stops.filter (fun x => x != StopKind.halt), asks := k.asks.filter (fun x => x != StopKind.halt), stepVc := none }
  if k.stops.isEmpty then k.resumed else k

/-- DBG_STEP (R131): a halted core issues one bundle and halts again. -/
def execDbgStep (fn : Nat) (s : State) : Out :=
  .next (s.dbgCommand fn 2 none true (fun s k =>
    if k.stops.contains .halt then (s.setCore { k.leaveHalt with stepVc := some k.vc }, 0) else (s, 0x52)))

/-- DBG_RUN (R115): the core resumes with its replay, withhold and undo state intact. -/
def execDbgRun (fn : Nat) (s : State) : Out :=
  .next (s.dbgCommand fn 3 none true (fun s k =>
    if k.stops.contains .halt || k.asks.contains .halt || k.stepVc.isSome then (s.setCore k.leaveHalt, 0) else (s, 0x52)))

/-! ## READ and WRITE (R131) -/

/-- Image bytes of a core as they stand. -/
def State.peek (s : State) (k : Core) (off n : Nat) : List Byte :=
  let head := s.imageHead k
  (List.range n).map (fun i => k.imageByte head (off + i))

/-- DBG_READ (R131): present contents, locked or not, to the start of dbg_data. Every byte of the layout of Table 5.2 can be read, by an
OBSERVE session too (log 59). -/
def execDbgRead (fn : Nat) (count : W16) (s : State) : Out :=
  .next (s.dbgCommand fn 4 (some count.toNat) false (fun s k =>
    let off := ((s.fnAt fn).map Fn.dbgOff).getD 0
    (s.mapFn fn (fun f => { f with dbgData := f.dbgData.write 0 (s.peek k off count.toNat) }), 0)))

/-- Image ranges that a result's landing writes: a register's name, a predicate, a mask, gallery bytes. -/
def Core.pendRanges (k : Core) (p : Pend) : List (Nat × Nat) :=
  match p.dest with
  | .none => []
  | .reg n => if n = 0 then [] else [(0x100 + 8 * regName k.arch.rot n, 8)]
  | .pred _ => [(0x300, 1)]
  | .mask n => [(0x308 + 8 * n, 8)]
  | .bytes _ => p.lock.map (fun x => (0x40000 + x.1, x.2))

/-- A result's landing covers a byte of the range. -/
def Core.covered (k : Core) (r : Nat × Nat) (p : Pend) : Bool := (k.pendRanges p).any (rangesMeet r)

/-- A register that waits for a token is locked, and no entry can be discarded for it (R124). -/
def Core.tokenIn (k : Core) (r : Nat × Nat) : Bool :=
  k.tokens.any (fun t => rangesMeet r (0x100 + 8 * regName k.arch.rot t.1, 8))

/-- The rotation offset of an image over a core's state: the innermost loop entry's, or the core's own with no entry. -/
def Core.rotWith (k : Core) (img : Nat → Byte) : Nat := rotOf img k.arch.rot

/-- A descriptor of view `n` whose valid bit is to be `v`: only one that passes its checks is valid (R137, R139, R140). -/
def descWith (n : Nat) (d : Desc) (v : Bool) : Desc :=
  if v && descValid n d then d ||| (1#128 <<< 127) else d &&& ~~~(1#128 <<< 127)

/-- Image bytes of registers that are read-only: %dom0 to %dom3, %rsdepth, %cpos and the mode words of the heads (R10, Tables 8.6,
15.4, 17.2). -/
def imageRo (o : Nat) : Bool :=
  (0x430 ≤ o && o < 0x444) || (0x450 ≤ o && o < 0x458) || (0x500 ≤ o && o < 0x700 && o % 64 / 4 == 1)

/-- What a descriptor table keeps of `old` whatever is written: the valid bits, and the status words of the accumulators, which the
hardware alone sets (R10, Tables 7.2 to 7.5). A descriptor that no longer passes its checks is not valid (log 25). -/
def Arch.keepRo (a old : Arch) : Arch :=
  { a with views := a.views.zipIdx.map (fun d =>
      let was := old.view d.2
      descWith d.2 (if d.2 < 48 then d.1 else (d.1 &&& ~~~0xFFFFFFFF) ||| (was &&& 0xFFFFFFFF)) (was.getLsbD 127)) }

/-- Bytes of a write at `off` that lie in `[lo, lo + len)`: where they start in it, and the bytes. -/
def clipTo (off : Nat) (data : List Byte) (lo len : Nat) : Nat × List Byte :=
  let a := max off lo
  let b := min (off + data.length) (lo + len)
  (a - lo, (data.drop (a - off)).take (b - a))

/-- The replay entries behind a write: those whose bytes it touches are read again. -/
def Core.replayWith (k : Core) (img : Nat → Byte) (off len : Nat) : List Pend :=
  (List.range 64).filterMap (fun i =>
    if rangesMeet (off, len) (0x1000 + 272 * i, 272) then entryOf k.replay[i]? img (k.rotWith img) k.vc k.arch.pc i else k.replay[i]?)

/-- A core with image bytes written: registers and tables through the image, the large stores in place (R147). Writes of read-only
bits are ignored, and of %vt a 1 unconfigures its view (R10, Table 7.1). A write of gallery bytes is no landing: it leaves poison bits
and tags (R148). -/
def Core.poke (k : Core) (head : List Byte) (off : Nat) (data : List Byte) : Core :=
  let written (o : Nat) : Bool := off ≤ o && o < off + data.length
  let img (o : Nat) : Byte := if written o && !imageRo o then data.getD (o - off) 0 else k.imageByte head o
  let vt := imgNum (fun o => if written o then data.getD (o - off) 0 else 0) 0x448 8
  let len := data.length
  let k1 := if off < 0x1000 then k.loadRegs (k.rotWith img) img else k
  let k1 := { k1 with arch := (k1.arch.keepRo k.arch).writeSys 0x020 (BitVec.ofNat 64 vt) }
  let stack := clipTo off data 0x8000 (min k.arch.onCore 0x8000)
  let scr := clipTo off data 0x10000 0x10000
  let his := clipTo off data 0x20000 0x1C000
  let gal := clipTo off data 0x40000 0x40000
  let k2 := { k1 with
    replay := k.replayWith img off len, ring := ringFrom (k.arch.rsSp + stack.1) stack.2 k1.ring
    scratch := k1.scratch.write scr.1 scr.2, history := k1.history.write his.1 his.2 }
  if gal.2.isEmpty then k2 else { k2.land [(gal.1, gal.2.length)] gal.2 with poison := k2.poison, tags := k2.tags }

/-- A write by the debugger of `count` bytes of dbg_data. -/
def State.dbgPoke (s : State) (fn count : Nat) (discard : Bool) (k : Core) : State × Nat :=
  match s.fnAt fn with
  | none => (s, 0x52)
  | some f =>
    let r := (f.dbgOff, count)
    if !k.stops.contains .halt then (s, 0x52)
    else
      let held := (k.replay ++ k.pend).any (k.covered r)
      if k.tokenIn r || (held && !discard) then (s, 0x50)
      else
        let k := { k with replay := k.replay.filter (fun p => !k.covered r p), pend := k.pend.filter (fun p => !k.covered r p) }
        (s.setCore (k.poke (s.imageHead k) f.dbgOff (f.dbgData.bytes 0 count)), 0)

/-- DBG_WRITE (R131): refused with LOCKED where a result still to land covers a byte. -/
def execDbgWrite (fn : Nat) (count : W16) (s : State) : Out :=
  .next (s.dbgCommand fn 5 (some count.toNat) true (fun s k => s.dbgPoke fn count.toNat false k))

/-- DBG_WRITE_DISCARD (R131): the covering entries are dropped and never land. -/
def execDbgWriteDiscard (fn : Nat) (count : W16) (s : State) : Out :=
  .next (s.dbgCommand fn 6 (some count.toNat) true (fun s k => s.dbgPoke fn count.toNat true k))

/-! ## The end of a session (R43) -/

/-- The session ends: every core it holds halted resumes. -/
def State.endSession (s : State) : State :=
  match s.rot.session with
  | none => s
  | some x =>
    let s := if x.halt then { s with cores := s.cores.map (fun k => if s.reaches x k.no then k.leaveHalt else k) } else s
    { s with rot := { s.rot with session := none, sessEnd := true } }

end Sys2Proof.Machine
end

