-- ==== Sys2Proof/Machine/Engines.lean ====
section
/-! DEFINITION. The copy and collective engines (11): what a command reads and writes (R221 to R223), the arithmetic of the
collectives (R226, R227), service in rotation (R216), matching (R224, R225), completion (R210, R217, R228), and the commands of
transform nodes (R90, R396). -/

namespace Sys2Proof.Machine

/-! ## CRC-32C (R223) -/

/-- One bit of the reflected CRC-32C. -/
def crc32cBit (c : W32) : W32 := if c.getLsbD 0 then (c >>> 1) ^^^ 0x82F63B78 else c >>> 1

/-- One byte. -/
def crc32cByte (c : W32) (b : Byte) : W32 := (List.range 8).foldl (fun c _ => crc32cBit c) (c ^^^ b.setWidth 32)

/-- CRC-32C of bytes. -/
def crc32c (bs : List Byte) : W32 := ~~~(bs.foldl crc32cByte 0xFFFFFFFF)

/-! ## The two ends of a command (R221, R222) -/

/-- An end of a command: a tape, or a host window. -/
inductive CmdEnd where
  | tape (t : BitVec 20) (d : Dir)
  | window (w : BitVec 128)
  deriving DecidableEq, Repr

/-- Why a command fails, as the cause of the job fault. -/
abbrev CmdRes (α : Type) := Except Nat α

/-- A tape end; a directory entry that is not valid gives 0x08 (R222). -/
def State.tapeEnd (s : State) (f : Flight) (t : BitVec 20) : CmdRes CmdEnd :=
  match s.dir f t with
  | none => .error 0x08
  | some d => .ok (.tape t d)

/-- The source and the destination of a block; a destination is a read-only or update tape (R222). -/
def State.cmdSrc (s : State) (f : Flight) (c : Command) : CmdRes CmdEnd :=
  if blkHostSrc c.block then .ok (.window (c.windows.getD (blkNum c.block 8 4 % 64) 0)) else s.tapeEnd f (BitVec.ofNat 20 (blkNum c.block 8 4))
def State.cmdDst (s : State) (f : Flight) (c : Command) : CmdRes CmdEnd :=
  if blkHostDst c.block then .ok (.window (c.windows.getD (blkNum c.block 12 4 % 64) 0))
  else
    match s.tapeEnd f (BitVec.ofNat 20 (blkNum c.block 12 4)) with
    | .ok (.tape t d) => if d.attr == attrAppend || d.attr == attrStream then .error 0x08 else .ok (.tape t d)
    | x => x

/-- The bytes of an end that can be reached: from and up to; none of a tape's fill count or freed records lie outside (R222). -/
def CmdEnd.bounds (e : CmdEnd) (r : Run) (reading : Bool) : Nat × Nat :=
  match e with
  | .tape t d =>
    let st := r.tapeAt t
    if reading && d.attr == attrAppend then (0, st.fill * d.recSize)
    else if reading && d.attr == attrStream then (st.freed * d.recSize, st.fill * d.recSize)
    else (0, d.length * d.recSize)
  | .window w => (0, (fld w 64 32).toNat * 4096)

/-- The cause of an access beyond the end (R65, R221). -/
def CmdEnd.beyond (e : CmdEnd) : Nat :=
  match e with
  | .tape .. => 0x09
  | .window _ => 0x20

/-- First bit of an end's base. -/
def CmdEnd.base (e : CmdEnd) (v : Nat) : Int :=
  match e with
  | .tape _ d => ((v % 2 ^ 40 * d.recSize * 8 : Nat) : Int)
  | .window _ => ((v * 8 : Nat) : Int)

/-- An element of `w` bits at bit `b` lies within the bounds. -/
def inBounds (bounds : Nat × Nat) (b : Int) (w : Nat) : Bool :=
  decide ((bounds.1 * 8 : Nat) ≤ b) && decide (b + w ≤ ((bounds.2 * 8 : Nat) : Int))

/-! ## Reading -/

/-- Bytes of one record of a tape, as a command reads them: its poisoned granules too. -/
def State.cmdRecord (s : State) (r : Run) (fn : Fn) (f : Flight) (c : Command) (t : BitVec 20) (d : Dir) (record : Nat) (sel : List Nat) :
    CmdRes (List Byte × List Nat) :=
  if d.attr == attrStream then
    match (r.tapeAt t).records.find? (fun x => x.1 == record) with
    | some x => .ok (if r.isTorn t then s.tornBytes d t record (2 ^ 32 - 1) else x.2.1, s.ringPoison r fn f d t record)
    | none => .error 0x09
  else
    match s.readRecord r fn f d t record { reached := c.reached, own := 2 ^ 32 - 1, floor := 0, bound := none, cap := none } sel with
    | none => .error 0x08
    | some x => .ok (x.1, x.2.1)

/-- The byte ranges, first and last, that elements of `w` bits at these bits lie in. -/
def touched (w : Nat) (bits : List Int) : List (Nat × Nat) := bits.map (fun b => (b.toNat / 8, (b.toNat + w - 1) / 8))

/-- Records that byte ranges touch. -/
def touchedRecords (d : Dir) (rs : List (Nat × Nat)) : List Nat :=
  (rs.flatMap (fun x => (List.range (x.2 / d.recSize + 1 - x.1 / d.recSize)).map (fun k => x.1 / d.recSize + k))).eraseDups

/-- A record's bytes for a command. A poisoned granule it reads is read again from the backing copy (R222, R172); without one the
command fails. -/
def State.cmdFetch (s : State) (r : Run) (fn : Fn) (f : Flight) (c : Command) (t : BitVec 20) (d : Dir) (rs : List (Nat × Nat))
    (sel : List Nat) (record : Nat) : CmdRes (State × List Byte) :=
  match s.cmdRecord r fn f c t d record sel with
  | .error e => .error e
  | .ok (bs, bad) =>
    let hit := bad.any (fun g => rs.any (fun x => rangesMeet (x.1, x.2 + 1 - x.1) (record * d.recSize + 64 * g, 64)))
    if !hit then .ok (s, bs)
    else if !d.backed then .error 0x07
    else
      match s.backingBytes r fn f d record with
      | none => .error 0x08
      | some good => .ok (s.repairRecord r fn f t record, patchGranules bad good bs)

/-- The records of a tape in turn, each as repairs of those before have left it. -/
def State.cmdFetchAll (s : State) (r : Run) (fn : Fn) (f : Flight) (c : Command) (t : BitVec 20) (d : Dir) (rs : List (Nat × Nat))
    (sel : List Nat) : List Nat → CmdRes (State × List (Nat × List Byte))
  | [] => .ok (s, [])
  | k :: rest =>
    match s.cmdFetch ((s.runAt r.id).getD r) fn f c t d rs sel k with
    | .error e => .error e
    | .ok (s, bs) =>
      match s.cmdFetchAll r fn f c t d rs sel rest with
      | .error e => .error e
      | .ok (s, l) => .ok (s, (k, bs) :: l)

/-- A page of host memory that answers with an abort is reached (R65). -/
def Fn.aborts (fn : Fn) (w : BitVec 128) (rs : List (Nat × Nat)) : Bool :=
  rs.any (fun x => fn.hostAbort.contains ((fld w 12 52).toNat + x.1 / 4096) || fn.hostAbort.contains ((fld w 12 52).toNat + x.2 / 4096))

/-- The number of `w` bits at bit `b` of bytes given by `get`. -/
def bitsAt (get : Nat → Byte) (b w : Nat) : Nat :=
  (leVal ((List.range ((b % 8 + w + 7) / 8)).map (fun i => get (b / 8 + i)))) / 2 ^ (b % 8) % 2 ^ w

/-- The elements of `w` bits at these bits of an end. -/
def State.readElems (s : State) (r : Run) (fn : Fn) (f : Flight) (c : Command) (e : CmdEnd) (w : Nat) (bits : List Int) (sel : List Nat) :
    CmdRes (State × List Nat) :=
  if !bits.all (fun b => inBounds (e.bounds r true) b w) then .error e.beyond
  else
    let rs := touched w bits
    match e with
    | .window x =>
      if bits.isEmpty then .ok (s, [])
      else if !x.getLsbD 0 then .error 0x20
      else if fn.aborts x rs then .error 0x21
      else
        let at_ := (fld x 12 52).toNat * 4096
        .ok (s, bits.map (fun b => bitsAt (fun i => fn.host.read (at_ + i)) b.toNat w))
    | .tape t d =>
      match s.cmdFetchAll r fn f c t d rs sel (touchedRecords d rs) with
      | .error x => .error x
      | .ok (s, recs) =>
        let get (i : Nat) : Byte := (((recs.find? (fun y => y.1 == i / d.recSize)).map Prod.snd).getD []).getD (i % d.recSize) 0
        .ok (s, bits.map (fun b => bitsAt get b.toNat w))

/-! ## What is written -/

/-- Elements as destination bytes, ascending: those of less than a byte join what the byte holds. -/
def elemBytes (w : Nat) (old : Nat → Byte) (elems : List (Nat × Nat)) : List (Nat × Byte) :=
  (elems.foldl (fun (m : Mem) (x : Nat × Nat) =>
    if 8 ≤ w then m.write (x.1 / 8) (leBytes (w / 8) x.2)
    else
      let a := x.1 / 8
      let b : Byte := match m.cells.find? (fun c => c.1 == a) with
        | some c => c.2
        | none => old a
      let sh := x.1 % 8
      m.write a [(b &&& ~~~((BitVec.ofNat 8 (2 ^ w - 1)) <<< sh)) ||| (BitVec.ofNat 8 (x.2 % 2 ^ w) <<< sh)]) (Mem.empty 1)).cells

/-- Bytes that hold undefined contents (R8, R221), those at the listed offsets. -/
def spoilBytes (gen : Nat) (bad : Nat → Bool) (bs : List (Nat × Byte)) : List (Nat × Byte) :=
  bs.map (fun x => if bad x.1 then (x.1, Config.undefByte gen x.1) else x)

/-- The byte of an end as its home holds it now. -/
def State.homeByte (s : State) (fn : Fn) (f : Flight) (e : CmdEnd) (i : Nat) : Byte :=
  match e with
  | .window w => fn.host.read ((fld w 12 52).toNat * 4096 + i)
  | .tape _ d => ((s.place fn f d (i / d.recSize)).map (fun p => (s.storeBytes (p.1, p.2 + i % d.recSize) 1).headD 0)).getD 0

/-- A destination can be written at these bits: within its bounds, mapped, and permitted (R65, R221, R222). -/
def State.dstCheck (s : State) (r : Run) (fn : Fn) (f : Flight) (e : CmdEnd) (w : Nat) (bits : List Int) : CmdRes Unit :=
  if !bits.all (fun b => inBounds (e.bounds r false) b w) then .error e.beyond
  else
    let rs := touched w bits
    match e with
    | .window x => if !bits.isEmpty && !x.getLsbD 1 then .error 0x20 else if fn.aborts x rs then .error 0x21 else .ok ()
    | .tape _ d => if (touchedRecords d rs).all (fun k => (s.place fn f d k).isSome) then .ok () else .error 0x08

/-- The token flags of Table 11.1, ovf to inx, from the flags of the arithmetic. -/
def tokenFlags (f : Flags) : BitVec 4 :=
  BitVec.ofNat 4 ((f &&& fOvf != 0).toNat + (f &&& fSat != 0).toNat * 2 + (f &&& fInv != 0).toNat * 4 + (f &&& fInx != 0).toNat * 8)

/-! ## A copy (R221 to R223) -/

/-- Element offsets of the index vectors of dimensions given innermost first: count, source and destination stride. -/
def offsets : List (Nat × Int × Int) → List (Int × Int)
  | [] => [(0, 0)]
  | (n, a, b) :: rest => (offsets rest).flatMap (fun o => (List.range n).map (fun (i : Nat) => (o.1 + (i : Int) * a, o.2 + (i : Int) * b)))

/-- The dimensions of a block. -/
def blkDimList (b : List Byte) : List (Nat × Int × Int) :=
  (List.range (blkDims b)).map (fun d => (blkCount b d, blkSigned b (44 + 12 * d), blkSigned b (48 + 12 * d)))

/-- The source element at offset `so` is read: it lies within src_bound, when that is not 0. -/
def withinBound (bound : Nat) (so : Int) : Bool := bound == 0 || (decide (0 ≤ so) && decide (so < bound))

/-- One element converted for the destination (R223). -/
def copyElem (sf df : Nat) (sat : Bool) (code : Nat) : FRes := if sf = df then ⟨code, 0⟩ else convert df .rne sat (valOf sf code)

/-- The source and destination of a copy share a byte. -/
def endsOverlap (a b : CmdEnd) (ra rb : List (Nat × Nat)) : Bool :=
  match a, b with
  | .tape t _, .tape u _ => t == u && ra.any (fun x => rb.any (fun y => x.1 ≤ y.2 && y.1 ≤ x.2))
  | _, _ => false

/-- The stream record that each byte to write comes from (R222). -/
def copySources (src : CmdEnd) (bound : Nat) (sb db : Int) (sw dw : Nat) (os : List (Int × Int)) : List (Nat × Nat) :=
  match src with
  | .window _ => []
  | .tape _ d =>
    if d.attr != attrStream then []
    else (os.filter (fun o => withinBound bound o.1)).flatMap (fun o =>
      let b := (sb + o.1 * (sw : Int)).toNat
      let p := (db + o.2 * (dw : Int)).toNat
      (List.range ((p % 8 + dw + 7) / 8)).flatMap (fun i =>
        [b / 8 / d.recSize, (b + sw - 1) / 8 / d.recSize].map (fun k => (p / 8 + i, k))))

/-- What a copy command is going to write: its state after reads that repaired records, and the command with its bytes. -/
def State.copyRead (s : State) (r : Run) (fn : Fn) (f : Flight) (c : Command) (sel : List Nat) : CmdRes (State × Command) :=
  match s.cmdSrc f c, s.cmdDst f c with
  | .ok src, .ok dst =>
    let b := c.block
    let sf := blkSrcFmt b
    let df := blkDstFmt b
    let sw := fmtWidth sf
    let dw := fmtWidth df
    let os := offsets (blkDimList b)
    let sb := src.base (blkNum b 16 8)
    let db := dst.base (blkNum b 24 8)
    let reads := (os.filter (fun o => withinBound (blkBound b) o.1)).map (fun o => sb + o.1 * (sw : Int))
    let writes := os.map (fun o => db + o.2 * (dw : Int))
    (match s.readElems r fn f c src sw reads sel, s.dstCheck r fn f dst dw writes with
     | .error e, _ => .error e
     | _, .error e => .error e
     | .ok (s1, vs), .ok () =>
       let codes := os.foldl (fun (x : List Nat × List Nat) o =>
         if withinBound (blkBound b) o.1 then (x.1 ++ [x.2.headD 0], x.2.drop 1) else (x.1 ++ [0], x.2)) ([], vs)
       let outs := codes.1.map (copyElem sf df ((blkFlags b).testBit 4))
       let elems := (writes.map Int.toNat).zip (outs.map FRes.code)
       let bytes := elemBytes dw (s1.homeByte fn f dst) elems
       let twice (i : Nat) : Bool := (os.zipIdx.any (fun x => os.zipIdx.any (fun y =>
         x.2 < y.2 && x.1.2 == y.1.2 && (let p := (db + x.1.2 * (dw : Int)).toNat; p / 8 ≤ i && i ≤ (p + dw - 1) / 8))))
       let all := endsOverlap src dst (touched sw reads) (touched dw writes)
       let bytes := spoilBytes s1.gens (fun i => all || twice i) bytes
       .ok ({ s1 with gens := s1.gens + 1 },
            { c with started := true, ready := true, out := bytes.map (fun x => (x.1, [x.2]))
                     sources := copySources src (blkBound b) sb db sw dw os
                     flags := tokenFlags ((outs.map FRes.flags).foldl (· ||| ·) 0) }))
  | .error e, _ => .error e
  | _, .error e => .error e

/-! ## Collective arithmetic (R226, R227) -/

/-- A list in pieces of `n`; `fuel` bounds their number. -/
def chunksOf {α : Type} (n : Nat) : Nat → List α → List (List α)
  | 0, _ => []
  | fuel + 1, l => if l.isEmpty then [] else l.take n :: chunksOf n fuel (l.drop n)

/-- q of R227 on one vector of FP32 codes: quantised and dequantised by blocks of 32. -/
def collQuant (cq : Nat) (v : List Nat) : List Nat × Flags :=
  if cq = 0 then (v, 0)
  else
    let fmt := if cq = 1 then 3 else 5
    (chunksOf 32 v.length v).foldl (fun x blk =>
      let q := quantBlock fmt (List.replicate 32 .rne) (blk.map f32)
      let ds := q.codes.map (fun c => fp32.round .rne false (blockVal fmt q.metaW c))
      (x.1 ++ ds.map FRes.code, ds.foldl (fun f d => f ||| (d.flags &&& fOvf)) (x.2 ||| q.flags))) ([], 0)

/-- Sums of neighbouring vectors, and the unpaired one. -/
def collPairs : List (List Nat) → List (List Nat) × List (List Nat) × Flags
  | a :: b :: rest =>
    let s := (a.zip b).map (fun x => addRne x.1 x.2)
    let r := collPairs rest
    (s.map FRes.code :: r.1, r.2.1, s.foldl (fun f x => f ||| x.flags) r.2.2)
  | [a] => ([], [a], 0)
  | [] => ([], [], 0)

/-- Every vector quantised. -/
def collQuantAll (cq : Nat) (us : List (List Nat)) : List (List Nat) × Flags :=
  us.foldl (fun x u => let q := collQuant cq u; (x.1 ++ [q.1], x.2 ||| q.2)) ([], 0)

/-- The tree of R227 over the entries of a level; `fuel` bounds its depth. -/
def collTree (cq : Nat) : Nat → List (List Nat) → Flags → List Nat × Flags
  | 0, us, fl => (us.headD [], fl)
  | fuel + 1, us, fl =>
    let w := collPairs us
    let fl := fl ||| w.2.2
    if w.1.length + w.2.1.length ≤ 1 then ((w.1 ++ w.2.1).headD [], fl)
    else
      let q := collQuantAll cq w.1
      collTree cq fuel (q.1 ++ w.2.1) (fl ||| q.2)

/-- Elements converted to dst_fmt in RNE. -/
def collOut (df : Nat) (v : List Nat) : List Nat × Flags :=
  let rs := v.map (fun c => convert df .rne false (f32 c))
  (rs.map FRes.code, rs.foldl (fun f r => f ||| r.flags) 0)

/-- y of an operation over the vectors x_0 to x_(P−1): for an all-gather the vectors in rank order. -/
def collResult (op df cq : Nat) (xs : List (List Nat)) : List Nat × Flags :=
  if op = 18 then collOut df xs.flatten
  else if xs.length ≤ 1 then collOut df (xs.headD [])
  else
    let u := collQuantAll cq xs
    let y := collTree cq xs.length u.1 u.2
    let o := collOut df y.1
    (o.1, y.2 ||| o.2)

/-- What rank `rank` of `p` receives of y. -/
def collShare (op rank p : Nat) (y : List Nat) : List Nat :=
  if op = 17 then (y.drop (rank * (y.length / p))).take (y.length / p) else y

/-! ## Contexts and their service (R216) -/

/-- The landing-held context of a run on an engine, when it has one (R90). -/
def State.landingContext (s : State) (rid : Nat) (coll : Bool) : Option Context :=
  s.contexts.find? (fun x => x.run == rid && x.core.isNone && decide (4 ≤ x.tl) == coll)

/-- The hall whose engine serves the context: its core's; for a landing-held one the lowest of the function (log 19). -/
def State.hallOfContext (s : State) (x : Context) : Nat :=
  match x.core with
  | some c => hallOf c
  | none => (((s.runAt x.run).bind (fun r => s.fnAt r.fn)).map (fun f => f.halls.headD 0)).getD 0

/-- The context's place in the rotation: core, then timeline; landing-held contexts last, those of several jobs in the order of their ids
(the model's choice, log 19). -/
def Context.place (x : Context) : Nat :=
  match x.core with
  | some c => c % 16 * 8 + x.tl
  | none => 128 + x.id

/-- A write that had reached the command's issuer is on its way to its home (R210). -/
def Run.awaits (r : Run) (c : Command) : Bool :=
  r.flying.any (fun x => match x with
    | .tape w => c.reached.contains w.wid
    | .cell .. => false)

/-- The rotation stops at the context (R216): it holds a released command not yet started, its run goes on and a cut leaves the command
(R229). A collective is serviced in its turn whether or not it has its match, by reading its source (log 19). With the engines at rest
only what is in progress is finished (R218). -/
def State.rotates (s : State) (x : Context) : Bool :=
  match s.runAt x.run, x.queue with
  | some r, c :: _ =>
    r.stage == .active && !c.started && (s.enginesRun || s.inProgress x c) &&
    (match r.cut with
     | some k => k.step != 5 || decide (blkStep c.block ≤ k.s) || s.inProgress x c
     | none => true)
  | _, _ => false

/-- The context's oldest command can start now: what it must read is at its home (R210). -/
def State.startable (s : State) (x : Context) : Bool :=
  match s.runAt x.run, x.queue with
  | some r, c :: _ => s.rotates x && !r.awaits c
  | _, _ => false

/-- A copy command of the hall is in progress. -/
def State.copyBusy (s : State) (hall : Nat) : Bool :=
  s.contexts.any (fun x => x.tl < 4 && s.hallOfContext x == hall && x.queue.any Command.started)

/-- Of two contexts the one earlier in the rotation. -/
def firstPlace (a b : Context) : Context := if b.place < a.place then b else a

/-- The context an engine serves next: the first in the rotation, which the engine waits for where its command cannot start yet. -/
def State.nextContextOf (s : State) (hall : Nat) (coll : Bool) : Option Context :=
  let h := s.hallAt hall
  let from_ := if coll then h.collNext else h.copyNext
  let all := s.contexts.filter (fun x => decide (4 ≤ x.tl) == coll && s.hallOfContext x == hall && s.rotates x)
  let pick (l : List Context) : Option Context := match l with
    | [] => none
    | x :: rest => some (rest.foldl firstPlace x)
  ((pick (all.filter (fun x => from_ ≤ x.place))).orElse (fun _ => pick all)).filter s.startable

/-- The oldest command of a context is replaced. -/
def Context.setHead (x : Context) (c : Command) : Context := { x with queue := c :: x.queue.drop 1 }

/-- Vectors by rank as lists of FP32 codes. -/
def rankVec (vs : List (Nat × List Byte)) (r : Nat) : List Nat :=
  let bs := ((vs.find? (fun v => v.1 == r)).map Prod.snd).getD []
  (List.range (bs.length / 4)).map (fun i => leVal ((bs.drop (4 * i)).take 4))

/-- Number of ranks of a collective of context `x`. -/
def State.ranksOf (f : Flight) (x : Context) (c : Command) : Nat :=
  if x.core.isNone then max 1 f.nPkg else (f.dom.map DomDesc.members).getD (blkDom c.block) 0

/-- A matched collective whose vectors are all read: what one rank writes. -/
def State.collReady (s : State) (r : Run) (fn : Fn) (f : Flight) (c : Command) (y : List Nat × Flags) (p : Nat) : CmdRes Command :=
  match s.cmdDst f c with
  | .error e => .error e
  | .ok dst =>
    let w := fmtWidth (blkDstFmt c.block)
    let mine := collShare (blkOp c.block) c.rank p y.1
    let db := dst.base (blkNum c.block 24 8)
    let bits := (List.range mine.length).map (fun (i : Nat) => db + ((i * w : Nat) : Int))
    (match s.dstCheck r fn f dst w bits with
     | .error e => .error e
     | .ok () =>
       let bytes := elemBytes w (s.homeByte fn f dst) ((bits.map Int.toNat).zip mine)
       .ok { c with ready := true, out := bytes.map (fun x => (x.1, [x.2])), flags := tokenFlags y.2 })

/-- A command of a context takes the place of the one of its number. -/
def State.putCommand (s : State) (id : Nat) (c : Command) : State :=
  s.mapContext id (fun x => { x with queue := x.queue.map (fun d => if d.num == c.num then c else d) })

/-- The ranks of a match are given their results, in turn; a failure faults the job. -/
def State.finishMatch (s : State) (r : Run) (fn : Fn) (f : Flight) (y : List Nat × Flags) (p : Nat) : List (Context × Command) → State
  | [] => s
  | (x, c) :: rest =>
    match s.collReady r fn f c y p with
    | .error e => s.faultRun r.id e
    | .ok c => (s.putCommand x.id c).finishMatch r fn f y p rest

/-- Once the commands of a match have all been serviced, every rank is given its result (R226 to R228). -/
def State.finishColl (s : State) (r : Run) (fn : Fn) (f : Flight) (x : Context) (c : Command) : State :=
  let ms := s.matchOf x c
  if !c.matched || !ms.all (fun m => m.2.started) then s
  else
    let p := State.ranksOf f x c
    let vecs := ms.flatMap (fun m => m.2.out)
    s.finishMatch r fn f (collResult (blkOp c.block) (blkDstFmt c.block) (blkCq c.block) ((List.range p).map (rankVec vecs))) p ms

/-- A collective reads its source as its engine serves it; the last of a match gives the results (R226 to R228). Its block's src_bound
has no effect (R219; log 88). -/
def State.collStart (s : State) (r : Run) (fn : Fn) (f : Flight) (x : Context) (c : Command) (sel : List Nat) : State :=
  match s.cmdSrc f c with
  | .error e => s.faultRun r.id e
  | .ok src =>
    let n := blkCount c.block 0
    let w := fmtWidth (blkSrcFmt c.block)
    let b0 := src.base (blkNum c.block 16 8)
    match s.readElems r fn f c src w ((List.range n).map (fun (i : Nat) => b0 + ((i * w : Nat) : Int))) sel with
    | .error e => s.faultRun r.id e
    | .ok (s, vs) =>
      let v := vs.map (fun e => (convert 0 .rne false (valOf (blkSrcFmt c.block) e)).code)
      let c := { c with started := true, out := c.out ++ [(c.rank, v.flatMap (leBytes 4))] }
      (s.mapContext x.id (fun x => x.setHead c)).finishColl r fn f x c

/-- The engine starts a context's oldest command. -/
def State.startCommand (s : State) (r : Run) (fn : Fn) (f : Flight) (x : Context) (sel : List Nat) : State :=
  match x.queue with
  | [] => s
  | c :: _ =>
    if 16 ≤ blkOp c.block then s.collStart r fn f x c sel
    else
      match s.copyRead r fn f c sel with
      | .error e => s.faultRun r.id e
      | .ok (s, c) => s.mapContext x.id (fun x => x.setHead c)

/-- ENGINE_COMMAND_START (R216): the engine serves the next context in its rotation; `sel` picks among racing writes (R205). In
P2 it waits (R218). -/
def execEngineCommandStart (hall : Nat) (coll : Bool) (sel : List Nat) (s : State) : Out :=
  if !coll && s.copyBusy hall then .next s
  else
    match s.nextContextOf hall coll with
    | none => .next s
    | some x =>
      match s.runAt x.run with
      | none => .next s
      | some r =>
        match s.fnAt r.fn, s.flightOf r with
        | some fn, some f =>
          let h := s.hallAt hall
          let s := s.setHall (if coll then { h with collNext := x.place + 1 } else { h with copyNext := x.place + 1 })
          .next (s.startCommand r fn f x sel)
        | _, _ => .next s

/-! ## Matching (R224, R225) -/

/-- The unmatched collectives of a context on a domain. -/
def Context.openColls (x : Context) (dom : Nat) : List Command :=
  x.queue.filter (fun c => decide (16 ≤ blkOp c.block) && !c.matched && blkDom c.block == dom)

/-- The `k`-th collective of member core `c` on a line's domain. -/
def State.memberColl (s : State) (l : Line) (k c : Nat) : Option (Context × Command) :=
  s.contexts.findSome? (fun x =>
    if x.run == l.run && x.node == l.node && x.core == some c then
      ((x.openColls l.dom).find? (fun d => d.collSeq == k)).map (fun d => (x, d))
    else none)

/-- The next collective that every member of a line has released. -/
def State.lineMatch (s : State) (l : Line) : Option (List (Context × Command)) :=
  let ks := (s.contexts.filter (fun x => x.run == l.run && x.node == l.node && x.core.isSome)).flatMap
    (fun x => (x.openColls l.dom).map Command.collSeq)
  ks.findSome? (fun k =>
    let ms := l.members.filterMap (s.memberColl l k)
    if ms.length = l.members.length && !ms.isEmpty then some ms else none)

/-- What matched commands agree in: op, formats, cq, step and count. -/
def collKey (b : List Byte) : List Nat := [blkOp b, blkNum b 2 1, blkCq b, blkStep b, blkCount b 0]

/-- The ranks of a match's commands: from lrank or the core's %dom; a landing-held context's is pkg_index (R225). -/
def State.collRank (s : State) (f : Flight) (x : Context) (c : Command) : Nat :=
  match x.core with
  | none => f.pkgIndex
  | some k =>
    if (blkLrank c.block).testBit 31 then
      match s.lines.find? (fun l => l.run == x.run && l.node == x.node && l.dom == blkDom c.block) with
      | some l => (((s.runAt x.run).map (fun r => r.membersBefore x.node l.dom)).getD 0) + l.members.idxOf k
      | none => 0
    else blkLrank c.block % 65536

/-- The ranks that other packages' vectors take: those no local command has, ascending. -/
def remoteRanks (p : Nat) (mine : List Nat) : List Nat := (List.range p).filter (fun r => !mine.contains r)

/-- A match is good: the commands agree, the ranks are 0 to P − 1 once each, and a reduce-scatter divides evenly (R224, R226). -/
def goodMatch (p : Nat) (ms : List (Command × Nat)) (remote : List (List W32)) : Bool :=
  match ms with
  | [] => false
  | (c, _) :: _ =>
    let n := blkCount c.block 0
    ms.all (fun m => collKey m.1.block == collKey c.block) && ms.all (fun m => decide (m.2 < p)) &&
    decide ((ms.map Prod.snd).Nodup) && ms.length + remote.length == p && remote.all (fun v => v.length == n) &&
    (blkOp c.block != 17 || n % (p * (if blkCq c.block = 0 then 1 else 32)) == 0)

/-- A command that meets its match as this rank: a vector that it has read goes by its rank, beside those of other packages. -/
def Command.meets (c : Command) (rank : Nat) (far : List (Nat × List Byte)) : Command :=
  { c with matched := true, rank := rank, out := far ++ c.out.map (fun o => (rank, o.2)) }

/-- A collective meets its match, or faults the job with 0x34. Where every rank has been serviced already it has its result. -/
def State.matchColl (s : State) (r : Run) (fn : Fn) (f : Flight) (ms : List (Context × Command)) (remote : List (List W32)) : State :=
  match ms with
  | [] => s
  | (x, c) :: _ =>
    let p := State.ranksOf f x c
    let ranked := ms.map (fun m => (m.1, m.2, s.collRank f m.1 m.2))
    if !goodMatch p (ranked.map (fun m => (m.2.1, m.2.2))) remote then s.faultRun r.id 0x34
    else
      let far := ((remoteRanks p (ranked.map (fun m => m.2.2))).zip remote).map (fun v => (v.1, v.2.flatMap (fun (w : W32) => leBytes 4 w.toNat)))
      let s := ranked.zipIdx.foldl (fun s m => s.putCommand m.1.1.id (m.1.2.1.meets m.1.2.2 (if m.2 = 0 then far else []))) s
      let s := if far.isEmpty then s else s.report r.id 2
      s.finishColl r fn f x (c.meets 0 [])

/-- COLLECTIVE_MATCH (R224, R225): `remote` holds the vectors of the job's other packages, in ascending rank, as FP32. -/
def execCollectiveMatch (run dom : Nat) (remote : List (List W32)) (s : State) : Out :=
  match s.runAt run with
  | none => .next s
  | some r =>
    match s.fnAt r.fn, s.flightOf r with
    | none, _ => .next s
    | _, none => .next s
    | some fn, some f =>
      let far := if f.nPkg ≤ 1 then [] else remote
      match (s.lines.filter (fun l => l.run == run && l.dom == dom)).findSome? (fun l => (s.lineMatch l).map (fun ms => (l, ms))) with
      | some (l, ms) => .next (s.matchColl r fn f ms (if l.level == 4 then far else []))
      | none =>
        match (s.landingContext run true).bind (fun x => ((x.openColls dom).head?).map (fun c => (x, c))) with
        | some m => .next (s.matchColl r fn f [m] far)
        | none => .next s

/-! ## Transform nodes (R90, R225) -/

/-- The list tape is unusable (R90). -/
def State.listBad (s : State) (fn : Fn) (f : Flight) (n : Node) : Bool :=
  match s.dir f n.listTape with
  | none => true
  | some d =>
    d.attr != attrRo || d.recLog != 7 || decide (d.length < n.nCmd) ||
    (List.range n.nCmd).any (fun i => (s.place fn f d i).isNone)

/-- The command blocks of the list, undefined where the list tape's tables were changed during the run (R155). -/
def State.listBlocks (s : State) (r : Run) (fn : Fn) (f : Flight) (n : Node) : List (List Byte) :=
  match s.dir f n.listTape with
  | none => []
  | some d => (List.range n.nCmd).map (fun i => ((s.place fn f d i).map (fun p =>
      if r.isTorn n.listTape then s.tornBytes d n.listTape i (2 ^ 32 - 1) else s.storeBytes p 128)).getD [])

/-- A block of the list fails a check of R220, those of membership and rank apart (R90, R225). -/
def State.blockBad (s : State) (fn : Fn) (f : Flight) (coll : Bool) (last : Nat) (b : List Byte) : Bool :=
  let op := blkOp b
  let level := (f.dom.map DomDesc.level).getD (blkDom b) 0
  let feats := (if blkCq b != 0 then [5] else []) ++ (if blkCq b == 2 || blkSrcFmt b == 5 || blkDstFmt b == 5 then [3] else []) ++
    (if coll && level == 4 then [7] else [])
  !(if coll then [16, 17, 18].contains op else op == 1 || op == 2) || blkBad b op || decide (blkStep b < last) ||
  (coll && level == 0) || feats.any (fun i => !(s.features fn.no).getLsbD i)

/-- The context of a run's transform nodes on an engine, made when first needed. -/
def State.withLanding (s : State) (rid i : Nat) (coll : Bool) : State :=
  if (s.landingContext rid coll).isSome then s
  else
    { s with
      nextContext := s.nextContext + 1
      contexts := s.contexts ++ [{ id := s.nextContext, run := rid, node := i, core := none, ended := false, tl := if coll then 4 else 0
                                   counter := 0, last := 0, step := 0, lastStep := 0, queue := [], collSeq := [0, 0, 0, 0], done := [] }] }

/-- One block joins the landing-held context, as work of node `i`. -/
def State.issueBlock (s : State) (rid i : Nat) (fn : Fn) (reached : List Nat) (coll : Bool) (b : List Byte) : State :=
  match s.landingContext rid coll with
  | none => s
  | some x =>
    let num := x.last.toNat + 1
    let k := x.collSeq.getD (blkDom b) 0
    let c : Command := { num := num, block := b, token := none, windows := fn.captured, reached := reached, collSeq := k, matched := false
                         rank := 0, started := false, ready := false, out := [], sources := [], node := i, flags := 0 }
    let s := s.mapContext x.id (fun x =>
      { x with last := x.last + 1, queue := x.queue ++ [c], lastStep := BitVec.ofNat 16 (blkStep b)
               collSeq := if coll then x.collSeq.set (blkDom b) (k + 1) else x.collSeq })
    s.mapRun rid (fun r => r.mapNode i (fun ns => { ns with cmds := ns.cmds + 1, handed := insertNat num ns.handed }))

/-- The landing-held context queues no further command (R218). -/
def State.landingFull (s : State) (rid : Nat) (coll : Bool) : Bool :=
  ((s.landingContext rid coll).map (fun x => decide (Config.queueDepth ≤ x.queue.length))).getD true

/-- The blocks in list order as far as the context has room; one that fails its checks is never issued and faults the job with 0x34
(R90). At its issue what nodes that have committed and its node's completed commands wrote has reached it (R396). -/
def State.issueBlocks (s : State) (rid i : Nat) (fn : Fn) (f : Flight) (coll : Bool) : List (List Byte) → State
  | [] => s
  | b :: rest =>
    let last := ((s.landingContext rid coll).map (fun x => x.lastStep.toNat)).getD 0
    if s.landingFull rid coll then s
    else if s.blockBad fn f coll last b then s.faultRun rid 0x34
    else (s.issueBlock rid i fn (((s.runAt rid).map (fun r => unionNat (r.nodeWrites i) r.committedWrites)).getD []) coll b).issueBlocks rid i fn f coll rest

/-- A running transform node issues the blocks it has left, as far as there is room. -/
def State.feedNode (s : State) (rid : Nat) (fn : Fn) (f : Flight) (coll : Bool) (i : Nat) : State :=
  match (s.runAt rid).bind (fun r => r.nodes[i]?), f.nodes[i]? with
  | some ns, some n =>
    if ns.stage == .running && n.kind == .transform && decide (n.engine = 1) == coll then
      s.issueBlocks rid i fn f coll ((((s.runAt rid).map (fun r => s.listBlocks r fn f n)).getD []).drop ns.cmds)
    else s
  | _, _ => s

/-- Every running transform node of an engine does. -/
def State.feedNodes (s : State) (rid : Nat) (fn : Fn) (f : Flight) (coll : Bool) : State :=
  (List.range f.nodes.length).foldl (fun s i => s.feedNode rid fn f coll i) s

/-- TRANSFORM_NODE_DISPATCH (R90). -/
def execTransformNodeDispatch (run node : Nat) (s : State) : Out :=
  match s.mayDispatch run node with
  | none => .next s
  | some (r, fn, f, n) =>
    if n.kind != .transform then .next s
    else
      match s.nodeFault fn f n with
      | some c => .next (s.faultRun run c)
      | none =>
        if s.listBad fn f n then .next (s.faultRun run 0x08)
        else
          let coll := n.engine == 1
          .next (((s.beginNode run node []).withLanding run node coll).issueBlocks run node fn f coll (s.listBlocks r fn f n))

/-! ## Completion (R210, R217, R222, R228) -/

/-- Destination bytes by record. -/
def outRecords (d : Dir) (out : List (Nat × List Byte)) : List (Nat × List (Nat × List Byte)) :=
  let ks := (out.map (fun x => x.1 / d.recSize)).eraseDups
  ks.map (fun k => (k, (out.filter (fun x => x.1 / d.recSize == k)).map (fun x => (x.1 % d.recSize, x.2))))

/-- A record with some bytes replaced. -/
def overlay (old : List Byte) (parts : List (Nat × List Byte)) : List Byte :=
  old.zipIdx.map (fun b => match parts.find? (fun p => p.1 ≤ b.2 && decide (b.2 < p.1 + p.2.length)) with
    | some p => p.2.getD (b.2 - p.1) 0
    | none => b.1)

/-- Granules of a record that the parts replace whole. -/
def wholeGranules (size : Nat) (parts : List (Nat × List Byte)) : List Nat :=
  (List.range ((size + 63) / 64)).filter (fun g =>
    (List.range (min 64 (size - 64 * g))).all (fun i => parts.any (fun p => p.1 ≤ 64 * g + i && decide (64 * g + i < p.1 + p.2.length))))

/-- The scope of a command (R210, R219, R228, R396): its domain's, its cflags', or pkg for a transform node's. -/
def Context.scopeOf (x : Context) (f : Flight) (c : Command) : Nat :=
  if x.core.isNone then 2
  else if 16 ≤ blkOp c.block then levelScope ((f.dom.map DomDesc.level).getD (blkDom c.block) 0) else blkFlags c.block % 4

/-- A write of a command of a scope that leaves cores of the package out reaches only those it includes (R210, R215). -/
def Context.confines (x : Context) (f : Flight) (c : Command) (wid : Nat) : List (Nat × Nat × Spot) :=
  match x.core with
  | some k => if x.scopeOf f c < 2 then [(wid, x.scopeOf f c, ⟨k, []⟩)] else []
  | none => []

/-- One record written by a command, whose number is taken: a granule that it does not replace whole stays poisoned (R171). -/
def State.engineRecord (r : Run) (fn : Fn) (f : Flight) (x : Context) (c : Command) (t : BitVec 20) (d : Dir) (s0 : State × List Nat)
    (p : Nat × List (Nat × List Byte)) : State × List Nat :=
  match s0.1.place fn f d p.1, s0.1.runAt r.id with
  | some pl, some r =>
    let old := s0.1.storeBytes pl d.recSize
    let keep := (s0.1.badGranules pl d.recSize).filter (fun g => !(wholeGranules d.recSize p.2).contains g)
    let wid := r.nextWid
    let s := s0.1.mapRun r.id (fun r =>
      { r with nextWid := r.nextWid + 1, widNodes := r.widNodes ++ [(wid, c.node)], confined := r.confined ++ x.confines f c wid })
    let s := s.arriveHome r.id ⟨wid, 1024 + x.id, t, p.1, overlay old p.2⟩
    ({ s with poison := unionNat (keep.map (fun g => granule (pl.1, pl.2 + 64 * g))) s.poison }, s0.2 ++ [wid])
  | _, _ => s0

/-- The first records of the granules of short records that a command writes whole (R171, R222). -/
def shortWhole (d : Dir) (outs : List (Nat × List (Nat × List Byte))) : List Nat :=
  if 64 ≤ d.recSize then []
  else
    let m := 64 / d.recSize
    let full (i : Nat) : Bool := outs.any (fun o => o.1 == i && wholeGranules d.recSize o.2 == [0])
    ((outs.map (fun o => o.1 / m)).eraseDups.filter (fun g => (List.range m).all (fun i => full (g * m + i)))).map (fun g => g * m)

/-- A command's bytes go to their destination: the write numbers it takes. A granule of several short records that it writes whole loses
its poison. -/
def State.engineWrite (s : State) (r : Run) (fn : Fn) (f : Flight) (x : Context) (c : Command) : State × List Nat :=
  match s.cmdDst f c with
  | .error _ => (s, [])
  | .ok (.window w) =>
    let at_ := (fld w 12 52).toNat * 4096
    (s.mapFn fn.no (fun fn => { fn with host := c.out.foldl (fun m p => m.write (at_ + p.1) p.2) fn.host }), [])
  | .ok (.tape t d) =>
    let outs := outRecords d c.out
    let y := outs.foldl (State.engineRecord r fn f x c t d) (s, [])
    (if r.isTorn t then y.1
     else (shortWhole d outs).foldl (fun s i => ((s.place fn f d i).map (fun p => s.cleanGranules p 64)).getD s) y.1, y.2)

/-- The token word (Table 11.1). -/
def Command.token_ (c : Command) : W64 :=
  let crc := if blkOp c.block < 16 && (blkFlags c.block).testBit 3 then crc32c (c.out.flatMap Prod.snd) else 0
  BitVec.ofNat 64 (crc.toNat * 2 ^ 32 + c.flags.toNat * 2 ^ 24 + c.num % 2 ^ 24)

/-- The token reaches its register, in the shadow too (R124, R127). -/
def Core.tokenArrives (k : Core) (tl num : Nat) (v : W64) (writes : List Nat) : Core :=
  match k.tokens.find? (fun t => t.2.1 == tl && t.2.2 == some num) with
  | none => k
  | some t =>
    { k with
      tokens := k.tokens.erase t
      tokensIn := k.tokensIn.filter (fun x => x.1 != t.1) ++ [(t.1, writes)]
      tokensCk := k.tokensCk.filter (fun x => x.1 != t.1) ++ [(t.1, writes)]
      arch := k.arch.setPlace t.1 v, shadow := k.shadow.setPlace t.1 v }

/-- What a command writes at its end: bytes from a stream record freed since it was read are undefined (R222). -/
def State.freshOut (s : State) (r : Run) (c : Command) : Command :=
  let freed := (r.tapeAt (BitVec.ofNat 20 (blkNum c.block 8 4))).freed
  let gone (i : Nat) : Bool := c.sources.any (fun x => x.1 == i && decide (x.2 < freed))
  { c with out := c.out.map (fun x => if gone x.1 then (x.1, [Config.undefByte s.gens x.1]) else x) }

/-- A transform node's command has completed: later commands of its node read what it wrote (R396). -/
def State.transformDone (s : State) (rid : Nat) (x : Context) (c : Command) (wids : List Nat) : State :=
  let s := s.mapRun rid (fun r => r.mapNode c.node (fun ns => { ns with handed := ns.handed.filter (fun i => i != c.num) }))
  s.mapContext x.id (fun x => { x with queue := x.queue.map (fun d =>
    if d.node == c.node then ({ d with reached := unionNat wids d.reached } : Command) else d) })

/-- The oldest command of a context completes. -/
def State.completeCommand (s : State) (r : Run) (fn : Fn) (f : Flight) (x : Context) (c : Command) : State :=
  let c := s.freshOut r c
  let w := ({ s with gens := s.gens + 1 } : State).engineWrite r fn f x c
  let carried := unionNat w.2 c.reached
  let s := w.1.mapContext x.id (fun x =>
    { x with queue := x.queue.drop 1, counter := BitVec.ofNat 64 c.num, step := BitVec.ofNat 16 (blkStep c.block)
             done := x.done ++ [(c.num, carried)] })
  let s := if w.2.isEmpty then s else s.mapRun r.id (fun r => r.gain c.node carried)
  let s := match x.core with
    | some k => if x.ended then s else s.mapCore k (fun k => if k.run == x.run then k.tokenArrives x.tl c.num c.token_ carried else k)
    | none => (s.transformDone r.id x c w.2).feedNodes r.id fn f (decide (4 ≤ x.tl))
  { s with contexts := s.contexts.filter (fun y => !(y.id == x.id && y.ended && y.queue.isEmpty)) }

/-- ENGINE_COMMAND_COMPLETE (R217): writes published, counter set, token written. -/
def execEngineCommandComplete (ctx : Nat) (s : State) : Out :=
  match s.contextAt ctx with
  | none => .next s
  | some x =>
    match s.runAt x.run, x.queue with
    | some r, c :: _ =>
      if !c.ready then .next s
      else
        (match s.fnAt r.fn, s.flightOf r with
         | some fn, some f => .next (s.completeCommand r fn f x c)
         | _, _ => .next s)
    | _, _ => .next s

end Sys2Proof.Machine
end

