-- ==== Sys2Proof/Machine/Ports.lean ====
section
/-! DEFINITION. The peer ports' events (R20 to R26): the four kinds of flit, the keepalive, and a port going down, retraining and
failing. -/

namespace Sys2Proof.Machine

/-! ## Flits that arrive -/

/-- A flit arrives on a port that is up. `act` says what one of this kind does that passes its check and is next in order; one that
does not is discarded with what follows it (R21). A flit of another kind is another event's. -/
def State.receive (s : State) (kind port : Nat) (bytes : List Byte) (act : State → State) : Out :=
  if (s.portAt port).stage != .up || 16 ≤ port then .next s
  else if !flitPasses bytes then .next (s.mapPort port (fun p => p.discard s.pcyc))
  else if flitKind bytes != kind then .next s
  else if flitSeq bytes != (s.portAt port).rxSeq then .next (s.mapPort port (fun p => p.discard s.pcyc))
  else .next (act (s.mapPort port (fun p => p.heed s.pcyc bytes)))

/-- The sequence number expected next moves on. -/
def Port.advance (p : Port) : Port := { p with rxSeq := p.rxSeq + 1 }

/-- A data flit is for this package (R26). -/
def State.deliver (s : State) (port lane : Nat) (payload : List Byte) : State :=
  s.mapPort port (fun p => { p with rxQueue := p.rxQueue ++ [(lane, payload)] })

/-- The packages that a flight's job runs on, this one too. -/
def State.jobPackages (s : State) (f : Flight) : List Nat := s.sysId.toList ++ (s.otherPackages f).filterMap id

/-- The runs of this package whose job may own a transfer from one package to another. -/
def State.ownersBetween (s : State) (src dst : Nat) : List Nat :=
  (s.runs.filter (fun r => match s.flightOf r with
    | none => false
    | some f => f.sysJob != 0 && [src, dst].all (fun p => s.sysId.isNone || (s.jobPackages f).contains p))).map Run.id

/-- The run here whose job owns a forwarded transfer, if one does: the spec gives a flit no field that says (log 14), a free value. -/
def State.flitOwner (s : State) (w : Nat) : Option Nat :=
  let rs := s.ownersBetween (w / 2 ^ 16 % 4096) (w % 4096)
  rs[(Config.freeValue s.free).toNat % (rs.length + 1)]?

/-- A flit that is lost here faults the job that owns it, when it has a run here (R26). -/
def State.loseFlit (s : State) (owner : Option Nat) : State :=
  match owner with
  | some r => s.faultRun r 0x39
  | none => s

/-- A data flit for another package goes on by this one's table with one hop fewer; without a hop left or a usable candidate it is
lost, and the job that owns it faults here when it has a run here (R26). -/
def State.forward (s : State) (lane : Nat) (payload : List Byte) : State :=
  let w := leVal (payload.take 4)
  let hops := w / 2 ^ 12 % 16
  let owner := s.flitOwner w
  let s := { s with free := s.free + 1 }
  if hops = 0 then s.loseFlit owner
  else
    match s.injectTo (w % 4096) lane owner (leBytes 4 (routingWord w (hops - 1) (w / 2 ^ 16)) ++ payload.drop 4) with
    | some s => s
    | none => s.loseFlit owner

/-- What an accepted data flit is for (R26). While sys_self is not valid nothing is for this package and nothing leaves for another:
the flit is lost (log 24). -/
def State.routeFlit (s : State) (port : Nat) (bytes : List Byte) : State :=
  let lane := flitLane bytes
  let payload := flitPayload bytes
  match s.sysId with
  | none => ({ s with free := s.free + 1 } : State).loseFlit (s.flitOwner (leVal (payload.take 4)))
  | some me => if leVal (payload.take 4) % 4096 = me then s.deliver port lane payload else s.forward lane payload

/-- DATA_FLIT_RECEIVE (R21, R26). Which lanes the receiver then pauses depends on a level the spec does not give: a free value
(log 2). -/
def execDataFlitReceive (port : Nat) (bytes : List Byte) (s : State) : Out :=
  s.receive 1 port bytes (fun s =>
    let s := s.mapPort port (fun p => { p.advance with pauseTx := (Config.freeValue s.free).setWidth 4 })
    ({ s with free := s.free + 1 } : State).routeFlit port bytes)

/-- CONTROL_FLIT_RECEIVE (R21): accepted in its place; its acknowledgement and pause bits take effect. -/
def execControlFlitReceive (port : Nat) (bytes : List Byte) (s : State) : Out :=
  s.receive 2 port bytes (fun s => s.mapPort port Port.advance)

/-- IDLE_FLIT_RECEIVE (R22): seq does not advance. -/
def execIdleFlitReceive (port : Nat) (bytes : List Byte) (s : State) : Out := s.receive 3 port bytes id

/-- REPLAY_REQUEST_RECEIVE (R22, R24): the pause bits of the same flit take effect too. -/
def execReplayRequestReceive (port : Nat) (bytes : List Byte) (s : State) : Out :=
  s.receive 4 port bytes (fun s => s.mapPort port (fun p => p.replay (BitVec.ofNat 12 (flitNum bytes 8 2))))

/-! ## Timers, going down, retraining -/

/-- PAUSE_KEEPALIVE_TIMER (R23): an idle flit, since nothing has been sent for 64 ticks; the pause bits may have changed again. -/
def execPauseKeepaliveTimer (port : Nat) (s : State) : Out :=
  if (s.portAt port).keepaliveDue s.pcyc then
    .next (({ s with free := s.free + 1 } : State).mapPort port (fun p =>
      { p.put s.pcyc 3 0 p.txSeq [] with pauseTx := (Config.freeValue s.free).setWidth 4 }))
  else .next s

/-- PORT_RX_TIMEOUT (R24). -/
def execPortRxTimeout (port : Nat) (s : State) : Out :=
  if (s.portAt port).rxTimedOut s.pcyc then .next (s.mapPort port Port.goDown) else .next s

/-- PHY_LOCK_LOSS (R24). -/
def execPhyLockLoss (port : Nat) (s : State) : Out := .next (s.mapPort port Port.goDown)

/-- PORT_RETRAIN_END (R24): back up, or failed, and then the jobs that own a transfer of the port fault with 0x39. -/
def execPortRetrainEnd (port : Nat) (ok : Bool) (s : State) : Out :=
  let p := s.portAt port
  if p.stage != .training then .next s
  else if ok then .next (s.mapPort port (fun p => p.backUp s.pcyc))
  else .next (p.owners.foldl (fun s r => s.faultRun r 0x39) (s.mapPort port Port.fail))

end Sys2Proof.Machine
end

