-- ==== Sys2Proof/Machine/Power.lean ====
section
/-! DEFINITION. Power states (R40 to R44, Tables 2.5, 2.5a, 2.7): pwr_req, the management controller (R29), transitions one at a time,
and what each state keeps. -/

namespace Sys2Proof.Machine

/-! ## The state that is asked for (R41, R42) -/

/-- With a P1 of the management controller, the deeper state and, in P1, the larger k (R42). -/
def goalOf (t : PowerState) (k : Nat) (managed : Option Nat) : PowerState × Nat :=
  match managed, t with
  | some m, .p0 => (.p1, m)
  | some m, .p1 => (.p1, max k m)
  | _, t => (t, k)

/-- A core leaves the freeze of a power event; it moves when no other stop holds it (R41, R129). -/
def Core.leavePower (k : Core) : Core :=
  let k := { k with stops := k.stops.filter (fun x => x != StopKind.power), asks := k.asks.filter (fun x => x != StopKind.power) }
  if k.stops.isEmpty then k.resumed else k

/-- Every core goes on where it stopped (R41). -/
def State.thaw (s : State) : State := { s with cores := s.cores.map Core.leavePower }

/-- A power event reaches a core (R40, R43, R128): a core that other stops hold, or that waits behind a trap, stands already and has its
record at once; one that holds no task has nothing to freeze; any other freezes at its next bundle boundary, after its rollback. -/
def State.freezeCore (s : State) (k : Core) : State :=
  if k.stops.contains .power || k.asks.contains .power then s
  else if k.stage == .idle then s
  else if k.standsStill then s.stopNow k .power
  else s.setCore { k with asks := k.asks ++ [.power] }

/-- Every core that holds a task freezes in place, code 0x42 (R40, R128). -/
def State.freezeAll (s : State) : State := s.cores.foldl (fun s k => s.freezeCore k) s

/-- Every resident job is cut for P3; a trap held for the hypervisor becomes a job fault with its code (R41, R101). -/
def State.cutAll (s : State) : State :=
  s.runs.foldl (fun s r =>
    match r.oldestHeld with
    | some h => s.faultRun r.id h.code
    | none => s.startCut r.id .power 0) s

/-- A transition begins (R41): P2 freezes the cores in place, P3 cuts the jobs, from P2 after setting their cores going again. -/
def State.beginPower (s : State) (t : PowerState) (k : Nat) (req : Bool) : State :=
  let from_ := s.power.state
  let s := { s with power := { s.power with busy := some (t, k, req) } }
  match t with
  | .p2 => if from_ == .p3 then s else s.freezeAll
  | .p3 => if from_ == .p3 then s else (if from_ == .p2 then s.thaw else s).cutAll
  | _ => s

/-- A request for a state: carried out now, or after the transition in progress (R41). -/
def State.askPower (s : State) (t : PowerState) (k : Nat) (req : Bool) : State :=
  if s.power.busy.isSome then { s with power := { s.power with queue := s.power.queue ++ [(t, k, req)] } }
  else s.beginPower t k req

/-! ## pwr_req (Table 2.7) -/

/-- pwr_req without go: target and k. -/
def pwrWord (target : Nat) (k : BitVec 3) : W32 := BitVec.ofNat 32 (k.toNat * 256 + target % 8)

/-- A write of go = 1 to pwr_req with a target that names a state (R42). -/
def State.pwrReq (s : State) (fn : Nat) (target : Nat) (t : Option PowerState) (k : BitVec 3) : State :=
  match s.answering fn with
  | none => s
  | some _ =>
    if fn = 17 then { s with power := { s.power with status := 0x62 } }
    else if fn ≠ 0 then s
    else if s.power.req.getLsbD 31 then { s with power := { s.power with status := 0x61 } }
    else
      match t with
      | none => { s with power := { s.power with req := pwrWord target k, status := 0x60 } }
      | some t =>
        if k = 1 then { s with power := { s.power with req := pwrWord target k, status := 0x60 } }
        else
          let n := if t == .p1 then (if k = 0 then 8 else k.toNat) else 1
          let s := { s with power := { s.power with req := pwrWord target k ||| 0x80000000, asked := t, askedK := n } }
          s.askPower t n true

/-- PWR_REQ_P0 (R42). -/
def execPwrReqP0 (fn : Nat) (k : BitVec 3) (s : State) : Out := .next (s.pwrReq fn 0 (some .p0) k)

/-- PWR_REQ_P1 (R42): one tick in k. -/
def execPwrReqP1 (fn : Nat) (k : BitVec 3) (s : State) : Out := .next (s.pwrReq fn 1 (some .p1) k)

/-- PWR_REQ_P2 (R42). -/
def execPwrReqP2 (fn : Nat) (k : BitVec 3) (s : State) : Out := .next (s.pwrReq fn 2 (some .p2) k)

/-- PWR_REQ_P3 (R41, R42): accepted from the PF of link 0 alone. -/
def execPwrReqP3 (fn : Nat) (k : BitVec 3) (s : State) : Out := .next (s.pwrReq fn 3 (some .p3) k)

/-! ## What a state loses (Table 2.5a) -/

/-- A tape whose records lie in vaults. -/
def State.inVault (s : State) (f : Flight) (t : BitVec 20) : Bool := ((s.dir f t).map (fun d => !d.far)).getD false

/-- What a job had in vaults of its stream tapes is undefined. -/
def State.loseTapes (s : State) (f : Flight) (ts : List TapeState) : List TapeState :=
  ts.map (fun t =>
    if s.inVault f t.id then
      { t with records := t.records.map (fun x => (x.1, x.2.1.zipIdx.map (fun b => Config.undefByte s.gens (t.id.toNat * 2 ^ 60 + x.1 * 65536 + b.2)), x.2.2)) }
    else t)

/-- What it had of cells is undefined. -/
def State.loseArrays (s : State) (as : List CellArray) : List CellArray := as.map (fun a => a.undefined (s.gens + 1 + a.id))

/-- What a run had in vaults: its cells and the records of its tapes there are undefined (R40, R41). -/
def State.loseRun (s : State) (r : Run) : Run :=
  match s.flightOf r with
  | none => r
  | some f =>
    { r with
      writes := r.writes.filter (fun w => !s.inVault f w.tape)
      arrays := s.loseArrays r.arrays
      tapes := s.loseTapes f r.tapes }

/-- What is kept of a faulted run loses the same (R63). -/
def State.loseKept (s : State) (f : Flight) : Flight :=
  { f with kept := f.kept.map (fun k => { k with arrays := s.loseArrays k.arrays, tapes := s.loseTapes f k.tapes }) }

/-- The vaults have been off: undefined contents (R40), and no granule of them is poisoned any more (the model's choice, log 92). -/
def State.loseVaults (s : State) : State :=
  let s := { s with runs := s.runs.map s.loseRun, fns := s.fns.map (fun (fn : Fn) => { fn with flights := fn.flights.map s.loseKept }) }
  { s with vaults := Mem.empty s.gens, gens := s.gens + 4098, poison := s.poison.filter (fun g => decide (17179869184 ≤ g)) }

/-! ## The end of a transition -/

/-- The core stands: it has no task, or has frozen (R40, R43). -/
def Core.stands (k : Core) : Bool := k.stage == .idle || k.stops.contains .power

/-- An engine works on a command: a copy, or a collective of which a rank has started (R218). -/
def State.copying (s : State) : Bool := s.contexts.any (fun x => x.queue.any (s.inProgress x))

/-- Everything a transition waits for has happened: in P2 every core stands and the engines' commands are finished (R40, R218);
for P3 no job runs and what the jobs have released is at its home, since the vaults go off (R40, R41). -/
def State.powerReady (s : State) (t : PowerState) : Bool :=
  match t with
  | .p2 => s.power.state == .p3 || (s.cores.all Core.stands && !s.copying)
  | .p3 => s.power.state == .p3 || s.runs.all (fun r => (r.stage != .active || (r.cut.isNone && !r.busy)) && r.flying.isEmpty)
  | _ => true

/-- The cores of secured virtual devices. -/
def State.securedCores (s : State) : List Nat :=
  if s.rot.cfg.secState == 2 then (s.fns.filter (fun f => f.secured && !f.isPf)).flatMap Fn.cores else []

/-- The cores go off (Table 2.5a): gallery and scratch of secured virtual devices are zeroed, those of the others are undefined, and no
core keeps a register (log 58). -/
def State.coresOff (s : State) : State :=
  let zero (c : Nat) : Core := { s.idleCore c with gallery := Mem.empty 0, scratch := Mem.empty 0 }
  let blank : State := { s with parked := [], coreGen := 0 }
  { s with parked := s.securedCores.map (fun c => { zero c with arch := (blank.idleCore c).arch, shadow := (blank.idleCore c).arch, poison := [], tags := [] })
           coreGen := s.gens, gens := s.gens + 2 }

/-- What entering P3 does once the jobs are cut: a HALT session ends (Table 2.5), the vaults and the cores go off. -/
def State.enterP3 (s : State) : State :=
  let s := if (s.rot.session.map Session.halt).getD false then s.endSession else s
  s.coresOff.loseVaults

/-- The state changes, as the last step of a transition; `check` is the re-measurement on leaving P3 (R41). -/
def State.arrivePower (s : State) (check : State → State) : State :=
  match s.power.busy with
  | none => s
  | some (t, k, req) =>
    let g := goalOf t k s.power.managed
    let from_ := s.power.state
    let p := { s.power with state := g.1, k := g.2, busy := none }
    let p := if req then { p with req := p.req &&& 0x7FFFFFFF, status := 0 } else p
    let s := { s with power := p }
    let s := if from_ == .p3 && g.1 != .p3 then check s else s
    let s := if from_ == .p2 && (g.1 == .p0 || g.1 == .p1) then s.thaw else s
    let s := if from_ != .p3 && g.1 == .p3 then s.enterP3 else s
    match s.power.queue with
    | [] => s
    | (t, k, req) :: rest => ({ s with power := { s.power with queue := rest } } : State).beginPower t k req

/-! ## The management controller, loss of power -/

/-- A function as power or a reset leaves it: its registers fresh, the host's memory its own. -/
def Fn.renew (f : Fn) : Fn :=
  { Fn.fresh f.no f.link f.groups f.secured f.quota f.extent0 f.ports with host := f.host, hostAbort := f.hostAbort, msiOut := f.msiOut }

/-- The root of trust without power: its eMRAM and what the model knows of it stay (R31, R44). -/
def Rot.dark (r : Rot) : Rot :=
  { r with booted := false, recovery := false, meas := List.replicate 8 (List.replicate 32 0), entries := [], session := none, sessEnd := false
           measFail := false, queue := [], answer := none }

/-- Everything but the eMRAM, the host's memory and what is to come is as at reset; the memories are undefined (Table 2.5a). -/
def State.dark (s : State) : State :=
  { State.reset with
    agenda := s.agenda, free := s.free, gens := s.gens + 4, rot := s.rot.dark, fns := s.fns.map Fn.renew
    vaults := Mem.empty s.gens, hbm := Mem.empty (s.gens + 1), coreGen := s.gens + 2 }

/-- P4 (R40, R44). -/
def State.powerOff (s : State) : State := { s.dark with power := { Power.reset with state := .p4 } }

/-- POWER_LOSS (R40, R44). -/
def execPowerLoss (s : State) : Out := .next s.powerOff

/-- What the management controller's sample asks for changes its P1 (R29, R42). -/
def State.manage (s : State) (m : Option Nat) : State :=
  if m == s.power.managed then s
  else
    let s := { s with power := { s.power with managed := m } }
    s.askPower s.power.asked s.power.askedK false

/-- MGMT_SAMPLE (R29): die temperatures in °C, module power in mW averaged over 10 ms, and the k of its P1. -/
def execMgmtSample (temps : List Nat) (milliwatts k : Nat) (s : State) : Out :=
  if temps.any (fun t => decide (110 ≤ t)) then .next s.powerOff
  else if temps.any (fun t => decide (100 ≤ t)) || decide (2800000 < milliwatts) then .next (s.manage (some (max 2 (min 8 k))))
  else if temps.all (fun t => decide (t < 95)) && decide (milliwatts < 2600000) then .next (s.manage none)
  else .next s

end Sys2Proof.Machine
end

