-- ==== Sys2Proof/Machine/Trust.lean ====
section
/-! DEFINITION. The root of trust (R31 to R39, R69, R70): measurements and the boot chain (Table 2.2), changes of security state, the
message requests of Table 3.12, and debug sessions (Tables 2.4, 2.4a). -/

namespace Sys2Proof.Machine

/-! ## Measurements and counters (R33, R34) -/

/-- The authentication of a region's bytes with their write counter (R32). -/
def Region.seal (writes : Nat) (bs : List Byte) : List Byte := hmac (fitTo 32 Config.emramKey) (leBytes 8 writes ++ bs)

/-- A region written, with the next value of its write counter (R32). -/
def Region.put (x : Region) (bs : List Byte) : Region := ⟨bs, x.count + 1, Region.seal (x.count + 1) bs, x.count + 1⟩

/-- The authentication and the counter check hold (R32). -/
def Region.intact (x : Region) : Bool := x.tag.length == 32 && x.writes == x.count && x.tag == Region.seal x.writes x.bytes

/-- The bytes of a region, absent when its authentication or counter check fails (R32). -/
def Region.read (x : Region) : Option (List Byte) := if x.intact then some x.bytes else none

/-- The entries of the log as the log region holds them: 40 bytes each (R70). -/
def logEntry (i kind : Nat) (d : List Byte) : List Byte := leBytes 1 i ++ leBytes 1 kind ++ List.replicate 6 0 ++ fitTo 32 d

/-- The log region holds these entries, as many as its 256 KiB have room for (R33, Table 2.1; log 56). -/
def Rot.putLog (r : Rot) (es : List (Nat × Nat × List Byte)) : Rot :=
  let es := es.take 6553
  { r with entries := es, log := r.log.put (es.flatMap (fun e => logEntry e.1 e.2.1 e.2.2)) }

/-- A measurement register is extended with digest `d` of an object of this kind, and the log with an entry (R33). -/
def Rot.extend (r : Rot) (i kind : Nat) (d : List Byte) : Rot :=
  { r with meas := r.meas.set i (sha256 (r.meas.getD i [] ++ d)) }.putLog (r.entries ++ [(i, kind, d)])

/-- An object is measured: the bytes of the region, with the signature in them (R33; log 4). -/
def Rot.measure (r : Rot) (i kind : Nat) (object : List Byte) : Rot := r.extend i kind (sha256 object)

/-- id_state is written: the seed of the identity key and q_next (Table 2.1; log 56). -/
def Rot.putId (r : Rot) (seed : W64) (q : Nat) : Rot :=
  { r with hasIdentity := true, seed := seed, qNext := q, idState := r.idState.put (leBytes 8 seed.toNat ++ leBytes 4 q) }

/-- ctr is written; a write that would lower a counter is refused (R32; log 56). -/
def Rot.putCtr (r : Rot) (fw cfg boot : Nat) : Rot :=
  if fw < r.fwMin || cfg < r.cfgMin || boot < r.bootCount then r
  else { r with fwMin := fw, cfgMin := cfg, bootCount := boot, ctr := r.ctr.put (leBytes 8 fw ++ leBytes 8 cfg ++ leBytes 8 boot) }

/-- What the regions hold as a boot reads them: an absent one gives no identity key, counters of 0, an empty log (R32; log 56). -/
def Rot.load (r : Rot) : Rot :=
  let n (x : Region) (a k : Nat) : Nat := leVal (part (x.read.getD []) a k)
  { r with hasIdentity := r.idState.read.isSome, seed := BitVec.ofNat 64 (n r.idState 0 8), qNext := n r.idState 8 4
           fwMin := n r.ctr 0 8, cfgMin := n r.ctr 8 8, bootCount := n r.ctr 16 8 }.putLog []

/-- An image or blob carries a good signature of the vendor (R33, R35; log 3, 4). -/
def signed (bs : List Byte) : Bool := hssVerify Config.vendorKey (Config.splitSigned bs).2 (Config.splitSigned bs).1

/-- A firmware region that verifies and is not older than fw_min (Table 2.2 step 1). -/
def Rot.usable (r : Rot) (x : Region) : Option (List Byte) :=
  x.read.filter (fun bs => signed bs && decide (r.fwMin ≤ Config.imageVersion bs))

/-- The changes of security state that are permitted; none is no change (R37). -/
def changeAllowed (old new : Nat) : Bool :=
  old == new || (old == 0 && new == 1) || (old == 1 && new == 2) || (old == 2 && new == 1)

/-- The blob that verifies, is not older than cfg_min and names no forbidden change (Table 2.2 step 2, R37). -/
def Rot.blob (r : Rot) : Option (List Byte) :=
  r.cfgBlob.read.filter (fun bs => signed bs && decide (r.cfgMin ≤ (Config.cfgOf bs).version) &&
    changeAllowed r.cfg.secState (Config.cfgOf bs).secState)

/-! ## The boot chain (R33, Table 2.2) -/

/-- A function as a boot makes it, over the host's memory behind the old one. -/
def Fn.over (f : Fn) (old : Option Fn) : Fn :=
  match old with
  | some o => { f with host := o.host, hostAbort := o.hostAbort, msiOut := o.msiOut }
  | none => f

/-- Recovery mode (R33, R41): the PF enumerates with BAR0 alone; no flight stays, and nothing runs. A session that survived P3 ends with
sess_end set, and what is queued or answered there is dropped (log 79). -/
def State.recover (s : State) : State :=
  { s with
    rot := { s.rot with recovery := true, booted := true, session := none, sessEnd := s.rot.sessEnd || s.rot.session.isSome, queue := [], answer := none }
    fns := [(Fn.fresh 0 0 0 false 0 0 0).over (s.fnAt 0)]
    runs := [], cores := [], turn := [], contexts := [], lines := [], events := [], halls := [] }

/-- What a blob gives function `n`, its link aside; of a physical function that it does not list, nothing (log 4). -/
def Cfg.entry (c : Cfg) (n : Nat) : Nat × Bool × Nat × Nat × W16 := ((c.fns.find? (fun x => x.1 == n)).map Prod.snd).getD (0, false, 0, 0, 0)

/-- The functions of the two links and where each enumerates (R47, R48): the PF of link 0, the virtual functions, in paired mode all on
link 0, and in split mode the PF of link 1. -/
def Cfg.functions (c : Cfg) : List (Nat × Nat) :=
  let vfs := ((c.fns.map Prod.fst).eraseDups.filter (fun n => decide (1 ≤ n) && decide (n ≤ 16))).map (fun n =>
    (n, if c.split then (c.entry n).1 % 2 else 0))
  (0, 0) :: vfs ++ (if c.split then [(17, 1)] else [])

/-- The groups that the blob gives a function (R46, R51); one that names no function of the package is the PF's of link 0. -/
def Cfg.groupsOf (c : Cfg) (fn : Nat) : W16 :=
  let owner (g : Nat) : Nat := ((c.functions.map Prod.fst).find? (fun n => n == c.owner.getD g 0)).getD 0
  BitVec.ofNat 16 (((List.range 16).filter (fun g => owner g == fn)).map (fun g => 2 ^ g)).sum

/-- The functions that a blob makes, and in paired mode the companion of link 1; the host's memory stays as it is (R46 to R51). -/
def State.functionsOf (s : State) (c : Cfg) : List Fn :=
  c.functions.map (fun x =>
    let e := (c.entry x.1).2
    (Fn.fresh x.1 x.2 (c.groupsOf x.1) e.1 e.2.1 e.2.2.1 e.2.2.2).over (s.fnAt x.1)) ++
  (if c.split then [] else [(Fn.fresh 31 1 0 false 0 0 0).over (s.fnAt 31)])

/-- Steps 1 and 2 up to the first failure: the firmware image and the blob, when both are good (Table 2.2). -/
def Rot.accept (r : Rot) : Rot × Option (List Byte × List Byte) :=
  match (r.usable r.fwA) <|> (r.usable r.fwB) with
  | none => (r, none)
  | some fw =>
    let r := r.measure 0 1 fw
    match r.blob with
    | none => (r, none)
    | some bs => (r.measure 1 2 bs, some (fw, bs))

/-- Step 3: the blob is in force; OPEN to PROVISIONED generates the identity key (R36, R37). A boot in
PROVISIONED or SECURED that finds no identity generates a new one with q_next 0 (the model's choice, log 91). -/
def Rot.apply (r : Rot) (bs : List Byte) : Rot :=
  let c := Config.cfgOf bs
  let r := if c.secState != 0 && !r.hasIdentity then r.putId (Config.identitySeed r.bootCount) 0 else r
  ({ r with cfg := c } : Rot).measure 2 3 (Config.settingsObject bs)

/-- Steps 3 and 4: the settings, and the agents' firmware; whether the boot goes on. -/
def Rot.enforce (r : Rot) (fw bs : List Byte) : Rot × Bool :=
  let r := r.apply bs
  if Config.agentsGood fw then
    (((r.measure 3 4 (Config.agentObject fw 0)).measure 4 5 (Config.agentObject fw 1)).measure 5 6 (Config.agentObject fw 2), true)
  else (r, false)

/-- Step 5: the counters rise, never before every check has passed (R34). -/
def Rot.count (r : Rot) (fw bs : List Byte) : Rot :=
  { r.putCtr (max r.fwMin (Config.imageVersion fw)) (max r.cfgMin (Config.cfgOf bs).version) (r.bootCount + 1) with booted := true }

/-- SECURED to PROVISIONED zeroes every vault, all HBM, and the gallery and scratch of every core before the blob is committed (R37). -/
def State.erase (s : State) (old new : Nat) : State :=
  if old == 2 && new == 1 then { s with vaults := Mem.empty 0, hbm := Mem.empty 0, parked := [], coreGen := 0 } else s

/-- The package as a reset finds it: everything volatile at its reset value; the memories of a package that had booted are
undefined (log 8). -/
def State.resetAll (s : State) : State :=
  let d := s.dark
  if s.rot.booted then d else { d with vaults := s.vaults, hbm := s.hbm, coreGen := s.coreGen }

/-- Step 5, on a package whose blob is in force. Whether the training succeeds lies outside: a free value (log 2). -/
def State.train (s : State) (fw bs : List Byte) : State :=
  let c := Config.cfgOf bs
  let trained := (Config.freeValue s.free).getLsbD 0
  let s := { s with free := s.free + 1 }
  if !trained then s.recover
  else
    { s with
      rot := s.rot.count fw bs, fns := s.functionsOf c, sysSelf := c.sysSelf &&& 0x80000FFF
      ports := s.ports.map (fun p => { p with stage := .training }) }

/-- PACKAGE_RESET (R19, R33, R34, R37, Table 2.2). -/
def execPackageReset (s : State) : Out :=
  let old := s.rot.cfg.secState
  let s := s.resetAll
  let x := s.rot.load.accept
  match x.2 with
  | none => .next ({ s with rot := x.1 } : State).recover
  | some (fw, bs) =>
    let s := s.erase old (Config.cfgOf bs).secState
    let y := x.1.enforce fw bs
    if y.2 then .next (({ s with rot := y.1 } : State).train fw bs) else .next ({ s with rot := y.1 } : State).recover

/-- The re-measurement on leaving P3: a blob that fails, or names other settings than those in force, puts the part in recovery
mode (R41, Table 2.6). The settings compared are all that a blob settles, its version among them, on which the spec says no more
(log 65). Of a blob that is absent or fails its signature the empty object is measured (log 57). -/
def State.remeasure (s : State) : State :=
  let bs := s.rot.cfgBlob.read.filter signed
  let r := s.rot.measure 1 2 (bs.getD [])
  let r := r.measure 2 3 (Config.settingsObject (bs.getD []))
  if bs.map Config.cfgOf = some s.rot.cfg then { s with rot := r } else ({ s with rot := { r with measFail := true } } : State).recover

/-- POWER_TRANSITION_END (R41, R42): once all that the state needs has happened. -/
def execPowerTransitionEnd (s : State) : Out :=
  match s.power.busy with
  | none => .next s
  | some (t, _, _) => if s.powerReady t then .next (s.arrivePower State.remeasure) else .next s

/-! ## Requests (R69, R70) -/

/-- `n` bytes of a function's request from `a`, and the number they hold. -/
def Fn.req (f : Fn) (a n : Nat) : List Byte := f.msgReq.bytes a n
def Fn.reqNum (f : Fn) (a n : Nat) : Nat := leVal (f.req a n)

def Fn.reqKind (f : Fn) : Nat := f.reqNum 0 2
def Fn.reqLen (f : Fn) : Nat := f.reqNum 2 2

/-- Bytes of the request are zero. -/
def Fn.reqZero (f : Fn) (a n : Nat) : Bool := (f.req a n).all (fun b => b == 0)

/-- A session of this level needs a token in this security state (Table 2.4). -/
def needsToken (sec level : Nat) : Bool := sec == 2 || (sec == 1 && level == 2)

/-- The request is well formed for its kind (R70, Table 3.12); a body field out of its range is BAD_REQ too (the model's choice,
log 93). -/
def Fn.reqGood (f : Fn) (sec : Nat) : Bool :=
  f.reqZero 4 12 &&
  (match f.reqKind with
   | 1 => 1 ≤ f.reqNum 16 1 && f.reqNum 16 1 ≤ 16 && f.reqZero 17 15 && f.reqLen == 16 + 32 * f.reqNum 16 1
   | 2 => (f.reqNum 16 1 == 6 || f.reqNum 16 1 == 7) && f.reqZero 17 15 && f.reqLen == 48
   | 3 => (f.reqNum 16 1 == 1 || f.reqNum 16 1 == 2) && (f.reqNum 17 1 < 16 || f.reqNum 17 1 == 255) && f.reqZero 18 14 &&
       f.reqLen == (if needsToken sec (f.reqNum 16 1) then 5156 else 16)
   | 4 => f.reqLen == 0
   | 5 => f.reqNum 16 1 < 2 && f.reqNum 17 1 < 64 && f.reqZero 18 6 && f.reqNum 32 4 ≤ 1572864 && f.reqZero 36 4 && f.reqLen == 24
   | 6 => f.reqNum 16 1 == 0 && f.reqNum 17 1 < 64 && f.reqZero 18 6 && f.reqNum 32 4 ≤ 262144 && f.reqZero 36 4 && f.reqLen == 24
   | 7 => f.reqZero 20 12 && f.reqLen == 16
   | _ => false)

/-- What a request gives: the state, its status and its response. -/
abbrev Served := State × Nat × List Byte

/-- A request that ends with a status and no response. -/
def State.served (s : State) (status : Nat) : Served := (s, status, [])

/-! ## QUOTE, EXTEND, READ_LOG -/

/-- The log region as it is read (R70): entries of 40 bytes. -/
def Rot.logBytes (r : Rot) : List Byte := r.log.read.getD []

/-- The first 1,036 bytes of a quote (Table 2.3). The security state of a part in recovery mode is 3, as sec_stat has it (log 57). -/
def Rot.quoteHead (r : Rot) (q n : Nat) (nonces : List Byte) : List Byte :=
  leBytes 4 q ++ leBytes 4 r.bootCount ++ r.meas.flatten ++ leBytes 2 (if r.recovery then 3 else r.cfg.secState) ++ leBytes 2 n ++
  (nonces ++ List.replicate 512 0).take 512 ++ sha256 r.logBytes ++ List.replicate 224 0

/-- q_next + 1 is written to id_state and read back (R36). -/
def Rot.burn (r : Rot) : Rot × Bool :=
  let x := r.putId r.seed (r.qNext + 1)
  (x, (x.idState.read.map (fun bs => leVal (part bs 8 4))) == some x.qNext)

/-- A QUOTE is served: one index is burned before the signature is released (R36). -/
def State.serveQuote (s : State) (f : Fn) : Served :=
  let r := s.rot
  if !r.hasIdentity then s.served 4
  else if 1048576 ≤ r.qNext then s.served 3
  else
    let n := f.reqNum 16 1
    let head := r.quoteHead r.qNext n (f.req 32 (32 * n))
    ({ s with rot := r.burn.1 }, 0, if r.burn.2 then head ++ hssSign r.seed r.qNext head else [])

/-- EXTEND is served, of a PF (R69, R70). -/
def State.serveExtend (s : State) (f : Fn) : Served :=
  if !f.isPf then s.served 2 else ({ s with rot := s.rot.extend (f.reqNum 16 1) 7 (f.req 32 32) }, 0, [])

/-- READ_LOG is served (R70). -/
def State.serveLog (s : State) (f : Fn) : Served := (s, 0, (s.rot.logBytes.drop (f.reqNum 16 4)).take 8192)

/-! ## Sessions (R38, R39, Tables 2.4, 2.4a) -/

/-- A field of the token in the request. -/
def Fn.token (f : Fn) (a n : Nat) : List Byte := f.req (32 + a) n

/-- The checks of a token that do not depend on the request (R38, R39). -/
def Rot.tokenGood (r : Rot) (f : Fn) : Bool :=
  leVal (f.token 0 4) == 0x4B545849 && leVal (f.token 4 2) == 1 && (leVal (f.token 6 1) == 1 || leVal (f.token 6 1) == 2) &&
  leVal (f.token 8 4) == r.bootCount % 2 ^ 32 && (f.token 12 4).all (fun b => b == 0) &&
  f.token 16 32 == sha256 (identityKey r.seed) && (f.token 48 16).all (fun b => b == 0) &&
  (match r.cfg.debugKey with
   | none => false
   | some key => hssVerify key (f.token 0 64) (f.token 64 5076))

/-- The request's level and vd are permitted by the security state and agree with the token where one is needed (R38, R39, R70). -/
def Rot.sessionAllowed (r : Rot) (f : Fn) : Bool :=
  let level := f.reqNum 16 1
  let vd := f.reqNum 17 1
  let own := f.isPf || vd + 1 == f.no
  let scope := r.cfg.secState != 2 || vd != 255
  let token := !needsToken r.cfg.secState level ||
    (r.tokenGood f && leVal (f.token 7 1) == vd && decide (level ≤ leVal (f.token 6 1)))
  own && scope && token

/-- OPEN_SESSION is served. -/
def State.serveOpen (s : State) (f : Fn) : Served :=
  if s.rot.session.isSome then s.served 6
  else if !s.rot.sessionAllowed f then s.served 5
  else
    let vd := f.reqNum 17 1
    ({ s with rot := { s.rot with session := some ⟨f.no, f.reqNum 16 1 == 2, if vd = 255 then none else some vd⟩ } }, 0, [])

/-- CLOSE_SESSION is served: of the opener or a PF (R43, R70). -/
def State.serveClose (s : State) (f : Fn) : Served :=
  match s.rot.session with
  | none => s.served 7
  | some x => if x.fn == f.no || f.isPf then (s.endSession, 0, []) else s.served 5

/-! ## LOAD_FW, LOAD_CFG -/

/-- `n` bytes of host memory through a window entry; none where it refuses the read (R64, R65). -/
def Fn.windowRead (f : Fn) (w : BitVec 128) (off n : Nat) : Option (List Byte) :=
  let page := (fld w 12 52).toNat
  if n = 0 then some []
  else if !w.getLsbD 0 || (fld w 64 32).toNat * 4096 < off + n then none
  else if f.hostAbort.any (fun p => page + off / 4096 ≤ p && decide (p ≤ page + (off + n - 1) / 4096)) then none
  else some (f.host.bytes (page * 4096 + off) n)

/-- The object that a load request names. -/
def Fn.loadObject (f : Fn) : Option (List Byte) := f.windowRead (f.windows.getD (f.reqNum 17 1) 0) (f.reqNum 24 8) (f.reqNum 32 4)

/-- LOAD_FW is served, of the PF of link 0: signature and version before the region is written (R48, R70). -/
def State.serveFw (s : State) (f : Fn) : Served :=
  if f.no != 0 then s.served 2
  else
    match f.loadObject with
    | none => s.served 0xA
    | some bs =>
      if !signed bs then s.served 8
      else if Config.imageVersion bs < s.rot.fwMin then s.served 9
      else if f.reqNum 16 1 = 0 then ({ s with rot := { s.rot with fwA := s.rot.fwA.put bs } }, 0, [])
      else ({ s with rot := { s.rot with fwB := s.rot.fwB.put bs } }, 0, [])

/-- LOAD_CFG is served, of the PF of link 0 (R37, R48, R70). -/
def State.serveCfg (s : State) (f : Fn) : Served :=
  if f.no != 0 then s.served 2
  else
    match f.loadObject with
    | none => s.served 0xA
    | some bs =>
      if !signed bs then s.served 8
      else if (Config.cfgOf bs).version < s.rot.cfgMin then s.served 9
      else if !changeAllowed s.rot.cfg.secState (Config.cfgOf bs).secState then s.served 5
      else ({ s with rot := { s.rot with cfgBlob := s.rot.cfgBlob.put bs } }, 0, [])

/-! ## Serving in order of go (R69) -/

/-- A function's request is served (R70). -/
def State.serveOne (s : State) (f : Fn) : Served :=
  if !f.reqGood s.rot.cfg.secState then s.served 1
  else
    match f.reqKind with
    | 1 => s.serveQuote f
    | 2 => s.serveExtend f
    | 3 => s.serveOpen f
    | 4 => s.serveClose f
    | 5 => s.serveFw f
    | 6 => s.serveCfg f
    | _ => s.serveLog f

/-- The root of trust takes up the first request of its queue. -/
def State.serveNext (s : State) : State :=
  match s.rot.queue with
  | [] => s
  | fn :: _ =>
    match s.fnAt fn with
    | none => s
    | some f =>
      let x := s.serveOne f
      { x.1 with rot := { x.1.rot with answer := some x.2 } }

/-- A write of go = 1 to msg_ctl (R69): the request joins the queue, and is taken up at once when it is the first. -/
def State.submit (s : State) (fn : Nat) : State :=
  match s.bar0 fn with
  | none => s
  | some f =>
    if f.msgGo then s
    else
      let s := s.mapFn fn (fun f => { f with msgGo := true })
      let s := { s with rot := { s.rot with queue := s.rot.queue ++ [fn] } }
      if s.rot.queue.length = 1 then s.serveNext else s

/-- The same for a request of a kind. -/
def State.submitKind (s : State) (fn kind : Nat) : State :=
  if (s.fnAt fn).map Fn.reqKind = some kind then s.submit fn else s

/-- MSG_QUOTE (R36, R70). -/
def execMsgQuote (fn : Nat) (s : State) : Out := .next (s.submitKind fn 1)

/-- MSG_EXTEND (R33, R70). -/
def execMsgExtend (fn : Nat) (s : State) : Out := .next (s.submitKind fn 2)

/-- MSG_OPEN_SESSION (R38, R39, R70). -/
def execMsgOpenSession (fn : Nat) (s : State) : Out := .next (s.submitKind fn 3)

/-- MSG_CLOSE_SESSION (R43, R70). -/
def execMsgCloseSession (fn : Nat) (s : State) : Out := .next (s.submitKind fn 4)

/-- MSG_LOAD_FW (R70). -/
def execMsgLoadFw (fn : Nat) (s : State) : Out := .next (s.submitKind fn 5)

/-- MSG_LOAD_CFG (R37, R70). -/
def execMsgLoadCfg (fn : Nat) (s : State) : Out := .next (s.submitKind fn 6)

/-- MSG_READ_LOG (R70). -/
def execMsgReadLog (fn : Nat) (s : State) : Out := .next (s.submitKind fn 7)

/-- msg_stat (Table 3.10). -/
def msgStatWord (status kind len : Nat) : W32 := BitVec.ofNat 32 (status * 2 ^ 24 + kind % 256 * 2 ^ 16 + len)

/-- MESSAGE_REQUEST_END (R70): the response, msg_stat, go clear; the next request in order of go is taken up. -/
def execMessageRequestEnd (s : State) : Out :=
  match s.rot.queue, s.rot.answer with
  | fn :: rest, some (status, resp) =>
    let s := s.mapFn fn (fun f =>
      { f with msgGo := false, msgStat := msgStatWord status f.reqKind resp.length, msgResp := f.msgResp.write 0 resp })
    .next ({ s with rot := { s.rot with queue := rest, answer := none } } : State).serveNext
  | _, _ => .next s

end Sys2Proof.Machine
end

