-- ==== Sys2Proof/Machine/Flights.lean ====
section
/-! DEFINITION. Installing, removing and staging flights (R71 to R75, Tables 4.1 to 4.6): the image, its checks, and the operations. -/

namespace Sys2Proof.Machine

/-! ## The image (R73, R74) -/

/-- A field of an image's bytes, and whether bytes of it are zero. -/
def imgField (b : List Byte) (a n : Nat) : Nat := leVal ((b.drop a).take n)
def imgZero (b : List Byte) (a n : Nat) : Bool := ((b.drop a).take n).all (fun x => x == 0)

/-- The node kinds by code (Table 4.5). -/
def nodeKindOf : Nat → Option NodeKind
  | 1 => some .kernel
  | 2 => some .transform
  | 3 => some .conditional
  | 4 => some .while_
  | 5 => some .wait
  | 6 => some .notify
  | _ => none

/-- A node record of 64 bytes read field by field (Tables 4.5, 4.6). -/
def nodeOf (b : List Byte) (kind : NodeKind) : Node :=
  let f := imgField b
  let grid := f 40 8
  let on (k : NodeKind) (v : Nat) : Nat := if kind == k then v else 0
  let test (v : Nat) : Nat := if kind == .conditional || kind == .while_ then v else 0
  { kind := kind, isEnd := (f 1 1).testBit 0, useClass := (f 1 1).testBit 1, cls := f 1 1 / 4 % 4, persistent := (f 1 1).testBit 4
    depInit := f 2 2, succ := (List.range 8).map (fun i => f (4 + 2 * i) 2)
    codeVa := BitVec.ofNat 64 (on .kernel (f 20 8)), dictVa := BitVec.ofNat 64 (on .kernel (f 28 8)), featReq := BitVec.ofNat 32 (on .kernel (f 36 4))
    xdim := on .kernel (grid % 2 ^ 20 + 1), ydim := on .kernel (grid / 2 ^ 20 % 2 ^ 20 + 1), zdim := on .kernel (grid / 2 ^ 40 % 2 ^ 20 + 1)
    nCore := on .kernel (f 48 2), domUse := BitVec.ofNat 8 (on .kernel (f 50 1))
    listTape := BitVec.ofNat 20 (on .transform (f 20 3)), nCmd := on .transform (f 24 2), engine := on .transform (f 26 1)
    condNo := if kind == .notify then f 25 1 else test (f 20 1), condMask := BitVec.ofNat 32 (test (f 24 4))
    loopFirst := on .while_ (f 28 2), loopLast := on .while_ (f 30 2), maxIter := on .while_ (f 32 2)
    value := BitVec.ofNat 32 (on .notify (f 20 4)), fromCond := on .notify (f 24 1) == 1 }

/-- The reserved bytes of a kind's record are zero and its fields in range (R74, R75 first point). -/
def kindGood (b : List Byte) (kind : NodeKind) (n : Nat) : Bool :=
  let f := imgField b
  match kind with
  | .kernel => f 36 4 < 2 ^ 31 && f 40 8 < 2 ^ 60 && f 48 2 ≤ 1024 && f 50 1 < 16 && imgZero b 51 13
  | .transform => f 20 3 < 2 ^ 20 && imgZero b 23 1 && 1 ≤ f 24 2 && f 24 2 ≤ 64 && f 26 1 ≤ 1 && imgZero b 27 37
  | .conditional => f 20 1 < 64 && imgZero b 21 3 && imgZero b 28 36
  | .while_ => f 20 1 < 64 && imgZero b 21 3 && f 28 2 ≤ f 30 2 && f 30 2 < n && 1 ≤ f 32 2 && imgZero b 34 30
  | .wait => imgZero b 20 44
  | .notify => f 24 1 ≤ 1 && f 25 1 < 64 && imgZero b 26 38

/-- The node of record `b` at index `i` of `n`, where the record by itself passes R75. -/
def nodeOfRecord (b : List Byte) (i n : Nat) : Option Node :=
  match nodeKindOf (imgField b 0 1) with
  | none => none
  | some kind =>
    let x := nodeOf b kind
    let common := imgField b 1 1 < 32 && (kind == .kernel || !x.persistent) && x.depInit ≤ 256 &&
      x.succ.all (fun s => s == 0xFFFF || (decide (s < 256) && decide (s < n)))
    let range := kind != .while_ || (decide (x.loopFirst ≤ i) && decide (i ≤ x.loopLast))
    let wait := kind != .wait || x.depInit != 0
    if common && kindGood b kind n && range && wait then some x else none

/-- How often succ entries name node `i` (R75). -/
def namings (nodes : List Node) (i : Nat) : Nat := ((nodes.flatMap Node.succ).filter (fun s => s == i)).length

/-- The points of R75 that look at the whole flight. -/
def flightGood (f : Flight) : Bool :=
  f.nodes.zipIdx.all (fun x =>
    decide (x.1.depInit ≤ namings f.nodes x.2 + (if x.1.kind == .wait then 1 else 0)) &&
    (List.range 4).all (fun d => !x.1.domUse.getLsbD d || (f.dom.getD d ⟨0, 0⟩).level != 0))

/-- The header passes R73 and R75: magic, ranges, zero fields (of hash_mask too, R160), and what a system-wide flight needs. -/
def headerGood (b : List Byte) : Bool :=
  let f := imgField b
  f 0 4 == 0x4C465849 && 1 ≤ f 4 2 && f 4 2 ≤ 256 && f 6 1 < 4 && imgZero b 7 1 &&
  (List.range 4).all (fun d => f (16 + 4 * d) 1 ≤ 4 && imgZero b (17 + 4 * d) 1) && imgZero b 56 8 &&
  f 32 8 % 512 == 0 && f 32 8 < 2 ^ 36 &&
  (if f 40 4 = 0 then imgZero b 44 12 else 1 ≤ f 44 2 && f 44 2 ≤ 4096 && f 46 2 < f 44 2)

/-- All of the records, in order, where each passes. -/
def nodesOf (b : List Byte) (n : Nat) : Option (List Node) :=
  (List.range n).foldl (fun l i =>
    match l, nodeOfRecord ((b.drop (64 + 64 * i)).take 64) i n with
    | some l, some x => some (l ++ [x])
    | _, _ => none) (some [])

/-- The flight of an image (R73 to R75); none: BAD_IMAGE. Its pages are entered by page-table changes (log 6). -/
def flightOfImage (id : Nat) (b : List Byte) : Option Flight :=
  let f := imgField b
  if !headerGood b then none
  else
    match nodesOf b (f 4 2) with
    | none => none
    | some nodes =>
      let x : Flight :=
        { id := id, defClass := f 6 1, tapeDir := BitVec.ofNat 64 (f 8 8)
          dom := (List.range 4).map (fun d => ⟨f (16 + 4 * d) 1, f (18 + 4 * d) 2⟩)
          hashMask := BitVec.ofNat 64 (f 32 8), sysJob := BitVec.ofNat 32 (f 40 4), nPkg := f 44 2, pkgIndex := f 46 2
          pkgList := BitVec.ofNat 64 (f 48 8), nodes := nodes, pages := [], queue := [], heldWaits := [], kept := none }
      if flightGood x then some x else none

/-! ## The operations (R72) -/

/-- Node records of the package that are free (Table 4.3). -/
def State.freeNodes (s : State) : Nat := Config.nodeRecords - ((s.fns.flatMap Fn.flights).map (fun f => f.nodes.length)).sum

/-- The image read through the window of fl_src: the header, then the records it counts (R72). -/
def Fn.readImage (f : Fn) : Option (List Byte) :=
  let w := f.windows.getD (fld f.flSrc 58 6).toNat 0
  let off := (fld f.flSrc 0 58).toNat
  match f.windowRead w off 64 with
  | none => none
  | some h => if headerGood h then f.windowRead w off (64 + 64 * imgField h 4 2) else some h

/-- INSTALL ends: the functions' new state and the status. -/
def State.install (s : State) (f : Fn) (id : Nat) : State × Nat :=
  if (f.flightAt id).isSome then (s, 0x15)
  else
    match f.readImage with
    | none => (s, 0x14)
    | some b =>
      match flightOfImage id b with
      | none => (s, 0x10)
      | some x =>
        if s.freeNodes < x.nodes.length then (s, 0x11)
        else (s.mapFn f.no (fun f => { f with flights := f.flights ++ [x] }), 0)

/-- REMOVE ends: an active run, a queued arm or a kept commit image keeps the flight; a faulted run without a commit left no image (R72). -/
def State.remove (s : State) (f : Fn) (id : Nat) : State × Nat :=
  match f.flightAt id with
  | none => (s, 0x16)
  | some x =>
    if (s.activeRun f.no id).isSome || !x.queue.isEmpty || !x.heldWaits.isEmpty || (x.kept.map (fun (k : Kept) => !k.images.isEmpty)).getD false then (s, 0x12)
    else (s.mapFn f.no (fun f => { f with flights := f.flights.filter (fun y => y.id != id), staged := f.staged.filter (fun i => i != id) }), 0)

/-- Bytes of the staging area that a flight takes: 4 KiB of code and 16 KiB of dictionary for each kernel node. -/
def Fn.stagedSize (f : Fn) (id : Nat) : Nat :=
  20480 * (((f.flightAt id).map (fun x => (x.nodes.filter (fun n => n.kind == .kernel)).length)).getD 0)

/-- The oldest stagings of other flights are overwritten until the rest fit in 256 KiB (R72). -/
def Fn.fitStaged (f : Fn) (id : Nat) : List Nat → List Nat
  | [] => []
  | x :: rest => if (((x :: rest) ++ [id]).map f.stagedSize).sum ≤ 262144 then x :: rest else f.fitStaged id rest

/-- STAGE ends: nothing but launch time depends on it. -/
def State.stage (s : State) (f : Fn) (id : Nat) : State × Nat :=
  match f.flightAt id with
  | none => (s, 0x16)
  | some _ => (s.mapFn f.no (fun f => { f with staged := f.fitStaged id (f.staged.filter (fun i => i != id)) ++ [id] }), 0)

/-- A write of go = 1 to fl_cmd starts an operation; it is ignored while one runs (R71). -/
def State.flStart (s : State) (fn op id : Nat) : State :=
  match s.answering fn with
  | none => s
  | some f =>
    if f.flCmd.getLsbD 31 then s
    else s.mapFn fn (fun f => { f with flCmd := BitVec.ofNat 32 (2 ^ 31 + op % 8 * 2 ^ 28 + id % 1024) })

/-- FL_INSTALL (R71, R72). -/
def execFlInstall (fn : Nat) (flight : BitVec 10) (s : State) : Out := .next (s.flStart fn 1 flight.toNat)

/-- FL_REMOVE (R71, R72). -/
def execFlRemove (fn : Nat) (flight : BitVec 10) (s : State) : Out := .next (s.flStart fn 2 flight.toNat)

/-- FL_STAGE (R71, R72). -/
def execFlStage (fn : Nat) (flight : BitVec 10) (s : State) : Out := .next (s.flStart fn 3 flight.toNat)

/-- FLIGHT_OPERATION_END (R71, R72): what the operation does in one step, then go clears and fl_stat is set. -/
def execFlightOperationEnd (fn : Nat) (s : State) : Out :=
  match s.answering fn with
  | none => .next s
  | some f =>
    if !f.flCmd.getLsbD 31 then .next s
    else
      let id := (fld f.flCmd 0 10).toNat
      let x : State × Nat := match (fld f.flCmd 28 3).toNat with
        | 1 => s.install f id
        | 2 => s.remove f id
        | 3 => s.stage f id
        | _ => (s, 0x13)
      .next (x.1.mapFn fn (fun f => { f with flCmd := f.flCmd &&& 0x7FFFFFFF, flStat := x.2 }))

end Sys2Proof.Machine
end

