-- ==== Sys2Proof/Machine/Registers.lean ====
section
/-! DEFINITION. BAR0 (R50, Table 3.1): writes to registers that start nothing of their own, and what each register reads as. -/

namespace Sys2Proof.Machine

/-! ## Writes -/

/-- A host window entry keeps its reserved bits zero (Table 3.6). -/
def windowMask : BitVec 128 := 0x00000000FFFFFFFFFFFFFFFFFFFFF003

/-- cq_base and msi_map (Table 3.5). -/
def Fn.writeRing (f : Fn) (off : Nat) (v : BitVec 128) : Fn :=
  let w : W64 := fld v 0 64
  if off = 0x10008 then (if f.cqCtl.getLsbD 31 then f else { f with cqBase := w &&& 0xFFFFFFFFFFFFF000 })
  else if off = 0x10020 then { f with msiMap := w &&& 0xFFFFFFFFFF }
  else f

/-- fl_cmd without an operation that Table 4.2 names, and fl_src (R71). -/
def Fn.writeFlight (f : Fn) (off : Nat) (v : BitVec 128) : Fn :=
  if f.flCmd.getLsbD 31 then f
  else if off = 0x20000 then { f with flCmd := fld v 0 32 &&& 0xF00003FF }
  else if off = 0x20008 then { f with flSrc := fld v 0 64 }
  else f

/-- Job control: the fields without a command, or a command that ends with 0x40; the handler, the policies (R111, R112). -/
def Fn.writeJob (f : Fn) (off : Nat) (v : BitVec 128) : Fn :=
  let w : W64 := fld v 0 64
  if off = 0x100000 then
    { f with jcCmd := fld v 0 32 &&& 0x73E3FFFF, jcStat := if v.getLsbD 31 then 0x40 else f.jcStat }
  else if off = 0x100010 then { f with hndCode := w }
  else if off = 0x100018 then { f with hndDict := w }
  else if off = 0x100020 then { f with trapPol := w &&& 0xFFFFFFFFFC }
  else f

/-- Debug registers: the fields without a command, or a command of no operation, and the address and data (R115). -/
def State.writeDebug (s : State) (f : Fn) (off : Nat) (v : BitVec 128) : Fn :=
  if !(s.rot.session.map (fun x => x.fn == f.no)).getD false then { f with dbgStat := 0x53 }
  else if off = 0x101000 then
    { f with dbgCmd := fld v 0 32 &&& 0x7FFFF000, dbgStat := if v.getLsbD 31 then 0x52 else f.dbgStat }
  else if off = 0x101008 then { f with dbgAddr := fld v 0 64 &&& 0xFFC000000007FFFF }
  else if 0x102000 ≤ off && off < 0x103000 && off % 16 = 0 then { f with dbgData := f.dbgData.write (off - 0x102000) (leBytes 16 v.toNat) }
  else f

/-- A function's own registers at an offset that no row of the table names, while BAR0 answers. A register answers whole at its own
offset, and the window entries and buffers in aligned values of 16 bytes: the spec gives no access widths (log 57). -/
def State.writeOwn (s : State) (f : Fn) (off : Nat) (v : BitVec 128) : Fn :=
  if off < 0x20000 then f.writeRing off v
  else if off < 0x30000 then f.writeFlight off v
  else if off < 0x30400 then (if off % 16 = 0 then { f with windows := f.windows.set ((off - 0x30000) / 16) (v &&& windowMask) } else f)
  else if 0x100000 ≤ off && off < 0x101000 then f.writeJob off v
  else if 0x101000 ≤ off && off < 0x103000 then s.writeDebug f off v
  else f

/-- The message registers, which answer in recovery mode too: a write of go with a kind of no row, and the buffers, of which the response
buffer too takes what the host writes while go is 0 (R69; log 66). -/
def State.writeMessage (s : State) (f : Fn) (off : Nat) (v : BitVec 128) : State :=
  if off = 0x60000 then (if v.getLsbD 31 then s.submit f.no else s)
  else if 0x62000 ≤ off && off < 0x64000 && off % 16 = 0 && !f.msgGo then
    s.mapFn f.no (fun f => { f with msgReq := f.msgReq.write (off - 0x62000) (leBytes 16 v.toNat) })
  else if 0x64000 ≤ off && off < 0x66000 && off % 16 = 0 && !f.msgGo then
    s.mapFn f.no (fun f => { f with msgResp := f.msgResp.write (off - 0x64000) (leBytes 16 v.toNat) })
  else s

/-- pwr_req: target and k without go, or go with a target that names no state (Table 2.7). Any write while go is 1 is turned away with BUSY
(R42). -/
def State.writePower (s : State) (fn : Nat) (v : BitVec 128) : State :=
  if v.getLsbD 31 then s.pwrReq fn (fld v 0 3).toNat none (fld v 8 3)
  else if fn = 17 then { s with power := { s.power with status := 0x62 } }
  else if fn ≠ 0 then s
  else if s.power.req.getLsbD 31 then { s with power := { s.power with status := 0x61 } }
  else { s with power := { s.power with req := pwrWord (fld v 0 3).toNat (fld v 8 3) } }

/-- REGISTER_WRITE (R50): registers without an event of their own; any other offset ignores the write. -/
def execRegisterWrite (fn off : Nat) (v : BitVec 128) (s : State) : Out :=
  match s.bar0 fn with
  | none => .next s
  | some f =>
    if 0x60000 ≤ off && off < 0x70000 then .next (s.writeMessage f off v)
    else if s.rot.recovery then .next s
    else if off = 0x80000 then .next (s.writePower fn v)
    else .next (s.mapFn fn (fun f => s.writeOwn f off v))

/-! ## Reads -/

/-- fn_id (Table 3.2). -/
def State.fnId (s : State) (f : Fn) : W32 :=
  BitVec.ofNat 32 (f.groups.toNat * 2 ^ 16 + f.no % 32 * 2 ^ 11 + f.link % 2 * 2 ^ 10 + s.rot.cfg.split.toNat * 2 ^ 9 + f.secured.toNat * 2 ^ 8 + 3)

/-- jc_stat: its busy bit stands while a cut of a run the function can name is in progress (Table 5.6). -/
def State.jcStatWord (s : State) (f : Fn) : Nat :=
  f.jcStat * 2 ^ 24 + (s.runs.any (fun r => r.cut.isSome && (f.isPf || r.fn == f.no))).toNat * 2 ^ 23

/-- pwr_req as it reads (Table 2.7). -/
def State.pwrReqWord (s : State) : Nat := (s.power.req &&& 0x80000707).toNat + s.power.status * 2 ^ 16

/-- A register that a PF of link 0 alone sees. -/
def only0 (fn v : Nat) : Nat := if fn = 0 then v else 0

/-- A debug register: without a session of the function's own, dbg_stat is NO_SESSION and the others are zero (R115). -/
def State.readDebug (s : State) (f : Fn) (off : Nat) : Nat :=
  if !(s.rot.session.map (fun x => x.fn == f.no)).getD false then (if off = 0x101010 then 0x53 * 2 ^ 24 else 0)
  else if off = 0x101000 then f.dbgCmd.toNat
  else if off = 0x101008 then f.dbgAddr.toNat
  else if off = 0x101010 then f.dbgStat * 2 ^ 24
  else if 0x102000 ≤ off then f.dbgData.num (off - 0x102000) 1
  else 0

/-- What a function's register at `off` reads as, at the register's own width; an offset of no register reads as zero (R50). In
recovery mode only sec_stat and the message interface answer (R33). Of the companion's BAR0 (R47) fn_id alone answers, by the model's
choice (log 104). -/
def State.readBar0 (s : State) (f : Fn) (off : Nat) : Nat :=
  if f.companion then (if off = 0 then (s.fnId f).toNat else 0)
  else if off = 0x50000 then (s.secStat f.no).toNat
  else if off = 0x60000 then f.msgGo.toNat * 2 ^ 31
  else if off = 0x60004 then f.msgStat.toNat
  else if 0x62000 ≤ off && off < 0x64000 then f.msgReq.num (off - 0x62000) 1
  else if 0x64000 ≤ off && off < 0x66000 then (if f.msgGo then 0 else f.msgResp.num (off - 0x64000) 1)
  else if s.rot.recovery then 0
  else if off = 0 then (s.fnId f).toNat
  else if off = 0x10000 then f.cqCtl.toNat
  else if off = 0x10008 then f.cqBase.toNat
  else if off = 0x10010 then f.cqHead.toNat
  else if off = 0x10018 then f.cqTail.toNat
  else if off = 0x10020 then f.msiMap.toNat
  else if off = 0x20000 then f.flCmd.toNat
  else if off = 0x20008 then f.flSrc.toNat
  else if off = 0x20010 then f.flStat * 2 ^ 24 + s.freeNodes
  else if 0x30000 ≤ off && off < 0x30400 && off % 16 = 0 then (f.windows.getD ((off - 0x30000) / 16) 0).toNat
  else if 0x40000 ≤ off && off < 0x41000 && off % 0x100 = 0 then only0 f.no (s.portAt ((off - 0x40000) / 0x100)).status.toNat
  else if off = 0x70000 then 0xFF
  else if 0x70004 ≤ off && off < 0x70044 && off % 4 = 0 then only0 f.no (s.featMask.getD ((off - 0x70004) / 4) 0).toNat
  else if off = 0x80000 then only0 f.no s.pwrReqWord
  else if off = 0x90000 then only0 f.no s.sysSelf.toNat
  else if off = 0x90008 then only0 f.no s.sysStat
  else if 0x91000 ≤ off && off < 0x95000 && off % 4 = 0 then only0 f.no (s.route ((off - 0x91000) / 4)).toNat
  else if off = 0x100000 then f.jcCmd.toNat
  else if off = 0x100008 then s.jcStatWord f
  else if off = 0x100010 then f.hndCode.toNat
  else if off = 0x100018 then f.hndDict.toNat
  else if off = 0x100020 then f.trapPol.toNat
  else if 0x100040 ≤ off && off < 0x100080 then (f.trapBuf.getD (off - 0x100040) 0).toNat
  else if 0x101000 ≤ off && off < 0x103000 then s.readDebug f off
  else 0

end Sys2Proof.Machine
end

