-- ==== Sys2Proof/Machine/Schedule.lean ====
section
/-! DEFINITION. What happens next (R18, R19, R57, R113; log 9, 10): the agenda, the events whose tick the state fixes, the cores'
turns of a tick, what closes a tick, and the word a machine is given to run first. -/

namespace Sys2Proof.Machine

/-! ## The agenda (log 9) -/

/-- An arm that waits on its link (R60). -/
def State.waitsOnLink (s : State) (i : Instr) : Bool :=
  match i with
  | .armStart w => s.armHeld w.fn
  | .armWait w _ => s.armHeld w.fn
  | .armResume w _ => s.armHeld w.fn
  | _ => false

/-- An entry whose tick has come and which does not wait on its link. -/
def State.isDue (s : State) (e : Nat × Instr) : Bool := decide (e.1 ≤ s.pcyc) && !s.waitsOnLink e.2

/-- The place of an arm among those of its tick: link 0 first, then ascending slots (R57). -/
def armKey (i : Instr) : Option Nat :=
  match i with
  | .armStart w => some (w.link * 4096 + w.slot)
  | .armWait w _ => some (w.link * 4096 + w.slot)
  | .armResume w _ => some (w.link * 4096 + w.slot)
  | _ => none

/-- The first entry for which `p` holds, and the agenda without it. -/
def pickBy (p : Nat × Instr → Bool) : List (Nat × Instr) → Option (Instr × List (Nat × Instr))
  | [] => none
  | e :: rest =>
    if p e then some (e.2, rest)
    else
      match pickBy p rest with
      | some (j, l) => some (j, e :: l)
      | none => none

/-- The earlier of two arms: by tick, then by key (R57). -/
def armFirst (a b : Nat × Nat) : Nat × Nat := if a.1 < b.1 || (a.1 == b.1 && a.2 ≤ b.2) then a else b

/-- Tick and key of the arm that goes first of those that are due, `a` among them. -/
def State.firstArm (s : State) (a : Nat × Nat) (l : List (Nat × Instr)) : Nat × Nat :=
  (l.filterMap (fun e => if s.isDue e then (armKey e.2).map (fun k => (e.1, k)) else none)).foldl armFirst a

/-- The first entry that is due, and the agenda without it; of the arms that are due, the one that arrived first, and of one tick's
the one that R57 puts first. -/
def State.pickAgenda (s : State) (l : List (Nat × Instr)) : Option (Instr × List (Nat × Instr)) :=
  match l.find? s.isDue with
  | none => none
  | some e =>
    match armKey e.2 with
    | none => pickBy s.isDue l
    | some k => pickBy (fun x => s.isDue x && (armKey x.2).map (fun k => (x.1, k)) == some (s.firstArm (e.1, k) l)) l

/-- In P4 and before the boot nothing counts ticks: the package reset on the agenda, whatever its tick (R19, R40). -/
def pickReset : List (Nat × Instr) → Option (Instr × List (Nat × Instr))
  | [] => none
  | (t, i) :: rest =>
    if i = .packageReset then some (i, rest)
    else
      match pickReset rest with
      | some (j, l) => some (j, (t, i) :: l)
      | none => none

/-! ## Events the state fixes -/

/-- A handrail of level 1 to 3 whose restart tick has come (R133). -/
def State.dueRestart (s : State) : Option Instr :=
  (s.lines.find? (fun l => l.level != 4 && (match l.trueTick with
    | some t => decide (t + Config.handrail ≤ s.pcyc)
    | none => false))).map (fun l => .handrailRestart l.no)

/-- A next-tile reply that is due (R88). -/
def State.dueReply (s : State) : Option Instr :=
  (s.cores.find? (fun k => match k.tileReq with
    | ⟨_, some (t, _)⟩ :: _ => decide (t ≤ s.pcyc)
    | _ => false)).map (fun k => .nexttReplyArrive k.no)

/-- A record that can go to its ring, and an interrupt whose moderation is over (R60, R61). -/
def State.dueRecord (s : State) : Option Instr := (s.fns.find? Fn.writes).map (fun f => .completionRecordWrite f.no)
def State.dueVector (s : State) : Option Instr := (s.fns.find? (fun f => (f.moderated s.pcyc).isSome)).map (fun f => .msiModerationTimer f.no)

/-- A node for which `p` holds, in its run. -/
def State.someNode (s : State) (p : Run → Nat → Bool) : Option (Nat × Nat) :=
  s.runs.findSome? (fun r => ((List.range r.nodes.length).find? (p r)).map (fun i => (r.id, i)))

/-- A ready node whose class falls (R91). -/
def State.dueAgeing (s : State) : Option Instr := (s.someNode s.agesNow).map (fun x => .ageingTimer x.1 x.2)

/-- A class-0 node that has waited for the pre-emption trigger, and a run every unit of which is blocked (R92, R93). -/
def State.duePreempt (s : State) : Option Instr := (s.someNode s.triggers).map (fun x => .preemptTimer x.1 x.2)
def State.dueBasin (s : State) : Option Instr := (s.runs.find? s.basinDue).map (fun r => .basinTimer r.id)

/-- A cut whose M is due (R98), one whose clock is over, and one to be requested again (R100). -/
def State.dueM (s : State) : Option Instr := (s.runs.find? (fun r => r.dueM && s.allStopped r.id)).map (fun r => .cutMFormed r.id)
def State.dueTimeout (s : State) : Option Instr :=
  (s.runs.find? s.cutShort).map (fun r => .cutTimeout r.id)
def State.dueRetry (s : State) : Option Instr :=
  (s.runs.find? (fun r => match r.retryAt with
    | some x => decide (x.1 ≤ s.pcyc) && !s.preempting r.id
    | none => false)).map (fun r => .cutRetryTimer r.id)

/-- A port for which `p` holds. -/
def State.somePort (s : State) (p : Port → Bool) : Option Nat := (List.range 16).find? (fun n => p (s.portAt n))

/-- A port that must send a flit, and one that has heard none for 100 µs (R23, R24). -/
def State.dueKeepalive (s : State) : Option Instr := (s.somePort (fun p => p.keepaliveDue s.pcyc)).map Instr.pauseKeepaliveTimer
def State.dueRx (s : State) : Option Instr := (s.somePort (fun p => p.rxTimedOut s.pcyc)).map Instr.portRxTimeout

/-- The event whose tick the state fixes and has come. -/
def State.timed (s : State) : Option Instr :=
  s.dueRestart <|> s.dueReply <|> s.dueRecord <|> s.dueVector <|> s.dueAgeing <|> s.duePreempt <|> s.dueBasin <|>
  s.dueM <|> s.dueTimeout <|> s.dueRetry <|> s.dueKeepalive <|> s.dueRx

/-! ## The end of a tick -/

/-- A handrail line whose AND has become true (R133). -/
def State.lineTrue (s : State) : Option Instr :=
  (s.lines.find? (fun l => l.all && l.trueTick.isNone)).map (fun l => .handrailLineTrue l.no)

/-- A die whose agent can accept a next-tile request: one per tick (R88). -/
def State.tileDie (s : State) : Option Nat :=
  [0, 1, 2, 3].find? (fun d =>
    s.cores.any (fun k => dieOf (hallOf k.no) == d && k.asksTile) &&
    !s.cores.any (fun k => dieOf (hallOf k.no) == d && k.tileReq.any (fun q => match q.answer with
      | some (t, _) => t == s.pcyc + Config.nexttReply
      | none => false)))

/-- The last events of a tick, one at a time. -/
def State.closing (s : State) : Option Instr :=
  match s.events with
  | e :: _ => some (.eventArrival e.1)
  | [] => s.lineTrue

/-- The cores that act on tick `t`: every core that holds a task, on an arithmetic tick (R19, Table 2.5a). In P1 those are the ticks
whose number k divides; the spec gives one tick in k and not which (log 57). -/
def State.turnOf (s : State) (t : Nat) : List Nat :=
  match s.power.state with
  | .p0 => s.cores.map Core.no
  | .p1 => if t % max 1 s.power.k = 0 then s.cores.map Core.no else []
  | .p2 => if s.power.cutting then s.cores.map Core.no else []
  | _ => []

/-- The next tick begins (R19): the clocks of the runs move on, the ports send, and runs that are over end. -/
def State.tick (s : State) : State :=
  let s : State := { s with runs := s.runs.map s.runTick, ports := s.ports.map (fun p => p.turn s.pcyc s.sysId.isSome) }
  let s := (s.runs.filter Run.done).foldl (fun s r => s.endRun r.id) s
  { s with pcyc := s.pcyc + 1, turn := s.turnOf (s.pcyc + 1) }

/-! ## What a step does -/

/-- What a step does. -/
inductive NextAct where
  /-- an instruction or event at a state -/
  | run (i : Instr) (s : State)
  | rest (s : State)
  | hole (a : Nat)
  deriving DecidableEq, Repr

/-- The core at the head of the turn acts. -/
def State.coreTurn (s : State) (c : Nat) : NextAct :=
  match s.turnAct c with
  | .run i => .run i { s with cur := c }
  | .rest s => .rest s
  | .hole a => .hole a

/-- The turns are over: what closes the tick, then the next tick. -/
def State.closeTick (s : State) : NextAct :=
  match s.closing with
  | some i => .run i s
  | none =>
    match s.tileDie with
    | some d => .run (.nexttRequestAccept d (Config.freeValue s.free).toNat) { s with free := s.free + 1 }
    | none => .rest s.tick

/-- What a step does with a package that has power. -/
def State.poweredAct (s : State) : NextAct :=
  match s.pickAgenda s.agenda with
  | some (i, l) => .run i { s with agenda := l }
  | none =>
    match s.timed with
    | some i => .run i s
    | none =>
      match s.turn with
      | c :: _ => s.coreTurn c
      | [] => s.closeTick

/-- What a step does: without power it waits for the next package reset (R19, R40). -/
def State.nextAct (s : State) : NextAct :=
  match s.power.state with
  | .p4 =>
    (match pickReset s.agenda with
     | some (i, l) => .run i { s with agenda := l }
     | none => .rest s)
  | _ => s.poweredAct

/-! ## A first instruction -/

/-- Slot instructions whose bundle must be a checkpoint (R133, R204, R293, R294, R349). -/
def needsCk (i : Instr) : Bool :=
  match i with
  | .sync _ => true
  | .phase _ => true
  | .trap _ _ => true
  | .bkpt _ => true
  | .halt => true
  | .solend => true
  | _ => false

/-- The stream words that make the table's instruction of `nbits` bits the next to issue: a slot word in a literal bundle of its
own, a stream word as it stands. -/
def placedWords (nbits w : Nat) : List W32 :=
  let x := BitVec.ofNat 32 w
  match if nbits ≤ 32 then tableRow x else none with
  | some r =>
    let ck := ((decodeSlot r.slot x).toOption.map needsCk).getD false
    [hdrWord (soloHdr r.slot ck) 0, hdrWord (soloHdr r.slot ck) 1, hdrWord (soloHdr r.slot ck) 2, x]
  | none => wordsOfNat w

/-- A flight of one kernel node whose code page lies at HBM address 65,536. -/
def loadFlight : Flight :=
  { id := 0, defClass := 0, tapeDir := 0, dom := [], hashMask := 0, sysJob := 0, nPkg := 0, pkgIndex := 0, pkgList := 0
    nodes := [{ kind := .kernel, isEnd := false, useClass := false, cls := 0, persistent := true, depInit := 0
                succ := List.replicate 8 0xFFFF, codeVa := 65536, dictVa := 65536, featReq := 0, xdim := 1, ydim := 1, zdim := 1
                nCore := 1, domUse := 0, listTape := 0, nCmd := 0, engine := 0, condNo := 0, condMask := 0, loopFirst := 0
                loopLast := 0, maxIter := 0, value := 0, fromCond := false }]
    pages := [⟨1, true, true, 65536⟩], queue := [], heldWaits := [], kept := none }

/-- The arm that starts it. -/
def loadArm : ArmWrite :=
  { fn := 0, link := 0, slot := 0, whole := true, flightId := 0, hostSeq := 1, nArg := 0, flags := 0, reserved := 0
    args := List.replicate 12 0 }

/-- The package with that flight running on core 0, its code page starting with the words `ws`, its caches filled, and core 0
about to issue the first bundle (log 12). -/
def State.firstTask (s : State) (ws : List W32) : State :=
  let fn : Fn := { Fn.fresh 0 0 0xFFFF false 196608 0 0xFFFF with flights := [loadFlight] }
  let r := loadFlight.newRun 1 0 0 s.pcyc loadArm
  let r := r.mapNode 0 (fun ns => { ns with stage := .running, dispatched := true, handed := [0], cores := [0] })
  let k := Core.start 0 1 0 (Arch.start 65536 65536 (taskRegs 0 r.args)) s.gens (fn.coreIdOf 0) [0, 0, 0, 0] []
  { s with
    agenda := [], turn := [0], cur := 0, gens := s.gens + 4, fns := [fn], runs := [r], nextRun := 2
    cores := [{ k with icache := [1024, 1025], dcache := [65536] }], contexts := taskContexts 1 1 0 0, nextContext := 9
    hbm := s.hbm.write 65536 (ws.flatMap bytesOfWord) }

end Sys2Proof.Machine
end

