-- ==== Sys2Proof/Machine/Dispatch.lean ====
section
/-! DEFINITION. One arm for each constructor of Instr. -/

namespace Sys2Proof.Machine

/-- The meaning of an instruction or event. -/
def exec (i : Instr) (s : State) : Host.Outcome State Fault Refusal :=
  match i with
  | .add d a b => Sys2Proof.Machine.execAdd d a b s
  | .sub d a b => Sys2Proof.Machine.execSub d a b s
  | .mul d a b => Sys2Proof.Machine.execMul d a b s
  | .mulh d a b => Sys2Proof.Machine.execMulh d a b s
  | .mulhu d a b => Sys2Proof.Machine.execMulhu d a b s
  | .divu d a b => Sys2Proof.Machine.execDivu d a b s
  | .remu d a b => Sys2Proof.Machine.execRemu d a b s
  | .and d a b => Sys2Proof.Machine.execAnd d a b s
  | .or d a b => Sys2Proof.Machine.execOr d a b s
  | .xor d a b => Sys2Proof.Machine.execXor d a b s
  | .shl d a b => Sys2Proof.Machine.execShl d a b s
  | .shr d a b => Sys2Proof.Machine.execShr d a b s
  | .sar d a b => Sys2Proof.Machine.execSar d a b s
  | .min d a b => Sys2Proof.Machine.execMin d a b s
  | .max d a b => Sys2Proof.Machine.execMax d a b s
  | .minu d a b => Sys2Proof.Machine.execMinu d a b s
  | .maxu d a b => Sys2Proof.Machine.execMaxu d a b s
  | .clz d a => Sys2Proof.Machine.execClz d a s
  | .popc d a => Sys2Proof.Machine.execPopc d a s
  | .sel d a b p n => Sys2Proof.Machine.execSel d a b p n s
  | .addi d a i_ => Sys2Proof.Machine.execAddi d a i_ s
  | .andi d a i_ => Sys2Proof.Machine.execAndi d a i_ s
  | .ori d a i_ => Sys2Proof.Machine.execOri d a i_ s
  | .xori d a i_ => Sys2Proof.Machine.execXori d a i_ s
  | .shli d a n => Sys2Proof.Machine.execShli d a n s
  | .shri d a n => Sys2Proof.Machine.execShri d a n s
  | .sari d a n => Sys2Proof.Machine.execSari d a n s
  | .bfx d a p l => Sys2Proof.Machine.execBfx d a p l s
  | .bfi d a p l => Sys2Proof.Machine.execBfi d a p l s
  | .movi d i_ => Sys2Proof.Machine.execMovi d i_ s
  | .movhi d i_ => Sys2Proof.Machine.execMovhi d i_ s
  | .cmpCc d a b c => Sys2Proof.Machine.execCmpCc d a b c s
  | .pand d a b => Sys2Proof.Machine.execPand d a b s
  | .por d a b => Sys2Proof.Machine.execPor d a b s
  | .pxor d a b => Sys2Proof.Machine.execPxor d a b s
  | .pnot d a => Sys2Proof.Machine.execPnot d a s
  | .cmpiCc c d a i_ => Sys2Proof.Machine.execCmpiCc c d a i_ s
  | .faddS d a b m => Sys2Proof.Machine.execFaddS d a b m s
  | .fmulS d a b m => Sys2Proof.Machine.execFmulS d a b m s
  | .ffmaS d a b m => Sys2Proof.Machine.execFfmaS d a b m s
  | .fminS d a b => Sys2Proof.Machine.execFminS d a b s
  | .fmaxS d a b => Sys2Proof.Machine.execFmaxS d a b s
  | .fcmpCc d a b c => Sys2Proof.Machine.execFcmpCc d a b c s
  | .icvt d a u m => Sys2Proof.Machine.execIcvt d a u m s
  | .fcvt d a u m => Sys2Proof.Machine.execFcvt d a u m s
  | .ldB d a i_ => Sys2Proof.Machine.execLdB d a i_ s
  | .ldH d a i_ => Sys2Proof.Machine.execLdH d a i_ s
  | .ldW d a i_ => Sys2Proof.Machine.execLdW d a i_ s
  | .ldD d a i_ => Sys2Proof.Machine.execLdD d a i_ s
  | .stB d a i_ => Sys2Proof.Machine.execStB d a i_ s
  | .stH d a i_ => Sys2Proof.Machine.execStH d a i_ s
  | .stW d a i_ => Sys2Proof.Machine.execStW d a i_ s
  | .stD d a i_ => Sys2Proof.Machine.execStD d a i_ s
  | .rdsr d r => Sys2Proof.Machine.execRdsr d r s
  | .wrsr a r => Sys2Proof.Machine.execWrsr a r s
  | .view v a b => Sys2Proof.Machine.execView v a b s
  | .ftset a b => Sys2Proof.Machine.execFtset a b s
  | .rngk a b => Sys2Proof.Machine.execRngk a b s
  | .revon a => Sys2Proof.Machine.execRevon a s
  | .rstag d c m => Sys2Proof.Machine.execRstag d c m s
  | .vadd d a b q m f_ => Sys2Proof.Machine.execVadd d a b q m f_ s
  | .vsub d a b q m f_ => Sys2Proof.Machine.execVsub d a b q m f_ s
  | .vmul d a b q m f_ => Sys2Proof.Machine.execVmul d a b q m f_ s
  | .vfma d a b c f_ => Sys2Proof.Machine.execVfma d a b c f_ s
  | .vfms d a b c f_ => Sys2Proof.Machine.execVfms d a b c f_ s
  | .vmin d a b q m f_ => Sys2Proof.Machine.execVmin d a b q m f_ s
  | .vmax d a b q m f_ => Sys2Proof.Machine.execVmax d a b q m f_ s
  | .vabs d a q m f_ => Sys2Proof.Machine.execVabs d a q m f_ s
  | .vneg d a q m f_ => Sys2Proof.Machine.execVneg d a q m f_ s
  | .vaddSr d a b q g => Sys2Proof.Machine.execVaddSr d a b q g s
  | .vcmpCc c e a b q g => Sys2Proof.Machine.execVcmpCc c e a b q g s
  | .vsel d a b q => Sys2Proof.Machine.execVsel d a b q s
  | .vand d a b q => Sys2Proof.Machine.execVand d a b q s
  | .vor d a b q => Sys2Proof.Machine.execVor d a b q s
  | .vxor d a b q => Sys2Proof.Machine.execVxor d a b q s
  | .vshl d a b q g => Sys2Proof.Machine.execVshl d a b q g s
  | .vshr d a b q g => Sys2Proof.Machine.execVshr d a b q g s
  | .vsar d a b q g => Sys2Proof.Machine.execVsar d a b q g s
  | .vcvt d a t s_ q m f_ => Sys2Proof.Machine.execVcvt d a t s_ q m f_ s
  | .vqnt d a m f_ => Sys2Proof.Machine.execVqnt d a m f_ s
  | .vdqnt d a g => Sys2Proof.Machine.execVdqnt d a g s
  | .vrsqrta d a q => Sys2Proof.Machine.execVrsqrta d a q s
  | .vrcpa d a q => Sys2Proof.Machine.execVrcpa d a q s
  | .vexp2a d a q => Sys2Proof.Machine.execVexp2a d a q s
  | .vlog2a d a q => Sys2Proof.Machine.execVlog2a d a q s
  | .vredsum d a q g => Sys2Proof.Machine.execVredsum d a q g s
  | .vredmax d a q g => Sys2Proof.Machine.execVredmax d a q g s
  | .vbcast d s_ q => Sys2Proof.Machine.execVbcast d s_ q s
  | .vextr d a b g => Sys2Proof.Machine.execVextr d a b g s
  | .vperm d a b q => Sys2Proof.Machine.execVperm d a b q s
  | .vrot d a b q => Sys2Proof.Machine.execVrot d a b q s
  | .vmov d a q => Sys2Proof.Machine.execVmov d a q s
  | .viota d s_ q => Sys2Proof.Machine.execViota d s_ q s
  | .vld d s_ q => Sys2Proof.Machine.execVld d s_ q s
  | .vst v s_ q => Sys2Proof.Machine.execVst v s_ q s
  | .trowLd d t b q g => Sys2Proof.Machine.execTrowLd d t b q g s
  | .trowSt v t b q g => Sys2Proof.Machine.execTrowSt v t b q g s
  | .tcolLd d t b q g => Sys2Proof.Machine.execTcolLd d t b q g s
  | .tcolSt v t b q g => Sys2Proof.Machine.execTcolSt v t b q g s
  | .qmovToMask e s_ => Sys2Proof.Machine.execQmovToMask e s_ s
  | .qmovFromMask d e => Sys2Proof.Machine.execQmovFromMask d e s
  | .qops d a b o => Sys2Proof.Machine.execQops d a b o s
  | .radd d a b q f_ => Sys2Proof.Machine.execRadd d a b q f_ s
  | .rsub d a b q f_ => Sys2Proof.Machine.execRsub d a b q f_ s
  | .rxor d a b q f_ => Sys2Proof.Machine.execRxor d a b q f_ s
  | .rmulq d a b h f_ => Sys2Proof.Machine.execRmulq d a b h f_ s
  | .unmulq d a b h f_ => Sys2Proof.Machine.execUnmulq d a b h f_ s
  | .rshr d a h f_ => Sys2Proof.Machine.execRshr d a h f_ s
  | .unshr d a h f_ => Sys2Proof.Machine.execUnshr d a h f_ s
  | .rleak d a h f_ => Sys2Proof.Machine.execRleak d a h f_ s
  | .unleak d a h f_ => Sys2Proof.Machine.execUnleak d a h f_ s
  | .rnarw d a h f_ => Sys2Proof.Machine.execRnarw d a h f_ s
  | .unnarw d a h f_ => Sys2Proof.Machine.execUnnarw d a h f_ s
  | .mmaTile c a b n f_ x y z => Sys2Proof.Machine.execMmaTile c a b n f_ x y z s
  | .mmaStream c h b n f_ y z => Sys2Proof.Machine.execMmaStream c h b n f_ y z s
  | .mmas c a b n f_ x y z => Sys2Proof.Machine.execMmas c a b n f_ x y z s
  | .mzero c n z => Sys2Proof.Machine.execMzero c n z s
  | .mload c a n f_ t => Sys2Proof.Machine.execMload c a n f_ t s
  | .mdrain c a n f_ t s_ z => Sys2Proof.Machine.execMdrain c a n f_ t s_ z s
  | .mswap c e n => Sys2Proof.Machine.execMswap c e n s
  | .mstat c d n => Sys2Proof.Machine.execMstat c d n s
  | .maddt c a n f_ t => Sys2Proof.Machine.execMaddt c a n f_ t s
  | .mscl c b n s_ => Sys2Proof.Machine.execMscl c b n s_ s
  | .mxpose c e n => Sys2Proof.Machine.execMxpose c e n s
  | .hatt h a w b => Sys2Proof.Machine.execHatt h a w b s
  | .hdet h => Sys2Proof.Machine.execHdet h s
  | .hrd h v k => Sys2Proof.Machine.execHrd h v k s
  | .hrds h v k => Sys2Proof.Machine.execHrds h v k s
  | .hwr h v k => Sys2Proof.Machine.execHwr h v k s
  | .happ h v k => Sys2Proof.Machine.execHapp h v k s
  | .hstep h n => Sys2Proof.Machine.execHstep h n s
  | .hstepr h a => Sys2Proof.Machine.execHstepr h a s
  | .hmark h k => Sys2Proof.Machine.execHmark h k s
  | .hrew h k => Sys2Proof.Machine.execHrew h k s
  | .hpos h d => Sys2Proof.Machine.execHpos h d s
  | .hdist h d k => Sys2Proof.Machine.execHdist h d k s
  | .hlen h d f_ => Sys2Proof.Machine.execHlen h d f_ s
  | .hstat h d => Sys2Proof.Machine.execHstat h d s
  | .cadd v a m b => Sys2Proof.Machine.execCadd v a m b s
  | .crd v a m b => Sys2Proof.Machine.execCrd v a m b s
  | .crdStat a d => Sys2Proof.Machine.execCrdStat a d s
  | .cclr a b => Sys2Proof.Machine.execCclr a b s
  | .ccfg a b => Sys2Proof.Machine.execCcfg a b s
  | .cpy t b l => Sys2Proof.Machine.execCpy t b l s
  | .cpyh t b l => Sys2Proof.Machine.execCpyh t b l s
  | .collAllred t b l => Sys2Proof.Machine.execCollAllred t b l s
  | .collRdscat t b l => Sys2Proof.Machine.execCollRdscat t b l s
  | .collAllgth t b l => Sys2Proof.Machine.execCollAllgth t b l s
  | .tlwait a l => Sys2Proof.Machine.execTlwait a l s
  | .tlrd d l => Sys2Proof.Machine.execTlrd d l s
  | .nextt d => Sys2Proof.Machine.execNextt d s
  | .flsig v o w => Sys2Proof.Machine.execFlsig v o w s
  | .erep v c => Sys2Proof.Machine.execErep v c s
  | .btree a b c d => Sys2Proof.Machine.execBtree a b c d s
  | .jmpRel o => Sys2Proof.Machine.execJmpRel o s
  | .jmpReg r => Sys2Proof.Machine.execJmpReg r s
  | .callRel o => Sys2Proof.Machine.execCallRel o s
  | .callReg r => Sys2Proof.Machine.execCallReg r s
  | .ret r => Sys2Proof.Machine.execRet r s
  | .loop c l => Sys2Proof.Machine.execLoop c l s
  | .loopSp c s_ l => Sys2Proof.Machine.execLoopSp c s_ l s
  | .lbrk t => Sys2Proof.Machine.execLbrk t s
  | .sync n => Sys2Proof.Machine.execSync n s
  | .phase s_ => Sys2Proof.Machine.execPhase s_ s
  | .sev n => Sys2Proof.Machine.execSev n s
  | .trap t i_ => Sys2Proof.Machine.execTrap t i_ s
  | .bkpt t => Sys2Proof.Machine.execBkpt t s
  | .dset r => Sys2Proof.Machine.execDset r s
  | .solve r => Sys2Proof.Machine.execSolve r s
  | .solq t => Sys2Proof.Machine.execSolq t s
  | .solrd d s_ => Sys2Proof.Machine.execSolrd d s_ s
  | .literalBundle h ws => Sys2Proof.Machine.execLiteralBundle h ws s
  | .shortCall i_ f_ => Sys2Proof.Machine.execShortCall i_ f_ s
  | .longCall i_ f_ => Sys2Proof.Machine.execLongCall i_ f_ s
  | .dataFlitReceive port bytes => Sys2Proof.Machine.execDataFlitReceive port bytes s
  | .controlFlitReceive port bytes => Sys2Proof.Machine.execControlFlitReceive port bytes s
  | .idleFlitReceive port bytes => Sys2Proof.Machine.execIdleFlitReceive port bytes s
  | .replayRequestReceive port bytes => Sys2Proof.Machine.execReplayRequestReceive port bytes s
  | .pauseKeepaliveTimer port => Sys2Proof.Machine.execPauseKeepaliveTimer port s
  | .portRxTimeout port => Sys2Proof.Machine.execPortRxTimeout port s
  | .pwrReqP0 fn k => Sys2Proof.Machine.execPwrReqP0 fn k s
  | .pwrReqP1 fn k => Sys2Proof.Machine.execPwrReqP1 fn k s
  | .pwrReqP2 fn k => Sys2Proof.Machine.execPwrReqP2 fn k s
  | .pwrReqP3 fn k => Sys2Proof.Machine.execPwrReqP3 fn k s
  | .msgQuote fn => Sys2Proof.Machine.execMsgQuote fn s
  | .msgExtend fn => Sys2Proof.Machine.execMsgExtend fn s
  | .msgOpenSession fn => Sys2Proof.Machine.execMsgOpenSession fn s
  | .msgCloseSession fn => Sys2Proof.Machine.execMsgCloseSession fn s
  | .msgLoadFw fn => Sys2Proof.Machine.execMsgLoadFw fn s
  | .msgLoadCfg fn => Sys2Proof.Machine.execMsgLoadCfg fn s
  | .msgReadLog fn => Sys2Proof.Machine.execMsgReadLog fn s
  | .armStart w => Sys2Proof.Machine.execArmStart w s
  | .armWait w node => Sys2Proof.Machine.execArmWait w node s
  | .armResume w node => Sys2Proof.Machine.execArmResume w node s
  | .flInstall fn flight => Sys2Proof.Machine.execFlInstall fn flight s
  | .flRemove fn flight => Sys2Proof.Machine.execFlRemove fn flight s
  | .flStage fn flight => Sys2Proof.Machine.execFlStage fn flight s
  | .jcCut fn fnNo flight => Sys2Proof.Machine.execJcCut fn fnNo flight s
  | .jcResumeHeld fn fnNo flight => Sys2Proof.Machine.execJcResumeHeld fn fnNo flight s
  | .jcFaultHeld fn fnNo flight => Sys2Proof.Machine.execJcFaultHeld fn fnNo flight s
  | .jcReadTrap fn fnNo index => Sys2Proof.Machine.execJcReadTrap fn fnNo index s
  | .dbgHalt fn => Sys2Proof.Machine.execDbgHalt fn s
  | .dbgStep fn => Sys2Proof.Machine.execDbgStep fn s
  | .dbgRun fn => Sys2Proof.Machine.execDbgRun fn s
  | .dbgRead fn count => Sys2Proof.Machine.execDbgRead fn count s
  | .dbgWrite fn count => Sys2Proof.Machine.execDbgWrite fn count s
  | .dbgWriteDiscard fn count => Sys2Proof.Machine.execDbgWriteDiscard fn count s
  | .cqHeadWrite fn v => Sys2Proof.Machine.execCqHeadWrite fn v s
  | .cqCtlWrite fn v => Sys2Proof.Machine.execCqCtlWrite fn v s
  | .lnkStatWrite fn port v => Sys2Proof.Machine.execLnkStatWrite fn port v s
  | .secStatWrite fn v => Sys2Proof.Machine.execSecStatWrite fn v s
  | .routeWrite fn d v => Sys2Proof.Machine.execRouteWrite fn d v s
  | .sysSelfWrite fn v => Sys2Proof.Machine.execSysSelfWrite fn v s
  | .featMaskWrite fn vd v => Sys2Proof.Machine.execFeatMaskWrite fn vd v s
  | .registerWrite fn off v => Sys2Proof.Machine.execRegisterWrite fn off v s
  | .completionRecordWrite fn => Sys2Proof.Machine.execCompletionRecordWrite fn s
  | .msiModerationTimer fn => Sys2Proof.Machine.execMsiModerationTimer fn s
  | .nexttRequestAccept die pick => Sys2Proof.Machine.execNexttRequestAccept die pick s
  | .nexttReplyArrive core => Sys2Proof.Machine.execNexttReplyArrive core s
  | .ageingTimer run node => Sys2Proof.Machine.execAgeingTimer run node s
  | .preemptTimer run node => Sys2Proof.Machine.execPreemptTimer run node s
  | .basinTimer run => Sys2Proof.Machine.execBasinTimer run s
  | .cutTimeout run => Sys2Proof.Machine.execCutTimeout run s
  | .cutRetryTimer run => Sys2Proof.Machine.execCutRetryTimer run s
  | .trapRollbackComplete core => Sys2Proof.Machine.execTrapRollbackComplete core s
  | .resultLanding core => Sys2Proof.Machine.execResultLanding core s
  | .headReadLanding core => Sys2Proof.Machine.execHeadReadLanding core s
  | .matrixResultLanding core => Sys2Proof.Machine.execMatrixResultLanding core s
  | .solendDecisionEnd core => Sys2Proof.Machine.execSolendDecisionEnd core s
  | .replayEntryLanding core => Sys2Proof.Machine.execReplayEntryLanding core s
  | .checkpointReleaseEnd core => Sys2Proof.Machine.execCheckpointReleaseEnd core s
  | .handrailLineTrue line => Sys2Proof.Machine.execHandrailLineTrue line s
  | .handrailRestart line => Sys2Proof.Machine.execHandrailRestart line s
  | .eventArrival core => Sys2Proof.Machine.execEventArrival core s
  | .streamProducerResume core => Sys2Proof.Machine.execStreamProducerResume core s
  | .streamConsumerResume core => Sys2Proof.Machine.execStreamConsumerResume core s
  | .phyLockLoss port => Sys2Proof.Machine.execPhyLockLoss port s
  | .portRetrainEnd port ok => Sys2Proof.Machine.execPortRetrainEnd port ok s
  | .mgmtSample temps milliwatts k => Sys2Proof.Machine.execMgmtSample temps milliwatts k s
  | .kernelNodePlace run node pick => Sys2Proof.Machine.execKernelNodePlace run node pick s
  | .nextTaskStart core pick => Sys2Proof.Machine.execNextTaskStart core pick s
  | .taskEnd core => Sys2Proof.Machine.execTaskEnd core s
  | .transformNodeDispatch run node => Sys2Proof.Machine.execTransformNodeDispatch run node s
  | .conditionalNodeEval run node => Sys2Proof.Machine.execConditionalNodeEval run node s
  | .whileNodeEval run node => Sys2Proof.Machine.execWhileNodeEval run node s
  | .notifyNodeDispatch run node => Sys2Proof.Machine.execNotifyNodeDispatch run node s
  | .nodeCommit run node => Sys2Proof.Machine.execNodeCommit run node s
  | .remoteJobFault run => Sys2Proof.Machine.execRemoteJobFault run s
  | .domainShareExchange run node dom before after => Sys2Proof.Machine.execDomainShareExchange run node dom before after s
  | .level4LineCompletion line => Sys2Proof.Machine.execLevel4LineCompletion line s
  | .cutMFormed run => Sys2Proof.Machine.execCutMFormed run s
  | .cutSFormed run => Sys2Proof.Machine.execCutSFormed run s
  | .cutImagesWritten run => Sys2Proof.Machine.execCutImagesWritten run s
  | .cutRunResume run => Sys2Proof.Machine.execCutRunResume run s
  | .handlerTaskStart trapped => Sys2Proof.Machine.execHandlerTaskStart trapped s
  | .poisonRepairComplete core => Sys2Proof.Machine.execPoisonRepairComplete core s
  | .translationShootdown fn flight page => Sys2Proof.Machine.execTranslationShootdown fn flight page s
  | .softErrorDetected site => Sys2Proof.Machine.execSoftErrorDetected site s
  | .instructionCacheFill core => Sys2Proof.Machine.execInstructionCacheFill core s
  | .dictionaryCacheFill core => Sys2Proof.Machine.execDictionaryCacheFill core s
  | .targetTableLineFill core => Sys2Proof.Machine.execTargetTableLineFill core s
  | .extentWalkComplete hall => Sys2Proof.Machine.execExtentWalkComplete hall s
  | .headRecordArrival core head rec_ sel => Sys2Proof.Machine.execHeadRecordArrival core head rec_ sel s
  | .cellReadValueArrival core pick => Sys2Proof.Machine.execCellReadValueArrival core pick s
  | .remainderTransferEnd core => Sys2Proof.Machine.execRemainderTransferEnd core s
  | .tapeWriteAtHome wid => Sys2Proof.Machine.execTapeWriteAtHome wid s
  | .cellOpAtVault wid => Sys2Proof.Machine.execCellOpAtVault wid s
  | .phasePublicationEnd core => Sys2Proof.Machine.execPhasePublicationEnd core s
  | .engineCommandStart hall coll sel => Sys2Proof.Machine.execEngineCommandStart hall coll sel s
  | .collectiveMatch run dom remote => Sys2Proof.Machine.execCollectiveMatch run dom remote s
  | .engineCommandComplete ctx => Sys2Proof.Machine.execEngineCommandComplete ctx s
  | .functionLevelReset fn => Sys2Proof.Machine.execFunctionLevelReset fn s
  | .flightOperationEnd fn => Sys2Proof.Machine.execFlightOperationEnd fn s
  | .remoteCutRequest run => Sys2Proof.Machine.execRemoteCutRequest run s
  | .packageReset => Sys2Proof.Machine.execPackageReset s
  | .powerLoss => Sys2Proof.Machine.execPowerLoss s
  | .powerTransitionEnd => Sys2Proof.Machine.execPowerTransitionEnd s
  | .revoff => Sys2Proof.Machine.execRevoff s
  | .nop => Sys2Proof.Machine.execNop s
  | .wfe => Sys2Proof.Machine.execWfe s
  | .halt => Sys2Proof.Machine.execHalt s
  | .dfence => Sys2Proof.Machine.execDfence s
  | .solend => Sys2Proof.Machine.execSolend s
  | .messageRequestEnd => Sys2Proof.Machine.execMessageRequestEnd s

end Sys2Proof.Machine
end

