-- ==== Sys2Proof/Machine/Step.lean ====
section
/-! DEFINITION. One step of the package: one instruction or event, or the passing of a core's turn or of a tick. -/

namespace Sys2Proof.Machine

/-- One step. First what the agenda holds for this tick, then what the state fixes for it, then the cores in their turn, then what
closes the tick (log 9, 10). -/
def step (s : State) : Host.Outcome State Fault Refusal :=
  match s.nextAct with
  | .run i s' => exec i s'
  | .rest s' => .next s'
  | .hole a => .fault (.hbmHole a)

/-- The state with an instruction of the table placed where the next step fetches it (`firstTask`). -/
def State.withFetchWord (s : State) (nbits w : Nat) : State := s.firstTask (placedWords nbits w)

end Sys2Proof.Machine
end

