-- ==== Sys2Proof/Safety.lean ====
section
/-! DEFINITION. The terms in which claims speak of a run: which slot an instruction stands in by itself, when its bundle issues,
what a bundle leaves beside its instruction's own effect (R119, R121 to R126), what a step of the machine keeps, and what a safe
run is. -/

namespace Sys2Proof.Machine

/-- The slot that an instruction's literal bundle of its own uses, and whether that bundle must be a checkpoint (Tables 14.10 to
14.15; R133, R204, R293, R294, R349); none for stream words and events. -/
def soloOf (i : Instr) : Option (Nat × Bool) :=
  match i with
  | .add _ _ _ => some (0, false)
  | .sub _ _ _ => some (0, false)
  | .mul _ _ _ => some (0, false)
  | .mulh _ _ _ => some (0, false)
  | .mulhu _ _ _ => some (0, false)
  | .divu _ _ _ => some (0, false)
  | .remu _ _ _ => some (0, false)
  | .and _ _ _ => some (0, false)
  | .or _ _ _ => some (0, false)
  | .xor _ _ _ => some (0, false)
  | .shl _ _ _ => some (0, false)
  | .shr _ _ _ => some (0, false)
  | .sar _ _ _ => some (0, false)
  | .min _ _ _ => some (0, false)
  | .max _ _ _ => some (0, false)
  | .minu _ _ _ => some (0, false)
  | .maxu _ _ _ => some (0, false)
  | .clz _ _ => some (0, false)
  | .popc _ _ => some (0, false)
  | .sel _ _ _ _ _ => some (0, false)
  | .addi _ _ _ => some (0, false)
  | .andi _ _ _ => some (0, false)
  | .ori _ _ _ => some (0, false)
  | .xori _ _ _ => some (0, false)
  | .shli _ _ _ => some (0, false)
  | .shri _ _ _ => some (0, false)
  | .sari _ _ _ => some (0, false)
  | .bfx _ _ _ _ => some (0, false)
  | .bfi _ _ _ _ => some (0, false)
  | .movi _ _ => some (0, false)
  | .movhi _ _ => some (0, false)
  | .cmpCc _ _ _ _ => some (0, false)
  | .pand _ _ _ => some (0, false)
  | .por _ _ _ => some (0, false)
  | .pxor _ _ _ => some (0, false)
  | .pnot _ _ => some (0, false)
  | .cmpiCc _ _ _ _ => some (0, false)
  | .faddS _ _ _ _ => some (0, false)
  | .fmulS _ _ _ _ => some (0, false)
  | .ffmaS _ _ _ _ => some (0, false)
  | .fminS _ _ _ => some (0, false)
  | .fmaxS _ _ _ => some (0, false)
  | .fcmpCc _ _ _ _ => some (0, false)
  | .icvt _ _ _ _ => some (0, false)
  | .fcvt _ _ _ _ => some (0, false)
  | .ldB _ _ _ => some (0, false)
  | .ldH _ _ _ => some (0, false)
  | .ldW _ _ _ => some (0, false)
  | .ldD _ _ _ => some (0, false)
  | .stB _ _ _ => some (0, false)
  | .stH _ _ _ => some (0, false)
  | .stW _ _ _ => some (0, false)
  | .stD _ _ _ => some (0, false)
  | .rdsr _ _ => some (1, false)
  | .wrsr _ _ => some (1, false)
  | .view _ _ _ => some (1, false)
  | .ftset _ _ => some (1, false)
  | .rngk _ _ => some (1, false)
  | .revon _ => some (1, false)
  | .rstag _ _ _ => some (1, false)
  | .vadd _ _ _ _ _ _ => some (2, false)
  | .vsub _ _ _ _ _ _ => some (2, false)
  | .vmul _ _ _ _ _ _ => some (2, false)
  | .vfma _ _ _ _ _ => some (2, false)
  | .vfms _ _ _ _ _ => some (2, false)
  | .vmin _ _ _ _ _ _ => some (2, false)
  | .vmax _ _ _ _ _ _ => some (2, false)
  | .vabs _ _ _ _ _ => some (2, false)
  | .vneg _ _ _ _ _ => some (2, false)
  | .vaddSr .. => some (2, false)
  | .vcmpCc .. => some (2, false)
  | .vsel _ _ _ _ => some (2, false)
  | .vand _ _ _ _ => some (2, false)
  | .vor _ _ _ _ => some (2, false)
  | .vxor _ _ _ _ => some (2, false)
  | .vshl .. => some (2, false)
  | .vshr .. => some (2, false)
  | .vsar .. => some (2, false)
  | .vcvt _ _ _ _ _ _ _ => some (2, false)
  | .vqnt _ _ _ _ => some (2, false)
  | .vdqnt .. => some (2, false)
  | .vrsqrta _ _ _ => some (2, false)
  | .vrcpa _ _ _ => some (2, false)
  | .vexp2a _ _ _ => some (2, false)
  | .vlog2a _ _ _ => some (2, false)
  | .vredsum .. => some (2, false)
  | .vredmax .. => some (2, false)
  | .vbcast _ _ _ => some (2, false)
  | .vextr .. => some (2, false)
  | .vperm _ _ _ _ => some (2, false)
  | .vrot _ _ _ _ => some (2, false)
  | .vmov _ _ _ => some (2, false)
  | .viota _ _ _ => some (2, false)
  | .vld _ _ _ => some (2, false)
  | .vst _ _ _ => some (2, false)
  | .trowLd .. => some (2, false)
  | .trowSt .. => some (2, false)
  | .tcolLd .. => some (2, false)
  | .tcolSt .. => some (2, false)
  | .qmovToMask _ _ => some (2, false)
  | .qmovFromMask _ _ => some (2, false)
  | .qops _ _ _ _ => some (2, false)
  | .radd _ _ _ _ _ => some (2, false)
  | .rsub _ _ _ _ _ => some (2, false)
  | .rxor _ _ _ _ _ => some (2, false)
  | .rmulq _ _ _ _ _ => some (2, false)
  | .unmulq _ _ _ _ _ => some (2, false)
  | .rshr _ _ _ _ => some (2, false)
  | .unshr _ _ _ _ => some (2, false)
  | .rleak _ _ _ _ => some (2, false)
  | .unleak _ _ _ _ => some (2, false)
  | .rnarw _ _ _ _ => some (2, false)
  | .unnarw _ _ _ _ => some (2, false)
  | .mmaTile _ _ _ _ _ _ _ _ => some (3, false)
  | .mmaStream _ _ _ _ _ _ _ => some (3, false)
  | .mmas _ _ _ _ _ _ _ _ => some (3, false)
  | .mzero _ _ _ => some (3, false)
  | .mload _ _ _ _ _ => some (3, false)
  | .mdrain _ _ _ _ _ _ _ => some (3, false)
  | .mswap _ _ _ => some (3, false)
  | .mstat _ _ _ => some (3, false)
  | .maddt _ _ _ _ _ => some (3, false)
  | .mscl _ _ _ _ => some (3, false)
  | .mxpose _ _ _ => some (3, false)
  | .hatt _ _ _ _ => some (4, false)
  | .hdet _ => some (4, false)
  | .hrd _ _ _ => some (4, false)
  | .hrds _ _ _ => some (4, false)
  | .hwr _ _ _ => some (4, false)
  | .happ _ _ _ => some (4, false)
  | .hstep _ _ => some (4, false)
  | .hstepr _ _ => some (4, false)
  | .hmark _ _ => some (4, false)
  | .hrew _ _ => some (4, false)
  | .hpos _ _ => some (4, false)
  | .hdist _ _ _ => some (4, false)
  | .hlen _ _ _ => some (4, false)
  | .hstat _ _ => some (4, false)
  | .cadd _ _ _ _ => some (4, false)
  | .crd _ _ _ _ => some (4, false)
  | .crdStat _ _ => some (4, false)
  | .cclr _ _ => some (4, false)
  | .ccfg _ _ => some (4, false)
  | .cpy _ _ _ => some (6, false)
  | .cpyh _ _ _ => some (6, false)
  | .collAllred _ _ _ => some (6, false)
  | .collRdscat _ _ _ => some (6, false)
  | .collAllgth _ _ _ => some (6, false)
  | .tlwait _ _ => some (6, false)
  | .tlrd _ _ => some (6, false)
  | .nextt _ => some (6, false)
  | .flsig _ _ _ => some (6, false)
  | .erep _ _ => some (6, false)
  | .btree _ _ _ _ => some (7, false)
  | .jmpRel _ => some (7, false)
  | .jmpReg _ => some (7, false)
  | .callRel _ => some (7, false)
  | .callReg _ => some (7, false)
  | .ret _ => some (7, false)
  | .loop _ _ => some (7, false)
  | .loopSp _ _ _ => some (7, false)
  | .lbrk _ => some (7, false)
  | .sync _ => some (7, true)
  | .phase _ => some (7, true)
  | .sev _ => some (7, false)
  | .trap _ _ => some (7, true)
  | .bkpt _ => some (7, true)
  | .dset _ => some (7, false)
  | .solve _ => some (7, false)
  | .solq _ => some (7, false)
  | .solrd _ _ => some (7, false)
  | .literalBundle _ _ => none
  | .shortCall _ _ => none
  | .longCall _ _ => none
  | .dataFlitReceive _ _ => none
  | .controlFlitReceive _ _ => none
  | .idleFlitReceive _ _ => none
  | .replayRequestReceive _ _ => none
  | .pauseKeepaliveTimer _ => none
  | .portRxTimeout _ => none
  | .pwrReqP0 _ _ => none
  | .pwrReqP1 _ _ => none
  | .pwrReqP2 _ _ => none
  | .pwrReqP3 _ _ => none
  | .msgQuote _ => none
  | .msgExtend _ => none
  | .msgOpenSession _ => none
  | .msgCloseSession _ => none
  | .msgLoadFw _ => none
  | .msgLoadCfg _ => none
  | .msgReadLog _ => none
  | .armStart _ => none
  | .armWait _ _ => none
  | .armResume _ _ => none
  | .flInstall _ _ => none
  | .flRemove _ _ => none
  | .flStage _ _ => none
  | .jcCut _ _ _ => none
  | .jcResumeHeld _ _ _ => none
  | .jcFaultHeld _ _ _ => none
  | .jcReadTrap _ _ _ => none
  | .dbgHalt _ => none
  | .dbgStep _ => none
  | .dbgRun _ => none
  | .dbgRead _ _ => none
  | .dbgWrite _ _ => none
  | .dbgWriteDiscard _ _ => none
  | .cqHeadWrite _ _ => none
  | .cqCtlWrite _ _ => none
  | .lnkStatWrite _ _ _ => none
  | .secStatWrite _ _ => none
  | .routeWrite _ _ _ => none
  | .sysSelfWrite _ _ => none
  | .featMaskWrite _ _ _ => none
  | .registerWrite _ _ _ => none
  | .completionRecordWrite _ => none
  | .msiModerationTimer _ => none
  | .nexttRequestAccept _ _ => none
  | .nexttReplyArrive _ => none
  | .ageingTimer _ _ => none
  | .preemptTimer _ _ => none
  | .basinTimer _ => none
  | .cutTimeout _ => none
  | .cutRetryTimer _ => none
  | .trapRollbackComplete _ => none
  | .resultLanding _ => none
  | .headReadLanding _ => none
  | .matrixResultLanding _ => none
  | .solendDecisionEnd _ => none
  | .replayEntryLanding _ => none
  | .checkpointReleaseEnd _ => none
  | .handrailLineTrue _ => none
  | .handrailRestart _ => none
  | .eventArrival _ => none
  | .streamProducerResume _ => none
  | .streamConsumerResume _ => none
  | .phyLockLoss _ => none
  | .portRetrainEnd _ _ => none
  | .mgmtSample _ _ _ => none
  | .kernelNodePlace _ _ _ => none
  | .nextTaskStart _ _ => none
  | .taskEnd _ => none
  | .transformNodeDispatch _ _ => none
  | .conditionalNodeEval _ _ => none
  | .whileNodeEval _ _ => none
  | .notifyNodeDispatch _ _ => none
  | .nodeCommit _ _ => none
  | .remoteJobFault _ => none
  | .domainShareExchange _ _ _ _ _ => none
  | .level4LineCompletion _ => none
  | .cutMFormed _ => none
  | .cutSFormed _ => none
  | .cutImagesWritten _ => none
  | .cutRunResume _ => none
  | .handlerTaskStart _ => none
  | .poisonRepairComplete _ => none
  | .translationShootdown _ _ _ => none
  | .softErrorDetected .. => none
  | .instructionCacheFill _ => none
  | .dictionaryCacheFill _ => none
  | .targetTableLineFill _ => none
  | .extentWalkComplete _ => none
  | .headRecordArrival _ _ _ _ => none
  | .cellReadValueArrival _ _ => none
  | .remainderTransferEnd _ => none
  | .tapeWriteAtHome _ => none
  | .cellOpAtVault _ => none
  | .phasePublicationEnd _ => none
  | .engineCommandStart _ _ _ => none
  | .collectiveMatch _ _ _ => none
  | .engineCommandComplete _ => none
  | .functionLevelReset _ => none
  | .flightOperationEnd _ => none
  | .remoteCutRequest _ => none
  | .packageReset => none
  | .powerLoss => none
  | .powerTransitionEnd => none
  | .revoff => some (1, false)
  | .nop => some (7, false)
  | .wfe => some (7, false)
  | .halt => some (7, true)
  | .dfence => some (7, false)
  | .solend => some (7, true)
  | .messageRequestEnd => none

/-! ## The issue of one instruction -/

/-- The core whose turn it is holds a task, no stop holds it, and it stands before the bundle that holds `i` alone: `c` is what it
reads there. -/
def Ready (s : State) (i : Instr) (c : Ctx) : Prop :=
  match soloOf i with
  | none => False
  | some (slot, ck) => s.ctx (soloHdr slot ck) (encode i) (s.lenHere 16) slot = some c ∧ c.k.stops = []

/-- Nothing that Table 14.9 (orders 6 and 7) and R146 test stops the instruction, and nothing makes it wait: its bundle issues. -/
def Issues (s : State) (i : Instr) (c : Ctx) : Prop := Ready s i c ∧ c.check [(c.slot, planOf i c)] = none

/-- A SYNC bundle issues only once its line has released (R133). -/
def Ctx.restarted (c : Ctx) : Prop := c.k.stage = .syncIssue

/-- The core as the bundle's issue finds it: running, the tokens that the bundle reads acquired, those it writes over forgotten
(R206, R210). `rs` and `ws` name the registers read and written. -/
def Ctx.begin (c : Ctx) (rs ws : List Nat) : Core :=
  let read := rs.map (physReg c.k.arch.rot)
  let gone := ws.map (physReg c.k.arch.rot)
  { c.k with
    stage := .run
    acquired := c.k.acquired ++ (c.k.tokensIn.filter (fun t => read.contains t.1)).map (fun t => ⟨c.k.no, t.2⟩)
    tokensIn := c.k.tokensIn.filter (fun t => !read.contains t.1 && !gone.contains t.1) }

/-- What every issued bundle does beside its instruction: the next pc and loop stack, one virtual cycle, the loop buffer
(R19, R130, R257, R289). -/
def Ctx.advance (c : Ctx) (ctl : Ctl) (k : Core) : Core :=
  let a := k.arch.sequence c.bodies c.pc c.len ctl
  let a := { a with solve := { a.solve with loops := min a.solve.loops a.loops.length } }
  { k with
    arch := a
    vc := k.vc + 1
    loopBuf := loopBuffer k.loopBuf c.k.arch.loops a.loops c.k.arch.pc { h := c.h, len := c.len, slots := [], words := c.words }
    synced := none
    syncExtents := [] }

/-- The package after the issue: core `k` in its place, and its turn of this tick over. -/
def Ctx.left (c : Ctx) (k : Core) : State := (c.st.setCore k).endTurn

/-- The package after an instruction whose effect on the core is `k`, with control `ctl`. -/
def Ctx.done (c : Ctx) (ctl : Ctl) (k : Core) : State := c.left (c.advance ctl k)

/-- The package after a checkpoint bundle: the release of held work begins at once, and `after` follows it (R125). -/
def Ctx.checkpointed (c : Ctx) (ctl : Ctl) (after : After) (k : Core) : State :=
  let k := { c.advance ctl k with stage := .releasing after }
  ((c.st.setCore k).release k after).endTurn

/-! ## Effects on a core -/

/-- Register, predicate or other shadowed state written at issue (latency 1, Table 6.2). -/
def Core.withArch (k : Core) (f : Arch → Arch) : Core := { k with arch := f k.arch }
def Core.putReg (k : Core) (d : Nat) (v : W64) : Core := k.withArch (fun a => a.setReg d v)
def Core.putPred (k : Core) (d : Nat) (v : Bool) : Core := k.withArch (fun a => a.setPred d v)

/-- Old contents of the lines that ranges touch go to the undo log, once in a span (R126). -/
def Core.logSegs (k : Core) (segs : List (Nat × Nat)) : Core :=
  ((segLines segs).filter (fun l => !k.logged false l)).foldl Core.logLine k

/-- Results are in flight (R121): nothing of them shows before they land. -/
def Core.later (k : Core) (ps : List Pend) : Core :=
  let k' := k.logSegs (ps.flatMap Pend.segs)
  { k' with pend := k'.pend ++ ps }

/-- Work is withheld until the next checkpoint (R126). -/
def Core.hold (k : Core) (hs : List Held) : Core := { k with held := k.held ++ hs }

/-- MX or VX is occupied for `beats` (R123, R143). -/
def Core.occupy (k : Core) (slot beats : Nat) (bays : List Nat) : Core :=
  { k with busy := k.busy.filter (fun b => k.vc < b.until_) ++ [⟨slot, k.vc + beats, bays⟩] }

/-- Rounding in SR has advanced %rngstep (R194). -/
def Core.rounded (k : Core) (sr : Bool) : Core := k.withArch (fun a => a.stepRng sr)

/-! ## Shapes of results -/

/-- A register result of latency 1. -/
def Ctx.regNow (c : Ctx) (rs : List Nat) (d : Nat) (v : W64) : State := c.done .fall ((c.begin rs [d]).putReg d v)

/-- A predicate result of latency 1. -/
def Ctx.predNow (c : Ctx) (rs : List Nat) (d : Nat) (v : Bool) : State := c.done .fall ((c.begin rs []).putPred d v)

/-- A register result that lands `l` virtual cycles after issue (Table 6.2). -/
def Ctx.regLater (c : Ctx) (l : Nat) (kind : Kind) (rs : List Nat) (d : Nat) (v : W64) (fl : Flags) (sr : Bool) : State :=
  c.done .fall (((c.begin rs [d]).later [c.pend l kind (.reg (physReg c.k.arch.rot d)) v [] fl]).rounded sr)

/-- An FP32 register result: the exact value rounded once in the instruction's mode (R194, R278). -/
def Ctx.fpLater (c : Ctx) (rs : List Nat) (d m : Nat) (x : XRes) : State :=
  let r := fpResult c.k.arch (c.k.arch.modeField m) x
  c.regLater 4 .scalar rs d (BitVec.ofNat 64 r.code) r.flags (c.k.arch.modeField m).isSr

/-- A vector result: lane `i` of view `d`, where mask `m` enables it, receives `f i` after `l` virtual cycles (R300, R303). -/
def Ctx.vecLater (c : Ctx) (l : Nat) (rs : List Nat) (d : Nat) (m : W64) (sr : Bool) (f : Nat → FRes) : State :=
  c.done .fall (((c.begin rs []).later [vecPend c l .vector d m (mapLanes m f).1 (mapLanes m f).2]).rounded sr)

/-- The same for whole lane words without flags. -/
def Ctx.wordsLater (c : Ctx) (l : Nat) (kind : Kind) (rs : List Nat) (d : Nat) (m : W64) (ws : List Nat) : State :=
  c.done .fall ((c.begin rs []).later [vecPend c l kind d m ws 0])

/-- A mask result after 3 virtual cycles (R308 to R310). -/
def Ctx.maskLater (c : Ctx) (rs : List Nat) (e : Nat) (v : W64) : State :=
  c.done .fall ((c.begin rs []).later [c.pend 3 .vector (.mask e) v [] 0])

/-- Matrix results after `b` + 13 virtual cycles, the array occupied for `b` beats (R324). -/
def Ctx.matrixLater (c : Ctx) (b : Nat) (bays rs ws : List Nat) (ps : List Pend) : State :=
  c.done .fall (((c.begin rs ws).later ps).occupy 3 b bays)

/-- An effect on the core alone, at issue. -/
def Ctx.coreNow (c : Ctx) (rs ws : List Nat) (f : Core → Core) : State := c.done .fall (f (c.begin rs ws))

/-- Held work, at issue. -/
def Ctx.holds (c : Ctx) (rs ws : List Nat) (hs : List Held) : State := c.done .fall ((c.begin rs ws).hold hs)

/-- A transfer of control. -/
def Ctx.goes (c : Ctx) (rs : List Nat) (ctl : Ctl) : State := c.done ctl (c.begin rs [])

/-- A head or a position that enters another extent uses that extent's place in the hall's cache (R158). -/
def Ctx.touched (c : Ctx) (e : Option (BitVec 20 × Nat)) (s : State) : State :=
  match e with
  | none => s
  | some x => s.touchExtent c.k.no c.run.id x.1 x.2

/-- The extent that a head's move to `p` enters, if it leaves the one it stands in (R158). -/
def Ctx.enters (_c : Ctx) (h : Head) (d : Dir) (p : Nat) : Option (BitVec 20 × Nat) :=
  if p = h.pos.toNat ∨ d.length ≤ p ∨ (h.pos.toNat < d.length ∧ d.extentOf p = d.extentOf h.pos.toNat) then none
  else some (h.tape, d.extentOf p)

/-- A head instruction: results in flight, held work, its effect on the core, and the extent it enters. -/
def Ctx.headed (c : Ctx) (rs ws : List Nat) (e : Option (BitVec 20 × Nat)) (ps : List Pend) (hs : List Held) (f : Core → Core) : State :=
  (c.touched e (c.st.setCore (c.advance .fall (f (((c.begin rs ws).later ps).hold hs))))).endTurn

/-- Results in flight, with the ring blocks that a stack operation overwrites in the undo log (R126). -/
def Core.stacked (k : Core) (ps : List Pend) (blocks : List Nat) : Core :=
  let k' := (blocks.filter (fun b => !k.logged true b)).foldl Core.logRing (k.logSegs (ps.flatMap Pend.segs))
  { k' with pend := k'.pend ++ ps }

/-- A push: the payload and its trailer enter the ring at the depth, full blocks below the capacity go to their records, behind what
the core itself sent there before (R17, R337, R338, R388, R389); `f` follows on the core. -/
def Ctx.pushed (c : Ctx) (ws : List Nat) (ps : List Pend) (payload : List Byte) (tag : Nat) (f : Core → Core) : State :=
  let a := c.k.arch
  let depth := a.rsDepth.toNat
  let data := payload ++ leBytes 4 (256 * payload.length + tag)
  let top := depth + payload.length + 4
  let n := (top - a.rsSp - a.rsCapacity + 255) / 256
  let byte (x : Nat) : Byte := if depth ≤ x then data.getD (x - depth) 0 else c.k.ring.read (x % 32768)
  let spilled := (List.range n).map (fun i => a.rsSp / 256 + i)
  let k := (c.begin [] ws).stacked ps (c.k.rsBlocks depth (payload.length + 4))
  let k := f { k with ring := ringPut k.ring depth data
                      arch := { k.arch.withSp (a.rsSp + 256 * n) with rsDepth := BitVec.ofNat 32 top } }
  (spilled.foldl (fun s b => s.spill c.k.no b ((List.range 256).map (fun i => byte (256 * b + i))))
    (c.landFirst spilled (c.st.setCore (c.advance .fall k)))).endTurn

/-- A pop of `len` payload bytes and their trailer, with the fills it needs, behind what the core itself sent to their records before
(R17, R338, R344, R389); `f` follows on the core. -/
def Ctx.popped (c : Ctx) (ws : List Nat) (ps : List Pend) (len : Nat) (f : Core → Core) : State :=
  let a := c.k.arch
  let start := a.rsDepth.toNat - 4 - len
  let sp := if a.rsSp ≤ start then a.rsSp else a.rsSp - 256 * ((a.rsSp - start + 255) / 256)
  let k := (c.begin [] ws).stacked ps (c.k.rsBlocks sp (a.rsSp - sp))
  let k := f { k with ring := ringPut k.ring sp (c.rsBytes sp (a.rsSp - sp))
                      arch := { k.arch.withSp sp with rsDepth := BitVec.ofNat 32 start } }
  (c.landFirst ((List.range ((a.rsSp - sp) / 256)).map (fun i => sp / 256 + i)) (c.st.setCore (c.advance .fall k))).endTurn

/-- The value of a register as the instruction reads it. -/
def Ctx.x (c : Ctx) (n : Nat) : W64 := c.k.arch.reg n

/-- Lane `i` of a vector view as the instruction reads it. -/
def Ctx.lane (c : Ctx) (v i : Nat) : Nat := (c.k.lanes v).getD i 0

/-! ## When nothing stands in the way -/

/-- Nothing is in flight on the core, reserved, poisoned or occupied. -/
def Core.quiet (k : Core) : Prop := k.pend = [] ∧ k.tokens = [] ∧ k.poison = [] ∧ k.busy = []

/-- No rule that looks at one instruction alone is broken. -/
structure Plan.fits (c : Ctx) (p : Plan) : Prop where
  feature : c.feats.getLsbD p.feature = true
  views : ∀ v ∈ p.views, c.k.arch.configured v = true
  legal : p.bad = false
  ports : c.slot < 7 → p.ports ≤ hdrPort c.h c.slot
  bays : ((p.access.eraseDups).map Prod.snd).Nodup
  feats : ∀ f ∈ p.feats, c.feats.getLsbD f = true

/-! ## Runs -/

/-- The core's memories are in canonical form. -/
def Core.formed (k : Core) : Prop := ∀ m ∈ [k.gallery, k.scratch, k.ring, k.history], m.wf = true

/-- The vault storage and the HBM are in canonical form, and the package has its sixteen ports (R20, R156, R160). -/
def State.Inv (s : State) : Prop := s.vaults.wf = true ∧ s.hbm.wf = true ∧ s.ports.length = 16

/-- A run of `n` steps that neither stops in a fault nor is refused. -/
def SafeRun (s : State) (n : Nat) : Prop := ∃ t, Host.Core.run Sys2Proof.core n s = .next t

end Sys2Proof.Machine
end

