-- ==== Sys2Proof/Certificates/Slice0/Obligations.lean ====
section
/-! DEFINITION. The statements about this model. Each names the rules of the spec it formalises; where it rests on a choice of the
model's, the log entry. -/

section
open Sys2Proof Sys2Proof.Machine

/-- The package right after reset: counters, ports, power and messages at their reset values, nothing running (R19, R21, R25, R26, R33, R40, R42, R45, R67). -/
def Obligations.ResetState : Prop :=
  let s := State.reset
  s.pcyc = 0 ∧ s.fns = [] ∧ s.runs = [] ∧ s.cores = [] ∧ s.parked = [] ∧ s.contexts = [] ∧ s.lines = [] ∧ s.events = [] ∧ s.halls = [] ∧ s.poison = [] ∧
  s.power.state = .p0 ∧ s.power.busy = none ∧ s.power.queue = [] ∧ s.pwrReqWord = 0x200 ∧ s.power.managed = none ∧
  s.ports.length = 16 ∧ (∀ p ∈ s.ports, p.stage = .down ∧ p.status = 0 ∧ p.txSeq = 0 ∧ p.rxSeq = 0 ∧ p.rxSeq - 1 = p.rxAck ∧
    p.replayBuf = [] ∧ p.txQueue = [] ∧ p.rxQueue = [] ∧ p.wire = []) ∧
  (∀ d, s.route d = 0) ∧ (∀ fn, s.features fn = 0xFF) ∧ s.sysSelf = 0 ∧
  s.rot.booted = false ∧ s.rot.recovery = false ∧ s.rot.session = none ∧ s.rot.queue = [] ∧ s.rot.entries = [] ∧
  (∀ m ∈ s.rot.meas, m = List.replicate 32 (0 : Byte)) ∧ s.rot.meas.length = 8 ∧
  (∀ a, s.hbm.read a = 0 ∧ s.vaults.read a = 0)

/-- The state after reset has its memories in canonical form and its sixteen ports (R2, R20, R40). -/
def Obligations.ResetKeepsForm : Prop := State.reset.Inv

/-- Every step keeps the vaults and the HBM in canonical form and the sixteen ports; what writes a core's or the host's memory keeps its form (R2, R20, R156, R160). -/
def Obligations.StepKeepsForm : Prop := 
  (∀ (s t : State), s.Inv → step s = .next t → t.Inv) ∧
  (∀ (k : Core) (u : Undo) (segs : List (Nat × Nat)) (data : List Byte) (l : List Undo) (x : Nat) (tape : BitVec 20) (head : List Byte),
    k.formed → (k.land segs data).formed ∧ (k.applyUndo u).formed ∧ (l.foldl Core.applyUndo k).formed ∧
      (k.repairLines tape x data).formed ∧ (k.poke head x data).formed) ∧
  (∀ (im : CoreImage), im.core.formed → im.bytes.wf = true → im.load.formed) ∧
  (∀ (m : Mem) (a n v : Nat) (data : List Byte), m.wf = true → (m.write a data).wf = true ∧ (m.put a n v).wf = true ∧
    (m.slice a n).wf = true ∧ (ringPut m a data).wf = true ∧ (ringFrom a data m).wf = true) ∧
  (∀ (no run node gen : Nat) (a : Arch) (id : W64) (dom : List W32) (reached : List Nat),
    (Core.start no run node a gen id dom reached).formed) ∧
  (∀ (f : Fn) (tick : Nat), f.host.wf = true → (f.writeRecord tick).host.wf = true) ∧
  (∀ (s t : State) (r : Run) (fn : Fn) (f : Flight) (x : Context) (c : Command) (ws : List Nat),
    (∀ g ∈ s.fns, g.host.wf = true) → s.engineWrite r fn f x c = (t, ws) → ∀ g ∈ t.fns, g.host.wf = true)

/-- Every slot instruction decodes from its encoded word, in every slot it may stand in (R262, R263, R271). -/
def Obligations.SlotRoundTrip : Prop := ∀ (i : Instr) (slot : Nat) (ck : Bool), wellFormed i = true → soloOf i = some (slot, ck) →
  ∃ w : W32, encode i = [w] ∧ decodeSlot slot w = .ok i ∧ (slot = 4 → decodeSlot 5 w = .ok i) ∧
    (slot = 0 → scalarInSB (fld w 24 8).toNat = true → decodeSlot 1 w = .ok i)

/-- A slot word has one meaning and no bit of it is dropped: what decodes is well formed and encodes to the same word (R262, R263, R271). -/
def Obligations.WordRoundTrip : Prop := ∀ (slot : Nat) (w : W32) (i : Instr), slot < 8 → decodeSlot slot w = .ok i →
  wellFormed i = true ∧ encode i = [w]

/-- Literal bundles, short calls and long calls decode from their stream words and their bytes (R257, R258, R259, R4). -/
def Obligations.BundleRoundTrip : Prop := ∀ (rest : List W32) (more : List Byte),
  let back (i : Instr) : Prop :=
    decodeWords (encode i ++ rest) = .ok (i, (encode i).length) ∧ decode ((encode i).flatMap bytesOfWord ++ more) = .ok (i, more)
  (∀ h ws, wellFormed (.literalBundle h ws) = true → back (.literalBundle h ws) ∧ (encode (.literalBundle h ws)).length = 3 + ws.length) ∧
  (∀ n f, back (.shortCall n f) ∧ (encode (.shortCall n f)).length = 1) ∧
  (∀ n f, back (.longCall n f) ∧ (encode (.longCall n f)).length = 2)

/-- Words written out from the encoding tables decode to the instructions they stand for (R258, R262, R263, R271, R283, R296). -/
def Obligations.DecodedWords : Prop :=
  decodeSlot 0 (0b00000001_000011_000001_000010_000000 : W32) = .ok (.add 3 1 2) ∧
  decodeSlot 7 (0x01000000 : W32) = .ok .nop ∧
  decodeSlot 1 (0b01100100_000000_000101_000110_000000 : W32) = .ok (.rngk 5 6) ∧
  decodeSlot 0 (0b01100100_000000_000101_000110_000000 : W32) = .error .misplaced ∧
  decodeWords [0xC0000000] = .error .streamKind ∧ decodeWords [0x00400005] = .ok (.shortCall 16 5, 1) ∧
  decodeSlot 0 (0x00000000 : W32) = .error .unassigned ∧
  decodeSlot 0 (0b00000001_000011_000001_000010_000001 : W32) = .error .reserved

/-- A step runs the instruction that the words at the pc of the core whose turn it is decode to (R113, R119, R130, R133, R257, R258, R288). -/
def Obligations.StepRunsFetched : Prop := ∀ (s : State) (c : Nat) (rest : List Nat) (k : Core) (r : Run) (f : Flight),
  s.power.state ≠ .p4 → s.pickAgenda s.agenda = none → s.timed = none → s.turn = c :: rest →
  s.coreAt c = some k → s.runAt k.run = some r → s.flightOf r = some f → k.stops = [] → k.asks = [] → k.stepVc = none →
  k.nextLanding = none → k.stuckLanding = none →
  (∀ (n : Nat) (ws : List W32) (i : Instr), k.stage = .run → k.decodedHere = none →
    s.fetchBundle f k k.arch.pc.toNat = .words ws → decodeWords ws = .ok (i, n) → step s = exec i { s with cur := c }) ∧
  (∀ d, k.stage = .run ∨ k.stage = .syncIssue → k.decodedHere = some d → step s = exec (.literalBundle d.h d.words) { s with cur := c })

/-- A literal bundle that holds one slot word is that slot instruction (R257, R259, R260, R262). -/
def Obligations.SoloBundle : Prop := ∀ (s : State) (i : Instr) (slot : Nat) (ck : Bool) (w : W32),
  soloOf i = some (slot, ck) → decodeSlot slot w = .ok i → exec (.literalBundle (soloHdr slot ck) [w]) s = exec i s

/-- On a core with nothing in flight an instruction that breaks no rule of its own issues (R121, R122, R126, R144, R146, R148, R150). -/
def Obligations.QuietIssues : Prop := ∀ (s : State) (i : Instr) (c : Ctx),
  let p := planOf i c
  Ready s i c → c.k.quiet → p.fits c → p.late = none → p.badLast = false → p.wait = none →
  c.k.undo.length + (unionNat (c.k.linesNeeded p ++ (c.k.blocksNeeded p).map (fun b => 1024 + b)) []).length ≤ Config.undoLines →
  c.k.held.length + p.held.length ≤ Config.withhold → Issues s i c

/-- Integer instructions of latency 1 write their destination at issue with the value Table 15.1 gives (R275, R238, R273, R121). -/
def Obligations.IntegerResults : Prop := ∀ (s : State) (c : Ctx),
  (∀ d a b, Issues s (.add d a b) c → exec (.add d a b) s = .next (c.regNow [a.toNat, b.toNat] d.toNat (c.x a.toNat + c.x b.toNat))) ∧
  (∀ d a b, Issues s (.sub d a b) c → exec (.sub d a b) s = .next (c.regNow [a.toNat, b.toNat] d.toNat (c.x a.toNat - c.x b.toNat))) ∧
  (∀ d a b, Issues s (.and d a b) c → exec (.and d a b) s = .next (c.regNow [a.toNat, b.toNat] d.toNat (c.x a.toNat &&& c.x b.toNat))) ∧
  (∀ d a b, Issues s (.or d a b) c → exec (.or d a b) s = .next (c.regNow [a.toNat, b.toNat] d.toNat (c.x a.toNat ||| c.x b.toNat))) ∧
  (∀ d a b, Issues s (.xor d a b) c → exec (.xor d a b) s = .next (c.regNow [a.toNat, b.toNat] d.toNat (c.x a.toNat ^^^ c.x b.toNat))) ∧
  (∀ d a b, Issues s (.shl d a b) c → exec (.shl d a b) s =
    .next (c.regNow [a.toNat, b.toNat] d.toNat (c.x a.toNat <<< ((c.x b.toNat).toNat % 64)))) ∧
  (∀ d a b, Issues s (.shr d a b) c → exec (.shr d a b) s =
    .next (c.regNow [a.toNat, b.toNat] d.toNat (c.x a.toNat >>> ((c.x b.toNat).toNat % 64)))) ∧
  (∀ d a b, Issues s (.sar d a b) c → exec (.sar d a b) s =
    .next (c.regNow [a.toNat, b.toNat] d.toNat ((c.x a.toNat).sshiftRight ((c.x b.toNat).toNat % 64)))) ∧
  (∀ d a b, Issues s (.min d a b) c → exec (.min d a b) s = .next (c.regNow [a.toNat, b.toNat] d.toNat
    (if (c.x a.toNat).toInt ≤ (c.x b.toNat).toInt then c.x a.toNat else c.x b.toNat))) ∧
  (∀ d a b, Issues s (.max d a b) c → exec (.max d a b) s = .next (c.regNow [a.toNat, b.toNat] d.toNat
    (if (c.x a.toNat).toInt ≤ (c.x b.toNat).toInt then c.x b.toNat else c.x a.toNat))) ∧
  (∀ d a b, Issues s (.minu d a b) c → exec (.minu d a b) s = .next (c.regNow [a.toNat, b.toNat] d.toNat
    (if (c.x a.toNat).toNat ≤ (c.x b.toNat).toNat then c.x a.toNat else c.x b.toNat))) ∧
  (∀ d a b, Issues s (.maxu d a b) c → exec (.maxu d a b) s = .next (c.regNow [a.toNat, b.toNat] d.toNat
    (if (c.x a.toNat).toNat ≤ (c.x b.toNat).toNat then c.x b.toNat else c.x a.toNat))) ∧
  (∀ d a, Issues s (.clz d a) c → exec (.clz d a) s = .next (c.regNow [a.toNat] d.toNat
    (if c.x a.toNat = 0 then 64 else BitVec.ofNat 64 (63 - (c.x a.toNat).toNat.log2)))) ∧
  (∀ d a, Issues s (.popc d a) c → exec (.popc d a) s = .next (c.regNow [a.toNat] d.toNat
    (BitVec.ofNat 64 ((List.range 64).filter (c.x a.toNat).getLsbD).length))) ∧
  (∀ d a b p n, Issues s (.sel d a b p n) c → exec (.sel d a b p n) s = .next (c.regNow [a.toNat, b.toNat] d.toNat
    (if c.k.arch.pred n.toNat != (p == 1) then c.x a.toNat else c.x b.toNat))) ∧
  (∀ d a i, Issues s (.addi d a i) c → exec (.addi d a i) s = .next (c.regNow [a.toNat] d.toNat (c.x a.toNat + i.signExtend 64))) ∧
  (∀ d a i, Issues s (.andi d a i) c → exec (.andi d a i) s = .next (c.regNow [a.toNat] d.toNat (c.x a.toNat &&& i.signExtend 64))) ∧
  (∀ d a i, Issues s (.ori d a i) c → exec (.ori d a i) s = .next (c.regNow [a.toNat] d.toNat (c.x a.toNat ||| i.signExtend 64))) ∧
  (∀ d a i, Issues s (.xori d a i) c → exec (.xori d a i) s = .next (c.regNow [a.toNat] d.toNat (c.x a.toNat ^^^ i.signExtend 64))) ∧
  (∀ d a n, Issues s (.shli d a n) c → exec (.shli d a n) s = .next (c.regNow [a.toNat] d.toNat (c.x a.toNat <<< n.toNat))) ∧
  (∀ d a n, Issues s (.shri d a n) c → exec (.shri d a n) s = .next (c.regNow [a.toNat] d.toNat (c.x a.toNat >>> n.toNat))) ∧
  (∀ d a n, Issues s (.sari d a n) c → exec (.sari d a n) s = .next (c.regNow [a.toNat] d.toNat ((c.x a.toNat).sshiftRight n.toNat))) ∧
  (∀ d a p l, Issues s (.bfx d a p l) c → exec (.bfx d a p l) s = .next (c.regNow [a.toNat] d.toNat
    (BitVec.ofNat 64 ((c.x a.toNat).toNat / 2 ^ p.toNat % 2 ^ (l.toNat + 1))))) ∧
  (∀ d a p l, Issues s (.bfi d a p l) c → ∃ v : W64,
    (∀ n < 64, v.getLsbD n = if p.toNat ≤ n ∧ n < p.toNat + l.toNat + 1 then (c.x a.toNat).getLsbD (n - p.toNat)
      else (c.x d.toNat).getLsbD n) ∧
    exec (.bfi d a p l) s = .next (c.regNow [a.toNat, d.toNat] d.toNat v)) ∧
  (∀ d i, Issues s (.movi d i) c → exec (.movi d i) s = .next (c.regNow [] d.toNat (i.setWidth 64))) ∧
  (∀ d i, Issues s (.movhi d i) c → exec (.movhi d i) s = .next (c.regNow [d.toNat] d.toNat (c.x d.toNat <<< 18 ||| i.setWidth 64)))

/-- MUL, MULH, MULHU, DIVU and REMU leave their destination locked until their result lands (R275, R121). -/
def Obligations.IntegerLateResults : Prop := ∀ (s : State) (c : Ctx),
  (∀ d a b, Issues s (.mul d a b) c → exec (.mul d a b) s =
    .next (c.regLater 3 .scalar [a.toNat, b.toNat] d.toNat (c.x a.toNat * c.x b.toNat) 0 false)) ∧
  (∀ d a b, Issues s (.mulh d a b) c → exec (.mulh d a b) s = .next (c.regLater 3 .scalar [a.toNat, b.toNat] d.toNat
    (BitVec.ofInt 64 ((c.x a.toNat).toInt * (c.x b.toNat).toInt / (2 ^ 64 : Nat))) 0 false)) ∧
  (∀ d a b, Issues s (.mulhu d a b) c → exec (.mulhu d a b) s = .next (c.regLater 3 .scalar [a.toNat, b.toNat] d.toNat
    (BitVec.ofNat 64 ((c.x a.toNat).toNat * (c.x b.toNat).toNat / 2 ^ 64)) 0 false)) ∧
  (∀ d a b, Issues s (.divu d a b) c → exec (.divu d a b) s = .next (c.regLater 12 .scalar [a.toNat, b.toNat] d.toNat
    (if c.x b.toNat = 0 then BitVec.allOnes 64 else c.x a.toNat / c.x b.toNat) 0 false)) ∧
  (∀ d a b, Issues s (.remu d a b) c → exec (.remu d a b) s = .next (c.regLater 12 .scalar [a.toNat, b.toNat] d.toNat
    (if c.x b.toNat = 0 then c.x a.toNat else c.x a.toNat % c.x b.toNat) 0 false))

/-- CMP, CMPI, PAND, POR, PXOR, PNOT and FCMP write their predicate; p0 stays true (R276, R278, R273, R121). -/
def Obligations.PredicateResults : Prop := ∀ (s : State) (c : Ctx),
  (∀ d a b cc, Issues s (.cmpCc d a b cc) c → exec (.cmpCc d a b cc) s =
    .next (c.predNow [a.toNat, b.toNat] d.toNat (condInt cc.toNat (c.x a.toNat) (c.x b.toNat)))) ∧
  (∀ cc d a i, Issues s (.cmpiCc cc d a i) c → exec (.cmpiCc cc d a i) s =
    .next (c.predNow [a.toNat] d.toNat (condInt cc.toNat (c.x a.toNat) (i.signExtend 64)))) ∧
  (∀ d a b, Issues s (.pand d a b) c → exec (.pand d a b) s =
    .next (c.predNow [] d.toNat (c.k.arch.pred a.toNat && c.k.arch.pred b.toNat))) ∧
  (∀ d a b, Issues s (.por d a b) c → exec (.por d a b) s =
    .next (c.predNow [] d.toNat (c.k.arch.pred a.toNat || c.k.arch.pred b.toNat))) ∧
  (∀ d a b, Issues s (.pxor d a b) c → exec (.pxor d a b) s =
    .next (c.predNow [] d.toNat (c.k.arch.pred a.toNat != c.k.arch.pred b.toNat))) ∧
  (∀ d a, Issues s (.pnot d a) c → exec (.pnot d a) s = .next (c.predNow [] d.toNat (!c.k.arch.pred a.toNat))) ∧
  (∀ d a b cc, Issues s (.fcmpCc d a b cc) c → exec (.fcmpCc d a b cc) s =
    .next (c.done .fall ((c.begin [a.toNat, b.toNat] []).later [c.pend 4 .pred (.pred d.toNat)
      (if condVal cc.toNat (fpReg (c.x a.toNat)) (fpReg (c.x b.toNat)) then 1 else 0) [] 0]))) ∧
  (∀ a : Arch, (∀ v, (a.setPred 0 v).pred 0 = true) ∧
    (∀ n m v, 0 < n → n < 8 → m < 8 → (a.setPred n v).pred m = if m = n then v else a.pred m))

/-- Scalar FP32 instructions put the exact result rounded once in flight, due 4 virtual cycles later (R278, R194, R121). -/
def Obligations.FloatResults : Prop := ∀ (s : State) (c : Ctx),
  (∀ d a b m, Issues s (.faddS d a b m) c → exec (.faddS d a b m) s = .next (c.fpLater [a.toNat, b.toNat] d.toNat m.toNat
    ((fpReg (c.x a.toNat)).add (fpReg (c.x b.toNat)) (c.k.arch.modeField m.toNat).isRd))) ∧
  (∀ d a b m, Issues s (.fmulS d a b m) c → exec (.fmulS d a b m) s = .next (c.fpLater [a.toNat, b.toNat] d.toNat m.toNat
    ((fpReg (c.x a.toNat)).mul (fpReg (c.x b.toNat))))) ∧
  (∀ d a b m, Issues s (.ffmaS d a b m) c → exec (.ffmaS d a b m) s = .next (c.fpLater [a.toNat, b.toNat, d.toNat] d.toNat m.toNat
    ((fpReg (c.x a.toNat)).fma (fpReg (c.x b.toNat)) (fpReg (c.x d.toNat)) (c.k.arch.modeField m.toNat).isRd))) ∧
  (∀ d a u m, Issues s (.icvt d a u m) c → exec (.icvt d a u m) s = .next (c.fpLater [a.toNat] d.toNat m.toNat
    (.ofInt (if u = 1 then ((c.x a.toNat).toNat : Int) else (c.x a.toNat).toInt), false))) ∧
  (∀ d a b, Issues s (.fminS d a b) c → exec (.fminS d a b) s = .next (c.regLater 4 .scalar [a.toNat, b.toNat] d.toNat
    (BitVec.ofNat 64 (fp32.round .rne false ((fpReg (c.x a.toNat)).minOf (fpReg (c.x b.toNat)))).code) 0 false)) ∧
  (∀ d a b, Issues s (.fmaxS d a b) c → exec (.fmaxS d a b) s = .next (c.regLater 4 .scalar [a.toNat, b.toNat] d.toNat
    (BitVec.ofNat 64 (fp32.round .rne false ((fpReg (c.x a.toNat)).maxOf (fpReg (c.x b.toNat)))).code) 0 false)) ∧
  (∀ d a u m, Issues s (.fcvt d a u m) c → exec (.fcvt d a u m) s =
    .next (c.regLater 4 .scalar [a.toNat] d.toNat
      (fcvtResult c.k.arch (c.k.arch.modeField m.toNat) (u == 1) (fpReg (c.x a.toNat))).1
      (fcvtResult c.k.arch (c.k.arch.modeField m.toNat) (u == 1) (fpReg (c.x a.toNat))).2 (c.k.arch.modeField m.toNat).isSr))

/-- Scratch loads read at issue and land 4 virtual cycles later; scratch stores change exactly their bytes at issue (R277, R177, R178, R121). -/
def Obligations.ScratchAccess : Prop := ∀ (s : State) (c : Ctx) (d a : BitVec 6) (i : BitVec 12),
  let at_ (n : Nat) : Nat := (c.x a.toNat + i.signExtend 64).toNat % 65536 / n * n
  let load (n : Nat) : State := c.regLater 4 .scalar [a.toNat] d.toNat (BitVec.ofNat 64 (c.k.scratch.num (at_ n) n)) 0 false
  let store (n : Nat) : State := c.coreNow [a.toNat, d.toNat] [] (fun k =>
    { k with scratch := k.scratch.put (at_ n) n ((c.x d.toNat).toNat % 2 ^ (8 * n)) })
  (Issues s (.ldB d a i) c → exec (.ldB d a i) s = .next (load 1)) ∧
  (Issues s (.ldH d a i) c → exec (.ldH d a i) s = .next (load 2)) ∧
  (Issues s (.ldW d a i) c → exec (.ldW d a i) s = .next (load 4)) ∧
  (Issues s (.ldD d a i) c → exec (.ldD d a i) s = .next (load 8)) ∧
  (Issues s (.stB d a i) c → exec (.stB d a i) s = .next (store 1)) ∧
  (Issues s (.stH d a i) c → exec (.stH d a i) s = .next (store 2)) ∧
  (Issues s (.stW d a i) c → exec (.stW d a i) s = .next (store 4)) ∧
  (Issues s (.stD d a i) c → exec (.stD d a i) s = .next (store 8))

/-- RDSR reads and WRSR writes each system register of Table 15.4; a write of a read-only one traps 0x13 (R279, R7, R136). -/
def Obligations.SystemRegisters : Prop := ∀ (s : State) (c : Ctx),
  (∀ d r v, (r, v) ∈ [(0x000#18, BitVec.ofNat 64 c.st.pcyc), (0x001#18, c.feats.setWidth 64), (0x002#18, c.k.coreId),
      (0x003#18, c.k.arch.cpos), (0x008#18, (c.k.dom.getD 0 0).setWidth 64), (0x009#18, (c.k.dom.getD 1 0).setWidth 64),
      (0x00A#18, (c.k.dom.getD 2 0).setWidth 64), (0x00B#18, (c.k.dom.getD 3 0).setWidth 64),
      (0x010#18, c.k.arch.fstat.setWidth 64), (0x011#18, c.k.arch.ftab), (0x012#18, c.k.arch.bgeo),
      (0x013#18, c.k.arch.absorb.setWidth 64), (0x018#18, c.k.arch.rngSeed), (0x019#18, c.k.arch.rngKey),
      (0x01A#18, c.k.arch.rngStep), (0x020#18, c.k.arch.vt), (0x028#18, c.k.arch.rsDepth.setWidth 64),
      (0x029#18, c.k.arch.rsLimit.setWidth 64)] →
    Issues s (.rdsr d r) c → exec (.rdsr d r) s = .next (c.regNow [] d.toNat v)) ∧
  (∀ a : BitVec 6, let x := c.x a.toNat
    let written (r : BitVec 18) (f : Arch → Arch) : Prop := Issues s (.wrsr a r) c →
      exec (.wrsr a r) s = .next (c.coreNow [a.toNat] [] (·.withArch f))
    written 0x010 (fun h => { h with fstat := x.setWidth 32 &&& fstatMask }) ∧
    written 0x011 (fun h => { h with ftab := x }) ∧ written 0x012 (fun h => { h with bgeo := x &&& 0xF7 }) ∧
    written 0x013 (fun h => { h with absorb := x.setWidth 32 }) ∧ written 0x018 (fun h => { h with rngSeed := x }) ∧
    written 0x019 (fun h => { h with rngKey := x }) ∧ written 0x01A (fun h => { h with rngStep := x }) ∧
    written 0x020 (fun h => { h with views := h.views.zipIdx.map (fun p => if x.getLsbD p.2 then p.1 &&& ~~~(1#128 <<< 127) else p.1) }) ∧
    written 0x029 (fun h => { h with rsLimit := x.setWidth 32 &&& 0xFF00 })) ∧
  (∀ a r, r ∈ [0x000#18, 0x001#18, 0x002#18, 0x003#18, 0x008#18, 0x009#18, 0x00A#18, 0x00B#18, 0x028#18] →
    Ready s (.wrsr a r) c → c.k.stage ≠ .syncIssue → c.feats.getLsbD 0 = true → c.k.pend = [] → c.k.tokens = [] →
    exec (.wrsr a r) s = .next (s.trap c.k ⟨0x13, 1, r.setWidth 64, 0, c.k.arch.pc, []⟩))

/-- VIEW, FTSET, RNGK, DSET and DFENCE write views, format table, rounding key and dictionary base at issue (R281, R282, R283, R295, R267, R137, R139, R140). -/
def Obligations.ViewsAndTables : Prop := ∀ (s : State) (c : Ctx),
  (∀ v a b, Issues s (.view v a b) c →
    ∃ d : Desc, (d.getLsbD 127 = true ↔ descValid v.toNat (0#1 ++ fld (c.x b.toNat) 0 63 ++ c.x a.toNat : BitVec 128) = true) ∧
      (∀ n, (if v.toNat < 48 then 0 else 32) ≤ n → n < 127 →
        d.getLsbD n = if n < 64 then (c.x a.toNat).getLsbD n else (c.x b.toNat).getLsbD (n - 64)) ∧
      (48 ≤ v.toNat → accStatus d = 0) ∧
      exec (.view v a b) s = .next (c.coreNow [a.toNat, b.toNat] [] (·.withArch (fun h => { h with views := h.views.set v.toNat d })))) ∧
  (∀ a b, Issues s (.ftset a b) c → exec (.ftset a b) s = .next (c.coreNow [a.toNat, b.toNat] [] (·.withArch (fun h =>
    { h with ftab := c.x a.toNat, bgeo := (h.bgeo &&& ~~~(0xE0 : W64)) ||| ((fld (c.x b.toNat) 0 3).setWidth 64 <<< 5) })))) ∧
  (∀ a b, Issues s (.rngk a b) c → exec (.rngk a b) s = .next (c.coreNow [a.toNat, b.toNat] [] (·.withArch (fun h =>
    { h with rngKey := mix64 (c.x a.toNat) ^^^ c.x b.toNat, rngStep := 0 })))) ∧
  (∀ r, Issues s (.dset r) c → exec (.dset r) s = .next (c.coreNow [r.toNat] [] (·.withArch (fun h =>
    { h with pendBase := some (c.x r.toNat &&& ~~~63#64) })))) ∧
  (Issues s .dfence c → exec .dfence s = .next (c.coreNow [] [] (·.withArch (fun h =>
    match h.pendBase with
    | none => h
    | some b => { h with dictBase := b, pendBase := none }))))

/-- Jumps, calls, returns, loops, LBRK, BTREE and NOP hand the sequencer their transfer of control (R286, R287, R288, R290, R296). -/
def Obligations.ControlTransfers : Prop := ∀ (s : State) (c : Ctx),
  let after : W64 := BitVec.ofNat 64 (c.pc + c.len)
  let rel (o : BitVec 22) : W64 := BitVec.ofNat 64 c.pc + 4 * o.signExtend 64
  let entry (r : BitVec 6) (l : BitVec 6) (kind : LoopKind) (st : BitVec 2) : LoopEntry :=
    ⟨after, (c.x r.toNat).setWidth 32, 0, kind, st, l⟩
  let loops (e : LoopEntry) : Ctl := if e.count = 0 then .skip e else .push e
  (Issues s .nop c → exec .nop s = .next (c.goes [] .fall)) ∧
  (∀ o, Issues s (.jmpRel o) c → exec (.jmpRel o) s = .next (c.goes [] (.jump (rel o)))) ∧
  (∀ r, Issues s (.jmpReg r) c → exec (.jmpReg r) s = .next (c.goes [r.toNat] (.jump (c.x r.toNat)))) ∧
  (∀ r, Issues s (.ret r) c → exec (.ret r) s = .next (c.goes [r.toNat] (.jump (c.x r.toNat)))) ∧
  (∀ o, Issues s (.callRel o) c → exec (.callRel o) s = .next (c.done (.jump (rel o)) ((c.begin [] [39]).putReg 39 after))) ∧
  (∀ r, Issues s (.callReg r) c →
    exec (.callReg r) s = .next (c.done (.jump (c.x r.toNat)) ((c.begin [r.toNat] [39]).putReg 39 after))) ∧
  (∀ r l, Issues s (.loop r l) c → exec (.loop r l) s = .next (c.goes [r.toNat] (loops (entry r l .plain 0)))) ∧
  (∀ r st l, Issues s (.loopSp r st l) c → exec (.loopSp r st l) s = .next (c.goes [r.toNat] (loops (entry r l .pipelined st)))) ∧
  (∀ t, Issues s (.lbrk t) c → exec (.lbrk t) s = .next (c.goes [] (if c.k.arch.test t then .lbrk else .fall))) ∧
  (∀ l1 l2 l3 l4, Issues s (.btree l1 l2 l3 l4) c →
    let n := btreeIndex (leafOf c.k.arch c.h) l1.toNat l2.toNat l3.toNat l4.toNat
    let at_ := (c.k.arch.dictBase.toNat + 2 ^ 64 - 512 + 8 * n) % 2 ^ 64
    (n = 0 → exec (.btree l1 l2 l3 l4) s = .next (c.goes [] .fall)) ∧
    (n ≠ 0 → ∃ p, c.fl.code (at_ / 64 * 64) = some p ∧ at_ / 64 * 64 ∈ c.k.dcache ∧
      exec (.btree l1 l2 l3 l4) s = .next (c.goes [] (.jump (BitVec.ofNat 64 (c.st.hbm.num (p + at_ % 64) 8))))))

/-- The sequencer: fall through, jump, loop begin, iteration, end and skip, LBRK and shared loop ends give the next pc and loop stack (R285, R288, R289, R290, R238). -/
def Obligations.SequencerRules : Prop := ∀ (a : Arch) (body : Bodies) (pc len : Nat),
  let turned (e : LoopEntry) (a : Arch) : Arch := if e.kind = .pipelined then { a with rot := (a.rot + 1) % 24 } else a
  let gone (e : LoopEntry) (a : Arch) : Arch := if e.kind = .pipelined then { a with p := a.p &&& 0x0F } else a
  (a.loops = [] → a.sequence body pc len .fall = { a with pc := BitVec.ofNat 64 (pc + len) }) ∧
  (∀ t, (a.sequence body pc len (.jump t)).pc = BitVec.ofNat 64 (t.toNat / 4 * 4) ∧
    (a.sequence body pc len (.jump t)).loops = a.loops.dropWhile (fun e => !(body e).1.contains (t.toNat / 4 * 4))) ∧
  (∀ e rest, a.loops = e :: rest → (body e).1.getLast? ≠ some pc →
    a.sequence body pc len .fall = { a with pc := BitVec.ofNat 64 (pc + len) }) ∧
  (∀ e rest, a.loops = e :: rest → (body e).1.getLast? = some pc → e.kind = .plain → e.index.toNat + 1 < e.count.toNat →
    a.sequence body pc len .fall = { a with loops := { e with index := e.index + 1 } :: rest, pc := e.start }) ∧
  (∀ e, a.loops = [e] → (body e).1.getLast? = some pc → e.kind = .plain → e.count.toNat ≤ (e.index + 1).toNat →
    a.sequence body pc len .fall = { a with loops := [], pc := BitVec.ofNat 64 (body e).2 }) ∧
  (∀ e rest, a.loops = e :: rest → (body e).1.getLast? = some pc → e.kind = .pipelined →
    e.index.toNat + 1 < e.count.toNat + e.stagesM1.toNat →
    let b := a.sequence body pc len .fall
    b.pc = e.start ∧ b.loops = { e with index := e.index + 1 } :: rest ∧ b.rot = (a.rot + 1) % 24 ∧ b.x = a.x ∧
    ∀ k < 4, b.pred (4 + k) = (decide (k ≤ e.stagesM1.toNat) && decide (k ≤ e.index.toNat + 1) &&
      decide (e.index.toNat + 1 < e.count.toNat + k))) ∧
  (∀ e, a.loops = [e] → (body e).1.getLast? = some pc → e.kind = .pipelined →
    e.count.toNat + e.stagesM1.toNat ≤ (e.index + 1).toNat →
    let b := a.sequence body pc len .fall
    b.pc = BitVec.ofNat 64 (body e).2 ∧ b.loops = [] ∧ ∀ k < 4, b.pred (4 + k) = false) ∧
  (∀ e rest n, a.loops = e :: rest → (body e).1.getLast? = some pc → e.limit ≤ (e.index + 1).toNat → (body e).2 = pc + n →
    a.sequence body pc len .fall = ({ gone e (turned e a) with loops := rest }).sequence body pc n .fall) ∧
  (∀ e, let b := a.sequence body pc len (.push e)
    b.pc = BitVec.ofNat 64 (pc + len) ∧ b.loops = e :: a.loops ∧ b.x = a.x ∧ b.rot = a.rot ∧
    (e.kind = .plain → b.p = a.p) ∧
    (e.kind = .pipelined → ∀ k < 4, b.pred (4 + k) = (decide (k ≤ e.stagesM1.toNat) && decide (k ≤ e.index.toNat) &&
      decide (e.index.toNat < e.count.toNat + k)))) ∧
  (∀ e, a.loops = [] → a.sequence body pc len (.skip e) = { gone e a with pc := BitVec.ofNat 64 (body e).2 }) ∧
  (∀ e last n, (body e).1.getLast? = some last → (body e).2 = last + n →
    a.sequence body pc len (.skip e) = (gone e a).sequence body last n .fall) ∧
  (∀ e, a.loops = [e] → a.sequence body pc len .lbrk = { gone e a with loops := [], pc := BitVec.ofNat 64 (body e).2 }) ∧
  (∀ e rest last n, a.loops = e :: rest → (body e).1.getLast? = some last → (body e).2 = last + n →
    a.sequence body pc len .lbrk = ({ gone e a with loops := rest }).sequence body last n .fall) ∧
  a.sequence body pc len .stay = a

/-- SYNC, PHASE, TRAP, BKPT, HALT and SOLEND issue in checkpoint bundles; WFE and SEV in any (R292, R293, R294, R349, R133, R134, R204). -/
def Obligations.CheckpointInstructions : Prop := ∀ (s : State) (c : Ctx),
  (∀ n, Issues s (.sync n) c → c.k.stage ≠ .syncIssue →
    exec (.sync n) s = .next (s.release (c.syncing { h := c.h, len := c.len, slots := [], words := c.words })
      (.sync (domLine c.k n.toNat))).endTurn) ∧
  (∀ n, Issues s (.sync n) c → c.restarted → exec (.sync n) s = .next (c.checkpointed .fall .go (c.begin [] []))) ∧
  (∀ n, Issues s (.phase n) c → exec (.phase n) s = .next (c.checkpointed .fall (.phase n.toNat) (c.begin [] []))) ∧
  (Issues s .halt c → exec .halt s = .next (c.checkpointed .fall (.halt (c.x 1)) (c.begin (if c.k.handlerOf.isSome then [1] else []) []))) ∧
  (∀ t i, Issues s (.trap t i) c → exec (.trap t i) s = .next (c.checkpointed .fall
    (if c.k.arch.test t then .trap 0x12 (i.setWidth 64) c.k.arch.pc else .go) (c.begin [] []))) ∧
  (∀ t, Issues s (.bkpt t) c → exec (.bkpt t) s = .next (c.checkpointed .fall
    (if c.k.arch.test t then .trap 0x11 0 c.k.arch.pc else .go) (c.begin [] []))) ∧
  (Issues s .solend c →
    let v := c.k.arch.solve
    v.active = true ∧ exec .solend s = .next (c.checkpointed .stay
      (.decide ⟨(wordsOf (c.k.bytes (carriedSegs c.k.arch v.tiles))).map (BitVec.ofNat 32), (c.x v.thr.toNat).setWidth 32,
        (c.x v.beta.toNat).setWidth 32, c.len, carriedSegs c.k.arch v.tiles⟩) (c.begin [v.thr.toNat, v.beta.toNat] []))) ∧
  (Issues s .wfe c → c.k.arch.event = true → exec .wfe s = .next (c.coreNow [] [] (fun k => k.takeEvent c.st.pcyc))) ∧
  (∀ (k : Core) (tick : Nat), let t := k.takeEvent tick
    (∀ e, e ∈ t.eventFrom ↔ e ∈ k.eventFrom ∧ e.1 = tick ∧ k.eventSince < tick) ∧
    (t.arch.event = true ↔ ∃ e ∈ k.eventFrom, e.1 = tick ∧ k.eventSince < tick) ∧
    (∀ e ∈ k.eventFrom, e ∉ t.eventFrom → e.2.from_ ≠ k.no → ∀ x ∈ e.2.taken k.no, x ∈ t.acquired) ∧
    t.arch = { k.arch with event := t.arch.event } ∧ t.stage = k.stage ∧ t.held = k.held ∧ t.pend = k.pend) ∧
  (Issues s .wfe c → c.k.arch.event = false → exec .wfe s = .next (c.coreNow [] [] (fun k => { k with stage := .waitEvent false }))) ∧
  (∀ n, Issues s (.sev n) c → exec (.sev n) s = .next (c.holds [] [] [.event n.toNat]))

/-- Engine commands, FLSIG and EREP are held with what they read at issue; TLWAIT, TLRD and NEXTT (R371, R372, R373, R374, R375, R376, R88, R210). -/
def Obligations.EngineInstructions : Prop := ∀ (s : State) (c : Ctx),
  let reserve (t tl : Nat) (k : Core) : Core :=
    if t = 0 then k else { k with tokens := k.tokens ++ [(physReg c.k.arch.rot t, tl, none)] }
  let command (t b tl : Nat) : State := c.done .fall (reserve t tl ((c.begin [b] [t]).hold
    [.command tl (c.k.scratch.bytes ((c.x b).toNat % 65536 / 128 * 128) 128) (if t = 0 then none else some (physReg c.k.arch.rot t))]))
  (∀ t b l, Issues s (.cpy t b l) c → exec (.cpy t b l) s = .next (command t.toNat b.toNat l.toNat)) ∧
  (∀ t b l, Issues s (.cpyh t b l) c → exec (.cpyh t b l) s = .next (command t.toNat b.toNat l.toNat)) ∧
  (∀ t b l, Issues s (.collAllred t b l) c → exec (.collAllred t b l) s = .next (command t.toNat b.toNat l.toNat)) ∧
  (∀ t b l, Issues s (.collRdscat t b l) c → exec (.collRdscat t b l) s = .next (command t.toNat b.toNat l.toNat)) ∧
  (∀ t b l, Issues s (.collAllgth t b l) c → exec (.collAllgth t b l) s = .next (command t.toNat b.toNat l.toNat)) ∧
  (∀ v o w, Issues s (.flsig v o w) c → exec (.flsig v o w) s =
    .next (c.holds [v.toNat] [] [.flsig o.toNat w.toNat ((c.x v.toNat).setWidth 32)])) ∧
  (∀ v e, Issues s (.erep v e) c → exec (.erep v e) s = .next (c.holds [v.toNat] [] [.report e ((c.x v.toNat).setWidth 32)])) ∧
  (∀ a l, Issues s (.tlwait a l) c → c.x a.toNat = 0 → exec (.tlwait a l) s = .next (c.coreNow [a.toNat] [] id)) ∧
  (∀ a l, Issues s (.tlwait a l) c → c.x a.toNat ≠ 0 → ∃ x, c.st.contextOf c.run.id c.k.no l.toNat = some x ∧
    (c.x a.toNat).toNat ≤ x.counter.toNat ∧ exec (.tlwait a l) s = .next (c.coreNow [a.toNat] [] (fun k =>
      { k with acquired := k.acquired ++ x.taken k.no (c.x a.toNat).toNat }))) ∧
  (∀ d l, Issues s (.tlrd d l) c → exec (.tlrd d l) s =
    .next (c.regNow [] d.toNat (((c.st.contextOf c.run.id c.k.no l.toNat).map Context.counter).getD 0))) ∧
  (∀ d, Issues s (.nextt d) c →
    let n := c.k.tileBase + c.k.tilesTaken
    let tile (v : W64) (need : Need) (f : Core → Core) : State := c.done .fall (f ((c.begin [] [d.toNat]).later
      [{ c.pend 16 .tile (.reg (physReg c.k.arch.rot d.toNat)) v [] 0 with need := need }]))
    (∀ t, c.k.tiles.find? (fun t => t.1 == n) = some t → exec (.nextt d) s =
      .next (tile t.2 .ready (fun k => { k with nextts := k.nextts + 1, tilesTaken := k.tilesTaken + 1 }))) ∧
    (c.k.tiles.find? (fun t => t.1 == n) = none → (c.k.nullSeen || c.k.handlerOf.isSome) = true → exec (.nextt d) s =
      .next (tile 0x8000000000000000 .ready (fun k => { k with nextts := k.nextts + 1 }))) ∧
    (c.k.tiles.find? (fun t => t.1 == n) = none → (c.k.nullSeen || c.k.handlerOf.isSome) = false → exec (.nextt d) s =
      .next (tile 0 (.tile n) (fun k => { k with
        nextts := k.nextts + 1, tilesTaken := k.tilesTaken + 1
        tileReq := if n < c.k.tileCount + c.k.tileReq.length then k.tileReq else k.tileReq ++ [⟨k.vc, none⟩] }))))

/-- SOLVE, SOLQ and SOLRD set up, leave and read a solve region (R346, R348, R352). -/
def Obligations.SolveInstructions : Prop := ∀ (s : State) (c : Ctx),
  (∀ r, Issues s (.solve r) c →
    let w := c.x r.toNat
    let n := (fld w 16 2).toNat + 1
    let ts := (List.range n).map (fun i => (fld w (4 * i) 4).toNat)
    let views := ts.map (fun t => 32 + t)
    let v : Solve :=
      { active := true, start := BitVec.ofNat 64 (c.pc + c.len), carried := ts.map (BitVec.ofNat 8) ++ List.replicate (4 - n) 0xFF
        thr := fld w 18 6, beta := fld w 24 6, ceiling := (fld w 30 6).toNat + 1, depth := (fld w 36 3).toNat, traps := w.getLsbD 39
        iter := 0, fill := 0, norm := 0x7F800000, shape := carriedShape c.k.arch views, loops := c.k.arch.loops.length }
    c.k.arch.solve.active = false ∧ exec (.solve r) s = .next (c.coreNow [r.toNat] [] (fun k =>
      { k with history := k.history.write 0 (k.bytes (carriedSegs c.k.arch views)), arch := { k.arch with solve := v } }))) ∧
  (∀ t, Issues s (.solq t) c → exec (.solq t) s = .next (c.coreNow [] [] (·.withArch (fun a =>
    if c.k.arch.test t then { a with solve := { a.solve with active := false } } else a)))) ∧
  (∀ d st, Issues s (.solrd d st) c → exec (.solrd d st) s = .next (c.regNow [] d.toNat (match st.toNat with
    | 0 => BitVec.ofNat 64 c.k.arch.solve.iter
    | 1 => c.k.arch.solve.norm.setWidth 64
    | 2 => BitVec.ofNat 64 c.k.arch.solve.fill
    | _ => if c.k.arch.solve.active then 1 else 0)))

/-- Vector arithmetic puts each enabled lane's exact result, rounded or wrapped once, in flight (R305, R306, R307, R300, R301, R303, R195). -/
def Obligations.VectorArithmetic : Prop := ∀ (s : State) (c : Ctx),
  let a := c.k.arch
  let two (l : Nat) (zeroOnly : Bool) (fv : Val → Val → Bool → XRes) (fi : Int → Int → Int) (d x y q m f : Nat) : State :=
    c.vecLater l [] d (a.mask q) (isFloatCode (a.fmt f) && (a.modeField m).isSr)
      (fun i => arithLane a (a.fmt f) m zeroOnly fv fi i (c.lane x i) (c.lane y i))
  let fma (negate : Bool) (d x y z f : Nat) : State :=
    c.vecLater 5 [] d (BitVec.allOnes 64) (isFloatCode (a.fmt f) && a.rm.isSr)
      (fun i => fmaLane a (a.fmt f) negate i (c.lane x i) (c.lane y i) (c.lane z i))
  (∀ d x y q m f, Issues s (.vadd d x y q m f) c → exec (.vadd d x y q m f) s =
    .next (two 3 false Val.add (· + ·) d.toNat x.toNat y.toNat q.toNat m.toNat f.toNat)) ∧
  (∀ d x y q m f, Issues s (.vsub d x y q m f) c → exec (.vsub d x y q m f) s =
    .next (two 3 false (fun u v rd => u.add v.neg rd) (· - ·) d.toNat x.toNat y.toNat q.toNat m.toNat f.toNat)) ∧
  (∀ d x y q m f, Issues s (.vmul d x y q m f) c → exec (.vmul d x y q m f) s =
    .next (two 5 false (fun u v _ => u.mul v) (· * ·) d.toNat x.toNat y.toNat q.toNat m.toNat f.toNat)) ∧
  (∀ d x y q m f, Issues s (.vmin d x y q m f) c → exec (.vmin d x y q m f) s =
    .next (two 3 true (fun u v _ => (u.minOf v, false)) min d.toNat x.toNat y.toNat q.toNat m.toNat f.toNat)) ∧
  (∀ d x y q m f, Issues s (.vmax d x y q m f) c → exec (.vmax d x y q m f) s =
    .next (two 3 true (fun u v _ => (u.maxOf v, false)) max d.toNat x.toNat y.toNat q.toNat m.toNat f.toNat)) ∧
  (∀ d x q m f, Issues s (.vabs d x q m f) c → exec (.vabs d x q m f) s = .next (c.vecLater 3 [] d.toNat (a.mask q.toNat)
    (isFloatCode (a.fmt f.toNat) && (a.modeField m.toNat).isSr)
    (fun i => signLane a (a.fmt f.toNat) m.toNat Val.abs (fun n => n.natAbs) i (c.lane x.toNat i)))) ∧
  (∀ d x q m f, Issues s (.vneg d x q m f) c → exec (.vneg d x q m f) s = .next (c.vecLater 3 [] d.toNat (a.mask q.toNat)
    (isFloatCode (a.fmt f.toNat) && (a.modeField m.toNat).isSr)
    (fun i => signLane a (a.fmt f.toNat) m.toNat Val.neg (fun n => -n) i (c.lane x.toNat i)))) ∧
  (∀ d x y z f, Issues s (.vfma d x y z f) c → exec (.vfma d x y z f) s =
    .next (fma false d.toNat x.toNat y.toNat z.toNat f.toNat)) ∧
  (∀ d x y z f, Issues s (.vfms d x y z f) c → exec (.vfms d x y z f) s =
    .next (fma true d.toNat x.toNat y.toNat z.toNat f.toNat)) ∧
  (∀ d x y q g f, Issues s (.vaddSr d x y q ⟨g, f⟩) c →
    let m := a.mask q.toNat
    let code := a.fmt f.toNat
    let r := mapLanes m (fun i =>
      fltResult a code .sr i ((valOf code (c.lane x.toNat i)).add (valOf code (c.lane y.toNat i)) false))
    let n := ((enabled m).filter (fun i => absorbed code (c.lane x.toNat i) (c.lane y.toNat i) (r.1.getD i 0))).length
    exec (.vaddSr d x y q ⟨g, f⟩) s = .next (c.done .fall
      (((c.begin [] []).later [{ vecPend c 3 .vector d.toNat m r.1 r.2 with absorb := n }]).rounded true)))

/-- Raw vector moves, logic, shifts, permutations and scratch loads put whole lane words in flight (R311, R312, R318, R319, R342, R300). -/
def Obligations.VectorMoves : Prop := ∀ (s : State) (c : Ctx),
  let a := c.k.arch
  let words (l : Nat) (rs : List Nat) (d : Nat) (m : W64) (f : Nat → Nat) : State :=
    c.wordsLater l .vector rs d m ((List.range 64).map f)
  let shift (d x y q f : Nat) (op : Nat → Nat → Nat) : State := words 3 [] d (a.mask q) (fun i =>
    laneWord (a.fmt f) (op (c.lane x i % 2 ^ fmtWidth (a.fmt f)) (c.lane y i % fmtWidth (a.fmt f))))
  let plain (op : Int → Int → Int) (d x y q f : Nat) : State := words 4 [] d (a.mask q) (fun i =>
    laneWord (a.fmt f) (bitsOf (fmtWidth (a.fmt f)) (op (intOf (a.fmt f) (c.lane x i)) (intOf (a.fmt f) (c.lane y i)))))
  (∀ d x y q, Issues s (.vsel d x y q) c → exec (.vsel d x y q) s = .next (words 3 [] d.toNat (BitVec.allOnes 64)
    (fun i => if (a.mask q.toNat).getLsbD i then c.lane x.toNat i else c.lane y.toNat i))) ∧
  (∀ d x y q, Issues s (.vand d x y q) c → exec (.vand d x y q) s =
    .next (words 3 [] d.toNat (a.mask q.toNat) (fun i => c.lane x.toNat i &&& c.lane y.toNat i))) ∧
  (∀ d x y q, Issues s (.vor d x y q) c → exec (.vor d x y q) s =
    .next (words 3 [] d.toNat (a.mask q.toNat) (fun i => c.lane x.toNat i ||| c.lane y.toNat i))) ∧
  (∀ d x y q, Issues s (.vxor d x y q) c → exec (.vxor d x y q) s =
    .next (words 3 [] d.toNat (a.mask q.toNat) (fun i => c.lane x.toNat i ^^^ c.lane y.toNat i))) ∧
  (∀ d x q, Issues s (.vmov d x q) c → exec (.vmov d x q) s =
    .next (words 3 [] d.toNat (a.mask q.toNat) (fun i => c.lane x.toNat i))) ∧
  (∀ d r q, Issues s (.vbcast d r q) c → exec (.vbcast d r q) s =
    .next (words 3 [r.toNat] d.toNat (a.mask q.toNat) (fun _ => (c.x r.toNat).toNat % 2 ^ 32))) ∧
  (∀ d r q, Issues s (.viota d r q) c → exec (.viota d r q) s =
    .next (words 3 [r.toNat] d.toNat (a.mask q.toNat) (fun i => ((c.x r.toNat).toNat + i) % 2 ^ 32))) ∧
  (∀ d x y q, Issues s (.vperm d x y q) c → exec (.vperm d x y q) s =
    .next (words 4 [] d.toNat (a.mask q.toNat) (fun i => c.lane x.toNat (c.lane y.toNat i % 64)))) ∧
  (∀ d x r q, Issues s (.vrot d x r q) c → exec (.vrot d x r q) s =
    .next (words 4 [r.toNat] d.toNat (a.mask q.toNat) (fun i => c.lane x.toNat ((i + (c.x r.toNat).toNat % 64) % 64)))) ∧
  (∀ d r q, Issues s (.vld d r q) c → exec (.vld d r q) s = .next (words 4 [r.toNat] d.toNat (a.mask q.toNat)
    (fun i => leVal (((c.k.scratch.bytes ((c.x r.toNat).toNat % 65536 / 256 * 256) 256).drop (4 * i)).take 4)))) ∧
  (∀ d x y q g f, Issues s (.vshl d x y q ⟨g, f⟩) c → exec (.vshl d x y q ⟨g, f⟩) s =
    .next (shift d.toNat x.toNat y.toNat q.toNat f.toNat (fun u n => u * 2 ^ n))) ∧
  (∀ d x y q g f, Issues s (.vshr d x y q ⟨g, f⟩) c → exec (.vshr d x y q ⟨g, f⟩) s =
    .next (shift d.toNat x.toNat y.toNat q.toNat f.toNat (fun u n => u / 2 ^ n))) ∧
  (∀ d x y q g f, Issues s (.vsar d x y q ⟨g, f⟩) c → exec (.vsar d x y q ⟨g, f⟩) s =
    .next (shift d.toNat x.toNat y.toNat q.toNat f.toNat
      (fun u n => bitsOf (fmtWidth (a.fmt f.toNat)) (intOf (a.fmt f.toNat) u / (2 ^ n : Nat))))) ∧
  (∀ d x y q f, Issues s (.radd d x y q f) c → exec (.radd d x y q f) s =
    .next (plain (· + ·) d.toNat x.toNat y.toNat q.toNat f.toNat)) ∧
  (∀ d x y q f, Issues s (.rsub d x y q f) c → exec (.rsub d x y q f) s =
    .next (plain (· - ·) d.toNat x.toNat y.toNat q.toNat f.toNat)) ∧
  (∀ d x y q f, Issues s (.rxor d x y q f) c → exec (.rxor d x y q f) s =
    .next (plain xorInt d.toNat x.toNat y.toNat q.toNat f.toNat))

/-- Vector conversions, quantisation, approximate functions and reductions put their lanes in flight (R313, R314, R315, R316, R317,
R189, R199, R394). The VRCPA clause (rcpaLane) is the model's reading, log 31 (DEDUCED): it takes R316's formula with m in [1, 2), which
goes against R316's own error bound and |t| <= 1/17, so R316 alone does not settle that value, nor the sign of a zero result. -/
def Obligations.VectorConversions : Prop := ∀ (s : State) (c : Ctx),
  let a := c.k.arch
  let approx (f : Nat → FRes) (d x q : Nat) : State := c.vecLater 7 [] d (a.mask q) false (fun i => f (c.lane x i))
  let reduced (d w : Nat) (fl : Flags) : State :=
    c.done .fall ((c.begin [] []).later [vecPend c 9 .vector d (BitVec.allOnes 64) (w :: List.replicate 63 0) fl])
  (∀ d x t st q m f, Issues s (.vcvt d x t st q m f) c → exec (.vcvt d x t st q m f) s =
    .next (c.vecLater 4 [] d.toNat (a.mask q.toNat) (a.modeField m.toNat).isSr
      (fun i => cvtLane a (a.fmt f.toNat) t.toNat (a.modeField m.toNat) (st == 1) i (c.lane x.toNat i)))) ∧
  (∀ d x m f, Issues s (.vqnt d x m f) c →
    let block (o : Nat) : Block := quantBlock (a.fmt f.toNat)
      ((List.range 32).map (fun i => a.rounding (a.modeField m.toNat) (o + i)))
      (((c.k.lanes x.toNat).drop o).take 32 |>.map f32)
    exec (.vqnt d x m f) s = .next (c.done .fall (((c.begin [] []).later [vecPend c 4 .vector d.toNat (BitVec.allOnes 64)
      (blockLanes (block 0) ++ blockLanes (block 32)) ((block 0).flags ||| (block 32).flags)]).rounded (a.modeField m.toNat).isSr))) ∧
  (∀ d x g f, Issues s (.vdqnt d x ⟨g, f⟩) c → exec (.vdqnt d x ⟨g, f⟩) s =
    .next (c.vecLater 4 [] d.toNat (BitVec.allOnes 64) false (fun i =>
      let v := blockVal (a.fmt f.toNat) (c.lane x.toNat (i / 32 * 32) / 65536) (c.lane x.toNat i % 2 ^ fmtWidth (a.fmt f.toNat))
      if v.isNan then ⟨fp32.nanCode, 0⟩ else fp32.round .rne false v))) ∧
  (∀ d x q, Issues s (.vrsqrta d x q) c → exec (.vrsqrta d x q) s = .next (approx rsqrtaLane d.toNat x.toNat q.toNat)) ∧
  (∀ d x q, Issues s (.vrcpa d x q) c → exec (.vrcpa d x q) s = .next (approx rcpaLane d.toNat x.toNat q.toNat)) ∧
  (∀ d x q, Issues s (.vexp2a d x q) c → exec (.vexp2a d x q) s = .next (approx exp2aLane d.toNat x.toNat q.toNat)) ∧
  (∀ d x q, Issues s (.vlog2a d x q) c → exec (.vlog2a d x q) s = .next (approx log2aLane d.toNat x.toNat q.toNat)) ∧
  (∀ d x q g f, Issues s (.vredsum d x q ⟨g, f⟩) c →
    let r := redSum (a.fmt f.toNat) (a.mask q.toNat) (c.k.lanes x.toNat)
    exec (.vredsum d x q ⟨g, f⟩) s = .next (reduced d.toNat r.code r.flags)) ∧
  (∀ d x q g f, Issues s (.vredmax d x q ⟨g, f⟩) c →
    exec (.vredmax d x q ⟨g, f⟩) s = .next (reduced d.toNat (redMax (a.fmt f.toNat) (a.mask q.toNat) (c.k.lanes x.toNat)) 0))

/-- VCMP, QMOV, QOPS, VEXTR and VST: mask and scalar results of VX, and its scratch store (R308, R309, R310, R318, R319, R303). -/
def Obligations.MaskResults : Prop := ∀ (s : State) (c : Ctx),
  let a := c.k.arch
  let scalar (rs : List Nat) (d : Nat) (v : W64) : State := c.regLater 3 .vector rs d v 0 false
  (∀ cc e x y q g f, Issues s (.vcmpCc cc e x y q ⟨g, f⟩) c → ∃ v : W64,
    (∀ i < 64, v.getLsbD i = ((a.mask q.toNat).getLsbD i &&
      (let code := a.fmt f.toNat
       let unsigned (l : Nat) : Val := .ofInt ((l % 2 ^ fmtWidth code : Nat) : Int)
       if isFloatCode code then condVal cc.toNat (valOf code (c.lane x.toNat i)) (valOf code (c.lane y.toNat i))
       else if 6 ≤ cc.toNat then condVal (cc.toNat - 4) (unsigned (c.lane x.toNat i)) (unsigned (c.lane y.toNat i))
       else condVal cc.toNat (.ofInt (intOf code (c.lane x.toNat i))) (.ofInt (intOf code (c.lane y.toNat i)))))) ∧
    exec (.vcmpCc cc e x y q ⟨g, f⟩) s = .next (c.maskLater [] e.toNat v)) ∧
  (∀ e r, Issues s (.qmovToMask e r) c → exec (.qmovToMask e r) s = .next (c.maskLater [r.toNat] e.toNat (c.x r.toNat))) ∧
  (∀ d e, Issues s (.qmovFromMask d e) c → exec (.qmovFromMask d e) s = .next (scalar [] d.toNat (a.mask e.toNat))) ∧
  (∀ d x y o, Issues s (.qops d x y o) c → exec (.qops d x y o) s = .next (c.maskLater [] d.toNat (match o.toNat with
    | 0 => a.mask x.toNat &&& a.mask y.toNat
    | 1 => a.mask x.toNat ||| a.mask y.toNat
    | 2 => a.mask x.toNat ^^^ a.mask y.toNat
    | 3 => a.mask x.toNat &&& ~~~a.mask y.toNat
    | _ => ~~~a.mask x.toNat))) ∧
  (∀ d x r g f, Issues s (.vextr d x r ⟨g, f⟩) c → exec (.vextr d x r ⟨g, f⟩) s =
    .next (scalar [r.toNat] d.toNat (extendElem (a.fmt f.toNat) (c.lane x.toNat ((c.x r.toNat).toNat % 64))))) ∧
  (∀ v r q, Issues s (.vst v r q) c → exec (.vst v r q) s = .next (c.coreNow [r.toNat] [] (fun k =>
    { k with scratch := (enabled (a.mask q.toNat)).foldl (fun g i =>
        g.put ((c.x r.toNat).toNat % 65536 / 256 * 256 + 4 * i) 4 (c.lane v.toNat i)) k.scratch })))

/-- Tile row and column loads and stores put one slice in flight for 3 virtual cycles (R320, R321, R322, R300). -/
def Obligations.TileSlices : Prop := ∀ (s : State) (c : Ctx),
  let a := c.k.arch
  let tile (t : BitVec 4) : Tile := tileOf (a.view (32 + t.toNat))
  let load (col : Bool) (d : BitVec 5) (t : BitVec 4) (b : BitVec 5) (q : BitVec 2) (f : BitVec 4) : State :=
    let k := (c.x b.toNat).toNat % 64
    let ms := sliceMeta a (tile t) col k (a.fmt f.toNat)
    c.wordsLater 3 .slice [b.toNat] d.toNat (a.mask q.toNat) ((List.range 64).map (fun i =>
      if i < sliceLen (tile t) col then
        laneWord (a.fmt f.toNat) ((tile t).get c.k.gallery (sliceElem col k i).1 (sliceElem col k i).2) +
          (match ms.find? (fun m => m.1 == i) with
           | some m => (tile t).metaWord c.k.gallery m.2 * 65536
           | none => 0)
      else 0))
  let store (col : Bool) (v : BitVec 5) (t : BitVec 4) (b : BitVec 5) (q : BitVec 2) (f : BitVec 4) : State :=
    let k := (c.x b.toNat).toNat % 64
    let ms := (sliceMeta a (tile t) col k (a.fmt f.toNat)).filter (fun m => (a.mask q.toNat).getLsbD m.1)
    let parts := sliceBytes c (tile t) col k (a.mask q.toNat) (c.k.lanes v.toNat) ++
      ms.map (fun m => ((tile t).metaAt + 2 * m.2, leBytes 2 (c.lane v.toNat m.1 / 65536)))
    c.done .fall ((c.begin [b.toNat] []).later
      [{ c.pend 3 .slice (.bytes (parts.map (fun p => (p.1, p.2.length)))) 0 (parts.flatMap Prod.snd) 0 with
         lock := sliceSegs (tile t) col k ++ metaSegs (tile t) ms }])
  (∀ d t b q g f, Issues s (.trowLd d t b q ⟨g, f⟩) c → exec (.trowLd d t b q ⟨g, f⟩) s = .next (load false d t b q f)) ∧
  (∀ d t b q g f, Issues s (.tcolLd d t b q ⟨g, f⟩) c → exec (.tcolLd d t b q ⟨g, f⟩) s = .next (load true d t b q f)) ∧
  (∀ v t b q g f, Issues s (.trowSt v t b q ⟨g, f⟩) c → exec (.trowSt v t b q ⟨g, f⟩) s = .next (store false v t b q f)) ∧
  (∀ v t b q g f, Issues s (.tcolSt v t b q ⟨g, f⟩) c → exec (.tcolSt v t b q ⟨g, f⟩) s = .next (store true v t b q f))

/-- The push instructions put their results in flight and push each lane's remainder with its trailer (R342, R343, R337, R338, R341, R388). -/
def Obligations.StackPushes : Prop := ∀ (s : State) (c : Ctx),
  let fmt (f : BitVec 4) : Nat := c.k.arch.fmt f.toNat
  let ints (v : BitVec 5) (f : BitVec 4) (i : Nat) : Int := (revInts c v.toNat f.toNat).getD i 0
  let push (opcode l : Nat) (d : BitVec 5) (f : BitVec 4) (sh : BitVec 5) (nb : Nat) (res : Nat → Int × Nat) : State :=
    let rs := (List.range 64).map res
    c.pushed [] [vecPend c l .vector d.toNat (BitVec.allOnes 64)
        (rs.map (fun r => laneWord (fmt f) (bitsOf (fmtWidth (fmt f)) r.1))) (flagIf (rs.any (fun r => outside (fmt f) r.1)) fOvf)]
      (packRems nb (rs.map Prod.snd)) (pushTag opcode (fmt f) sh.toNat) id
  (∀ d x y h f, Issues s (.rmulq d x y h f) c → exec (.rmulq d x y h f) s = .next (push 0x84 6 d f h h.toNat (fun i =>
    (ints x f i * ints y f i / (2 ^ h.toNat : Nat), (ints x f i * ints y f i % (2 ^ h.toNat : Nat)).toNat)))) ∧
  (∀ d x h f, Issues s (.rshr d x h f) c → exec (.rshr d x h f) s = .next (push 0x86 4 d f h h.toNat (fun i =>
    (ints x f i / (2 ^ h.toNat : Nat), (ints x f i % (2 ^ h.toNat : Nat)).toNat)))) ∧
  (∀ d x h f, Issues s (.rleak d x h f) c → exec (.rleak d x h f) s = .next (push 0x88 4 d f h h.toNat (fun i =>
    if 0 ≤ ints x f i then (ints x f i, 0) else (ints x f i / (2 ^ h.toNat : Nat), (ints x f i % (2 ^ h.toNat : Nat)).toNat)))) ∧
  (∀ d x h f, Issues s (.rnarw d x h f) c →
    let w := fmtWidth (fmt f)
    exec (.rnarw d x h f) s = .next (push 0x8A 5 d f h (32 - w) (fun i =>
      (signedOf w (c.lane x.toNat i / 2 ^ h.toNat),
       c.lane x.toNat i % 2 ^ h.toNat + c.lane x.toNat i / 2 ^ (h.toNat + w) * 2 ^ h.toNat)))) ∧
  (∀ d m, Issues s (.rstag d 0 m) c → exec (.rstag d 0 m) s = .next (c.pushed [d.toNat] [] [] (0xF0 + m.toNat)
    (fun k => k.putReg d.toNat (BitVec.ofNat 64 (c.k.arch.rsDepth.toNat + 4)))))

/-- The undo instructions pop the entry with their own trailer and put the restored lanes in flight (R342, R344, R337, R338, R341). -/
def Obligations.StackPops : Prop := ∀ (s : State) (c : Ctx),
  let fmt (f : BitVec 4) : Nat := c.k.arch.fmt f.toNat
  let ints (v : BitVec 5) (f : BitVec 4) (i : Nat) : Int := (revInts c v.toNat f.toNat).getD i 0
  let depth := c.k.arch.rsDepth.toNat
  let top := leVal (c.rsBytes (depth - 4) 4)
  let pops (i : Instr) (opcode l : Nat) (d : BitVec 5) (f : BitVec 4) (sh : BitVec 5) (nb out : Nat) (flags : Bool)
      (res : Nat → Nat → Int) : Prop :=
    let rems := unpackRems nb (c.rsBytes (depth - 4 - 8 * nb) (8 * nb))
    let rs := (List.range 64).map (fun n => res n (rems.getD n 0))
    Issues s i c → 0 < depth ∧ top % 256 = pushTag opcode (fmt f) sh.toNat ∧ top / 256 % 65536 = 8 * nb ∧
      exec i s = .next (c.popped [] [vecPend c l .vector d.toNat (BitVec.allOnes 64)
        (rs.map (fun r => laneWord out (bitsOf (fmtWidth out) r))) (flagIf (flags && rs.any (outside out)) fOvf)] (8 * nb) id)
  (∀ d x y h f, pops (.unmulq d x y h f) 0x84 6 d f h h.toNat (fmt f) true
    (fun i rem => (ints x f i * (2 ^ h.toNat : Nat) + rem).tdiv (ints y f i))) ∧
  (∀ d x h f, pops (.unshr d x h f) 0x86 4 d f h h.toNat (fmt f) false (fun i rem => ints x f i * (2 ^ h.toNat : Nat) + rem)) ∧
  (∀ d x h f, pops (.unleak d x h f) 0x88 4 d f h h.toNat (fmt f) false (fun i rem =>
    if 0 ≤ ints x f i then ints x f i else ints x f i * (2 ^ h.toNat : Nat) + rem)) ∧
  (∀ d x h f, let w := fmtWidth (fmt f)
    pops (.unnarw d x h f) 0x8A 5 d f h (32 - w) 8 false (fun i rem =>
      signedOf 32 (rem % 2 ^ h.toNat + c.lane x.toNat i % 2 ^ w * 2 ^ h.toNat + rem / 2 ^ h.toNat * 2 ^ (h.toNat + w)))) ∧
  (∀ d m, Issues s (.rstag d 1 m) c → 0 < depth ∧ top % 256 = 0xF0 + m.toNat ∧ top / 256 % 65536 = 0 ∧
    exec (.rstag d 1 m) s = .next (c.popped [d.toNat] [] 0 (fun k => k.putReg d.toNat (BitVec.ofNat 64 (depth - 4)))))

/-- REVON attaches h7 to the remainder tape, REVOFF detaches it once the stack is empty (R339, R340). -/
def Obligations.RemainderTape : Prop := ∀ (s : State) (c : Ctx),
  (∀ r, Issues s (.revon r) c →
    let t : BitVec 20 := (c.x r.toNat).setWidth 20
    let p := (fld (c.x r.toNat) 20 40).toNat
    c.k.arch.revOn = false ∧ (c.head 7).attached = false ∧ ∃ d, c.dir t = some d ∧ d.attr = attrUpdate ∧ d.recLog = 8 ∧
      p ≤ d.length ∧
      exec (.revon r) s = .next ((c.headed [r.toNat] [] (if p < d.length then some (t, d.extentOf p) else none) [] [] (fun k =>
        { k with
          arch := { k.arch with
            heads := k.arch.heads.set 7 ⟨true, t, headMode d true false, BitVec.ofNat 40 p, [none, none, none, none], BitVec.ofNat 40 p⟩
            revOn := true, revBase := BitVec.ofNat 40 p, rsSp := 0 }
          windows := k.windows.set 7 [] })).unwalk c.k.no (some 7))) ∧
  (Issues s .revoff c → c.k.arch.revOn = true ∧ c.k.arch.rsDepth = 0 ∧ exec .revoff s = .next (c.coreNow [] [] (fun k =>
    { k with arch := { k.arch with heads := k.arch.heads.set 7 Head.detached, revOn := false }, windows := k.windows.set 7 [] })))

/-- Matrix instructions occupy the array for their beats and put their results in flight, due beats + 13 later (R324, R332, R333, R334, R335). -/
def Obligations.MatrixResults : Prop := ∀ (s : State) (c : Ctx),
  let a := c.k.arch
  let acc (v : BitVec 3) : Nat := 48 + v.toNat
  let bay (v : BitVec 3) : Nat := accBay (a.view (acc v))
  let whole (v : BitVec 3) (n : BitVec 5) (ws : List Nat) (st : W32) (clear : Bool) : Pend :=
    accPend c .matrix (acc v) (beatsOf n) [accSeg a (acc v)] (accBytes ws) st clear
  let flagsOf (rs : List FRes) : W32 := statusBits (rs.foldl (fun f r => f ||| r.flags) 0)
  (∀ v n z, Issues s (.mzero v n z) c → exec (.mzero v n z) s =
    .next (c.matrixLater (beatsOf n) [bay v] [] [] [whole v n (List.replicate 4096 0) 0 (z == 1)])) ∧
  (∀ v t n f x, Issues s (.mload v t n f x) c →
    let tv := 32 + t.toNat
    let ws := tileF32 c.k.gallery (tileOf (a.view tv)) (a.fmt f.toNat) (x == 1)
    exec (.mload v t n f x) s = .next (c.matrixLater (beatsOf n) ([viewBay tv (a.view tv)] ++ [bay v]).eraseDups [] []
      [whole v n ((List.range 4096).map (fun e => (ws.getD (e / 64) []).getD (e % 64) 0)) 0 false])) ∧
  (∀ v t n f x, Issues s (.maddt v t n f x) c →
    let tv := 32 + t.toNat
    let sh := asRead (tileOf (a.view tv)) (x == 1)
    let rs := (tileF32 c.k.gallery (tileOf (a.view tv)) (a.fmt f.toNat) (x == 1)).zipIdx.map (fun r =>
      r.1.zipIdx.map (fun y => addRne ((c.k.acc (acc v)).getD (64 * r.2 + y.2) 0) y.1))
    exec (.maddt v t n f x) s = .next (c.matrixLater (beatsOf n) ([viewBay tv (a.view tv)] ++ [bay v]).eraseDups [] []
      [accPend c .matrix (acc v) (beatsOf n) (rowsSegs a (acc v) sh.1 sh.2) (rs.flatMap (fun row => row.flatMap (fun r => leBytes 4 r.code)))
        (statusBits (rs.foldl (fun f row => row.foldl (fun f r => f ||| r.flags) f) 0)) false])) ∧
  (∀ v r n st, Issues s (.mscl v r n st) c →
    let rs := (c.k.acc (acc v)).map (scaleRes (st == 1) (fpReg (c.x r.toNat)))
    exec (.mscl v r n st) s = .next (c.matrixLater (beatsOf n) [bay v] [r.toNat] [] [whole v n (rs.map FRes.code) (flagsOf rs) false])) ∧
  (∀ v w n, Issues s (.mxpose v w n) c → exec (.mxpose v w n) s =
    .next (c.matrixLater (beatsOf n) [bay v, bay w].eraseDups [] []
      [whole v n ((List.range 4096).map (fun e => (c.k.acc (acc w)).getD (64 * (e % 64) + e / 64) 0)) (accStatus (a.view (acc w))) false])) ∧
  (∀ v w n, Issues s (.mswap v w n) c → bay v ≠ bay w → exec (.mswap v w n) s =
    .next (c.matrixLater (beatsOf n) [bay v, bay w] [] []
      [accPend c .matrix (acc v) (beatsOf n) [accSeg a (acc v)] (c.k.bytes [accSeg a (acc w)]) (accStatus (a.view (acc w))) true,
       accPend c .matrix (acc w) (beatsOf n) [accSeg a (acc w)] (c.k.bytes [accSeg a (acc v)]) (accStatus (a.view (acc v))) true])) ∧
  (∀ v w n, Issues s (.mswap v w n) c → bay v = bay w → v ≠ w → exec (.mswap v w n) s =
    .next (c.matrixLater (beatsOf n) [bay v] [] []
      [accPend c .matrix (acc v) (beatsOf n) [accSeg a (acc v)] (c.k.bytes [accSeg a (acc v)]) (accStatus (a.view (acc w))) true,
       accPend c .matrix (acc w) (beatsOf n) [] [] (accStatus (a.view (acc v))) true])) ∧
  (∀ v n, Issues s (.mswap v v n) c → exec (.mswap v v n) s = .next (c.matrixLater (beatsOf n) [bay v] [] []
    [accPend c .matrix (acc v) (beatsOf n) [accSeg a (acc v)] (c.k.bytes [accSeg a (acc v)]) 0 false])) ∧
  (∀ v d n, Issues s (.mstat v d n) c → exec (.mstat v d n) s = .next (c.matrixLater (beatsOf n) [] [] [d.toNat]
    [c.pend (beatsOf n + 13) .matrix (.reg (physReg a.rot d.toNat)) ((accStatus (a.view (acc v))).setWidth 64) [] 0])) ∧
  (∀ v t n f x st z, Issues s (.mdrain v t n f x st z) c →
    let tT := tileOf (a.view (32 + t.toNat))
    let rs := (List.range tT.rows).map (fun i => (List.range tT.cols).map (fun j =>
      convert (a.fmt f.toNat) .rne (st == 1) (f32 ((c.k.acc (acc v)).getD (if x = 1 then 64 * j + i else 64 * i + j) 0))))
    let fl : Flags := rs.foldl (fun f row => row.foldl (fun f r => f ||| r.flags) f) ((fld (accStatus (a.view (acc v))) 0 3).setWidth 6)
    exec (.mdrain v t n f x st z) s = .next (c.matrixLater (beatsOf n) [tT.bay, bay v] [] []
      [{ c.pend (beatsOf n + 13) .matrix (.bytes tT.rowSegs) 0 (rs.flatMap (fun row => row.flatMap (fun r => leBytes (tT.width / 8) r.code))) fl with
         accView := if z = 1 then some (acc v) else none, accClear := z == 1 }]))

/-- MMA and MMAS put the products of their operands, accumulated over K in steps of 32, in flight (R324, R327, R328, R329, R330, R331, R198). -/
def Obligations.MatrixProducts : Prop := ∀ (s : State) (c : Ctx),
  let a := c.k.arch
  let acc (v : BitVec 3) : Nat := 48 + v.toNat
  let bay (v : BitVec 3) : Nat := accBay (a.view (acc v))
  let result (v : BitVec 3) (n : BitVec 5) (ints clear : Bool) (kk : Nat) (as bs : List (List Val)) : Pend :=
    let rs := multiply ints kk as bs (if clear then List.replicate 4096 0 else c.k.chained (acc v))
    let fl := rs.foldl (fun f row => row.foldl (fun f r => f ||| r.flags) f) 0
    if clear then accPend c .mma (acc v) (beatsOf n) [accSeg a (acc v)]
      (accBytes ((List.range 4096).map (fun e => ((rs.getD (e / 64) []).getD (e % 64) ⟨0, 0⟩).code))) (statusBits fl) false
    else accPend c .mma (acc v) (beatsOf n) (rowsSegs a (acc v) as.length bs.length)
      (rs.flatMap (fun row => row.flatMap (fun r => leBytes 4 r.code))) (statusBits fl) false
  let product (v : BitVec 3) (n : BitVec 5) (bays : List Nat) (p : Pend) (f : Core → Core) : State :=
    let k := f (((c.begin [] []).later [p]).occupy 3 (beatsOf n) bays)
    c.done .fall { k with pend := k.pend.map (fun x => if x.accView == some (acc v) then { x with due := c.k.vc + beatsOf n + 13 } else x) }
  let tiles (scaled : Bool) (v : BitVec 3) (ta tb : BitVec 4) (n : BitVec 5) (f : BitVec 4) (x y z : BitVec 1) : State :=
    let tA := tileOf (a.view (32 + ta.toNat))
    let tB := tileOf (a.view (32 + tb.toNat))
    product v n (([32 + ta.toNat, 32 + tb.toNat].eraseDups.map (fun t => viewBay t (a.view t))) ++ [bay v]).eraseDups
      (result v n (isIntCode (a.fmt f.toNat)) (z == 1) (asRead tA (x == 1)).2
        (tileVals a c.k.gallery tA (a.fmt f.toNat) (x == 1) scaled)
        (columns (asRead tB (y == 1)).2 (tileVals a c.k.gallery tB (a.fmt f.toNat) (y == 1) scaled))) id
  (∀ v ta tb n f x y z, Issues s (.mmaTile v ta tb n f x y z) c →
    exec (.mmaTile v ta tb n f x y z) s = .next (tiles false v ta tb n f x y z)) ∧
  (∀ v ta tb n f x y z, Issues s (.mmas v ta tb n f x y z) c →
    exec (.mmas v ta tb n f x y z) s = .next (tiles true v ta tb n f x y z)) ∧
  (∀ v h tb n f y z, Issues s (.mmaStream v h tb n f y z) c →
    let tB := tileOf (a.view (32 + tb.toNat))
    let hd := c.head h.toNat
    ∃ d rows cs, c.dir hd.tape = some d ∧ streamRows c h.toNat hd d (List.range 64) [] [] = .inr (rows, cs) ∧
      exec (.mmaStream v h tb n f y z) s = .next (product v n ([viewBay (32 + tb.toNat) (a.view (32 + tb.toNat))] ++ [bay v]).eraseDups
        (result v n (isIntCode (a.fmt f.toNat)) (z == 1) (asRead tB (y == 1)).1 (rows.map (recordVals (a.fmt f.toNat) (asRead tB (y == 1)).1))
          (columns (asRead tB (y == 1)).2 (tileVals a c.k.gallery tB (a.fmt f.toNat) (y == 1) false)))
        (fun k => (List.range 64).foldl (fun k (i : Nat) => c.noteRead h.toNat hd (hd.target i).toNat k) (k.acquire cs))))

/-- Head instructions: attach, detach, step, mark, rewind and the queries (R355, R357, R358, R362, R363, R364, R158, R162). -/
def Obligations.HeadMoves : Prop := ∀ (s : State) (c : Ctx),
  let hd (h : BitVec 3) : Head := c.head h.toNat
  let goesTo (i : Instr) (h : BitVec 3) (rs : List Nat) (p : Int) : Prop := ∃ d, c.dir (hd h).tape = some d ∧
    0 ≤ p ∧ p ≤ d.length ∧ exec i s = .next (c.headed rs [] (c.enters (hd h) d p.toNat) [] [] (fun k => k.moveHead h.toNat d p.toNat))
  (∀ h r w b, Issues s (.hatt h r w b) c →
    let v := c.x r.toNat
    let t : BitVec 20 := v.setWidth 20
    (hd h).attached = false ∧ ∃ d, c.dir t = some d ∧
      let p := if d.attr = attrStream ∧ w = 0 then (c.run.tapeAt t).freed else (fld v 20 40).toNat
      p ≤ d.length ∧ exec (.hatt h r w b) s = .next ((c.headed [r.toNat] [] (if p < d.length then some (t, d.extentOf p) else none) [] []
        (fun k => { k with
          arch := { k.arch with heads := k.arch.heads.set h.toNat (⟨true, t, headMode d (w == 1) (b == 1), BitVec.ofNat 40 p, [none, none, none, none], BitVec.ofNat 40 p⟩ : Head) }
          windows := k.windows.set h.toNat [] })).unwalk c.k.no (some h.toNat))) ∧
  (∀ h, Issues s (.hdet h) c → exec (.hdet h) s = .next (c.coreNow [] [] (fun k =>
    { k with
      arch := { k.arch with
        heads := k.arch.heads.set h.toNat Head.detached
        detached := if (hd h).isStream then k.arch.detached ++ [((hd h).tape, if (hd h).writer then none else some (hd h).used)]
          else k.arch.detached }
      windows := k.windows.set h.toNat [] }))) ∧
  (∀ h n, Issues s (.hstep h n) c → n = 0 → exec (.hstep h n) s = .next (c.coreNow [] [] id)) ∧
  (∀ h n, Issues s (.hstep h n) c → n ≠ 0 → goesTo (.hstep h n) h [] ((hd h).target n.toInt)) ∧
  (∀ h r, Issues s (.hstepr h r) c → c.x r.toNat = 0 → exec (.hstepr h r) s = .next (c.coreNow [r.toNat] [] id)) ∧
  (∀ h r, Issues s (.hstepr h r) c → c.x r.toNat ≠ 0 → goesTo (.hstepr h r) h [r.toNat] ((hd h).target (c.x r.toNat).toInt)) ∧
  (∀ h m, Issues s (.hmark h m) c → exec (.hmark h m) s = .next (c.coreNow [] [] (·.withArch (fun a =>
    { a with heads := a.heads.set h.toNat { hd h with marks := (hd h).marks.set m.toNat (some (hd h).pos) } })))) ∧
  (∀ h m, Issues s (.hrew h m) c → ∃ p, (hd h).marks.getD m.toNat none = some p ∧
    (p = (hd h).pos → exec (.hrew h m) s = .next (c.coreNow [] [] id)) ∧ (p ≠ (hd h).pos → goesTo (.hrew h m) h [] p.toNat)) ∧
  (∀ h d, Issues s (.hpos h d) c → exec (.hpos h d) s = .next (c.regNow [] d.toNat ((hd h).pos.setWidth 64))) ∧
  (∀ h d m, Issues s (.hdist h d m) c → ∃ p, (hd h).marks.getD m.toNat none = some p ∧
    exec (.hdist h d m) s = .next (c.regNow [] d.toNat (if (hd h).backward then p.setWidth 64 - (hd h).pos.setWidth 64
      else (hd h).pos.setWidth 64 - p.setWidth 64))) ∧
  (∀ h d f, Issues s (.hlen h d f) c → ∃ e, c.dir (hd h).tape = some e ∧ exec (.hlen h d f) s = .next (c.regNow [] d.toNat
    (BitVec.ofNat 64 (if f = 1 ∧ ((hd h).isAppend ∨ (hd h).isStream) then (c.run.tapeAt (hd h).tape).fill else e.length)))) ∧
  (∀ h d, Issues s (.hstat h d) c → exec (.hstat h d) s = .next (c.regNow [] d.toNat
    ((c.k.hstat (c.st.hallAt (hallOf c.k.no)) h.toNat (((c.dir (hd h).tape).map Dir.length).getD 0)).setWidth 64)))

/-- HRD and HRDS put a record's bytes in flight for 20 virtual cycles; HWR and HAPP hold a whole record (R356, R359, R360, R361, R165, R126). -/
def Obligations.HeadTransfers : Prop := ∀ (s : State) (c : Ctx),
  let hd (h : BitVec 3) : Head := c.head h.toNat
  let view (v : BitVec 5) (k : BitVec 1) : Nat := if k = 0 then v.toNat else 32 + v.toNat % 16
  let segs (v : Nat) : List (Nat × Nat) := viewSegs v (c.k.arch.view v)
  let size (v : Nat) : Nat := viewSize v (c.k.arch.view v)
  let read (i : Instr) (h : BitVec 3) (v : Nat) (step : Bool) : Prop :=
    let p := (hd h).pos.toNat
    ∃ d, c.dir (hd h).tape = some d ∧ size v ≤ d.recSize ∧ p ≠ d.length ∧
      let e := if step then c.enters (hd h) d ((hd h).target 1).toNat else none
      let moved (k : Core) : Core := if step then k.moveHead h.toNat d ((hd h).target 1).toNat else k
      let result (data : List Byte) (bad : List Nat) (need : Need) : Pend :=
        { c.pend 20 .head (.bytes (segs v)) 0 (data.take (size v)) 0 with
          poison := granuleRanges bad, source := some ((hd h).tape, p), need := need }
      match c.take h.toNat (hd h) p with
      | .here data bad carried => exec i s = .next (c.headed [] [] e [result data bad .ready] [] (fun k =>
          c.noteRead h.toNat (hd h) p (match carried with
            | some x => (moved k).acquire [x]
            | none => moved k)))
      | .absent => exec i s = .next (c.headed [] [] e [result [] [] (.record h.toNat (hd h).tape p (size v) c.run.nextWid none (c.k.floor (hd h).tape p) none)] [] moved)
      | .unreleased => False
  (∀ h v k, Issues s (.hrd h v k) c → read (.hrd h v k) h (view v k) false) ∧
  (∀ h v k, Issues s (.hrds h v k) c → read (.hrds h v k) h (view v k) true) ∧
  (∀ h v k, Issues s (.hwr h v k) c → ∃ d, c.dir (hd h).tape = some d ∧ (hd h).writer = true ∧ (hd h).isUpdate = true ∧
    exec (.hwr h v k) s = .next (c.holds [] []
      [.rewrite (hd h).tape (hd h).pos.toNat (padTo d.recSize (c.k.viewBytes (view v k)))])) ∧
  (∀ h v k, Issues s (.happ h v k) c → ∃ d, c.dir (hd h).tape = some d ∧ (hd h).writer = true ∧
    (hd h).pos.toNat = c.k.fillWith c.run (hd h).tape ∧ (hd h).pos.toNat ≠ d.length ∧
    let data := padTo d.recSize (c.k.viewBytes (view v k))
    let p := (hd h).pos.toNat + 1
    exec (.happ h v k) s = .next (c.headed [] [] (c.enters (hd h) d p) []
      [if (hd h).isStream then .streamAppend (hd h).tape data else .append (hd h).tape h.toNat data] (fun k => k.moveHead h.toNat d p)))

/-- Cell instructions hold their operations; cell reads are in flight for 20 virtual cycles (R365, R366, R367, R368, R369, R126). -/
def Obligations.CellInstructions : Prop := ∀ (s : State) (c : Ctx),
  let array (r : BitVec 6) : Nat := (fld (c.x r.toNat) 0 12).toNat
  let cell (r : BitVec 6) : Nat := (fld (c.x r.toNat) 12 20).toNat
  (∀ v r m b, Issues s (.cadd v r m b) c → exec (.cadd v r m b) s = .next (c.holds [r.toNat] []
    [.cellAdd (array r) (cell r) (b == 1) ((enabled (c.k.arch.mask m.toNat)).map (fun l => (l, BitVec.ofNat 32 (c.lane v.toNat l))))])) ∧
  (∀ v r m b, Issues s (.crd v r m b) c → ∃ d, c.cellDesc (array r) = some d ∧
    let q := c.k.arch.mask m.toNat
    exec (.crd v r m b) s = .next (c.done .fall ((c.begin [r.toNat] []).later
      [{ c.pend 20 .head (.bytes (laneSegs (c.k.arch.view v.toNat) q)) 0 [] 0 with
         lock := [vecSeg (c.k.arch.view v.toNat)]
         need := .cells (array r) c.run.nextWid (if c.heldConfig (array r) then some (descFrac d) else none) (b == 1)
           ((enabled q).map (fun l => ownCell c.k.held (array r) (cell r + l) l)) }]))) ∧
  (∀ r d, Issues s (.crdStat r d) c → ∃ e, c.cellDesc (array r) = some e ∧
    exec (.crdStat r d) s = .next (c.done .fall ((c.begin [r.toNat] [d.toNat]).later
      [{ c.pend 20 .head (.reg (physReg c.k.arch.rot d.toNat)) e [] 0 with
         need := if c.heldConfig (array r) then .ready else .status (array r) }]))) ∧
  (∀ r n, Issues s (.cclr r n) c → fld (c.x n.toNat) 0 21 ≠ 0 → exec (.cclr r n) s =
    .next (c.holds [r.toNat, n.toNat] [] [.cellClear (array r) (cell r) (fld (c.x n.toNat) 0 21).toNat])) ∧
  (∀ r n, Issues s (.cclr r n) c → fld (c.x n.toNat) 0 21 = 0 → exec (.cclr r n) s = .next (c.coreNow [r.toNat, n.toNat] [] id)) ∧
  (∀ r d, Issues s (.ccfg r d) c → exec (.ccfg r d) s = .next (c.holds [r.toNat, d.toNat] [] [.cellConfig (array r) (c.x d.toNat)]))

/-- A feature that is masked, a view not configured or a broken rule of the instruction's own traps before it acts (R113, R124, R127, R146,
R150, R261, R263, R270). Which of two views that are not configured info0 names is the model's choice (log 50): the first in the order of
Plan.views. That the freeze
for a token that has yet to come is before the traps of the same bundle is the model's reading (log 36, DEDUCED). -/
def Obligations.CheckTraps : Prop := ∀ (s : State) (i : Instr) (c : Ctx),
  let p := planOf i c
  let traps (t : TrapInfo) : Prop := exec i s = .next (s.trap c.k t)
  Ready s i c → c.k.stage ≠ .syncIssue →
  (∀ cause, c.k.tokenWait p = some cause → exec i s = .next (s.setCore { c.k with stage := c.k.stage.waiting cause }).endTurn) ∧
  (c.k.tokenWait p = none → c.feats.getLsbD p.feature = false → traps (c.info 0x0D c.slot (BitVec.ofNat 64 p.feature) 0)) ∧
  (∀ v, c.k.tokenWait p = none → c.feats.getLsbD p.feature = true → p.views.find? (fun v => !c.k.arch.configured v) = some v →
    traps (c.info 0x06 c.slot (BitVec.ofNat 64 v) 0)) ∧
  (c.k.tokenWait p = none → c.feats.getLsbD p.feature = true → (∀ v ∈ p.views, c.k.arch.configured v = true) → p.bad = true →
    traps (c.illegal c.h c.slot)) ∧
  (c.k.quiet → p.fits c → p.badLast = true → traps (c.illegal c.h c.slot)) ∧
  (∀ t, c.k.quiet → p.fits c → p.badLast = false → p.late = some t → traps (c.info t.1 c.slot t.2.1 t.2.2)) ∧
  (∀ t, (∀ n d u, c.k.stage ≠ .deciding n d u) → s.trap c.k t =
    (s.setCore { c.k with stage := .trapping t c.k.arch.dictBase s.pcyc }).passTurn c.k.no)

/-- An operand or destination with a result in flight is locked: the instruction traps 0x05 with its slot in info0 (R121, R122, R141, R146). That the freeze for a token
that has yet to come is before this trap is the model's reading (log 36, DEDUCED). -/
def Obligations.LockedOperandTraps : Prop := ∀ (s : State) (i : Instr) (c : Ctx) (x : Pend),
  let p := planOf i c
  let traps : Prop := ∃ info1, exec i s = .next (s.trap c.k (c.info 0x05 c.slot (BitVec.ofNat 64 c.slot) info1))
  Ready s i c → c.k.stage ≠ .syncIssue → p.fits c → c.k.tokenWait p = none → x ∈ c.k.pend → p.chain = none →
  (∀ n, n ≠ 0 → Loc.reg n ∈ p.reads ++ p.writes → x.dest = .reg (physReg c.k.arch.rot n) → traps) ∧
  (∀ o n r, Loc.bytes o n ∈ p.reads ++ p.writes → r ∈ x.lock → rangesMeet (o, n) r = true → traps) ∧
  (∀ v, Loc.status v ∈ p.reads ++ p.writes → x.accView = some v → traps)

/-- A rollback restores the checkpoint: registers from the shadow, gallery lines and ring blocks from the undo log (R126, R127, R89). -/
def Obligations.RollbackRestores : Prop := ∀ (k : Core),
  let t := k.rollback.1
  let logged (ring : Bool) (i : Nat) : Option Undo := k.undo.find? (fun u => u.ring == ring && u.index == i)
  (∀ p ∈ k.pend, p.preCk = false) →
  t.pend = [] ∧ t.arch = k.shadow ∧ t.shadow = k.shadow ∧ t.held = [] ∧ t.undo = [] ∧ t.tilesTaken = 0 ∧ t.nextts = 0 ∧
  t.scratch = k.scratch ∧ t.history = k.history ∧ k.rollback.2 = false ∧
  (∀ a, t.gallery.read a = match logged false (a / 256) with
    | some u => u.old.getD (a % 256) 0
    | none => k.gallery.read a) ∧
  (∀ a, t.ring.read a = match logged true (a / 256) with
    | some u => u.old.getD (a % 256) 0
    | none => k.ring.read a)

/-- The end of a trap's rollback: its record is made with the trap's code, slot and pcs, and its policy acts (R109, R110, R111, R112, R113, R127). -/
def Obligations.TrapRollback : Prop := ∀ (s : State) (core : Nat) (k : Core) (r : Run) (fn : Fn) (f : Flight) (x : TrapInfo) (dict : W64) (tick : Nat),
  let p : Policy := s.policyOf fn f k x
  s.coreJob core = some (k, r, fn, f) → k.stage = .trapping x dict tick → k.settled = true → s.earlierTrap k tick = false →
  ∃ (t : State) (rec_ : TrapRec), exec (.trapRollbackComplete core) s = .next t ∧
    rec_.code = x.code ∧ rec_.slot = x.slot ∧ rec_.pc = x.pc ∧ rec_.info0 = x.info0 ∧ rec_.info1 = x.info1 ∧ rec_.dict = dict ∧
    rec_.ckPc = k.rollback.1.shadow.pc ∧ rec_.node = BitVec.ofNat 16 k.node ∧
    (∃ more : List TrapRec, (t.fnAt r.fn).map Fn.traps = some ((more ++ rec_ :: fn.traps).take 256) ∧
      more.reverse.map TrapRec.code = if r.endsWith p then ((s.openTraps r.id).filter (fun y => y.1.no != core)).map (fun y => y.2.1.code) else []) ∧
    (p = .fault ∨ (p = .hypervisor ∧ (r.cut.map Cut.reason) = some .power) ∨ (p = .debug ∧ r.cut ≠ none) → t.runAt r.id = none) ∧
    (p = .resume ∨ p = .handler ∨ (p = .hypervisor ∧ (r.cut.map Cut.reason) ≠ some .power) →
      t.coreAt core = some { k.rollback.1 with stage := .trapped rec_ (x.records k) })

/-- REVOFF ends REVON on an empty stack, traps 0x0A at another depth and 0x04 without REVON (R340). -/
def Obligations.RevoffRule : Prop :=
  (∀ w : W32, decodeSlot 1 w = .ok .revoff ↔ w = 0x69000000) ∧ decodeSlot 0 (0x69000000 : W32) = .error .misplaced ∧
  ∀ (s : State) (c : Ctx),
    let depth := c.k.arch.rsDepth.toNat
    let tag := BitVec.ofNat 64 (leVal (c.rsBytes (depth - 4) 1))
    let running : Prop := (∀ n d u, c.k.stage ≠ .deciding n d u) ∧ c.k.stage ≠ .syncIssue
    let rollsBack (t : TrapInfo) : Prop := exec .revoff s =
      .next ((s.setCore { c.k with stage := .trapping t c.k.arch.dictBase s.pcyc }).passTurn c.k.no)
    (Issues s .revoff c → exec .revoff s = .next (c.coreNow [] [] (fun k =>
      { k with arch := { k.arch with heads := k.arch.heads.set 7 Head.detached, revOn := false }, windows := k.windows.set 7 [] }))) ∧
    (Ready s .revoff c → c.feats.getLsbD 1 = true → c.k.arch.revOn = true → depth ≠ 0 → running → rollsBack (c.info 0x0A 1 0 tag)) ∧
    (Ready s .revoff c → c.feats.getLsbD 1 = true → c.k.arch.revOn = false → running → rollsBack (c.illegal c.h 1)) ∧
    (Ready s .revoff c → c.feats.getLsbD 1 = true → c.k.arch.revOn = true → depth = 0 → c.k.undo.length ≤ 256 → c.k.held.length ≤ 128 →
      Issues s .revoff c)

/-- NOP is the word 0x0100_0000 and does nothing; a bundle with no slot present does nothing either, in one vc (R296). -/
def Obligations.NopRule : Prop :=
  (∀ w : W32, decodeSlot 7 w = .ok .nop ↔ w = 0x01000000) ∧
  ∀ (s : State) (c : Ctx),
    (Ready s .nop c → c.feats.getLsbD 0 = true → c.k.undo.length ≤ 256 → c.k.held.length ≤ 128 →
      exec .nop s = .next (c.done .fall { c.k with stage := .run })) ∧
    (s.ctx 0 [] (s.lenHere 12) 8 = some c → c.k.stops = [] → (c.k.decodedHere = none → c.len = 12) ∧
      let a := c.k.arch.sequence c.bodies c.pc c.len .fall
      let a := { a with solve := { a.solve with loops := min a.solve.loops a.loops.length } }
      exec (.literalBundle 0 []) s = .next ((s.setCore { c.k with
        stage := .run, arch := a, vc := c.k.vc + 1, synced := none, syncExtents := []
        loopBuf := loopBuffer c.k.loopBuf c.k.arch.loops a.loops c.k.arch.pc { h := 0, len := c.len, slots := [] } }).endTurn))

/-- MSTAT lands the accumulator's status word, zero-extended, n + b + 13 virtual cycles on; a locked one traps 0x05 (R335). -/
def Obligations.MstatRule : Prop :=
  (∀ (w : W32) v d n, decodeSlot 3 w = .ok (.mstat v d n) → fld w 15 6 = d) ∧
  ∀ (s : State) (c : Ctx) (v : BitVec 3) (d : BitVec 6) (n : BitVec 5),
    let status : W64 := (accStatus (c.k.arch.view (48 + v.toNat))).setWidth 64
    let p := c.pend (beatsOf n + 13) .matrix (.reg (physReg c.k.arch.rot d.toNat)) status [] 0
    p.due = c.k.vc + (beatsOf n + 13) ∧
    (Issues s (.mstat v d n) c → exec (.mstat v d n) s = .next (c.matrixLater (beatsOf n) [] [] [d.toNat] [p])) ∧
    (∀ a : Arch, a.rot = c.k.arch.rot →
      (a.land p).x = (if d = 0 then a.x else a.x.set (physReg a.rot d.toNat) status) ∧
      (a.land p).rot = a.rot ∧ (d ≠ 0 → physReg a.rot d.toNat < a.x.length → (a.land p).reg d.toNat = status)) ∧
    (∀ x, Ready s (.mstat v d n) c → c.k.stage ≠ .syncIssue → (planOf (.mstat v d n) c).fits c → x ∈ c.k.pend → x.accView = some (48 + v.toNat) →
      ∃ info1, exec (.mstat v d n) s = .next (s.trap c.k (c.info 0x05 3 3 info1)))

/-- lnk_stat shows each port's state, replay count and flags to the physical function, which clears the flags by writing 1 (R25). -/
def Obligations.LinkStatus : Prop := ∀ (s : State) (f : Fn) (n : Nat) (v : W32),
  let p := s.portAt n
  let w := BitVec.ofNat 32 (s.readBar0 f (0x40000 + 0x100 * n))
  let at_ (st : PortStage) (count : Nat) (down re : Bool) : Port := { Port.reset with stage := st, replayCount := count, downEvent := down, retrain := re }
  n < 16 → s.rot.recovery = false →
  (f.no = 0 →
    fld w 30 2 = (match p.stage with
      | .down => 0
      | .training => 1
      | .up => 2
      | .failed => 3) ∧ fld w 20 10 = 0 ∧ (fld w 8 12).toNat = min 4095 p.replayCount ∧ w.getLsbD 7 = p.downEvent ∧ w.getLsbD 6 = p.retrain ∧
    w.getLsbD 5 = p.replayLimit ∧ w.getLsbD 4 = (p.pauseRx != 0) ∧ w.getLsbD 3 = (p.pauseTx != 0) ∧ fld w 0 3 = 0) ∧
  (f.no ≠ 0 → s.readBar0 f (0x40000 + 0x100 * n) = 0) ∧
  Port.reset.status = 0 ∧ (at_ .up 1 false false).status = 0x80000100 ∧ (at_ .up 0 true true).status = 0x800000C0 ∧
  ((at_ .up 0 true true).clearFlags 0x000000C0).status = 0x80000000 ∧
  (∀ g, s.fnAt 0 = some g → exec (.lnkStatWrite 0 n v) s = .next (s.mapPort n (fun p =>
    { p with downEvent := p.downEvent && !v.getLsbD 7, retrain := p.retrain && !v.getLsbD 6, replayLimit := p.replayLimit && !v.getLsbD 5 }))) ∧
  (∀ m g, m ≠ 0 → s.fnAt m = some g → exec (.lnkStatWrite m n v) s = .next s)

/-- Literal bundles and calls issue every slot that commits, in slot order, at one pc (R119, R125, R257, R260, R261, R264, R265, R266, R267, R269). -/
def Obligations.Bundles : Prop := ∀ (s : State) (c : Ctx),
  let issues (c : Ctx) (t : State) : Prop := headerLegal c.h = true ∧ c.words.length = (hdrSlots c.h).length ∧
    ∃ is, decodeSlots (slotWords c.h c.words) = .ok is ∧ (is.any (fun x => isTag x.2) && is.any (fun x => usesStack x.2)) = false ∧
    dupFixed c.k.arch c.h is = none ∧
    let b : Bundle := { h := c.h, len := c.len, slots := is.map (fun x => (x.1, planOf x.2)), words := c.words }
    let ps := c.plans b
    let k := c.issued b ps
    let s2 := ps.foldl (fun s p => p.2.glob s) (s.setCore k)
    c.check ps = none ∧ syncOf c.k.stage ps = none ∧
    t = (match s2.coreAt k.no with
      | some k => if hdrCk c.h then s2.release k (afterIssue (afterOf ps)) else s2
      | none => s2).endTurn
  let called (n : Nat) (fill : BitVec 50) (t : State) : Prop :=
    let va := (c.k.arch.dictBase.toNat + 64 * n) % 2 ^ 64
    c.k.arch.pendBase = none ∧ va ∈ c.k.dcache ∧ ∃ a, c.fl.code va = some a ∧
    let e := dictEntryOf (s.entryWords a)
    e.eflags.getLsbD 31 = true ∧ (e.eflags &&& 0x7FFFFFFF) &&& ~~~c.feats = 0 ∧ entryLegal e = true ∧
    issues { c with h := (expand e fill).1, words := (expand e fill).2 } t
  c.k.stops = [] →
  (∀ h ws t, s.ctx h ws (s.lenHere (12 + 4 * ws.length)) 8 = some c → issues c t → exec (.literalBundle h ws) s = .next t) ∧
  (∀ n f t, s.ctx 0 [] 4 8 = some c → called n.toNat (f.setWidth 50) t → exec (.shortCall n f) s = .next t) ∧
  (∀ n f t, s.ctx 0 [] 8 8 = some c → called n.toNat f t → exec (.longCall n f) s = .next t)

/-- The frame of the one-cycle integer instructions: one register, the sequencer, and nothing else anywhere (R119, R273, R274, R276). -/
def Obligations.RegisterFrame : Prop := ∀ (s t : State) (k : Core) (d a b : BitVec 6) (j : BitVec 12) (m : BitVec 18) (ng : BitVec 1) (pd : BitVec 3)
    (sh ps ln : BitVec 6),
  ∀ i ∈ ([.add d a b, .sub d a b, .and d a b, .or d a b, .xor d a b, .shl d a b, .shr d a b, .sar d a b, .min d a b, .max d a b,
      .minu d a b, .maxu d a b, .clz d a, .popc d a, .sel d a b ng pd, .addi d a j, .andi d a j, .ori d a j, .xori d a j, .shli d a sh,
      .shri d a sh, .sari d a sh, .bfx d a ps ln, .bfi d a ps ln, .movi d m, .movhi d m] : List Instr),
  s.coreAt s.cur = some k → exec i s = .next t →
  { t with cores := s.cores, turn := s.turn } = s ∧ (∀ n, n ≠ s.cur → t.coreAt n = s.coreAt n) ∧
  ∃ k', t.coreAt s.cur = some k' ∧
    { k' with arch := k.arch, stage := k.stage, vc := k.vc, loopBuf := k.loopBuf, synced := k.synced, syncExtents := k.syncExtents
              tokensIn := k.tokensIn, acquired := k.acquired } = k ∧
    { k'.arch with x := k.arch.x, pc := k.arch.pc, loops := k.arch.loops, rot := k.arch.rot, p := k.arch.p
                   solve := { k'.arch.solve with loops := k.arch.solve.loops } } = k.arch ∧
    (∀ n, n ≠ physReg k.arch.rot d.toNat → k'.arch.x.getD n 0 = k.arch.x.getD n 0) ∧ (d = 0 → k'.arch.x = k.arch.x) ∧
    (∀ n, n < 4 → k'.arch.pred n = k.arch.pred n)

/-- The frame of instructions whose results land later: at issue no register, gallery byte or memory changes (R119, R121, R126, R194, R277, R300, R320, R324, R330, R359, R368, R374). -/
def Obligations.FlightFrame : Prop := ∀ (s t : State) (k : Core) (d a b : BitVec 6) (j : BitVec 12) (m : BitVec 3) (u v w : BitVec 5)
    (q : BitVec 2) (f : BitVec 4) (cc : BitVec 6) (b1 b2 b3 : BitVec 1) (ta tb : BitVec 4) (c e h : BitVec 3) (n : BitVec 5) (pd : BitVec 3),
  let kept (k k' : Core) : Prop :=
    { k'.arch with pc := k.arch.pc, loops := k.arch.loops, rot := k.arch.rot, p := k.arch.p, rngStep := k.arch.rngStep
                   solve := { k'.arch.solve with loops := k.arch.solve.loops } } = k.arch ∧
    ∀ n, n < 4 → k'.arch.pred n = k.arch.pred n
  let early (p : Pend) : Pend := { p with due := 0, need := .ready }
  s.coreAt s.cur = some k →
  (∀ i ∈ ([.mul d a b, .mulh d a b, .mulhu d a b, .divu d a b, .remu d a b, .ldB d a j, .ldH d a j, .ldW d a j, .ldD d a j,
      .faddS d a b m, .fmulS d a b m, .ffmaS d a b m, .fminS d a b, .fmaxS d a b, .icvt d a b1 m, .fcvt d a b1 m, .fcmpCc pd a b cc,
      .vadd u v w q m f, .vsub u v w q m f, .vmul u v w q m f,
      .vmin u v w q m f, .vmax u v w q m f, .vabs u v q m f, .vneg u v q m f, .vand u v w q, .vor u v w q, .vxor u v w q, .vsel u v w q,
      .vmov u v q, .trowLd u ta v q ⟨m, f⟩, .tcolLd u ta v q ⟨m, f⟩, .trowSt u ta v q ⟨m, f⟩, .tcolSt u ta v q ⟨m, f⟩, .crd u a q b1, .crdStat a d] :
      List Instr),
    exec i s = .next t →
    { t with cores := s.cores, turn := s.turn } = s ∧ (∀ n, n ≠ s.cur → t.coreAt n = s.coreAt n) ∧
    ∃ k', t.coreAt s.cur = some k' ∧ kept k k' ∧ (∃ ps, k'.pend = k.pend ++ ps) ∧
      { k' with arch := k.arch, pend := k.pend, undo := k.undo, stage := k.stage, vc := k.vc, loopBuf := k.loopBuf
                synced := k.synced, syncExtents := k.syncExtents, tokensIn := k.tokensIn, acquired := k.acquired } = k) ∧
  (∀ i ∈ ([.mzero c n b1, .mload c ta n f b1, .maddt c ta n f b1, .mscl c a n b1, .mxpose c e n, .mswap c e n, .mstat c d n,
      .mdrain c ta n f b1 b2 b3, .mmaTile c ta tb n f b1 b2 b3, .mmas c ta tb n f b1 b2 b3] : List Instr),
    exec i s = .next t →
    { t with cores := s.cores, turn := s.turn } = s ∧ (∀ n, n ≠ s.cur → t.coreAt n = s.coreAt n) ∧
    ∃ k', t.coreAt s.cur = some k' ∧ kept k k' ∧ (∃ ps, k'.pend.map early = k.pend.map early ++ ps) ∧
      { k' with arch := k.arch, pend := k.pend, undo := k.undo, busy := k.busy, stage := k.stage, vc := k.vc, loopBuf := k.loopBuf
                synced := k.synced, syncExtents := k.syncExtents, tokensIn := k.tokensIn, acquired := k.acquired } = k) ∧
  (exec (.nextt d) s = .next t →
    { t with cores := s.cores, turn := s.turn } = s ∧ (∀ n, n ≠ s.cur → t.coreAt n = s.coreAt n) ∧
    ∃ k', t.coreAt s.cur = some k' ∧ kept k k' ∧ (∃ ps, k'.pend = k.pend ++ ps) ∧
      { k' with arch := k.arch, pend := k.pend, tiles := k.tiles, tilesTaken := k.tilesTaken, nextts := k.nextts, tileReq := k.tileReq
                undo := k.undo, stage := k.stage, vc := k.vc, loopBuf := k.loopBuf
                synced := k.synced, syncExtents := k.syncExtents, tokensIn := k.tokensIn, acquired := k.acquired } = k) ∧
  (∀ i ∈ ([.hrd h u b1, .hrds h u b1, .mmaStream c h tb n f b1 b2] : List Instr),
    exec i s = .next t →
    { t with cores := s.cores, turn := s.turn, halls := s.halls } = s ∧ (∀ n, n ≠ s.cur → t.coreAt n = s.coreAt n) ∧
    ∃ k', t.coreAt s.cur = some k' ∧ kept k { k' with arch := { k'.arch with heads := k.arch.heads } } ∧
      (∀ n, n ≠ h.toNat → k'.arch.heads.getD n Head.detached = k.arch.heads.getD n Head.detached) ∧
      (∃ ps, k'.pend.map early = k.pend.map early ++ ps) ∧
      { k' with arch := k.arch, pend := k.pend, undo := k.undo, busy := k.busy, windows := k.windows, floors := k.floors
                stage := k.stage, vc := k.vc, loopBuf := k.loopBuf
                synced := k.synced, syncExtents := k.syncExtents, tokensIn := k.tokensIn, acquired := k.acquired } = k)

/-- The frame of the scratch stores: every scratch byte but the aligned ones stored to reads as before (R119, R277). -/
def Obligations.StoreFrame : Prop := ∀ (s t : State) (k : Core) (d a : BitVec 6) (j : BitVec 12),
  ∀ i ∈ ([(.stB d a j, 1), (.stH d a j, 2), (.stW d a j, 4), (.stD d a j, 8)] : List (Instr × Nat)),
  s.coreAt s.cur = some k → exec i.1 s = .next t →
  { t with cores := s.cores, turn := s.turn } = s ∧ (∀ n, n ≠ s.cur → t.coreAt n = s.coreAt n) ∧
  ∃ k', t.coreAt s.cur = some k' ∧
    { k' with arch := k.arch, scratch := k.scratch, stage := k.stage, vc := k.vc, loopBuf := k.loopBuf
              synced := k.synced, syncExtents := k.syncExtents, tokensIn := k.tokensIn, acquired := k.acquired } = k ∧
    { k'.arch with pc := k.arch.pc, loops := k.arch.loops, rot := k.arch.rot, p := k.arch.p
                   solve := { k'.arch.solve with loops := k.arch.solve.loops } } = k.arch ∧
    ∀ y, (y < scratchAt (k.arch.reg a.toNat + j.signExtend 64) i.2 ∨ scratchAt (k.arch.reg a.toNat + j.signExtend 64) i.2 + i.2 ≤ y) →
      k'.scratch.read y = k.scratch.read y

/-- A landing writes its destination, the flags and counts it carries, and nothing else (R121, R128, R127, R141, R147, R148, R195, R200, R332). -/
def Obligations.LandingFrame : Prop := ∀ (k : Core) (p : Pend),
  let t := k.landed p
  t.pend = k.pend.filter (fun q => q != p) ∧ (p.spent = true → t = { k with pend := k.pend.filter (fun q => q != p) }) ∧
  (p.spent = false →
  (∀ y, (∀ g ∈ p.segs, y < g.1 ∨ g.1 + g.2 ≤ y) → t.gallery.read y = k.gallery.read y) ∧
  (∀ before o n after, p.dest = .bytes (before ++ (o, n) :: after) → (before.map Prod.snd).sum + n ≤ p.data.length →
    ∀ i < n, (∀ g ∈ after, o + i < g.1 ∨ g.1 + g.2 ≤ o + i) →
      t.gallery.read (o + i) = p.data.getD ((before.map Prod.snd).sum + i) 0) ∧
  (∀ n, p.dest = .reg n → n ≠ 0 → t.arch.x = k.arch.x.set n p.val) ∧ (p.dest = .reg 0 → t.arch.x = k.arch.x) ∧
  (∀ n, p.dest = .pred n → 0 < n → n < 8 → t.arch.pred n = p.val.getLsbD 0) ∧
  (∀ n, p.dest = .mask n → 0 < n → n < k.arch.q.length → t.arch.mask n = p.val) ∧
  (∀ n, p.dest ≠ .reg n → t.arch.x.getD n 0 = k.arch.x.getD n 0) ∧ (∀ n, p.dest ≠ .pred n → t.arch.pred n = k.arch.pred n) ∧
  (∀ n, p.dest ≠ .mask n → t.arch.mask n = k.arch.mask n) ∧ (∀ v, p.accView ≠ some v → t.arch.view v = k.arch.view v) ∧
  (∀ v, p.accView = some v → v < k.arch.views.length →
    accStatus (t.arch.view v) = (if p.accClear then 0 else accStatus (k.arch.view v)) ||| p.accFlags ∧
    fld (t.arch.view v) 32 96 = fld (k.arch.view v) 32 96) ∧
  { t.arch with x := k.arch.x, p := k.arch.p, q := k.arch.q, views := k.arch.views, fstat := k.arch.fstat, absorb := k.arch.absorb } = k.arch ∧
  t.arch.fstat = k.arch.fstat ||| p.flags.setWidth 32 ∧
  t.arch.absorb.toNat = min (k.arch.absorb.toNat + p.absorb) (2 ^ 32 - 1) ∧
  { t with pend := k.pend, arch := k.arch, gallery := k.gallery, dirty := k.dirty, poison := k.poison, tags := k.tags
           shadow := k.shadow, undo := k.undo } = k ∧
  (p.preCk = false → t.shadow = k.shadow ∧ t.undo = k.undo))

/-- Landing events, the end of a release with what follows it, of a SOLEND decision and of a remainder transfer (R95, R121, R125, R133,
R201, R204, R293, R294, R338, R349, R350, R392). Two points are the model's choice: a trap held from the SOLEND window comes before the
0x0C due at its end (`held.orElse own`, log 36), and the bundle behind a SOLEND that also ends a loop's body is chosen before the loop
counts (log 52). -/
def Obligations.LandingsAndEnds : Prop := ∀ (s : State) (core : Nat) (k : Core),
  let lands (i : Instr) (cls : LandClass) : Prop := ∀ p, k.stops = [] → k.stage.lands = true → k.nextLanding = some p → p.landClass = cls →
    let t := k.landed p
    (k.arch.raised p = 0 → exec i s = .next (s.setCore t)) ∧
    (k.arch.raised p ≠ 0 → exec i s = .next (s.trap { t with shadow := { t.shadow with fstat := fstatSet t.shadow.fstat (k.arch.raised p) } }
      ⟨0x0F, p.slot, t.arch.fstat.setWidth 64, 0, p.pc, []⟩))
  s.coreAt core = some k →
  lands (.resultLanding core) .result ∧ lands (.headReadLanding core) .head ∧ lands (.matrixResultLanding core) .matrix ∧
  lands (.replayEntryLanding core) .replay ∧
  (let ck := k.checkpoint
   ck.shadow = ck.arch ∧ ck.arch = { k.arch with detached := [] } ∧ ck.undo = [] ∧ ck.nextts = 0 ∧ (∀ p ∈ ck.pend, p.preCk = true)) ∧
  (∀ after, k.stage = .releasing after → k.held = [] →
    let s1 := s.mapRun k.run (fun r => r.streamCheckpoint k)
    let step (u : State) : Prop := exec (.checkpointReleaseEnd core) s = .next (u.passTurn core)
    let ends (st : Stage) : Prop :=
      let u := s1.setCore { k.checkpoint with stage := st }
      (k.arch.cpos = k.shadow.cpos → step u) ∧ (k.arch.cpos ≠ k.shadow.cpos → step (u.slackPassed core))
    match after with
    | .go => ends .run
    | .phase scope => ends (.publishing scope)
    | .event => ends (.waitEvent true)
    | .trap code info0 pc => ends (.trapping ⟨code, 7, info0, 0, pc, []⟩ k.arch.dictBase s.pcyc)
    | .halt v => step (s1.setCore { k.checkpoint with stage := .halting v })
    | .decide d => step (s.setCore { k with stage := .deciding (decisionLength k.arch.solve.depth - 1) d none })
    | .sync line => (k.readsHeld = false → step (s.setCore { k with stage := .releasing (.sync line) })) ∧
      (k.readsHeld = true → ∀ l, s.lineAt line = some l → ∃ t, exec (.checkpointReleaseEnd core) s = .next t ∧
        t.coreAt core = some { k with stage := .waitLine line } ∧
        t.lineAt line = some { l with
          raised := insertNat core l.raised
          carried := l.carried.filter (fun c => c.from_ != core) ++ [k.carries (levelScope l.level)] })) ∧
  ((s.runAt k.run).bind Run.cut = none → s.slackPassed core = s) ∧
  (∀ cut, (s.runAt k.run).bind Run.cut = some cut →
    (k.handlerOf.isSome = true → s.slackPassed core = s) ∧
    (k.handlerOf = none → cut.step = 2 ∨ k.arch.cpos = cut.m → s.slackPassed core = s.setCore { k with asks := k.asks ++ [.cut] }) ∧
    (k.handlerOf = none → cut.step ≠ 2 → cut.m.toNat < k.arch.cpos.toNat → s.slackPassed core = s.faultRun k.run 0x35) ∧
    (k.handlerOf = none → cut.step ≠ 2 → k.arch.cpos.toNat < cut.m.toNat → s.slackPassed core = s)) ∧
  (∀ left x held, k.stage = .deciding left x held → left ≤ 1 → k.arch.cpos = k.shadow.cpos →
    let v := k.arch.solve
    let d := decideStep v k.history (x.g.map BitVec.toNat) x.thr.toNat x.beta.toNat
    let bodies : Bodies := fun e => match (s.runAt k.run).bind s.flightOf with
      | none => ([], 0)
      | some f => s.bundles f k.loopBuf (e.lenM1.toNat + 1) e.start.toNat
    let behind := (BitVec.ofNat 64 (k.arch.pc.toNat + x.len)).toNat / 4 * 4
    let start := v.start.toNat / 4 * 4
    let goes (k' : Core) (target : Nat) : Prop := k'.arch.pc = BitVec.ofNat 64 target ∧
      k'.arch.loops = k.arch.loops.dropWhile (fun e => !(bodies e).1.contains target)
    let leaves (k' : Core) (own : Option TrapInfo) : Prop := k'.stage = match held.orElse (fun _ => own) with
      | some u => .trapping u k.arch.dictBase (s.pcyc + 1)
      | none => .run
    ∃ t k', exec (.solendDecisionEnd core) s = .next t ∧ t.coreAt core = some k' ∧ k'.vc = k.vc + 1 ∧ k'.undo = [] ∧
      k'.shadow = k'.arch ∧ k'.arch.solve.iter = v.iter + 1 ∧ k'.arch.solve.norm = BitVec.ofNat 32 d.2.1 ∧
      (d.2.2 = .converged → k'.arch.solve.active = false ∧ leaves k' none ∧ goes k' behind ∧ k'.gallery = k.gallery ∧
        (v.traps = false → k'.arch.pred 7 = false)) ∧
      (d.2.2 = .exhausted → k'.arch.solve.active = false ∧ goes k' behind ∧ k'.gallery = k.gallery ∧
        (v.traps = false → leaves k' none ∧ ((∀ e ∈ k.arch.loops, e.kind = .plain) → k'.arch.pred 7 = true)) ∧
        (v.traps = true → ∃ u, u.code = 0x0C ∧ leaves k' (some u))) ∧
      (∀ y, d.2.2 = .mixed y → k'.arch.solve.active = v.active ∧ leaves k' none ∧ goes k' start ∧
        k'.gallery = (k.land x.segs (accBytes y)).gallery)) ∧
  (k.stage = .frozen .remainder → ∃ t, exec (.remainderTransferEnd core) s = .next t ∧ { t with cores := s.cores } = s ∧
    t.coreAt core = some { k with stage := .transferred })

/-- Cache fills, extent walks, record and cell arrivals, and stream resumption bring what a core waits for (R2, R120, R158, R159, R164, R170, R176, R205, R269, R286, R366, R368). -/
def Obligations.FillsAndArrivals : Prop := ∀ (s : State) (core : Nat) (k : Core) (r : Run) (fn : Fn) (f : Flight),
  s.coreJob core = some (k, r, fn, f) →
  (∀ l, k.stage = .frozen (.icache l) → ∃ t, exec (.instructionCacheFill core) s = .next t ∧ { t with cores := s.cores } = s ∧
    t.coreAt core = some { k with icache := insertNat l k.icache, stage := .run }) ∧
  (∀ va a, f.code va = some a → a < hbmSize →
    let t := s.setCore { k with dcache := cacheWith k.dcache va, stage := .run }
    (k.stage = .frozen (.dict va) → exec (.dictionaryCacheFill core) s = .next t) ∧
    (k.stage = .frozen (.targets va) → exec (.targetTableLineFill core) s = .next t)) ∧
  (∀ w rest d, (s.hallAt (hallOf core)).walks = w :: rest → w.run = r.id → s.dir f w.tape = some d →
    let i := w.index
    let t := w.tape
    let e := s.extEntry f d i
    let hall (u : State) : Hall := u.hallAt (hallOf core)
    (holeEntry d e = true → exec (.extentWalkComplete (hallOf core)) s = .fault (.hbmHole ((fld e 10 18).toNat * 2097152))) ∧
    (holeEntry d e = false → (s.extPlace fn d e).isSome = true → ∃ u, exec (.extentWalkComplete (hallOf core)) s = .next u ∧
      (hall u).walks = rest ∧ (r.id, t, i) ∈ (hall u).extents ∧ { u with halls := s.halls } = s) ∧
    (holeEntry d e = false → (s.extPlace fn d e).isSome = false → ∃ u, exec (.extentWalkComplete (hallOf core)) s = .next u ∧
      (hall u).walks = rest ∧ (hall u).extents = (hall s).extents ∧ { u with halls := s.halls } = s)) ∧
  (∀ n t rec_ len sel d data bad v p bound cap fl ph, k.pend.findSome? (fun p => p.wants n rec_) = some (t, bound, cap, fl, ph) → s.dir f t = some d →
    r.recordInFlight k t rec_ (some bound) = false → s.extCached core r.id t (d.extentOf rec_) = true →
    s.readRecord r fn f d t rec_ { reached := ph.getD k.phase, own := core, floor := fl, bound := some bound, cap := cap } sel =
      some (data, bad, v) → p ∈ k.pend → p.need = .record n t rec_ len bound cap fl ph →
    ∃ u k', exec (.headRecordArrival core n rec_ sel) s = .next u ∧ u.coreAt core = some k' ∧
      { p with data := data.take len, poison := granuleRanges bad, need := .ready } ∈ k'.pend) ∧
  (∀ t, k.stage = .frozen (.streamFull t) → s.streamReady r f (.streamFull t) = true →
    exec (.streamProducerResume core) s = .next (s.setCore { k with stage := .run })) ∧
  (∀ t, k.stage = .frozen (.streamEmpty t) → s.streamReady r f (.streamEmpty t) = true →
    exec (.streamConsumerResume core) s = .next (s.setCore { k with stage := .run })) ∧
  (∀ w rest, s.runs.find? (fun r => r.flying.any (fun x => x.isTape w.wid)) = some r → r.flying = .tape w :: rest →
    s.spilledOn r.id w.tape w.record = false → exec (.tapeWriteAtHome w.wid) s = .next ((s.perform r.id w).mapRun r.id (fun r =>
      { r with flying := r.flying.filter (fun x => !x.isTape w.wid) }))) ∧
  (∀ wid ops rest, s.runs.find? (fun r => r.flying.any (fun x => x.isCell wid)) = some r → r.flying = .cell wid core ops :: rest →
    (∀ x ∈ s.cores, x.no = core → x.pend = []) → exec (.cellOpAtVault wid) s = .next (match applyOps wid core ops r.arrays with
      | some as => s.mapRun r.id (fun r => { r with arrays := as, flying := r.flying.filter (fun x => !x.isCell wid) })
      | none => s.faultRun r.id 0x08)) ∧
  (∀ p pick array, k.pend.find? (fun p => p.need.cause == .cell) = some p → p.need = .status array →
    exec (.cellReadValueArrival core pick) s = .next (s.setCore { k with pend := k.pend.map (fun x => if x == p then
      { p with val := ((r.arrays.find? (fun x => x.id == array)).map CellArray.desc).getD 0, need := .ready } else x) })) ∧
  (∀ p pick array bound frac bf ls, k.pend.find? (fun p => p.need.cause == .cell) = some p → p.need = .cells array bound frac bf ls →
    r.flying = [] → ∃ u k', exec (.cellReadValueArrival core pick) s = .next u ∧ u.coreAt core = some k' ∧
      { p with data := (ls.map (k.cellLane r.arrays array bound frac bf pick)).flatMap (leBytes 4), need := .ready } ∈ k'.pend)

/-- Phases, handrails, events and next tiles: publication ends, lines rise and restart, WFE wakes, a tile is handed out (R82, R87, R88,
R89, R133, R134, R204, R207, R396). Which of several waiting requests of a die comes first is the model's choice (log 70).
The shadow's bit after a woken WFE of a checkpoint bundle is the model's choice (log 95, DESIGN CHOICE); so is what an event from another
package carries (log 53, DESIGN CHOICE). What a boundary and a commit carry rests on readings of the model (log 39, DEDUCED). -/
def Obligations.Handoffs : Prop := ∀ (s : State) (core n : Nat) (k : Core) (l : Line),
  s.coreAt core = some k →
  (∀ r fn f scope, s.coreJob core = some (k, r, fn, f) → k.stage = .publishing scope → r.reachedFlying k = false →
    k.cellAdds = [] ∨ k.readsHeld = true →
    ∃ t k', exec (.phasePublicationEnd core) s = .next t ∧ t.coreAt core = some k' ∧ k'.cellAdds = [] ∧
      (k'.stage = .run ∨ ∃ want, k'.stage = .refilling want) ∧ (k.windowRecords = [] → k'.stage = .run) ∧
      (∀ w, w ∈ k'.phase ↔ w ∈ (k.boundary scope).reached ∧ (w ∉ r.foreign core ∨ w ∈ k.reached)) ∧ (⟨scope, k'.phase⟩ : Published) ∈ k'.published) ∧
  (s.lineAt n = some l → l.all = true → l.trueTick = none → l.level ≠ 4 →
    exec (.handrailLineTrue n) s = .next (s.mapLine n (fun l => { l with trueTick := some s.pcyc }))) ∧
  (let restarts (i : Instr) : Prop := ∃ t, exec i s = .next t ∧
      t.lineAt n = some { l with raised := [], carried := [], trueTick := none, remote := false } ∧
      (k.stage = .waitLine n → ∃ k', t.coreAt core = some k' ∧ k'.stage = .syncIssue) ∧
      (k.stage ≠ .waitLine n → t.coreAt core = some k)
   s.lineAt n = some l →
   (∀ u, l.level ≠ 4 → l.trueTick = some u → u + 12 ≤ s.pcyc → restarts (.handrailRestart n)) ∧
   (∀ u, l.level = 4 → l.trueTick = some u → restarts (.level4LineCompletion n)) ∧
   (l.level = 4 → l.trueTick = none → exec (.level4LineCompletion n) s = .next (s.mapLine n (fun l => { l with remote := true })))) ∧
  (∀ e, s.events.find? (fun e => e.1 == core) = some e → ∃ t k', exec (.eventArrival core) s = .next t ∧ t.coreAt core = some k' ∧
    t.events = s.events.erase e ∧
    (∀ ck, k.stage = .waitEvent ck → k'.stage = .run ∧ k'.arch.event = false ∧ k'.shadow.event = !ck) ∧
    (k.stage = .releasing .event → k'.stage = .releasing .go ∧ k'.arch.event = false) ∧
    ((∀ ck, k.stage ≠ .waitEvent ck) → k.stage ≠ .releasing .event → k'.stage = k.stage ∧ k'.arch.event = true ∧ k'.shadow.event = true)) ∧
  (s.events.find? (fun e => e.1 == core) = none → s.farMember k = true →
    ∃ t, exec (.eventArrival core) s = .next t ∧ t.coreAt core = some (k.eventIn s.pcyc farEvent) ∧ { t with cores := s.cores } = s) ∧
  (∀ die pick r f nd ns, s.cores.find? (fun k => dieOf (hallOf k.no) == die && k.asksTile) = some k → s.runAt k.run = some r →
    s.flightOf r = some f → f.nodes[k.node]? = some nd → r.nodes[k.node]? = some ns → ns.handed.length < nd.tileCount →
    let i := nthMissing ns.handed (pick % (nd.tileCount - ns.handed.length))
    ∃ t, exec (.nexttRequestAccept die pick) s = .next t ∧
      t.coreAt core = some { k with tileReq := answerFirst s.pcyc (nd.tile i) k.tileReq }) ∧
  (∀ run node settled r r', s.runAt run = some r → (s.closeNode run node settled).runAt run = some r' →
    (∀ w, w ∈ r'.committedWrites ↔ w ∈ r.committedWrites ∨ (w, node) ∈ r.widNodes ∨ ∃ ws, (node, ws) ∈ r.gained ∧ w ∈ ws) ∧
    ∀ q ∈ (s.closeNode run node settled).cores, q.run = run → ∀ w, (w, node) ∈ r.widNodes ∨ (∃ ws, (node, ws) ∈ r.gained ∧ w ∈ ws) →
      w ∈ q.reached) ∧
  (∀ (l : List Nat) n j, l.Pairwise (· < ·) → (∀ i ∈ l, i < n) → j < n - l.length → nthMissing l j < n ∧ nthMissing l j ∉ l) ∧
  (∀ q v tick rest, k.tileReq = ⟨q, some (tick, v)⟩ :: rest → tick ≤ s.pcyc → ∃ k',
    exec (.nexttReplyArrive core) s = .next (s.setCore k') ∧ k'.tileReq = rest ∧ k'.tileCount = k.tileCount + 1 ∧
    k'.nullSeen = (k.nullSeen || v == nullTile) ∧ (v ≠ nullTile → k.tileBase ≤ k.tileCount → (k.tileCount, v) ∈ k'.tiles) ∧
    ∀ p ∈ k.pend, p.need = .tile k.tileCount → { p with val := v, need := .ready } ∈ k'.pend)

/-- Nodes and tasks: placement, evaluation, commits with their successors' counters, the next task and the end of one (R62, R76, R77, R79, R80, R82, R83, R84, R85, R90, R91, R294). -/
def Obligations.NodesAndTasks : Prop := ∀ (s : State) (run node : Nat) (r : Run) (fn : Fn) (f : Flight) (n : Node),
  let goes (i : Instr) (kind : NodeKind) (t : State) : Prop := s.mayDispatch run node = some (r, fn, f, n) → n.kind = kind →
    (∀ c, s.nodeFault fn f n = some c → exec i s = .next (s.faultRun run c)) ∧ (s.nodeFault fn f n = none → exec i s = .next t)
  let commits (s : State) (js : List Nat) : State := ((s.beginNode run node []).commitNode run node js true).settle run
  (∀ pick cores, f.choose fn n (s.freeCores fn) = some cores → goes (.kernelNodePlace run node pick) .kernel (s.placeNode r fn f n node cores pick)) ∧
  (s.listBad fn f n = false → goes (.transformNodeDispatch run node) .transform
    (((s.beginNode run node []).withLanding run node (n.engine == 1)).issueBlocks run node fn f (n.engine == 1) (s.listBlocks r fn f n))) ∧
  goes (.conditionalNodeEval run node) .conditional
    (commits s (if r.conds.getD n.condNo 0 &&& n.condMask ≠ 0 then [0, 1, 2, 3] else [4, 5, 6, 7])) ∧
  (let its := ((r.nodes[node]?).map NodeState.iterations).getD 0 + 1
   goes (.whileNodeEval run node) .while_ (if r.conds.getD n.condNo 0 &&& n.condMask = 0 then commits s [4, 5, 6, 7]
     else if n.maxIter < its then s.faultRun r.id 0x30
     else ((s.mapRun r.id (fun r => (r.mapNode node (fun ns => { ns with iterations := its })).resetRange f n s.pcyc)).commitNode r.id node
       [0, 1, 2, 3] false).settle r.id)) ∧
  (let v := if n.fromCond then r.conds.getD n.condNo 0 else n.value
   let t := ((s.beginNode run node []).post r.fn (s.runRec r 1 0 (BitVec.ofNat 16 node) v)).commitNode run node (List.range 8) true
   goes (.notifyNodeDispatch run node) .notify (t.settle run)) ∧
  (∀ ns, s.runAt run = some r → s.flightOf r = some f → f.nodes[node]? = some n → r.nodes[node]? = some ns → ns.stage = .running →
    r.stage = .active → r.cut = none → s.nodeDone r n ns node = true →
    exec (.nodeCommit run node) s = .next ((s.commitNode run node (List.range 8) true).settle run)) ∧
  (∀ ns tick, f.nodes[node]? = some n → r.nodes[node]? = some ns →
    (ns.counter = 0 → r.decrement f tick node = none) ∧
    (ns.counter ≠ 0 → ∃ r', r.decrement f tick node = some r' ∧
      r'.nodes[node]? = some { ns with counter := ns.counter - 1, stage := n.stageAt (ns.counter - 1), readyTick := tick, triggered := false, aged := 0 } ∧
      ∀ j, j ≠ node → r'.nodes[j]? = r.nodes[j]?)) ∧
  (∀ core k pick, s.coreAt core = some k → k.stage = .idle → s.awake = true → s.handsTiles k.run = true →
    (s.tilesLeft k.run k.node = false → exec (.nextTaskStart core pick) s =
      .next ((s.mapRun k.run (fun r => r.learn k.knows)).dropCore core)) ∧
    (s.tilesLeft k.run k.node = true → s.nodeFeatures k.run k.node = false → exec (.nextTaskStart core pick) s = .next s) ∧
    (s.tilesLeft k.run k.node = true → s.nodeFeatures k.run k.node = true → exec (.nextTaskStart core pick) s = .next
      (({ s with lines := s.lines.map (fun l => if l.run == k.run && l.node == k.node then { l with ended := l.ended.filter (fun c => c != core) } else l) } : State).nextTask
        k.run k.node core pick k.dom k.collSeq))) ∧
  (∀ core k s1, s.coreAt core = some k → k.stage = .halting s1 → k.pend = [] → k.stops = [] →
    exec (.taskEnd core) s = .next ((s.endTask k s1).passTurn core)) ∧
  (s.runAt run = some r → s.agesNow r node = true → exec (.ageingTimer run node) s =
    .next (s.mapRun run (fun r => r.mapNode node (fun ns => { ns with aged := ns.aged + 1 }))))

/-- The steps of a cut, its timeout and retry, resumption, pre-emption and the basin (R87, R92, R93, R97, R98, R99, R100, R107, R108, R229).
The victim and the trigger are log 41, when a cut command ends is log 26, and the reason of a cut carried from another package is the model's choice (log 94). -/
def Obligations.CutsAndTimers : Prop := ∀ (s : State) (run : Nat) (r : Run) (f : Flight),
  s.runAt run = some r → s.flightOf r = some f →
  (∀ fn no flight g, s.answering fn = some g →
    (∀ x, s.jcRun fn no flight = some x → exec (.jcCut fn no flight) s = .next ((s.jcEnd fn (jcWord 1 no (fld g.jcCmd 10 8) flight) 0).startCut x.id .command 0)) ∧
    (s.jcRun fn no flight = none → exec (.jcCut fn no flight) s = .next (s.jcEnd fn (jcWord 1 no (fld g.jcCmd 10 8) flight) 0x40))) ∧
  (∀ c, r.cut = some c → c.step = 2 → s.allStopped run = true → f.nPkg ≤ 1 →
    let m := (s.cores.map (fun k => if k.takesPart run then k.arch.cpos.toNat else 0)).foldl max 0
    ∃ t, exec (.cutMFormed run) s = .next t ∧ (t.runAt run).bind Run.cut = some { c with step := 4, m := BitVec.ofNat 64 m } ∧
      ∀ n k, s.coreAt n = some k → t.coreAt n = some (if k.takesPart run && decide (k.arch.cpos.toNat < m) then k.leaveCut else k)) ∧
  (∀ c, r.cut = some c → c.step = 4 → s.allStopped run = true → f.nPkg ≤ 1 →
    exec (.cutSFormed run) s = .next (s.mapRun run (fun r => { r with cut := some { c with
      step := 5, s := (s.contexts.map (fun x => if x.run == run then x.step.toNat else 0)).foldl max 0 } }))) ∧
  (∀ c g, r.cut = some c → c.step = 5 → s.allStopped run = true → (∀ k ∈ s.cores, k.run = run → k.handlerOf = none) →
    (∀ x ∈ s.contexts, x.run = run → s.owes x c.s = false) → s.fnAt r.fn = some g → g.roomFor = true → s.stampsPast r = true →
    ∃ t r', exec (.cutImagesWritten run) s = .next t ∧ t.runAt run = some r' ∧ r'.stage = .cutOut ∧ r'.cut = none ∧ r'.cutTick = s.pcyc ∧
      (∀ k ∈ t.cores, k.run ≠ run) ∧ ∃ w, (t.fnAt r.fn).map (fun g => g.buffer) = some (g.buffer ++ [w]) ∧ w.kind = 6 ∧ w.node = 0xFFFF) ∧
  (∀ c, r.cut = some c → c.left = 0 → s.cutComplete r c = true → exec (.cutTimeout run) s = .next s) ∧
  (∀ c, r.cut = some c → c.left = 0 → s.cutComplete r c = false →
    (c.reason = .preempt → c.abandoned = 0 → ∃ t, exec (.cutTimeout run) s = .next t ∧
      t.runAt run = some { r with cut := none, retryAt := some (s.pcyc + Config.cutRetry, 1) }) ∧
    (c.reason ≠ .preempt ∨ c.abandoned ≠ 0 → exec (.cutTimeout run) s = .next (s.faultRun run 0x36))) ∧
  (∀ t n, r.retryAt = some (t, n) → t ≤ s.pcyc →
    (s.preempting run = true → exec (.cutRetryTimer run) s = .next s) ∧
    (s.preempting run = false →
      exec (.cutRetryTimer run) s = .next ((s.mapRun run (fun r => { r with retryAt := none })).startCut run .preempt n))) ∧
  (∀ g css, s.fnAt r.fn = some g → s.canResume r = true → s.leads r.fn (s.cutKey r) = true → s.resumeFault g f r = false →
    f.chooseAll g (r.cutRecords f) (s.freeCores g) = some css → exec (.cutRunResume run) s =
      let m := r.moves (r.cutNodes.zip css)
      .next (((s.mapRun run (fun r => { r with stage := .active, retryAt := none })).moveRun r (r.cutNodes.zip css)).resumeNodes r g f m (r.cutNodes.zip css))) ∧
  (∀ node v, s.triggers r node = true →
    let t := s.mapRun run (fun r => r.mapNode node (fun ns => { ns with triggered := true }))
    (t.victim r = some v → exec (.preemptTimer run node) s = .next (t.startCut v.id .preempt 0)) ∧
    (t.victim r = none → exec (.preemptTimer run node) s = .next t)) ∧
  (∀ g, s.fnAt r.fn = some g → s.basinDue r = true →
    (s.fullWindows r f = [] → exec (.basinTimer run) s = .next (s.faultRun run 0x33)) ∧
    (∀ w rest, s.fullWindows r f = w :: rest → exec (.basinTimer run) s = .next (s.enlarge r g (rest.foldl r.smaller w)))) ∧
  (f.sysJob ≠ 0 → exec (.remoteCutRequest run) s = .next (s.beginCut run .command 0))

/-- Settling traps and faults: held traps, trap records, handlers, poison repair, shootdowns, soft errors, other packages (R62, R86, R87,
R109, R111, R112, R115, R116, R149, R172, R180). The clause by which the exchange of a level-4 domain's shares waits while a feature that the node requires is
masked is the model's choice (log 41): R86 forbids the start of a task on a core without the feature, and R87 has the shares exchanged when the node is placed.
That an uncorrectable error in storage poisons its granule, and faults no job before a read, is R171 with log 62; the cleared low bits of hnd_code and hnd_dict are log 51; the
fields of jc_cmd that a command does not use are log 77. -/
def Obligations.TrapsSettled : Prop := ∀ (s : State) (fn : Nat) (no : BitVec 5) (flight : BitVec 10) (g : Fn),
  let w (op : Nat) : W32 := jcWord op no (fld g.jcCmd 10 8) flight
  (∀ x, s.answering fn = some g → s.jcTarget fn no = some x →
    (s.settles fn x = false → exec (.jcResumeHeld fn no flight) s = .next (s.jcEnd fn (w 2) 0x43) ∧
      exec (.jcFaultHeld fn no flight) s = .next (s.jcEnd fn (w 3) 0x43)) ∧
    (∀ r, s.settles fn x = true → s.activeRun x.no flight.toNat = some r →
      let oldest := ({ r with heldTraps := s.heldSaid r } : Run).oldestHeld
      (oldest = none → exec (.jcResumeHeld fn no flight) s = .next (s.jcEnd fn (w 2) 0x41) ∧
        exec (.jcFaultHeld fn no flight) s = .next (s.jcEnd fn (w 3) 0x41)) ∧
      (∀ h, oldest = some h → exec (.jcFaultHeld fn no flight) s = .next ((s.jcEnd fn (w 3) 0).faultRun r.id h.code) ∧
        exec (.jcResumeHeld fn no flight) s = .next (((s.jcEnd fn (w 2) 0).mapRun r.id (fun r => { r with heldTraps := r.heldTraps.erase h })).mapCore
          h.core (fun k => { k with stage := .run }))))) ∧
  (∀ x index, s.answering fn = some g → s.jcTarget fn no = some x →
    (∀ t, x.traps[index.toNat]? = some t → exec (.jcReadTrap fn no index) s = .next (s.mapFn fn (fun f =>
      { f with jcCmd := jcWord 4 no index (fld g.jcCmd 0 10), jcStat := 0, trapBuf := t.bytes }))) ∧
    (x.traps[index.toNat]? = none → exec (.jcReadTrap fn no index) s = .next (s.jcEnd fn (jcWord 4 no index (fld g.jcCmd 0 10)) 0x44))) ∧
  (∀ c k r x f t ls free rest, s.coreJob c = some (k, r, x, f) → k.stage = .trapped t ls → s.freeCores x = free :: rest →
    x.handlers.head? = some c → s.enginesRun = true → ∃ u k', exec (.handlerTaskStart c) s = .next u ∧ u.coreAt free = some k' ∧
      k'.handlerOf = some c ∧ k'.run = r.id ∧ k'.arch.pc = pcAligned x.hndCode ∧ k'.arch.dictBase = baseAligned x.hndDict ∧
      k'.arch.reg 1 = BitVec.ofNat 64 (leVal (t.bytes.take 8)) ∧ u.coreAt c = some k) ∧
  (∀ c k r x f t ls, s.coreJob c = some (k, r, x, f) → k.stage = .trapped t ls → t.code = 0x07 → ∃ u k',
    exec (.poisonRepairComplete c) s = .next u ∧ u.coreAt c = some k' ∧ k'.stage = .run ∧ k'.arch = k.arch) ∧
  (∀ page x f, s.fnAt fn = some x → x.flightAt flight.toNat = some f → ∃ u, exec (.translationShootdown fn flight.toNat page) s = .next u ∧
    (((u.fnAt fn).bind (fun x => x.flightAt flight.toNat)).map Flight.pages = some (f.pages.filter (fun p => p.vpn != page.vpn) ++ [page])) ∧
    ∀ c k r, s.coreAt c = some k → s.runAt k.run = some r → r.fn = fn → r.flight = flight.toNat → ∃ k', u.coreAt c = some k' ∧
      (∀ l ∈ k'.icache, (l * Config.icacheLine) / 65536 ≠ page.vpn) ∧ (∀ a ∈ k'.dcache, a / 65536 ≠ page.vpn)) ∧
  (∀ run r, s.runAt run = some r → ∃ t, exec (.softErrorDetected (.elsewhere run)) s = .next t ∧ t = s.faultRun run 0x38 ∧ t.runAt run = none) ∧
  (∀ far a, a < (if far then hbmSize else 4294967296) →
    exec (.softErrorDetected (.storage far a)) s = .next { s with poison := insertNat (granule (far, a)) s.poison }) ∧
  (∀ run r f, s.runAt run = some r → s.flightOf r = some f → f.sysJob ≠ 0 →
    ∃ t, exec (.remoteJobFault run) s = .next t ∧ t = s.faultRun run 0x3A ∧ t.runAt run = none) ∧
  (∀ run node dom before after r x f n ns, s.runAt run = some r → s.fnAt r.fn = some x → s.flightOf r = some f → f.nodes[node]? = some n →
    r.nodes[node]? = some ns → f.sysJob ≠ 0 → 1 < f.nPkg → n.domUse.getLsbD dom = true →
    (f.dom.getD dom ⟨0, 0⟩).level = 4 →
    let i : Instr := .domainShareExchange run node dom before after
    (ns.placing = none → exec i s = .next s) ∧
    (∀ pick, ns.placing = some pick →
      (s.awake = false ∨ r.cut ≠ none ∨ s.hasFeatures x n.featReq = false → exec i s = .next { s with agenda := s.agenda ++ [(s.pcyc + 1, i)] }) ∧
      (s.awake = true → r.cut = none → s.hasFeatures x n.featReq = true → exec i s = .next (if (f.dom.getD dom ⟨0, 0⟩).members ≠ before + n.width x + after
        then s.faultRun run 0x34 else s.takeShare run f n node dom before after ns.cores pick))))

/-- The engines: an engine starts its next context's oldest command, collectives meet, a command completes (R210, R216, R217, R218, R222, R224,
R226, R228). That an engine serves a collective in its turn by reading its source, whether or not its match is complete, is the model's choice (log 19). -/
def Obligations.Engines : Prop := ∀ (s : State) (x : Context) (r : Run) (fn : Fn) (f : Flight) (c : Command) (rest : List Command),
  s.runAt x.run = some r → s.fnAt r.fn = some fn → s.flightOf r = some f → x.queue = c :: rest →
  (∀ hall coll sel, (coll = true ∨ s.copyBusy hall = false) → s.nextContextOf hall coll = some x →
    let h := s.hallAt hall
    let t := s.setHall (if coll then { h with collNext := x.place + 1 } else { h with copyNext := x.place + 1 })
    (blkOp c.block < 16 → ∀ e, t.copyRead r fn f c sel = .error e → exec (.engineCommandStart hall coll sel) s = .next (t.faultRun r.id e)) ∧
    (blkOp c.block < 16 → ∀ u c', t.copyRead r fn f c sel = .ok (u, c') → exec (.engineCommandStart hall coll sel) s =
      .next (u.mapContext x.id (fun x => { x with queue := c' :: x.queue.drop 1 }))) ∧
    (16 ≤ blkOp c.block → exec (.engineCommandStart hall coll sel) s = .next (t.collStart r fn f x c sel))) ∧
  (∀ run dom remote l ms, run = r.id → s.runAt run = some r →
    (s.lines.filter (fun l => l.run == run && l.dom == dom)).findSome? (fun l => (s.lineMatch l).map (fun ms => (l, ms))) = some (l, ms) →
    exec (.collectiveMatch run dom remote) s = .next (s.matchColl r fn f ms (if l.level = 4 ∧ 1 < f.nPkg then remote else []))) ∧
  (s.contextAt x.id = some x → c.ready = true →
    let c0 := s.freshOut r c
    let w := ({ s with gens := s.gens + 1 } : State).engineWrite r fn f x c0
    let carried := unionNat w.2 c.reached
    exec (.engineCommandComplete x.id) s = .next (s.completeCommand r fn f x c) ∧
    (x.ended = false → (∀ k, x.core = some k → ∃ t x', exec (.engineCommandComplete x.id) s = .next t ∧ t.contextAt x.id = some x' ∧
      x'.queue = rest ∧ x'.counter = BitVec.ofNat 64 c.num ∧ x'.step = BitVec.ofNat 16 (blkStep c.block) ∧
      x'.done = x.done ++ [(c.num, carried)] ∧
      ∀ q reg, w.1.coreAt k = some q → q.run = x.run → q.tokens = [(reg, x.tl, some c.num)] → ∃ q', t.coreAt k = some q' ∧ q'.tokens = [] ∧
        q'.arch = q.arch.setPlace reg c0.token_ ∧ q'.shadow = q.shadow.setPlace reg c0.token_)) ∧
    (c.sources = [] → c0 = c))

/-- The host's registers, the completion ring and its interrupts (R26, R45, R48, R50, R55, R60, R61, R67). A mask's bit 31 is log 30, the
moderation count of a vector log 55 and the widths of a write log 57. That a function-level reset leaves all but last_seq, cq_head and
cq_tail as it stands is the model's choice (log 82): R55 and R60 name the three effects only. -/
def Obligations.HostRegisters : Prop := ∀ (s : State) (fn : Nat) (f : Fn) (v : W32),
  s.answering fn = some f →
  (exec (.cqHeadWrite fn v) s = .next (if (f.cqTail - v).toNat ≤ f.ringSize then s.mapFn fn (fun f => { f with cqHead := v }) else s)) ∧
  (∃ w, exec (.cqCtlWrite fn v) s = .next (s.mapFn fn (fun f => { f with cqCtl := cqCtlNext f.cqCtl v })) ∧ w = cqCtlNext f.cqCtl v ∧
    w.getLsbD 31 = v.getLsbD 31 ∧ w.getLsbD 30 = (f.cqCtl.getLsbD 30 && !v.getLsbD 30) ∧ fld w 0 16 = fld v 0 16 ∧ fld w 16 4 = 0 ∧
    fld w 20 4 = (if f.cqCtl.getLsbD 31 then fld f.cqCtl 20 4 else fld v 20 4) ∧ fld w 24 6 = 0) ∧
  (exec (.secStatWrite fn v) s = .next (if f.isPf then { s with rot := { s.rot with
    measFail := s.rot.measFail && !v.getLsbD 18, sessEnd := s.rot.sessEnd && !v.getLsbD 17 } } else s)) ∧
  (exec (.sysSelfWrite fn v) s = .next (if fn = 0 then { s with sysSelf := v &&& 0x80000FFF } else s)) ∧
  (∀ vd, exec (.featMaskWrite fn vd v) s = .next (if fn = 0 then { s with featMask := s.featMask.set vd (v &&& 0xFFFFFFFE) } else s)) ∧
  (∀ d, (fn ≠ 0 → exec (.routeWrite fn d v) s = .next s) ∧ (fn = 0 →
    ∃ t, exec (.routeWrite fn d v) s = .next t ∧ t.route d = v &&& 0x000FFFFF ∧ (∀ e, e ≠ d → t.route e = s.route e) ∧ { t with routes := s.routes } = s)) ∧
  (∀ off x, ¬(0x60000 ≤ off ∧ off < 0x70000) → off ≠ 0x80000 →
    exec (.registerWrite fn off x) s = .next (s.mapFn fn (fun f => s.writeOwn f off x)) ∧
    (s.writeOwn f 0x100010 x).hndCode = fld x 0 64 ∧ (s.writeOwn f 0x100018 x).hndDict = fld x 0 64 ∧
    (s.writeOwn f 0x100020 x).trapPol = fld x 0 64 &&& 0xFFFFFFFFFC ∧ (f.flCmd.getLsbD 31 = false → (s.writeOwn f 0x20008 x).flSrc = fld x 0 64) ∧
    (f.cqCtl.getLsbD 31 = false → (s.writeOwn f 0x10008 x).cqBase = fld x 0 64 &&& 0xFFFFFFFFFFFFF000)) ∧
  (∀ r rest, f.ringOpen = true → f.buffer = r :: rest → (∀ x ∈ s.runs, x.fn = fn → x.stage ≠ .ended) →
    ∃ t g, exec (.completionRecordWrite fn) s = .next t ∧ t.fnAt fn = some g ∧ g.cqTail = f.cqTail + 1 ∧
      g.host = f.host.write (f.slotAddr f.cqTail.toNat) (r.bytes f.cqTail.toNat f.ringSize) ∧ g.buffer = rest ++ f.waiting.take 1 ∧
      g.waiting = f.waiting.drop 1 ∧
      (f.waiting ≠ [] → rest.length + 1 = Config.recordBuffer → g.cqCtl.getLsbD 30 = true) ∧ (f.modCount = 1 → g.msiOut = f.msiOut ++ [f.vector r.kind])) ∧
  (∀ n, f.moderated s.pcyc = some n → ∃ t g, exec (.msiModerationTimer fn) s = .next t ∧ t.fnAt fn = some g ∧ g.msiOut = f.msiOut ++ [n] ∧
    (∀ u ∈ g.unsignalled, u.1 ≠ n) ∧ { t with fns := s.fns } = s) ∧
  (exec (.functionLevelReset fn) s = .next (s.mapFn fn (fun f => { f with lastSeq := [], cqHead := 0, cqTail := 0 })))

/-- Peer ports: flits in order are accepted, bad ones ask for a replay, and a port retrains or fails (R20, R21, R22, R23, R24, R26). -/
def Obligations.PeerPorts : Prop := ∀ (s : State) (n : Nat) (b : List Byte),
  let p := s.portAt n
  n < 16 → s.ports.length = 16 →
  (p.stage = .up → flitPasses b = true → flitSeq b = p.rxSeq →
    (flitKind b = 1 → ∀ me, s.sysId = some me → leVal ((flitPayload b).take 4) % 4096 = me → ∃ t q, exec (.dataFlitReceive n b) s = .next t ∧
      t.portAt n = q ∧ q.rxSeq = p.rxSeq + 1 ∧ q.rxQueue = p.rxQueue ++ [(flitLane b, flitPayload b)] ∧ q.lastIntact = s.pcyc ∧
      q.rxAck = flitAck b ∧ q.pauseRx = flitPause b ∧ q.replayBuf = dropAcked (flitAck b) p.replayBuf ∧
      ∀ m, m ≠ n → t.portAt m = s.portAt m) ∧
    (flitKind b = 2 → exec (.controlFlitReceive n b) s = .next (s.mapPort n (fun p => { p.heed s.pcyc b with rxSeq := p.rxSeq + 1 }))) ∧
    (flitKind b = 3 → exec (.idleFlitReceive n b) s = .next (s.mapPort n (fun p => p.heed s.pcyc b))) ∧
    (flitKind b = 4 → exec (.replayRequestReceive n b) s =
      .next (s.mapPort n (fun p => (p.heed s.pcyc b).replay (BitVec.ofNat 12 (flitNum b 8 2)))))) ∧
  (∀ leaves t rest, p.stage = .up → p.replaying = t :: rest → p.sendOne s.pcyc leaves = ({ p with replaying := rest } : Port).resend s.pcyc t) ∧
  (p.stage = .up → (flitPasses b = false ∨ (flitKind b = 1 ∧ flitSeq b ≠ p.rxSeq)) →
    ∃ t, exec (.dataFlitReceive n b) s = .next t ∧ t.portAt n = p.discard s.pcyc ∧ { t with ports := s.ports } = s ∧
      (p.discarding = false → p.replaying = [] → (t.portAt n).wire =
        p.wire ++ [makeFlit 4 0 p.txSeq (p.rxSeq - 1) p.pauseTx (leBytes 2 p.rxSeq.toNat)]) ∧
      (p.discarding = false → p.replaying ≠ [] → (t.portAt n).wire = p.wire ∧ (t.portAt n).asking = true)) ∧
  (p.replaying = [] → p.asking = false → (∀ t ∈ p.txQueue, t.kind = 1) → p.turn s.pcyc false = p) ∧
  (∀ leaves, p.replaying = [] → p.asking = true → (p.sendOne s.pcyc leaves).wire =
    p.wire ++ [makeFlit 4 0 p.txSeq (p.rxSeq - 1) p.pauseTx (leBytes 2 p.rxSeq.toNat)]) ∧
  (p.keepaliveDue s.pcyc = true → ∃ t, exec (.pauseKeepaliveTimer n) s = .next t ∧ (t.portAt n).lastSent = s.pcyc ∧
    (t.portAt n).wire = p.wire ++ [makeFlit 3 0 p.txSeq (p.rxSeq - 1) p.pauseTx []] ∧ (t.portAt n).txSeq = p.txSeq) ∧
  (p.stage = .up →
    let down := s.mapPort n (fun p => { p with stage := .training, downEvent := true, retrain := true, replaying := [], asking := false })
    exec (.phyLockLoss n) s = .next down ∧ (p.rxTimedOut s.pcyc = true → exec (.portRxTimeout n) s = .next down)) ∧
  (p.stage = .training →
    (let kept := p.replayBuf.map (fun t => { t with tries := 0 })
     exec (.portRetrainEnd n true) s = .next (s.mapPort n (fun p => { p with
       stage := .up, replayCount := 0, discarding := false, asking := false, lastIntact := s.pcyc, replayBuf := kept, replaying := kept }))) ∧
    exec (.portRetrainEnd n false) s = .next (p.owners.foldl (fun s r => s.faultRun r 0x39) (s.mapPort n (fun p =>
      { p with stage := .failed, replayBuf := [], replaying := [], txQueue := [] }))))

/-- Power states and package reset: requests, transitions, the management controller, loss of power, the boot chain (R29, R31, R33, R34, R40, R41, R42, R44, R47, R48). -/
def Obligations.PowerAndReset : Prop := ∀ (s : State) (f : Fn) (k : BitVec 3),
  (s.answering 0 = some f → s.power.req.getLsbD 31 = false → s.power.busy = none → k ≠ 1 →
    let asks (i : Instr) (target : Nat) (t : PowerState) (n : Nat) : Prop := exec i s = .next (({ s with power := { s.power with
      req := pwrWord target k ||| 0x80000000, asked := t, askedK := n } } : State).beginPower t n true)
    asks (.pwrReqP0 0 k) 0 .p0 1 ∧ asks (.pwrReqP1 0 k) 1 .p1 (if k = 0 then 8 else k.toNat) ∧ asks (.pwrReqP2 0 k) 2 .p2 1 ∧
    asks (.pwrReqP3 0 k) 3 .p3 1) ∧
  (s.answering 17 = some f →
    exec (.pwrReqP3 17 k) s = .next { s with power := { s.power with status := 0x62 } }) ∧
  (s.answering 0 = some f → s.power.req.getLsbD 31 = true →
    exec (.pwrReqP3 0 k) s = .next { s with power := { s.power with status := 0x61 } } ∧
    ∀ v, exec (.registerWrite 0 0x80000 v) s = .next { s with power := { s.power with status := 0x61 } }) ∧
  (∀ t n req, s.power.busy = some (t, n, req) → s.powerReady t = true → s.power.queue = [] →
    ∃ u, exec .powerTransitionEnd s = .next u ∧ u.power.state = (goalOf t n s.power.managed).1 ∧ u.power.k = (goalOf t n s.power.managed).2 ∧
      u.power.busy = none ∧ (req = true → u.power.req.getLsbD 31 = false ∧ u.power.status = 0)) ∧
  (∃ t, exec .powerLoss s = .next t ∧ t.power.state = .p4 ∧ t.cores = [] ∧ t.runs = [] ∧ t.pcyc = 0 ∧ t.rot.session = none ∧ t.rot.booted = false ∧
    t.rot.fwA = s.rot.fwA ∧ t.rot.fwB = s.rot.fwB ∧ t.rot.cfgBlob = s.rot.cfgBlob ∧ t.rot.spare = s.rot.spare ∧
    t.rot.idState = s.rot.idState ∧ t.rot.ctr = s.rot.ctr ∧ t.rot.log = s.rot.log ∧ t.rot.cfg = s.rot.cfg ∧ t.fns = s.fns.map Fn.renew) ∧
  (∀ temps mw j, (∃ x ∈ temps, 110 ≤ x) → exec (.mgmtSample temps mw j) s = .next s.powerOff) ∧
  (∀ temps mw j, (∀ x ∈ temps, x < 110) → ((∃ x ∈ temps, 100 ≤ x) ∨ 2800000 < mw) →
    exec (.mgmtSample temps mw j) s = .next (s.manage (some (max 2 (min 8 j))))) ∧
  (∀ temps mw j, (∀ x ∈ temps, x < 95) → mw < 2600000 → exec (.mgmtSample temps mw j) s = .next (s.manage none)) ∧
  (let r := s.rot.dark.load
   let x := r.accept
   let recovers (u : Rot) : Prop := ∃ t, exec .packageReset s = .next t ∧ t.rot.recovery = true ∧ t.fns.map Fn.no = [0] ∧ t.pcyc = 0 ∧ t.cores = [] ∧
     t.rot.ctr = s.rot.ctr ∧ t.rot.meas = u.meas ∧ t.rot.cfg = u.cfg
   (x.2 = none → recovers x.1 ∧ x.1.cfg = s.rot.cfg) ∧
   (∀ fw bs, x.2 = some (fw, bs) → let y := x.1.enforce fw bs
     (y.2 = false → recovers y.1) ∧
     (y.2 = true → (Config.freeValue s.free).getLsbD 0 = true → ∃ t, exec .packageReset s = .next t ∧
       t.rot.recovery = false ∧ t.rot.booted = true ∧ t.rot.bootCount = r.bootCount + 1 ∧
       t.fns.map (fun g => (g.no, g.link)) = (Config.cfgOf bs).functions ++ (if (Config.cfgOf bs).split then [] else [(31, 1)]) ∧ t.rot.cfg = Config.cfgOf bs ∧
       t.rot.fwMin = max r.fwMin (Config.imageVersion fw) ∧ t.rot.cfgMin = max r.cfgMin (Config.cfgOf bs).version ∧
       t.pcyc = 0 ∧ t.cores = [] ∧ t.runs = [] ∧ (∀ p ∈ t.ports, p.stage = .training) ∧
       (s.rot.cfg.secState = 2 → (Config.cfgOf bs).secState = 1 →
         t.hbm = Mem.empty 0 ∧ t.vaults = Mem.empty 0 ∧ t.parked = [] ∧ t.coreGen = 0))))

/-- Requests to the root of trust are served in order of go; debug commands halt, step, run, read and write one core (R38, R43, R44, R69, R70, R115, R128, R131). -/
def Obligations.TrustAndDebug : Prop := ∀ (s : State) (fn : Nat) (f : Fn),
  s.bar0 fn = some f →
  (∀ x ∈ [(Instr.msgQuote fn, 1), (.msgExtend fn, 2), (.msgOpenSession fn, 3), (.msgCloseSession fn, 4), (.msgLoadFw fn, 5), (.msgLoadCfg fn, 6),
      (.msgReadLog fn, 7)], f.reqKind = x.2 → f.msgGo = false →
    let t : State := { s.mapFn fn (fun f => { f with msgGo := true }) with rot := { s.rot with queue := s.rot.queue ++ [fn] } }
    (s.rot.queue ≠ [] → exec x.1 s = .next t) ∧ (s.rot.queue = [] → exec x.1 s = .next t.serveNext)) ∧
  (∀ status resp, s.rot.queue = [fn] → s.rot.answer = some (status, resp) → exec .messageRequestEnd s =
    .next { s.mapFn fn (fun f => { f with msgGo := false, msgStat := msgStatWord status f.reqKind resp.length, msgResp := f.msgResp.write 0 resp }) with
      rot := { s.rot with queue := [], answer := none } }) ∧
  (∀ status resp g rest, s.rot.queue = fn :: g :: rest → s.rot.answer = some (status, resp) →
    let t : State := { s.mapFn fn (fun f => { f with msgGo := false, msgStat := msgStatWord status f.reqKind resp.length, msgResp := f.msgResp.write 0 resp }) with
      rot := { s.rot with queue := g :: rest, answer := none } }
    exec .messageRequestEnd s = .next t.serveNext ∧ (∀ h, t.fnAt g = some h → let x := t.serveOne h
      t.serveNext = { x.1 with rot := { x.1.rot with answer := some x.2 } })) ∧
  (s.rot.recovery = false → s.rot.session = none → exec (.dbgHalt fn) s = .next (s.dbgEnd fn 1 none 0x53)) ∧
  (∀ k c, s.rot.recovery = false → s.dbgRefusal f true none = none → f.dbgCore = some c → c < 1024 → s.coreAt c = some k → k.stage ≠ .idle →
    (k.stops.contains .halt = false → k.asks.contains .halt = false →
      (k.standsStill = false → exec (.dbgHalt fn) s = .next ((s.setCore { k with asks := k.asks ++ [.halt] }).dbgEnd fn 1 none 0)) ∧
      (k.standsStill = true → exec (.dbgHalt fn) s = .next ((if s.cutting k then (s.stopNow k .halt).faultRun k.run 0x37
        else s.stopNow k .halt).dbgEnd fn 1 none 0))) ∧
    (k.stops.contains .halt = true →
      exec (.dbgStep fn) s = .next ((s.setCore { k.leaveHalt with stepVc := some k.vc }).dbgEnd fn 2 none 0) ∧
      exec (.dbgRun fn) s = .next ((s.setCore k.leaveHalt).dbgEnd fn 3 none 0)) ∧
    (k.stops = [.halt] → k.leaveHalt.stops = [] ∧ k.leaveHalt.replay = [] ∧
      k.leaveHalt.pend = k.replay.map (fun p => { p with replay := true }) ++ k.pend)) ∧
  (∀ c, s.rot.recovery = false → s.dbgRefusal f true none = none → f.dbgCore = some c → s.coreAt c = none → (s.idleCore c).stage = .idle →
    exec (.dbgHalt fn) s = .next (s.dbgEnd fn 1 none 0x52)) ∧
  (∀ k c n, s.rot.recovery = false → f.dbgCore = some c → c < 1024 → s.dbgTarget c = some k →
    (s.dbgRefusal f false (some n.toNat) = none → exec (.dbgRead fn n) s = .next ((s.mapFn fn (fun g =>
      { g with dbgData := g.dbgData.write 0 (s.peek k f.dbgOff n.toNat) })).dbgEnd fn 4 (some n.toNat) 0)) ∧
    (s.dbgRefusal f true (some n.toNat) = none → k.stage ≠ .idle → k.stops.contains .halt = true → k.tokenIn (f.dbgOff, n.toNat) = false →
      let held := (k.replay ++ k.pend).filter (k.covered (f.dbgOff, n.toNat))
      let bytes := f.dbgData.bytes 0 n.toNat
      let bare := { k with replay := k.replay.filter (fun p => !k.covered (f.dbgOff, n.toNat) p), pend := k.pend.filter (fun p => !k.covered (f.dbgOff, n.toNat) p) }
      (held = [] → exec (.dbgWrite fn n) s = .next ((s.setCore (k.poke (s.imageHead k) f.dbgOff bytes)).dbgEnd fn 5 (some n.toNat) 0)) ∧
      (held ≠ [] → exec (.dbgWrite fn n) s = .next (s.dbgEnd fn 5 (some n.toNat) 0x50)) ∧
      exec (.dbgWriteDiscard fn n) s = .next ((s.setCore (bare.poke (s.imageHead bare) f.dbgOff bytes)).dbgEnd fn 6 (some n.toNat) 0)))

/-- Arms are accepted in the order of Table 3.4's tests and start, wait or resume; flights are installed, removed and staged (R54, R55, R56, R57, R60, R63, R71, R72, R73, R74, R75). -/
def Obligations.ArmsAndFlights : Prop := ∀ (s : State) (f : Fn),
  s.rot.recovery = false →
  (∀ (w : ArmWrite) (node : W16), s.answering w.fn = some f → f.link = w.link → f.armsHeld = false →
    let all (p : Instr → Prop) : Prop := (node = 0xFFFF → p (.armStart w)) ∧ p (.armWait w node) ∧ p (.armResume w node)
    let seen : State := { s.mapFn w.fn (fun f => f.setSeq w.slot w.hostSeq) with nextOrder := s.nextOrder + 1 }
    let turned (st : Nat) : Prop := all (fun i => exec i s = .next (s.post w.fn (s.refusedRec w node st)))
    (w.whole = false → turned 1) ∧
    (w.whole = true →
      (w.reserved ≠ 0 ∨ 12 < w.nArg.toNat ∨ 16 ≤ w.flags.toNat ∨ 1024 ≤ w.flightId.toNat → turned 2) ∧
      (w.reserved = 0 → w.nArg.toNat ≤ 12 → w.flags.toNat < 16 → w.flightId.toNat < 1024 →
        (w.hostSeq.toNat ≤ (f.seqOf w.slot).toNat → turned 3) ∧
        ((f.seqOf w.slot).toNat < w.hostSeq.toNat →
          (f.flightAt w.flightId.toNat = none → turned 4) ∧
          (∀ x, f.flightAt w.flightId.toNat = some x →
            let names : Prop := if resumeBit w = true then f.faultWaits x.id = false ∧ ∃ k, x.kept = some k ∧ ∃ im ∈ k.images, im.node = node.toNat
              else node = 0xFFFF ∨ ∃ n, x.nodes[node.toNat]? = some n ∧ n.kind = .wait
            (¬names → turned 5) ∧
            (names → (16 ≤ x.queue.length + x.heldWaits.length → all (fun i => exec i s = .next
                ((s.mapFn w.fn (fun f => f.setSeq w.slot w.hostSeq)).post w.fn (s.refusedRec w node 6)))) ∧
              (x.queue.length + x.heldWaits.length < 16 → f.refusal w node = none)))))) ∧
    (f.refusal w node = none → resumeBit w = true → all (fun i => exec i s = .next (seen.armResumes w.fn w.flightId.toNat node))) ∧
    (f.refusal w node = none → resumeBit w = false → node = 0xFFFF → exec (.armStart w) s = .next (seen.armStarts w.fn w s.nextOrder)) ∧
    (f.refusal w node = none → resumeBit w = false → node ≠ 0xFFFF → exec (.armWait w node) s = .next (seen.armWaits w.fn w node))) ∧
  (∀ fn (id : BitVec 10), s.answering fn = some f → f.flCmd.getLsbD 31 = false →
    let started (op : Nat) : State := s.mapFn fn (fun f => { f with flCmd := BitVec.ofNat 32 (2 ^ 31 + op * 2 ^ 28 + id.toNat) })
    exec (.flInstall fn id) s = .next (started 1) ∧ exec (.flRemove fn id) s = .next (started 2) ∧ exec (.flStage fn id) s = .next (started 3)) ∧
  (∀ fn op (id : BitVec 10), s.answering fn = some f → 1 ≤ op → op ≤ 3 → f.flCmd = BitVec.ofNat 32 (2 ^ 31 + op * 2 ^ 28 + id.toNat) →
    let ends (g : Fn → Fn) (st : Nat) : Prop := ∃ t h, exec (.flightOperationEnd fn) s = .next t ∧ t.fnAt fn = some h ∧
      h = { g f with flCmd := BitVec.ofNat 32 (op * 2 ^ 28 + id.toNat), flStat := st } ∧ { t with fns := s.fns } = s
    let there := f.flightAt id.toNat
    (op = 1 → (there ≠ none → ends (fun f => f) 0x15) ∧
      (there = none → (f.readImage = none → ends (fun f => f) 0x14) ∧ ∀ b, f.readImage = some b →
        (flightOfImage id.toNat b = none → ends (fun f => f) 0x10) ∧ ∀ x, flightOfImage id.toNat b = some x →
          (s.freeNodes < x.nodes.length → ends (fun f => f) 0x11) ∧
          (x.nodes.length ≤ s.freeNodes → ends (fun f => { f with flights := f.flights ++ [x] }) 0))) ∧
    (op = 2 → (there = none → ends (fun f => f) 0x16) ∧ ∀ x, there = some x →
      let used : Bool := (s.activeRun f.no id.toNat).isSome || !x.queue.isEmpty || !x.heldWaits.isEmpty || (x.kept.map (fun (k : Kept) => !k.images.isEmpty)).getD false
      (used = true → ends (fun f => f) 0x12) ∧
      (used = false → ends (fun f => { f with flights := f.flights.filter (fun y => y.id != id.toNat), staged := f.staged.filter (fun i => i != id.toNat) }) 0)) ∧
    (op = 3 → (there = none → ends (fun f => f) 0x16) ∧ ∀ x, there = some x →
      ends (fun f => { f with staged := f.fitStaged id.toNat (f.staged.filter (fun i => i != id.toNat)) ++ [id.toNat] }) 0))

end
end

