-- ==== Sys2Proof/Laws/Issue.lean ====
section
/-! SUPPORT. The issue of a bundle that holds one instruction: the one lemma that says what it leaves, and the small facts about
its header and its checks that proofs cite. -/

namespace Sys2Proof.Machine

/-! ## The header of a bundle of one slot -/

/-- The slots that `soloOf` names. -/
def soloSlots : List Nat := [0, 1, 2, 3, 4, 6, 7]

theorem solo_ck {slot : Nat} (h : slot ∈ soloSlots) (ck : Bool) : hdrCk (soloHdr slot ck) = ck := by
  revert ck; revert slot; decide

theorem solo_sl {slot : Nat} (h : slot ∈ soloSlots) (ck : Bool) : hdrSl (soloHdr slot ck) = false := by
  revert ck; revert slot; decide

theorem solo_tag {slot : Nat} (h : slot ∈ soloSlots) (ck : Bool) : hdrTag (soloHdr slot ck) slot = 0 := by
  revert ck; revert slot; decide

theorem solo_test {slot : Nat} (h : slot ∈ soloSlots) (ck : Bool) (i : Nat) (hi : i < 4) : hdrTest (soloHdr slot ck) i = 0 := by
  revert i; revert ck; revert slot; decide

theorem soloOf_slot {i : Instr} {slot : Nat} {ck : Bool} (h : soloOf i = some (slot, ck)) : slot ∈ soloSlots := by
  cases i <;> simp [soloOf] at h <;> obtain ⟨rfl, rfl⟩ := h <;> decide

/-- The meaning of a slot instruction is the issue of its plan alone. -/
theorem exec_solo {i : Instr} {slot : Nat} {ck : Bool} (h : soloOf i = some (slot, ck)) (s : State) :
    exec i s = issueAlone slot ck (encode i) (planOf i) s := by
  cases i <;> simp [soloOf] at h <;> obtain ⟨rfl, rfl⟩ := h <;> rfl

/-! ## What a context holds -/

theorem ctx_st {s : State} {h : BitVec 94} {ws : List W32} {len slot : Nat} {c : Ctx}
    (hc : s.ctx h ws len slot = some c) : c.st = s := by
  unfold State.ctx at hc
  repeat' split at hc
  all_goals first | cases hc; rfl | cases hc

theorem ctx_slot {s : State} {h : BitVec 94} {ws : List W32} {len slot : Nat} {c : Ctx}
    (hc : s.ctx h ws len slot = some c) : c.slot = slot := by
  unfold State.ctx at hc
  repeat' split at hc
  all_goals first | cases hc; rfl | cases hc

theorem ctx_h {s : State} {h : BitVec 94} {ws : List W32} {len slot : Nat} {c : Ctx}
    (hc : s.ctx h ws len slot = some c) : c.h = h := by
  unfold State.ctx at hc
  repeat' split at hc
  all_goals first | cases hc; rfl | cases hc

theorem ctx_len {s : State} {h : BitVec 94} {ws : List W32} {len slot : Nat} {c : Ctx}
    (hc : s.ctx h ws len slot = some c) : c.len = len := by
  unfold State.ctx at hc
  repeat' split at hc
  all_goals first | cases hc; rfl | cases hc

theorem ctx_core {s : State} {h : BitVec 94} {ws : List W32} {len slot : Nat} {c : Ctx}
    (hc : s.ctx h ws len slot = some c) :
    s.coreAt s.cur = some c.k := by
  unfold State.ctx at hc
  repeat' split at hc
  all_goals first | cases hc; assumption | cases hc

theorem ctx_pc {s : State} {h : BitVec 94} {ws : List W32} {len slot : Nat} {c : Ctx}
    (hc : s.ctx h ws len slot = some c) : c.pc = c.k.arch.pc.toNat := by
  unfold State.ctx at hc
  repeat' split at hc
  all_goals first | cases hc; rfl | cases hc

theorem coreAt_no {s : State} {n : Nat} {k : Core} (h : s.coreAt n = some k) : k.no = n := by
  have := List.find?_some h
  simpa using this

theorem coreAt_setCore {s : State} {n : Nat} {k k' : Core} (h : s.coreAt n = some k) (hn : k'.no = n) :
    (s.setCore k').coreAt n = some k' := by
  unfold State.coreAt at h ⊢
  unfold State.setCore
  subst hn
  simp only
  generalize s.cores = l at h
  induction l with
  | nil => simp at h
  | cons x xs ih =>
    by_cases hx : x.no = k'.no
    · simp [hx]
    · simp only [List.map_cons, List.find?_cons]
      rw [List.find?_cons, beq_eq_false_iff_ne.mpr hx] at h
      have hx' : ¬ (x.no == k'.no) = true := by simpa using hx
      rw [if_neg hx', beq_eq_false_iff_ne.mpr hx]
      exact ih h

/-! ## The lemma -/

/-- What a plan does to its core when it issues outside a checkpoint bundle. -/
def Plan.onCore (p : Plan) (slot : Nat) (k : Core) : Core := Core.issueSlot false k (slot, p)

theorem issueSlot_no (p : Plan) (hp : ∀ k : Core, (p.imm k).no = k.no) (ck : Bool) (slot : Nat) (k : Core) :
    (Core.issueSlot ck k (slot, p)).no = k.no := by
  have hl : ∀ (l : List Nat) (k : Core), (l.foldl Core.logLine k).no = k.no := by
    intro l; induction l with
    | nil => intro k; rfl
    | cons x xs ih => intro k; rw [List.foldl_cons, ih]; unfold Core.logLine; split <;> rfl
  have hr : ∀ (l : List Nat) (k : Core), (l.foldl Core.logRing k).no = k.no := by
    intro l; induction l with
    | nil => intro k; rfl
    | cons x xs ih => intro k; rw [List.foldl_cons, ih]; unfold Core.logRing; split <;> rfl
  unfold Core.issueSlot
  simp only [hp]
  split
  · rfl
  · rw [hr, hl]

/-- Registers that locations name. -/
def locRegs (ls : List Loc) : List Nat := ls.filterMap (fun l => match l with
  | .reg n => some n
  | _ => none)

theorem places_locRegs (k : Core) (ls : List Loc) : k.places ls = (locRegs ls).map (physReg k.arch.rot) := by
  induction ls with
  | nil => rfl
  | cons l ls ih => cases l <;> simpa [Core.places, locRegs] using ih

theorem begin_readTokens (c : Ctx) (slot : Nat) (p : Plan) :
    { c.k.readTokens [(slot, p)] with stage := .run } = c.begin (locRegs p.reads) (locRegs p.writes) := by
  simp [Core.readTokens, Ctx.begin, places_locRegs]

theorem plans_solo {s : State} {i : Instr} {slot len : Nat} {ck : Bool} {ws : List W32} {c : Ctx} (hs : slot ∈ soloSlots)
    (hc : s.ctx (soloHdr slot ck) ws len slot = some c) :
    c.plans { h := c.h, len := c.len, slots := [(slot, planOf i)], words := c.words } = [(slot, planOf i c)] := by
  have h1 := ctx_slot hc
  have h3 := ctx_h hc
  have h2 : ({ c with slot := slot } : Ctx) = c := by rw [← h1]
  have h4 : hdrTag c.h slot = 0 := by rw [h3]; exact solo_tag hs ck
  simp [Ctx.plans, Ctx.besides, h4, commits, h2]

theorem advance_issued {c : Ctx} {slot : Nat} (hs : slot ∈ soloSlots) (hh : c.h = soloHdr slot false) (p : Plan) (f : Ctx → Plan) :
    c.issued { h := c.h, len := c.len, slots := [(slot, f)], words := c.words } [(slot, p)] =
      { c.advance (ctlOf [(slot, p)]) (p.onCore slot (c.begin (locRegs p.reads) (locRegs p.writes))) with
        stage := (p.onCore slot (c.begin (locRegs p.reads) (locRegs p.writes))).stage } := by
  have h := begin_readTokens c slot p
  have h1 : hdrCk c.h = false := by rw [hh]; exact solo_ck hs false
  have h2 : hdrSl c.h = false := by rw [hh]; exact solo_sl hs false
  simp only [Ctx.issued, List.foldl_cons, List.foldl_nil, h1, h2, h, Ctx.advance, Plan.onCore]
  rfl

/-- Where no slot has a late trap, no pop stops the bundle. -/
theorem popStop_of_late {c : Ctx} {ps : List (Nat × Plan)} (h : firstSlot (c.lateTrap) ps = none) : c.popStop ps = none := by
  simp only [firstSlot, List.findSome?_eq_none_iff, Option.map_eq_none_iff] at h
  simp only [Ctx.popStop, firstSlot, Option.map_eq_none_iff, List.findSome?_eq_none_iff]
  intro p hp
  have hl := h p hp
  unfold Ctx.lateTrap at hl
  split at hl
  · cases hl
  · rw [Option.map_eq_none_iff.mp hl]
    rfl

/-- A bundle that passes its checks and waits for nothing is stopped by nothing. -/
theorem stops_of_check {c : Ctx} {ps : List (Nat × Plan)} (h : c.check ps = none) : c.stops ps = none := by
  unfold Ctx.stops
  split
  · unfold Ctx.check at h
    dsimp only at h
    repeat' split at h
    all_goals first | (cases h; done) | (rw [‹c.tokenFreeze ps = none›, popStop_of_late ‹_›]; exact h)
  · exact h

/-- A wait that the checks end in stops the bundle, whether or not they are made again. -/
theorem stops_of_wait {c : Ctx} {ps : List (Nat × Plan)} {cause : Cause} (h : c.check ps = some (.inr cause)) :
    c.stops ps = some (.inr cause) := by
  unfold Ctx.stops
  split
  · unfold Ctx.check at h
    dsimp only at h
    repeat' split at h
    all_goals first
      | (cases h; done) | (rw [‹c.tokenFreeze ps = some _›]; exact h)
      | (rw [‹c.tokenFreeze ps = none›, popStop_of_late ‹_›]; exact h)
  · exact h

/-- A failed check stops a bundle that has yet to be checked. -/
theorem stops_of_trap {c : Ctx} {ps : List (Nat × Plan)} {t : TrapInfo} (h : c.check ps = some (.inl t))
    (hs : c.k.stage ≠ .syncIssue) : c.stops ps = some (.inl t) := by
  unfold Ctx.stops
  rw [if_neg (by simpa using hs)]
  exact h

/-- A slot instruction whose bundle issues outside a checkpoint: its plan's effect on the core, the advance of the bundle, and the
plan's effect outside the core; nothing else changes. -/
theorem exec_issues {s : State} {i : Instr} {c : Ctx} {slot : Nat} (hs : soloOf i = some (slot, false)) (h : Issues s i c)
    (hy : syncOf c.k.stage [(slot, planOf i c)] = none) :
    exec i s = .next ((planOf i c).glob (c.st.setCore (c.advance (ctlOf [(slot, planOf i c)])
      ((planOf i c).onCore slot (c.begin (locRegs (planOf i c).reads) (locRegs (planOf i c).writes)))))).endTurn := by
  have hm := soloOf_slot hs
  obtain ⟨hr, hk⟩ := h
  simp only [Ready, hs] at hr
  obtain ⟨hc, hst⟩ := hr
  have hsl := ctx_slot hc
  rw [hsl] at hk
  have hp := plans_solo (i := i) hm hc
  have hh := ctx_h hc
  have h1 : hdrCk c.h = false := by rw [hh]; exact solo_ck hm false
  rw [exec_solo hs, issueAlone, hc]
  simp only [hst, List.isEmpty_nil, if_true]
  congr 1
  simp only [Ctx.issue, hp, stops_of_check hk, hy, h1]
  have ha := advance_issued (c := c) hm hh (planOf i c) (planOf i)
  rw [ha]
  simp only [List.foldl_cons, List.foldl_nil, Ctx.advance]
  split <;> rfl

/-- The same for a plan with no effect outside its core. -/
theorem exec_done {s : State} {i : Instr} {c : Ctx} {slot : Nat} (hs : soloOf i = some (slot, false)) (h : Issues s i c)
    (hy : syncOf c.k.stage [(slot, planOf i c)] = none) (hg : (planOf i c).glob = id) :
    exec i s = .next (c.done (ctlOf [(slot, planOf i c)])
      ((planOf i c).onCore slot (c.begin (locRegs (planOf i c).reads) (locRegs (planOf i c).writes)))) := by
  rw [exec_issues hs h hy, hg]; rfl

/-! ## Effects of plans -/

theorem logSegs_nil (k : Core) : k.logSegs [] = k := rfl

theorem later_nil (k : Core) : k.later [] = k := by
  simp [Core.later, logSegs_nil]

theorem hold_nil (k : Core) : k.hold [] = k := by simp [Core.hold]

/-- A plan that keeps no array or pipe occupied and overwrites no ring block. -/
theorem onCore_eq (p : Plan) (slot : Nat) (k : Core) (hb : p.beats = 0) (hr : p.blocks = []) :
    p.onCore slot k = p.imm ((k.later p.lands).hold p.held) := by
  have h : (k.linesNeeded p).foldl Core.logLine k = k.logSegs (p.lands.flatMap Pend.segs) := rfl
  have hk : k.blocksNeeded p = [] := by simp [Core.blocksNeeded, hr]
  simp only [Plan.onCore, Core.issueSlot, hb, hk, h, Core.later, Core.hold]
  simp

/-- A plan that occupies its pipe. -/
theorem onCore_busy (p : Plan) (slot : Nat) (k : Core) (hb : 0 < p.beats) (hr : p.blocks = []) :
    p.onCore slot k = p.imm (((k.later p.lands).hold p.held).occupy slot p.beats p.holds) := by
  have h : (k.linesNeeded p).foldl Core.logLine k = k.logSegs (p.lands.flatMap Pend.segs) := rfl
  have hk : k.blocksNeeded p = [] := by simp [Core.blocksNeeded, hr]
  simp only [Plan.onCore, Core.issueSlot, if_pos hb, hk, h, Core.later, Core.hold, Core.occupy, Bool.false_eq_true, if_false,
    List.foldl_nil]
  rfl

/-- No SYNC waits in a plan that follows with anything else. -/
theorem syncOf_none (st : Stage) (slot : Nat) (p : Plan) (h : ∀ l, p.after ≠ .sync l) : syncOf st [(slot, p)] = none := by
  have ha : ∀ l, afterOf [(slot, p)] ≠ .sync l := by
    intro l
    simp only [afterOf, List.find?_cons, List.find?_nil]
    split
    · simpa using h l
    · simp
  unfold syncOf
  split
  · rfl
  · next h1 => exact absurd h1 (ha _)
  · rfl

theorem ctlOf_solo (slot : Nat) (p : Plan) : ctlOf [(slot, p)] = if slot = 7 then p.ctl else .fall := by
  by_cases h : slot = 7
  · subst h; rfl
  · simp [ctlOf, h]

/-- A plan that only lands results, holds work and changes its core. -/
theorem exec_plain {s : State} {i : Instr} {c : Ctx} {slot : Nat} (hs : soloOf i = some (slot, false)) (h : Issues s i c)
    (ha : (planOf i c).after = .go) (hg : (planOf i c).glob = id) (hb : (planOf i c).beats = 0) (hr : (planOf i c).blocks = []) :
    exec i s = .next (c.done (if slot = 7 then (planOf i c).ctl else .fall) ((planOf i c).imm
      (((c.begin (locRegs (planOf i c).reads) (locRegs (planOf i c).writes)).later (planOf i c).lands).hold (planOf i c).held))) := by
  rw [exec_done hs h (syncOf_none _ _ _ (by rw [ha]; intro l; nofun)) hg, onCore_eq _ _ _ hb hr, ctlOf_solo]

/-- The same for a plan known by another term. -/
theorem exec_as {s : State} {i : Instr} {c : Ctx} {slot : Nat} {p : Plan} (hs : soloOf i = some (slot, false)) (h : Issues s i c)
    (hp : planOf i c = p) (ha : p.after = .go) (hg : p.glob = id) (hb : p.beats = 0) (hr : p.blocks = []) :
    exec i s = .next (c.done (if slot = 7 then p.ctl else .fall) (p.imm
      (((c.begin (locRegs p.reads) (locRegs p.writes)).later p.lands).hold p.held))) := by
  subst hp; exact exec_plain hs h ha hg hb hr

end Sys2Proof.Machine
end

