-- ==== Sys2Proof/Laws/Check.lean ====
section
/-! SUPPORT. The checks of a bundle of one slot on a core with nothing in flight, and what a failed check or a wait leaves. -/

namespace Sys2Proof.Machine

theorem quiet_lockHits {k : Core} (h : k.quiet) (ch : Option Nat) (w : Bool) (l : Loc) : k.lockHits ch w l = [] := by
  obtain ⟨h1, h2, h3, h4⟩ := h
  cases l <;> simp [Core.lockHits, h1, Core.tokenOn, h2]

theorem quiet_check {c : Ctx} {p : Plan} (hq : c.k.quiet) (hf : p.fits c) (hs : hdrSl c.h = false) :
    c.check [(c.slot, p)] =
      match c.lateTrap c.slot p with
      | some t => some (.inl t)
      | none =>
        match spanSlot c.k (hdrCk c.h) [(c.slot, p)] [] c.k.held.length with
        | some i => some (.inl (c.info 0x0E i (BitVec.ofNat 64 c.k.undo.length) (BitVec.ofNat 64 c.k.nextts)))
        | none => p.wait.map .inr := by
  have hl : ∀ ch w ls, List.flatMap (c.k.lockHits ch w) ls = [] := by
    intro ch w ls
    apply List.flatMap_eq_nil_iff.mpr
    intro l _; exact quiet_lockHits hq ch w l
  have htree : ∀ ns : List Nat, ns.flatMap (fun n => c.k.lockHits none false (.pred n)) = [] := by
    intro ns; apply List.flatMap_eq_nil_iff.mpr; intro l _; exact quiet_lockHits hq _ _ _
  obtain ⟨h1, h2, h3, h4⟩ := hq
  have hviews : p.views.find? (fun v => !c.k.arch.configured v) = none := by
    simp only [List.find?_eq_none]; intro v hv; simp [hf.views v hv]
  have hfeats : p.feats.find? (fun f => !c.feats.getLsbD f) = none := by
    simp only [List.find?_eq_none]; intro v hv; simp [hf.feats v hv]
  have hports : (c.slot < 7 && hdrPort c.h c.slot < p.ports : Bool) = false := by
    by_cases h7 : c.slot < 7
    · have := hf.ports h7; simp [h7]; omega
    · simp [h7]
  have hd : dupSlot [(c.slot, p)] = none := by simp [dupSlot, dupWrites]
  have hb : bayClash [(c.slot, p)] [] = none := by
    simp [bayClash, hf.bays]
  have hph : p.lands.flatMap (portHits (c.k.pend ++ [])) = [] := by
    simp [h1, portHits]
  have hheld : ∀ b, (c.slot != 3 && (heldBays [(c.slot, p)]).contains b) = false := by
    intro b
    by_cases h3 : c.slot = 3
    · simp [h3]
    · simp [heldBays, h3]
  have hlock : lockSlot c.k (heldBays [(c.slot, p)]) [(c.slot, p)] [] = none := by
    simp only [lockSlot, Core.planHits, hl, hph, h4, List.any_nil, hheld]
    have hn : ∀ l : List Nat, l.filter (fun _ => false) = [] := fun l => by induction l <;> simp_all
    simp [hn, firstHit]
  have hpo : c.k.poisonInfo p.poison = none := by
    simp [Core.poisonInfo, Core.poisonLines, h3]
  have htok : c.k.tokenWait p = none := by
    simp only [Core.tokenWait, Core.tokenOn, h2, List.find?_nil, List.findSome?_eq_none_iff]
    intro l _; cases l <;> rfl
  have hfreeze : c.tokenFreeze [(c.slot, p)] = none := by simp [Ctx.tokenFreeze, firstSlot, htok]
  unfold Ctx.check
  simp only [hfreeze, hd, hb, firstSlot, List.findSome?_cons, List.findSome?_nil, hf.feature, if_true, Option.map_none, hviews, hf.legal, hports, Bool.or_self, Bool.false_eq_true, if_false, Option.orElse_none, htree, firstHit, hlock, hpo, hfeats, hs, Bool.false_and]
  cases c.lateTrap c.slot p with
  | some t => rfl
  | none =>
    simp only [Option.map_none]
    cases spanSlot c.k (hdrCk c.h) [(c.slot, p)] [] c.k.held.length with
    | some i => rfl
    | none => simp only [Ctx.waits, firstSlot, List.findSome?_cons, List.findSome?_nil, htok, Option.orElse_none]; cases p.wait <;> rfl

/-- A slot passes its last checks when it breaks no rule of its own and raises nothing (R270 order 7). -/
@[simp] theorem Ctx.lateTrap_none {c : Ctx} {i : Nat} {p : Plan} : c.lateTrap i p = none ↔ p.badLast = false ∧ p.late = none := by
  unfold Ctx.lateTrap
  split <;> simp_all

/-- A failed check begins the rollback of its trap; a SYNC bundle makes its checks once, before it raises its input (R133). -/
theorem exec_trap {s : State} {i : Instr} {c : Ctx} {slot : Nat} {ck : Bool} {t : TrapInfo} (hs : soloOf i = some (slot, ck))
    (hr : Ready s i c) (hk : c.check [(c.slot, planOf i c)] = some (.inl t)) (hy : c.k.stage ≠ .syncIssue) :
    exec i s = .next (s.trap c.k t) := by
  simp only [Ready, hs] at hr
  obtain ⟨hc, hst⟩ := hr
  have hm := soloOf_slot hs
  have hsl := ctx_slot hc
  rw [hsl] at hk
  rw [exec_solo hs, issueAlone, hc]
  simp only [hst, List.isEmpty_nil, if_true, Ctx.issue, plans_solo (i := i) hm hc, stops_of_trap hk hy, ctx_st hc]

/-- Until the tokens have come that a bundle reads, its freeze starts nothing. -/
theorem Ctx.started_frozen {c : Ctx} {ps : List (Nat × Plan)} {cause : Cause} (h : c.tokenFreeze ps = some cause) : c.started ps = c.st := by
  rw [Ctx.started, h]

/-- A slot alone that reads no pending token starts what its own freeze starts. -/
theorem Ctx.started_solo {c : Ctx} {i : Nat} {p : Plan} (h : c.k.tokenWait p = none) : c.started [(i, p)] = p.starts c.st := by
  simp [Ctx.started, Ctx.tokenFreeze, firstSlot, h]

/-- A plan that must wait freezes its core before the bundle issues, and starts what the freeze starts. -/
theorem exec_waits {s : State} {i : Instr} {c : Ctx} {slot : Nat} {ck : Bool} {cause : Cause} (hs : soloOf i = some (slot, ck))
    (hr : Ready s i c) (hk : c.check [(c.slot, planOf i c)] = some (.inr cause)) :
    exec i s = .next ((c.started [(slot, planOf i c)]).setCore { c.k with stage := c.k.stage.waiting cause }).endTurn := by
  simp only [Ready, hs] at hr
  obtain ⟨hc, hst⟩ := hr
  have hm := soloOf_slot hs
  have hsl := ctx_slot hc
  rw [hsl] at hk
  rw [exec_solo hs, issueAlone, hc]
  simp only [hst, List.isEmpty_nil, if_true, Ctx.issue, plans_solo (i := i) hm hc, stops_of_wait hk]

/-- A checkpoint bundle of one BR instruction that lands, holds and occupies nothing: its release begins at once. -/
theorem exec_checkpoint {s : State} {i : Instr} {c : Ctx} (hs : soloOf i = some (7, true)) (h : Issues s i c)
    (hy : syncOf c.k.stage [(7, planOf i c)] = none) (hl : (planOf i c).lands = []) (hh : (planOf i c).held = [])
    (hi : (planOf i c).imm = id) (hg : (planOf i c).glob = id) (hb : (planOf i c).beats = 0) :
    exec i s = .next (c.checkpointed (planOf i c).ctl (afterIssue (planOf i c).after)
      (c.begin (locRegs (planOf i c).reads) (locRegs (planOf i c).writes))) := by
  have hm := soloOf_slot hs
  obtain ⟨hr, hk⟩ := h
  simp only [Ready, hs] at hr
  obtain ⟨hc, hst⟩ := hr
  have hsl := ctx_slot hc
  rw [hsl] at hk
  have hp := plans_solo (i := i) hm hc
  rw [exec_solo hs, issueAlone, hc]
  simp only [hst, List.isEmpty_nil, if_true]
  congr 1
  have hb' : c.k.no = s.cur := coreAt_no (ctx_core hc)
  have hbegin := begin_readTokens c 7 (planOf i c)
  have hh' := ctx_h hc
  have h1 : hdrCk c.h = true := by rw [hh']; exact solo_ck hm true
  have h2 : hdrSl c.h = false := by rw [hh']; exact solo_sl hm true
  have hiss : c.issued { h := c.h, len := c.len, slots := [(7, planOf i)], words := c.words } [(7, planOf i c)] =
      { c.advance (planOf i c).ctl (c.begin (locRegs (planOf i c).reads) (locRegs (planOf i c).writes)) with
        stage := .releasing (afterIssue (planOf i c).after) } := by
    simp only [Ctx.issued, List.foldl_cons, List.foldl_nil, h1, h2, hbegin, Ctx.advance, Core.issueSlot, hl, hh, hi, hb,
      List.append_nil, if_true, Nat.lt_irrefl, if_false, id_eq]
    rfl
  simp only [Ctx.issue, hp, stops_of_check hk, hy, h1, hiss, List.foldl_cons, List.foldl_nil, hg, id_eq, if_true]
  have hno : (c.advance (planOf i c).ctl (c.begin (locRegs (planOf i c).reads) (locRegs (planOf i c).writes))).no = c.k.no := rfl
  rw [ctx_st hc, coreAt_setCore (k := c.k) (k' := { c.advance (planOf i c).ctl (c.begin (locRegs (planOf i c).reads) (locRegs (planOf i c).writes)) with
        stage := .releasing (afterIssue (planOf i c).after) }) (by rw [hno, hb']; exact ctx_core hc) rfl]
  simp only [Ctx.checkpointed, ctx_st hc]
  rfl

/-- A bundle of one slot that issues breaks no rule of its own, raises nothing and waits for nothing. -/
theorem check_facts {c : Ctx} {slot : Nat} {p : Plan} (hk : c.check [(slot, p)] = none) :
    p.bad = false ∧ p.late = none ∧ p.badLast = false ∧ p.wait = none := by
  unfold Ctx.check at hk
  simp only [firstSlot, List.findSome?_cons, List.findSome?_nil] at hk
  split at hk
  · cases hk
  split at hk
  · cases hk
  split at hk
  · cases hk
  split at hk
  · cases hk
  rename_i hbad
  split at hk
  · cases hk
  split at hk
  · cases hk
  split at hk
  · cases hk
  split at hk
  · cases hk
  split at hk
  · cases hk
  split at hk
  · cases hk
  rename_i hlate
  split at hk
  · cases hk
  split at hk
  · cases hk
  refine ⟨?_, ?_, ?_, ?_⟩
  · cases hb : p.bad
    · rfl
    · simp [hb] at hbad
  · cases hl : p.late
    · rfl
    · cases hb : p.badLast <;> simp [hl, Ctx.lateTrap, hb] at hlate
  · cases hl : p.badLast
    · rfl
    · simp [hl, Ctx.lateTrap] at hlate
  · cases hw : p.wait
    · rfl
    · cases ht : c.k.tokenWait p <;> simp [Ctx.waits, firstSlot, hw, ht] at hk

/-- The same of an instruction whose bundle issues. -/
theorem issues_facts {s : State} {i : Instr} {c : Ctx} (h : Issues s i c) :
    (planOf i c).bad = false ∧ (planOf i c).late = none ∧ (planOf i c).badLast = false ∧ (planOf i c).wait = none :=
  check_facts h.2

end Sys2Proof.Machine
end

