-- ==== Sys2Proof/Laws/Fields.lean ====
section
/-! SUPPORT. A field of a word that is built from its fields: the lemmas by which a round trip of the encoder is computed. A
round trip first shows the opcode field, rewrites the decoder with it after one `unfold`, and then computes each field with
`simp (disch := decide) only` of the lemmas below. -/

namespace Sys2Proof

/-- A field above the last part of a word. -/
theorem fld_append_left {a m : Nat} (x : BitVec a) (y : BitVec m) (lo len : Nat) (h : m ≤ lo) :
    fld (x ++ y) lo len = fld x (lo - m) len := by
  apply BitVec.eq_of_getLsbD_eq
  intro i hi
  simp only [fld, BitVec.getLsbD_extractLsb', BitVec.getLsbD_append]
  rw [if_neg (by omega), show lo + i - m = lo - m + i by omega]

/-- A field within the last part of a word. -/
theorem fld_append_right {a m : Nat} (x : BitVec a) (y : BitVec m) (lo len : Nat) (h : lo + len ≤ m) :
    fld (x ++ y) lo len = fld y lo len := by
  apply BitVec.eq_of_getLsbD_eq
  intro i hi
  simp only [fld, BitVec.getLsbD_extractLsb', BitVec.getLsbD_append]
  rw [if_pos (by omega)]

/-- The field that is the whole. -/
theorem fld_self {n : Nat} (x : BitVec n) : fld x 0 n = x := by
  apply BitVec.eq_of_getLsbD_eq
  intro i hi
  simp [fld, hi]

/-- A field of a field. -/
theorem fld_fld {n : Nat} (x : BitVec n) (a l b k : Nat) (h : b + k ≤ l) : fld (fld x a l) b k = fld x (a + b) k := by
  apply BitVec.eq_of_getLsbD_eq
  intro i hi
  simp [fld, hi, show b + i < l by omega, Nat.add_assoc]

end Sys2Proof
end

