-- ==== Sys2Proof/Laws/Memory.lean ====
section
/-! SUPPORT. What a byte memory's operations do: a write keeps the canonical form, and a read after a write gives the bytes written
inside and the old byte outside. -/

namespace Sys2Proof.Machine

/-! ## The canonical form -/

/-- Keys strictly rising. -/
def sortedCells (l : List Host.Cell) : Prop := (l.map Prod.fst).Pairwise (· < ·)

theorem sortedCells_cons {c : Host.Cell} {l : List Host.Cell} : sortedCells (c :: l) ↔ (∀ d ∈ l, c.1 < d.1) ∧ sortedCells l := by
  simp [sortedCells, List.pairwise_cons]

theorem sortedCells_append {l r : List Host.Cell} (hl : sortedCells l) (hr : sortedCells r) (h : ∀ c ∈ l, ∀ d ∈ r, c.1 < d.1) :
    sortedCells (l ++ r) := by
  simp only [sortedCells, List.map_append, List.pairwise_append]
  refine ⟨hl, hr, ?_⟩
  simp only [List.mem_map, forall_exists_index, and_imp, forall_apply_eq_imp_iff₂]
  exact h

theorem Mem.wf_iff {m : Mem} : m.wf = true ↔ sortedCells m.cells ∧ ∀ c ∈ m.cells, Mem.kept m.gen c.2 = true := by
  simp [Mem.wf, sortedCells]

theorem mem_below {a : Nat} {l tail : List Host.Cell} {c : Host.Cell} (h : c ∈ Mem.below a l tail) : (c ∈ l ∧ c.1 < a) ∨ c ∈ tail := by
  induction l with
  | nil => exact .inr h
  | cons x xs ih =>
    obtain ⟨k, v⟩ := x
    simp only [Mem.below] at h
    split at h
    · rename_i hk
      rcases List.mem_cons.mp h with rfl | h
      · exact .inl ⟨List.mem_cons_self .., hk⟩
      · exact (ih h).imp (fun p => ⟨List.mem_cons_of_mem _ p.1, p.2⟩) id
    · exact .inr h

theorem mem_from {a : Nat} {l : List Host.Cell} {c : Host.Cell} (h : c ∈ Mem.from a l) : c ∈ l := by
  induction l with
  | nil => exact h
  | cons x xs ih =>
    obtain ⟨k, v⟩ := x
    simp only [Mem.from] at h
    split at h
    · exact List.mem_cons_of_mem _ (ih h)
    · exact h

theorem from_ge {a : Nat} {l : List Host.Cell} (hs : sortedCells l) {c : Host.Cell} (h : c ∈ Mem.from a l) : a ≤ c.1 := by
  induction l with
  | nil => cases h
  | cons x xs ih =>
    obtain ⟨k, v⟩ := x
    rw [sortedCells_cons] at hs
    simp only [Mem.from] at h
    split at h
    · exact ih hs.2 h
    · rcases List.mem_cons.mp h with rfl | h
      · simpa using ‹¬ k < a›
      · have := hs.1 c h; omega

theorem from_sorted {a : Nat} {l : List Host.Cell} (hs : sortedCells l) : sortedCells (Mem.from a l) := by
  induction l with
  | nil => exact hs
  | cons x xs ih =>
    obtain ⟨k, v⟩ := x
    simp only [Mem.from]
    split
    · exact ih (sortedCells_cons.mp hs).2
    · exact hs

theorem below_sorted {a : Nat} {l tail : List Host.Cell} (hs : sortedCells l) (ht : sortedCells tail) (hge : ∀ c ∈ tail, a ≤ c.1) :
    sortedCells (Mem.below a l tail) := by
  induction l with
  | nil => exact ht
  | cons x xs ih =>
    obtain ⟨k, v⟩ := x
    rw [sortedCells_cons] at hs
    simp only [Mem.below]
    split
    · rename_i hk
      refine sortedCells_cons.mpr ⟨fun d hd => ?_, ih hs.2⟩
      rcases mem_below hd with ⟨h, -⟩ | h
      · exact hs.1 d h
      · have := hge d h; simp only at hk ⊢; omega
    · exact ht

theorem mem_block {gen a : Nat} {bs : List Byte} {c : Host.Cell} (h : c ∈ Mem.block gen a bs) :
    a ≤ c.1 ∧ c.1 < a + bs.length ∧ Mem.kept gen c.2 = true := by
  induction bs generalizing a with
  | nil => cases h
  | cons b bs ih =>
    simp only [Mem.block] at h
    split at h
    · rcases List.mem_cons.mp h with rfl | h
      · rename_i hk; exact ⟨Nat.le_refl _, by simp, hk⟩
      · obtain ⟨h1, h2, h3⟩ := ih h; simp only [List.length_cons]; exact ⟨by omega, by omega, h3⟩
    · obtain ⟨h1, h2, h3⟩ := ih h; simp only [List.length_cons]; exact ⟨by omega, by omega, h3⟩

theorem block_sorted (gen a : Nat) (bs : List Byte) : sortedCells (Mem.block gen a bs) := by
  induction bs generalizing a with
  | nil => exact List.Pairwise.nil
  | cons b bs ih =>
    simp only [Mem.block]
    split
    · refine sortedCells_cons.mpr ⟨fun d hd => ?_, ih _⟩
      have := mem_block hd; simp only; omega
    · exact ih _

/-- Nothing is listed in a fresh store. -/
@[simp] theorem Mem.empty_wf (gen : Nat) : (Mem.empty gen).wf = true := by simp [Mem.wf, Mem.empty]

/-- A write keeps the canonical form. -/
theorem Mem.write_wf {m : Mem} (h : m.wf = true) (a : Nat) (bs : List Byte) : (m.write a bs).wf = true := by
  rw [Mem.wf_iff] at h ⊢
  obtain ⟨hs, hk⟩ := h
  have ht : sortedCells (Mem.block m.gen a bs ++ Mem.from (a + bs.length) m.cells) :=
    sortedCells_append (block_sorted ..) (from_sorted hs) (fun c hc d hd => by
      have := mem_block hc; have := from_ge hs hd; omega)
  refine ⟨below_sorted hs ht (fun c hc => ?_), fun c hc => ?_⟩
  · rcases List.mem_append.mp hc with h | h
    · exact (mem_block h).1
    · have := from_ge hs h; omega
  · rcases mem_below hc with ⟨h, -⟩ | h
    · exact hk c h
    · rcases List.mem_append.mp h with h | h
      · exact (mem_block h).2.2
      · exact hk c (mem_from h)

theorem Mem.put_wf {m : Mem} (h : m.wf = true) (a n v : Nat) : (m.put a n v).wf = true := Mem.write_wf h a _

@[simp] theorem Mem.write_gen (m : Mem) (a : Nat) (bs : List Byte) : (m.write a bs).gen = m.gen := rfl
@[simp] theorem Mem.put_gen (m : Mem) (a n v : Nat) : (m.put a n v).gen = m.gen := rfl

/-! ## Reading -/

@[simp] theorem Mem.read_empty (gen a : Nat) : (Mem.empty gen).read a = Mem.blank gen a := rfl

theorem readCells_blank {gen x : Nat} {l : List Host.Cell} (h : ∀ c ∈ l.head?, x < c.1) : Mem.readCells gen l x = Mem.blank gen x := by
  cases l with
  | nil => rfl
  | cons c l =>
    obtain ⟨k, v⟩ := c
    have := h (k, v) rfl
    simp only at this
    simp [Mem.readCells, this]

theorem head_from (a : Nat) (l : List Host.Cell) : ∀ c ∈ (Mem.from a l).head?, a ≤ c.1 := by
  induction l with
  | nil => simp [Mem.from]
  | cons c l ih =>
    obtain ⟨k, v⟩ := c
    simp only [Mem.from]
    split
    · exact ih
    · intro c hc; cases hc; simpa using ‹¬ k < a›

theorem head_block {gen : Nat} (bs : List Byte) (a : Nat) (tail : List Host.Cell) (h : ∀ c ∈ tail.head?, a + bs.length ≤ c.1) :
    ∀ c ∈ (Mem.block gen a bs ++ tail).head?, a ≤ c.1 := by
  intro c hc
  rw [List.head?_append] at hc
  cases hb : (Mem.block gen a bs).head? with
  | none => rw [hb] at hc; have := h c hc; omega
  | some d => rw [hb] at hc; cases hc; exact (mem_block (List.mem_of_head? hb)).1

theorem readCells_below {gen a x : Nat} {l tail : List Host.Cell} (h : ∀ c ∈ tail.head?, a ≤ c.1) :
    Mem.readCells gen (Mem.below a l tail) x = if x < a then Mem.readCells gen l x else Mem.readCells gen tail x := by
  induction l with
  | nil =>
    simp only [Mem.below]
    split
    · rename_i hx; rw [readCells_blank (fun c hc => by have := h c hc; omega)]; rfl
    · rfl
  | cons c l ih =>
    obtain ⟨k, v⟩ := c
    simp only [Mem.below]
    split
    · rename_i hk
      simp only [Mem.readCells, ih]
      by_cases hx : x < a
      · simp [hx]
      · have h1 : ¬ x < k := by omega
        have h2 : ¬ x = k := by omega
        simp [hx, h1, h2]
    · rename_i hk
      by_cases hx : x < a
      · have h1 : x < k := by omega
        simp only [hx, if_true, Mem.readCells, h1]
        exact readCells_blank (fun c hc => by have := h c hc; omega)
      · simp [hx]

theorem readCells_from {gen a x : Nat} (hx : a ≤ x) (l : List Host.Cell) : Mem.readCells gen (Mem.from a l) x = Mem.readCells gen l x := by
  induction l with
  | nil => rfl
  | cons c l ih =>
    obtain ⟨k, v⟩ := c
    simp only [Mem.from]
    split
    · have h1 : ¬ x < k := by omega
      have h2 : ¬ x = k := by omega
      simp [Mem.readCells, ih, h1, h2]
    · rfl

theorem blank_of_not_kept {gen x : Nat} {b : Byte} (h : ¬ Mem.kept gen b = true) : Mem.blank gen x = b := by
  simp only [Mem.kept, Bool.or_eq_true, bne_iff_ne, ne_eq, not_or, Decidable.not_not] at h
  simp [Mem.blank, h.1, h.2]

theorem readCells_block {gen : Nat} (bs : List Byte) (a x : Nat) (tail : List Host.Cell) (h : ∀ c ∈ tail.head?, a + bs.length ≤ c.1)
    (hx : a ≤ x) :
    Mem.readCells gen (Mem.block gen a bs ++ tail) x = if x < a + bs.length then bs.getD (x - a) 0 else Mem.readCells gen tail x := by
  induction bs generalizing a with
  | nil => simp [Mem.block, show ¬ x < a by omega]
  | cons b bs ih =>
    simp only [List.length_cons] at h ⊢
    have hr : ∀ c ∈ tail.head?, a + 1 + bs.length ≤ c.1 := fun c hc => by have := h c hc; omega
    have hrest : ∀ c ∈ (Mem.block gen (a + 1) bs ++ tail).head?, a < c.1 := fun c hc => by
      have := head_block bs (a + 1) tail hr c hc; omega
    by_cases he : x = a
    · subst he
      simp only [Mem.block, Nat.sub_self, List.getD_cons_zero, show x < x + (bs.length + 1) by omega, if_true]
      split
      · simp [Mem.readCells]
      · rename_i hk
        rw [readCells_blank hrest, blank_of_not_kept hk]
    · have hx' : a + 1 ≤ x := by omega
      have ih' := ih (a + 1) hr hx'
      have hidx : (b :: bs).getD (x - a) 0 = bs.getD (x - (a + 1)) 0 := by
        rw [show x - a = (x - (a + 1)) + 1 by omega, List.getD_cons_succ]
      have hle : (x < a + (bs.length + 1)) = (x < a + 1 + bs.length) := by rw [show a + (bs.length + 1) = a + 1 + bs.length by omega]
      simp only [Mem.block, hidx, hle]
      rw [← ih']
      split
      · simp [Mem.readCells, show ¬ x < a by omega, he]
      · rfl

/-- A byte after a write, whatever the store's form: what was written inside, what stood there outside. -/
theorem Mem.read_write (m : Mem) (a x : Nat) (bs : List Byte) :
    (m.write a bs).read x = if a ≤ x ∧ x < a + bs.length then bs.getD (x - a) 0 else m.read x := by
  have hf := head_from (a + bs.length) m.cells
  show Mem.readCells m.gen (Mem.below a m.cells _) x = _
  rw [readCells_below (head_block bs a _ hf)]
  by_cases hx : x < a
  · simp [hx, show ¬ a ≤ x by omega, Mem.read]
  · rw [if_neg hx, readCells_block _ _ _ _ hf (by omega)]
    by_cases hb : x < a + bs.length
    · simp [hb, show a ≤ x by omega]
    · simp only [hb, if_false, and_false]
      exact readCells_from (by omega) _

/-- Outside the bytes written a read gives what it gave. -/
theorem Mem.read_write_other (m : Mem) {a x : Nat} {bs : List Byte} (hx : x < a ∨ a + bs.length ≤ x) :
    (m.write a bs).read x = m.read x := by
  rw [Mem.read_write, if_neg (by omega)]

@[simp] theorem leBytes_length (n v : Nat) : (leBytes n v).length = n := by simp [leBytes]

theorem readRun_length (gen : Nat) (n : Nat) (l : List Host.Cell) (a : Nat) : (Mem.readRun gen n l a).length = n := by
  induction n generalizing l a with
  | zero => rfl
  | succ n ih =>
    cases l with
    | nil => simp [Mem.readRun, ih]
    | cons c l => obtain ⟨k, v⟩ := c; simp only [Mem.readRun]; split <;> simp [ih]

@[simp] theorem Mem.bytes_length (m : Mem) (a n : Nat) : (m.bytes a n).length = n := readRun_length ..

theorem readRun_eq {gen n a : Nat} {l : List Host.Cell} (hs : sortedCells l) (hge : ∀ c ∈ l, a ≤ c.1) :
    Mem.readRun gen n l a = (List.range n).map (fun i => Mem.readCells gen l (a + i)) := by
  induction n generalizing l a with
  | zero => rfl
  | succ n ih =>
    rw [List.range_succ_eq_map, List.map_cons, List.map_map]
    cases l with
    | nil =>
      simp only [Mem.readRun]
      rw [ih (l := []) hs (by simp)]
      simp [Mem.readCells, Function.comp_def, Nat.add_assoc, Nat.add_comm 1]
    | cons c l =>
      obtain ⟨k, v⟩ := c
      have hk := hge (k, v) (List.mem_cons_self ..)
      simp only at hk
      obtain ⟨h1, h2⟩ := sortedCells_cons.mp hs
      simp only [Mem.readRun]
      split
      · rename_i hlt
        rw [ih hs (fun c hc => by rcases List.mem_cons.mp hc with rfl | hc; · exact hlt
                                  · have := h1 c hc; simp only at this; omega)]
        simp [Mem.readCells, Function.comp_def, Nat.add_assoc, Nat.add_comm 1, hlt]
      · rename_i hlt
        have hak : a = k := by omega
        subst hak
        rw [ih h2 (fun c hc => by have := h1 c hc; simp only at this; omega)]
        simp only [Nat.add_zero, Mem.readCells, Nat.lt_irrefl, if_false, if_true, List.cons.injEq, true_and, Function.comp_def]
        apply List.map_congr_left
        intro i _
        rw [if_neg (by omega), if_neg (by omega)]
        congr 1; omega

/-- Reading a run of bytes is reading each. -/
theorem Mem.bytes_eq {m : Mem} (h : m.wf = true) (a n : Nat) : m.bytes a n = (List.range n).map (fun i => m.read (a + i)) := by
  obtain ⟨hs, -⟩ := Mem.wf_iff.mp h
  show Mem.readRun m.gen n (Mem.from a m.cells) a = _
  rw [readRun_eq (from_sorted hs) (fun c hc => from_ge hs hc)]
  apply List.map_congr_left
  intro i _
  exact readCells_from (by omega) _

/-- The bytes written are read back. -/
theorem Mem.bytes_write {m : Mem} (h : m.wf = true) (a : Nat) (bs : List Byte) : (m.write a bs).bytes a bs.length = bs := by
  rw [Mem.bytes_eq (Mem.write_wf h a bs)]
  apply List.ext_getElem
  · simp
  · intro i h1 h2
    simp only [List.length_map, List.length_range] at h1
    simp only [List.getElem_map, List.getElem_range, Mem.read_write]
    rw [if_pos (by omega), show a + i - a = i by omega, List.getD_eq_getElem?_getD, List.getElem?_eq_getElem h1, Option.getD_some]

end Sys2Proof.Machine
end

