-- ==== Sys2Proof/Laws/State.lean ====
section
/-! SUPPORT. What each update of the state leaves in each of its fields: true by unfolding, and cited so that no proof unfolds a
record update. -/

namespace Sys2Proof.Machine

/-! ## `setCore` -/

@[simp] theorem State.setCore_pcyc (s : State) (k : Core) : (s.setCore k).pcyc = s.pcyc := rfl
@[simp] theorem State.setCore_agenda (s : State) (k : Core) : (s.setCore k).agenda = s.agenda := rfl
@[simp] theorem State.setCore_turn (s : State) (k : Core) : (s.setCore k).turn = s.turn := rfl
@[simp] theorem State.setCore_cur (s : State) (k : Core) : (s.setCore k).cur = s.cur := rfl
@[simp] theorem State.setCore_free (s : State) (k : Core) : (s.setCore k).free = s.free := rfl
@[simp] theorem State.setCore_gens (s : State) (k : Core) : (s.setCore k).gens = s.gens := rfl
@[simp] theorem State.setCore_stamps (s : State) (k : Core) : (s.setCore k).stamps = s.stamps := rfl
@[simp] theorem State.setCore_power (s : State) (k : Core) : (s.setCore k).power = s.power := rfl
@[simp] theorem State.setCore_rot (s : State) (k : Core) : (s.setCore k).rot = s.rot := rfl
@[simp] theorem State.setCore_ports (s : State) (k : Core) : (s.setCore k).ports = s.ports := rfl
@[simp] theorem State.setCore_sysSelf (s : State) (k : Core) : (s.setCore k).sysSelf = s.sysSelf := rfl
@[simp] theorem State.setCore_routes (s : State) (k : Core) : (s.setCore k).routes = s.routes := rfl
@[simp] theorem State.setCore_featMask (s : State) (k : Core) : (s.setCore k).featMask = s.featMask := rfl
@[simp] theorem State.setCore_fns (s : State) (k : Core) : (s.setCore k).fns = s.fns := rfl
@[simp] theorem State.setCore_runs (s : State) (k : Core) : (s.setCore k).runs = s.runs := rfl
@[simp] theorem State.setCore_nextRun (s : State) (k : Core) : (s.setCore k).nextRun = s.nextRun := rfl
@[simp] theorem State.setCore_nextOrder (s : State) (k : Core) : (s.setCore k).nextOrder = s.nextOrder := rfl
@[simp] theorem State.setCore_cores (s : State) (k : Core) :
    (s.setCore k).cores = s.cores.map (fun x => if x.no == k.no then k else x) := rfl
@[simp] theorem State.setCore_parked (s : State) (k : Core) : (s.setCore k).parked = s.parked := rfl
@[simp] theorem State.setCore_coreGen (s : State) (k : Core) : (s.setCore k).coreGen = s.coreGen := rfl
@[simp] theorem State.setCore_contexts (s : State) (k : Core) : (s.setCore k).contexts = s.contexts := rfl
@[simp] theorem State.setCore_nextContext (s : State) (k : Core) : (s.setCore k).nextContext = s.nextContext := rfl
@[simp] theorem State.setCore_halls (s : State) (k : Core) : (s.setCore k).halls = s.halls := rfl
@[simp] theorem State.setCore_lines (s : State) (k : Core) : (s.setCore k).lines = s.lines := rfl
@[simp] theorem State.setCore_events (s : State) (k : Core) : (s.setCore k).events = s.events := rfl
@[simp] theorem State.setCore_vaults (s : State) (k : Core) : (s.setCore k).vaults = s.vaults := rfl
@[simp] theorem State.setCore_hbm (s : State) (k : Core) : (s.setCore k).hbm = s.hbm := rfl
@[simp] theorem State.setCore_poison (s : State) (k : Core) : (s.setCore k).poison = s.poison := rfl

/-! ## `addCore` -/

@[simp] theorem State.addCore_pcyc (s : State) (k : Core) : (s.addCore k).pcyc = s.pcyc := rfl
@[simp] theorem State.addCore_agenda (s : State) (k : Core) : (s.addCore k).agenda = s.agenda := rfl
@[simp] theorem State.addCore_turn (s : State) (k : Core) : (s.addCore k).turn = s.turn := rfl
@[simp] theorem State.addCore_cur (s : State) (k : Core) : (s.addCore k).cur = s.cur := rfl
@[simp] theorem State.addCore_free (s : State) (k : Core) : (s.addCore k).free = s.free := rfl
@[simp] theorem State.addCore_gens (s : State) (k : Core) : (s.addCore k).gens = s.gens := rfl
@[simp] theorem State.addCore_stamps (s : State) (k : Core) : (s.addCore k).stamps = s.stamps := rfl
@[simp] theorem State.addCore_power (s : State) (k : Core) : (s.addCore k).power = s.power := rfl
@[simp] theorem State.addCore_rot (s : State) (k : Core) : (s.addCore k).rot = s.rot := rfl
@[simp] theorem State.addCore_ports (s : State) (k : Core) : (s.addCore k).ports = s.ports := rfl
@[simp] theorem State.addCore_sysSelf (s : State) (k : Core) : (s.addCore k).sysSelf = s.sysSelf := rfl
@[simp] theorem State.addCore_routes (s : State) (k : Core) : (s.addCore k).routes = s.routes := rfl
@[simp] theorem State.addCore_featMask (s : State) (k : Core) : (s.addCore k).featMask = s.featMask := rfl
@[simp] theorem State.addCore_fns (s : State) (k : Core) : (s.addCore k).fns = s.fns := rfl
@[simp] theorem State.addCore_runs (s : State) (k : Core) : (s.addCore k).runs = s.runs := rfl
@[simp] theorem State.addCore_nextRun (s : State) (k : Core) : (s.addCore k).nextRun = s.nextRun := rfl
@[simp] theorem State.addCore_nextOrder (s : State) (k : Core) : (s.addCore k).nextOrder = s.nextOrder := rfl
@[simp] theorem State.addCore_cores (s : State) (k : Core) :
    (s.addCore k).cores = insertCore k s.cores := rfl
@[simp] theorem State.addCore_parked (s : State) (k : Core) :
    (s.addCore k).parked = s.parked.filter (fun x => x.no != k.no) := rfl
@[simp] theorem State.addCore_coreGen (s : State) (k : Core) : (s.addCore k).coreGen = s.coreGen := rfl
@[simp] theorem State.addCore_contexts (s : State) (k : Core) : (s.addCore k).contexts = s.contexts := rfl
@[simp] theorem State.addCore_nextContext (s : State) (k : Core) : (s.addCore k).nextContext = s.nextContext := rfl
@[simp] theorem State.addCore_halls (s : State) (k : Core) : (s.addCore k).halls = s.halls := rfl
@[simp] theorem State.addCore_lines (s : State) (k : Core) : (s.addCore k).lines = s.lines := rfl
@[simp] theorem State.addCore_events (s : State) (k : Core) : (s.addCore k).events = s.events := rfl
@[simp] theorem State.addCore_vaults (s : State) (k : Core) : (s.addCore k).vaults = s.vaults := rfl
@[simp] theorem State.addCore_hbm (s : State) (k : Core) : (s.addCore k).hbm = s.hbm := rfl
@[simp] theorem State.addCore_poison (s : State) (k : Core) : (s.addCore k).poison = s.poison := rfl

/-! ## `dropCores` -/

@[simp] theorem State.dropCores_pcyc (s : State) (p : Core → Bool) : (s.dropCores p).pcyc = s.pcyc := rfl
@[simp] theorem State.dropCores_agenda (s : State) (p : Core → Bool) : (s.dropCores p).agenda = s.agenda := rfl
@[simp] theorem State.dropCores_turn (s : State) (p : Core → Bool) : (s.dropCores p).turn = s.turn := rfl
@[simp] theorem State.dropCores_cur (s : State) (p : Core → Bool) : (s.dropCores p).cur = s.cur := rfl
@[simp] theorem State.dropCores_free (s : State) (p : Core → Bool) : (s.dropCores p).free = s.free := rfl
@[simp] theorem State.dropCores_gens (s : State) (p : Core → Bool) : (s.dropCores p).gens = s.gens := rfl
@[simp] theorem State.dropCores_stamps (s : State) (p : Core → Bool) : (s.dropCores p).stamps = s.stamps := rfl
@[simp] theorem State.dropCores_power (s : State) (p : Core → Bool) : (s.dropCores p).power = s.power := rfl
@[simp] theorem State.dropCores_rot (s : State) (p : Core → Bool) : (s.dropCores p).rot = s.rot := rfl
@[simp] theorem State.dropCores_ports (s : State) (p : Core → Bool) : (s.dropCores p).ports = s.ports := rfl
@[simp] theorem State.dropCores_sysSelf (s : State) (p : Core → Bool) : (s.dropCores p).sysSelf = s.sysSelf := rfl
@[simp] theorem State.dropCores_routes (s : State) (p : Core → Bool) : (s.dropCores p).routes = s.routes := rfl
@[simp] theorem State.dropCores_featMask (s : State) (p : Core → Bool) : (s.dropCores p).featMask = s.featMask := rfl
@[simp] theorem State.dropCores_fns (s : State) (p : Core → Bool) : (s.dropCores p).fns = s.fns := rfl
@[simp] theorem State.dropCores_runs (s : State) (p : Core → Bool) : (s.dropCores p).runs = s.runs := rfl
@[simp] theorem State.dropCores_nextRun (s : State) (p : Core → Bool) : (s.dropCores p).nextRun = s.nextRun := rfl
@[simp] theorem State.dropCores_nextOrder (s : State) (p : Core → Bool) : (s.dropCores p).nextOrder = s.nextOrder := rfl
@[simp] theorem State.dropCores_cores (s : State) (p : Core → Bool) :
    (s.dropCores p).cores = s.cores.filter (fun k => !p k) := rfl
@[simp] theorem State.dropCores_coreGen (s : State) (p : Core → Bool) : (s.dropCores p).coreGen = s.coreGen := rfl
@[simp] theorem State.dropCores_contexts (s : State) (p : Core → Bool) : (s.dropCores p).contexts = s.contexts := rfl
@[simp] theorem State.dropCores_nextContext (s : State) (p : Core → Bool) : (s.dropCores p).nextContext = s.nextContext := rfl
@[simp] theorem State.dropCores_halls (s : State) (p : Core → Bool) : (s.dropCores p).halls = s.halls := rfl
@[simp] theorem State.dropCores_lines (s : State) (p : Core → Bool) : (s.dropCores p).lines = s.lines := rfl
@[simp] theorem State.dropCores_events (s : State) (p : Core → Bool) : (s.dropCores p).events = s.events := rfl
@[simp] theorem State.dropCores_vaults (s : State) (p : Core → Bool) : (s.dropCores p).vaults = s.vaults := rfl
@[simp] theorem State.dropCores_hbm (s : State) (p : Core → Bool) : (s.dropCores p).hbm = s.hbm := rfl
@[simp] theorem State.dropCores_poison (s : State) (p : Core → Bool) : (s.dropCores p).poison = s.poison := rfl

/-! ## `dropCore` -/

@[simp] theorem State.dropCore_pcyc (s : State) (c : Nat) : (s.dropCore c).pcyc = s.pcyc := rfl
@[simp] theorem State.dropCore_agenda (s : State) (c : Nat) : (s.dropCore c).agenda = s.agenda := rfl
@[simp] theorem State.dropCore_turn (s : State) (c : Nat) : (s.dropCore c).turn = s.turn := rfl
@[simp] theorem State.dropCore_cur (s : State) (c : Nat) : (s.dropCore c).cur = s.cur := rfl
@[simp] theorem State.dropCore_free (s : State) (c : Nat) : (s.dropCore c).free = s.free := rfl
@[simp] theorem State.dropCore_gens (s : State) (c : Nat) : (s.dropCore c).gens = s.gens := rfl
@[simp] theorem State.dropCore_stamps (s : State) (c : Nat) : (s.dropCore c).stamps = s.stamps := rfl
@[simp] theorem State.dropCore_power (s : State) (c : Nat) : (s.dropCore c).power = s.power := rfl
@[simp] theorem State.dropCore_rot (s : State) (c : Nat) : (s.dropCore c).rot = s.rot := rfl
@[simp] theorem State.dropCore_ports (s : State) (c : Nat) : (s.dropCore c).ports = s.ports := rfl
@[simp] theorem State.dropCore_sysSelf (s : State) (c : Nat) : (s.dropCore c).sysSelf = s.sysSelf := rfl
@[simp] theorem State.dropCore_routes (s : State) (c : Nat) : (s.dropCore c).routes = s.routes := rfl
@[simp] theorem State.dropCore_featMask (s : State) (c : Nat) : (s.dropCore c).featMask = s.featMask := rfl
@[simp] theorem State.dropCore_fns (s : State) (c : Nat) : (s.dropCore c).fns = s.fns := rfl
@[simp] theorem State.dropCore_runs (s : State) (c : Nat) : (s.dropCore c).runs = s.runs := rfl
@[simp] theorem State.dropCore_nextRun (s : State) (c : Nat) : (s.dropCore c).nextRun = s.nextRun := rfl
@[simp] theorem State.dropCore_nextOrder (s : State) (c : Nat) : (s.dropCore c).nextOrder = s.nextOrder := rfl
@[simp] theorem State.dropCore_cores (s : State) (c : Nat) :
    (s.dropCore c).cores = s.cores.filter (fun k => !(k.no == c)) := rfl
@[simp] theorem State.dropCore_coreGen (s : State) (c : Nat) : (s.dropCore c).coreGen = s.coreGen := rfl
@[simp] theorem State.dropCore_contexts (s : State) (c : Nat) : (s.dropCore c).contexts = s.contexts := rfl
@[simp] theorem State.dropCore_nextContext (s : State) (c : Nat) : (s.dropCore c).nextContext = s.nextContext := rfl
@[simp] theorem State.dropCore_halls (s : State) (c : Nat) : (s.dropCore c).halls = s.halls := rfl
@[simp] theorem State.dropCore_lines (s : State) (c : Nat) : (s.dropCore c).lines = s.lines := rfl
@[simp] theorem State.dropCore_events (s : State) (c : Nat) : (s.dropCore c).events = s.events := rfl
@[simp] theorem State.dropCore_vaults (s : State) (c : Nat) : (s.dropCore c).vaults = s.vaults := rfl
@[simp] theorem State.dropCore_hbm (s : State) (c : Nat) : (s.dropCore c).hbm = s.hbm := rfl
@[simp] theorem State.dropCore_poison (s : State) (c : Nat) : (s.dropCore c).poison = s.poison := rfl

/-! ## `mapCore` -/

@[simp] theorem State.mapCore_pcyc (s : State) (c : Nat) (f : Core → Core) : (s.mapCore c f).pcyc = s.pcyc := rfl
@[simp] theorem State.mapCore_agenda (s : State) (c : Nat) (f : Core → Core) : (s.mapCore c f).agenda = s.agenda := rfl
@[simp] theorem State.mapCore_turn (s : State) (c : Nat) (f : Core → Core) : (s.mapCore c f).turn = s.turn := rfl
@[simp] theorem State.mapCore_cur (s : State) (c : Nat) (f : Core → Core) : (s.mapCore c f).cur = s.cur := rfl
@[simp] theorem State.mapCore_free (s : State) (c : Nat) (f : Core → Core) : (s.mapCore c f).free = s.free := rfl
@[simp] theorem State.mapCore_gens (s : State) (c : Nat) (f : Core → Core) : (s.mapCore c f).gens = s.gens := rfl
@[simp] theorem State.mapCore_stamps (s : State) (c : Nat) (f : Core → Core) : (s.mapCore c f).stamps = s.stamps := rfl
@[simp] theorem State.mapCore_power (s : State) (c : Nat) (f : Core → Core) : (s.mapCore c f).power = s.power := rfl
@[simp] theorem State.mapCore_rot (s : State) (c : Nat) (f : Core → Core) : (s.mapCore c f).rot = s.rot := rfl
@[simp] theorem State.mapCore_ports (s : State) (c : Nat) (f : Core → Core) : (s.mapCore c f).ports = s.ports := rfl
@[simp] theorem State.mapCore_sysSelf (s : State) (c : Nat) (f : Core → Core) : (s.mapCore c f).sysSelf = s.sysSelf := rfl
@[simp] theorem State.mapCore_routes (s : State) (c : Nat) (f : Core → Core) : (s.mapCore c f).routes = s.routes := rfl
@[simp] theorem State.mapCore_featMask (s : State) (c : Nat) (f : Core → Core) : (s.mapCore c f).featMask = s.featMask := rfl
@[simp] theorem State.mapCore_fns (s : State) (c : Nat) (f : Core → Core) : (s.mapCore c f).fns = s.fns := rfl
@[simp] theorem State.mapCore_runs (s : State) (c : Nat) (f : Core → Core) : (s.mapCore c f).runs = s.runs := rfl
@[simp] theorem State.mapCore_nextRun (s : State) (c : Nat) (f : Core → Core) : (s.mapCore c f).nextRun = s.nextRun := rfl
@[simp] theorem State.mapCore_nextOrder (s : State) (c : Nat) (f : Core → Core) : (s.mapCore c f).nextOrder = s.nextOrder := rfl
@[simp] theorem State.mapCore_cores (s : State) (c : Nat) (f : Core → Core) :
    (s.mapCore c f).cores = s.cores.map (fun x => if x.no == c then f x else x) := rfl
@[simp] theorem State.mapCore_parked (s : State) (c : Nat) (f : Core → Core) : (s.mapCore c f).parked = s.parked := rfl
@[simp] theorem State.mapCore_coreGen (s : State) (c : Nat) (f : Core → Core) : (s.mapCore c f).coreGen = s.coreGen := rfl
@[simp] theorem State.mapCore_contexts (s : State) (c : Nat) (f : Core → Core) : (s.mapCore c f).contexts = s.contexts := rfl
@[simp] theorem State.mapCore_nextContext (s : State) (c : Nat) (f : Core → Core) : (s.mapCore c f).nextContext = s.nextContext := rfl
@[simp] theorem State.mapCore_halls (s : State) (c : Nat) (f : Core → Core) : (s.mapCore c f).halls = s.halls := rfl
@[simp] theorem State.mapCore_lines (s : State) (c : Nat) (f : Core → Core) : (s.mapCore c f).lines = s.lines := rfl
@[simp] theorem State.mapCore_events (s : State) (c : Nat) (f : Core → Core) : (s.mapCore c f).events = s.events := rfl
@[simp] theorem State.mapCore_vaults (s : State) (c : Nat) (f : Core → Core) : (s.mapCore c f).vaults = s.vaults := rfl
@[simp] theorem State.mapCore_hbm (s : State) (c : Nat) (f : Core → Core) : (s.mapCore c f).hbm = s.hbm := rfl
@[simp] theorem State.mapCore_poison (s : State) (c : Nat) (f : Core → Core) : (s.mapCore c f).poison = s.poison := rfl

/-! ## `mapFn` -/

@[simp] theorem State.mapFn_pcyc (s : State) (n : Nat) (f : Fn → Fn) : (s.mapFn n f).pcyc = s.pcyc := rfl
@[simp] theorem State.mapFn_agenda (s : State) (n : Nat) (f : Fn → Fn) : (s.mapFn n f).agenda = s.agenda := rfl
@[simp] theorem State.mapFn_turn (s : State) (n : Nat) (f : Fn → Fn) : (s.mapFn n f).turn = s.turn := rfl
@[simp] theorem State.mapFn_cur (s : State) (n : Nat) (f : Fn → Fn) : (s.mapFn n f).cur = s.cur := rfl
@[simp] theorem State.mapFn_free (s : State) (n : Nat) (f : Fn → Fn) : (s.mapFn n f).free = s.free := rfl
@[simp] theorem State.mapFn_gens (s : State) (n : Nat) (f : Fn → Fn) : (s.mapFn n f).gens = s.gens := rfl
@[simp] theorem State.mapFn_stamps (s : State) (n : Nat) (f : Fn → Fn) : (s.mapFn n f).stamps = s.stamps := rfl
@[simp] theorem State.mapFn_power (s : State) (n : Nat) (f : Fn → Fn) : (s.mapFn n f).power = s.power := rfl
@[simp] theorem State.mapFn_rot (s : State) (n : Nat) (f : Fn → Fn) : (s.mapFn n f).rot = s.rot := rfl
@[simp] theorem State.mapFn_ports (s : State) (n : Nat) (f : Fn → Fn) : (s.mapFn n f).ports = s.ports := rfl
@[simp] theorem State.mapFn_sysSelf (s : State) (n : Nat) (f : Fn → Fn) : (s.mapFn n f).sysSelf = s.sysSelf := rfl
@[simp] theorem State.mapFn_routes (s : State) (n : Nat) (f : Fn → Fn) : (s.mapFn n f).routes = s.routes := rfl
@[simp] theorem State.mapFn_featMask (s : State) (n : Nat) (f : Fn → Fn) : (s.mapFn n f).featMask = s.featMask := rfl
@[simp] theorem State.mapFn_fns (s : State) (n : Nat) (f : Fn → Fn) :
    (s.mapFn n f).fns = s.fns.map (fun x => if x.no == n then f x else x) := rfl
@[simp] theorem State.mapFn_runs (s : State) (n : Nat) (f : Fn → Fn) : (s.mapFn n f).runs = s.runs := rfl
@[simp] theorem State.mapFn_nextRun (s : State) (n : Nat) (f : Fn → Fn) : (s.mapFn n f).nextRun = s.nextRun := rfl
@[simp] theorem State.mapFn_nextOrder (s : State) (n : Nat) (f : Fn → Fn) : (s.mapFn n f).nextOrder = s.nextOrder := rfl
@[simp] theorem State.mapFn_cores (s : State) (n : Nat) (f : Fn → Fn) : (s.mapFn n f).cores = s.cores := rfl
@[simp] theorem State.mapFn_parked (s : State) (n : Nat) (f : Fn → Fn) : (s.mapFn n f).parked = s.parked := rfl
@[simp] theorem State.mapFn_coreGen (s : State) (n : Nat) (f : Fn → Fn) : (s.mapFn n f).coreGen = s.coreGen := rfl
@[simp] theorem State.mapFn_contexts (s : State) (n : Nat) (f : Fn → Fn) : (s.mapFn n f).contexts = s.contexts := rfl
@[simp] theorem State.mapFn_nextContext (s : State) (n : Nat) (f : Fn → Fn) : (s.mapFn n f).nextContext = s.nextContext := rfl
@[simp] theorem State.mapFn_halls (s : State) (n : Nat) (f : Fn → Fn) : (s.mapFn n f).halls = s.halls := rfl
@[simp] theorem State.mapFn_lines (s : State) (n : Nat) (f : Fn → Fn) : (s.mapFn n f).lines = s.lines := rfl
@[simp] theorem State.mapFn_events (s : State) (n : Nat) (f : Fn → Fn) : (s.mapFn n f).events = s.events := rfl
@[simp] theorem State.mapFn_vaults (s : State) (n : Nat) (f : Fn → Fn) : (s.mapFn n f).vaults = s.vaults := rfl
@[simp] theorem State.mapFn_hbm (s : State) (n : Nat) (f : Fn → Fn) : (s.mapFn n f).hbm = s.hbm := rfl
@[simp] theorem State.mapFn_poison (s : State) (n : Nat) (f : Fn → Fn) : (s.mapFn n f).poison = s.poison := rfl

/-! ## `mapRun` -/

@[simp] theorem State.mapRun_pcyc (s : State) (id : Nat) (g : Run → Run) : (s.mapRun id g).pcyc = s.pcyc := rfl
@[simp] theorem State.mapRun_agenda (s : State) (id : Nat) (g : Run → Run) : (s.mapRun id g).agenda = s.agenda := rfl
@[simp] theorem State.mapRun_turn (s : State) (id : Nat) (g : Run → Run) : (s.mapRun id g).turn = s.turn := rfl
@[simp] theorem State.mapRun_cur (s : State) (id : Nat) (g : Run → Run) : (s.mapRun id g).cur = s.cur := rfl
@[simp] theorem State.mapRun_free (s : State) (id : Nat) (g : Run → Run) : (s.mapRun id g).free = s.free := rfl
@[simp] theorem State.mapRun_gens (s : State) (id : Nat) (g : Run → Run) : (s.mapRun id g).gens = s.gens := rfl
@[simp] theorem State.mapRun_stamps (s : State) (id : Nat) (g : Run → Run) : (s.mapRun id g).stamps = s.stamps := rfl
@[simp] theorem State.mapRun_power (s : State) (id : Nat) (g : Run → Run) : (s.mapRun id g).power = s.power := rfl
@[simp] theorem State.mapRun_rot (s : State) (id : Nat) (g : Run → Run) : (s.mapRun id g).rot = s.rot := rfl
@[simp] theorem State.mapRun_ports (s : State) (id : Nat) (g : Run → Run) : (s.mapRun id g).ports = s.ports := rfl
@[simp] theorem State.mapRun_sysSelf (s : State) (id : Nat) (g : Run → Run) : (s.mapRun id g).sysSelf = s.sysSelf := rfl
@[simp] theorem State.mapRun_routes (s : State) (id : Nat) (g : Run → Run) : (s.mapRun id g).routes = s.routes := rfl
@[simp] theorem State.mapRun_featMask (s : State) (id : Nat) (g : Run → Run) : (s.mapRun id g).featMask = s.featMask := rfl
@[simp] theorem State.mapRun_fns (s : State) (id : Nat) (g : Run → Run) : (s.mapRun id g).fns = s.fns := rfl
@[simp] theorem State.mapRun_runs (s : State) (id : Nat) (g : Run → Run) :
    (s.mapRun id g).runs = s.runs.map (fun r => if r.id == id then g r else r) := rfl
@[simp] theorem State.mapRun_nextRun (s : State) (id : Nat) (g : Run → Run) : (s.mapRun id g).nextRun = s.nextRun := rfl
@[simp] theorem State.mapRun_nextOrder (s : State) (id : Nat) (g : Run → Run) : (s.mapRun id g).nextOrder = s.nextOrder := rfl
@[simp] theorem State.mapRun_cores (s : State) (id : Nat) (g : Run → Run) : (s.mapRun id g).cores = s.cores := rfl
@[simp] theorem State.mapRun_parked (s : State) (id : Nat) (g : Run → Run) : (s.mapRun id g).parked = s.parked := rfl
@[simp] theorem State.mapRun_coreGen (s : State) (id : Nat) (g : Run → Run) : (s.mapRun id g).coreGen = s.coreGen := rfl
@[simp] theorem State.mapRun_contexts (s : State) (id : Nat) (g : Run → Run) : (s.mapRun id g).contexts = s.contexts := rfl
@[simp] theorem State.mapRun_nextContext (s : State) (id : Nat) (g : Run → Run) : (s.mapRun id g).nextContext = s.nextContext := rfl
@[simp] theorem State.mapRun_halls (s : State) (id : Nat) (g : Run → Run) : (s.mapRun id g).halls = s.halls := rfl
@[simp] theorem State.mapRun_lines (s : State) (id : Nat) (g : Run → Run) : (s.mapRun id g).lines = s.lines := rfl
@[simp] theorem State.mapRun_events (s : State) (id : Nat) (g : Run → Run) : (s.mapRun id g).events = s.events := rfl
@[simp] theorem State.mapRun_vaults (s : State) (id : Nat) (g : Run → Run) : (s.mapRun id g).vaults = s.vaults := rfl
@[simp] theorem State.mapRun_hbm (s : State) (id : Nat) (g : Run → Run) : (s.mapRun id g).hbm = s.hbm := rfl
@[simp] theorem State.mapRun_poison (s : State) (id : Nat) (g : Run → Run) : (s.mapRun id g).poison = s.poison := rfl

/-! ## `mapContext` -/

@[simp] theorem State.mapContext_pcyc (s : State) (id : Nat) (g : Context → Context) : (s.mapContext id g).pcyc = s.pcyc := rfl
@[simp] theorem State.mapContext_agenda (s : State) (id : Nat) (g : Context → Context) : (s.mapContext id g).agenda = s.agenda := rfl
@[simp] theorem State.mapContext_turn (s : State) (id : Nat) (g : Context → Context) : (s.mapContext id g).turn = s.turn := rfl
@[simp] theorem State.mapContext_cur (s : State) (id : Nat) (g : Context → Context) : (s.mapContext id g).cur = s.cur := rfl
@[simp] theorem State.mapContext_free (s : State) (id : Nat) (g : Context → Context) : (s.mapContext id g).free = s.free := rfl
@[simp] theorem State.mapContext_gens (s : State) (id : Nat) (g : Context → Context) : (s.mapContext id g).gens = s.gens := rfl
@[simp] theorem State.mapContext_stamps (s : State) (id : Nat) (g : Context → Context) : (s.mapContext id g).stamps = s.stamps := rfl
@[simp] theorem State.mapContext_power (s : State) (id : Nat) (g : Context → Context) : (s.mapContext id g).power = s.power := rfl
@[simp] theorem State.mapContext_rot (s : State) (id : Nat) (g : Context → Context) : (s.mapContext id g).rot = s.rot := rfl
@[simp] theorem State.mapContext_ports (s : State) (id : Nat) (g : Context → Context) : (s.mapContext id g).ports = s.ports := rfl
@[simp] theorem State.mapContext_sysSelf (s : State) (id : Nat) (g : Context → Context) : (s.mapContext id g).sysSelf = s.sysSelf := rfl
@[simp] theorem State.mapContext_routes (s : State) (id : Nat) (g : Context → Context) : (s.mapContext id g).routes = s.routes := rfl
@[simp] theorem State.mapContext_featMask (s : State) (id : Nat) (g : Context → Context) : (s.mapContext id g).featMask = s.featMask := rfl
@[simp] theorem State.mapContext_fns (s : State) (id : Nat) (g : Context → Context) : (s.mapContext id g).fns = s.fns := rfl
@[simp] theorem State.mapContext_runs (s : State) (id : Nat) (g : Context → Context) : (s.mapContext id g).runs = s.runs := rfl
@[simp] theorem State.mapContext_nextRun (s : State) (id : Nat) (g : Context → Context) : (s.mapContext id g).nextRun = s.nextRun := rfl
@[simp] theorem State.mapContext_nextOrder (s : State) (id : Nat) (g : Context → Context) : (s.mapContext id g).nextOrder = s.nextOrder := rfl
@[simp] theorem State.mapContext_cores (s : State) (id : Nat) (g : Context → Context) : (s.mapContext id g).cores = s.cores := rfl
@[simp] theorem State.mapContext_parked (s : State) (id : Nat) (g : Context → Context) : (s.mapContext id g).parked = s.parked := rfl
@[simp] theorem State.mapContext_coreGen (s : State) (id : Nat) (g : Context → Context) : (s.mapContext id g).coreGen = s.coreGen := rfl
@[simp] theorem State.mapContext_contexts (s : State) (id : Nat) (g : Context → Context) :
    (s.mapContext id g).contexts = s.contexts.map (fun x => if x.id == id then g x else x) := rfl
@[simp] theorem State.mapContext_nextContext (s : State) (id : Nat) (g : Context → Context) : (s.mapContext id g).nextContext = s.nextContext := rfl
@[simp] theorem State.mapContext_halls (s : State) (id : Nat) (g : Context → Context) : (s.mapContext id g).halls = s.halls := rfl
@[simp] theorem State.mapContext_lines (s : State) (id : Nat) (g : Context → Context) : (s.mapContext id g).lines = s.lines := rfl
@[simp] theorem State.mapContext_events (s : State) (id : Nat) (g : Context → Context) : (s.mapContext id g).events = s.events := rfl
@[simp] theorem State.mapContext_vaults (s : State) (id : Nat) (g : Context → Context) : (s.mapContext id g).vaults = s.vaults := rfl
@[simp] theorem State.mapContext_hbm (s : State) (id : Nat) (g : Context → Context) : (s.mapContext id g).hbm = s.hbm := rfl
@[simp] theorem State.mapContext_poison (s : State) (id : Nat) (g : Context → Context) : (s.mapContext id g).poison = s.poison := rfl

/-! ## `setHall` -/

@[simp] theorem State.setHall_pcyc (s : State) (h : Hall) : (s.setHall h).pcyc = s.pcyc := rfl
@[simp] theorem State.setHall_agenda (s : State) (h : Hall) : (s.setHall h).agenda = s.agenda := rfl
@[simp] theorem State.setHall_turn (s : State) (h : Hall) : (s.setHall h).turn = s.turn := rfl
@[simp] theorem State.setHall_cur (s : State) (h : Hall) : (s.setHall h).cur = s.cur := rfl
@[simp] theorem State.setHall_free (s : State) (h : Hall) : (s.setHall h).free = s.free := rfl
@[simp] theorem State.setHall_gens (s : State) (h : Hall) : (s.setHall h).gens = s.gens := rfl
@[simp] theorem State.setHall_stamps (s : State) (h : Hall) : (s.setHall h).stamps = s.stamps := rfl
@[simp] theorem State.setHall_power (s : State) (h : Hall) : (s.setHall h).power = s.power := rfl
@[simp] theorem State.setHall_rot (s : State) (h : Hall) : (s.setHall h).rot = s.rot := rfl
@[simp] theorem State.setHall_ports (s : State) (h : Hall) : (s.setHall h).ports = s.ports := rfl
@[simp] theorem State.setHall_sysSelf (s : State) (h : Hall) : (s.setHall h).sysSelf = s.sysSelf := rfl
@[simp] theorem State.setHall_routes (s : State) (h : Hall) : (s.setHall h).routes = s.routes := rfl
@[simp] theorem State.setHall_featMask (s : State) (h : Hall) : (s.setHall h).featMask = s.featMask := rfl
@[simp] theorem State.setHall_fns (s : State) (h : Hall) : (s.setHall h).fns = s.fns := rfl
@[simp] theorem State.setHall_runs (s : State) (h : Hall) : (s.setHall h).runs = s.runs := rfl
@[simp] theorem State.setHall_nextRun (s : State) (h : Hall) : (s.setHall h).nextRun = s.nextRun := rfl
@[simp] theorem State.setHall_nextOrder (s : State) (h : Hall) : (s.setHall h).nextOrder = s.nextOrder := rfl
@[simp] theorem State.setHall_cores (s : State) (h : Hall) : (s.setHall h).cores = s.cores := rfl
@[simp] theorem State.setHall_parked (s : State) (h : Hall) : (s.setHall h).parked = s.parked := rfl
@[simp] theorem State.setHall_coreGen (s : State) (h : Hall) : (s.setHall h).coreGen = s.coreGen := rfl
@[simp] theorem State.setHall_contexts (s : State) (h : Hall) : (s.setHall h).contexts = s.contexts := rfl
@[simp] theorem State.setHall_nextContext (s : State) (h : Hall) : (s.setHall h).nextContext = s.nextContext := rfl
@[simp] theorem State.setHall_lines (s : State) (h : Hall) : (s.setHall h).lines = s.lines := rfl
@[simp] theorem State.setHall_events (s : State) (h : Hall) : (s.setHall h).events = s.events := rfl
@[simp] theorem State.setHall_vaults (s : State) (h : Hall) : (s.setHall h).vaults = s.vaults := rfl
@[simp] theorem State.setHall_hbm (s : State) (h : Hall) : (s.setHall h).hbm = s.hbm := rfl
@[simp] theorem State.setHall_poison (s : State) (h : Hall) : (s.setHall h).poison = s.poison := rfl

/-! ## `unwalk` -/

@[simp] theorem State.unwalk_pcyc (s : State) (c : Nat) (n : Option Nat) : (s.unwalk c n).pcyc = s.pcyc := rfl
@[simp] theorem State.unwalk_agenda (s : State) (c : Nat) (n : Option Nat) : (s.unwalk c n).agenda = s.agenda := rfl
@[simp] theorem State.unwalk_turn (s : State) (c : Nat) (n : Option Nat) : (s.unwalk c n).turn = s.turn := rfl
@[simp] theorem State.unwalk_cur (s : State) (c : Nat) (n : Option Nat) : (s.unwalk c n).cur = s.cur := rfl
@[simp] theorem State.unwalk_free (s : State) (c : Nat) (n : Option Nat) : (s.unwalk c n).free = s.free := rfl
@[simp] theorem State.unwalk_gens (s : State) (c : Nat) (n : Option Nat) : (s.unwalk c n).gens = s.gens := rfl
@[simp] theorem State.unwalk_stamps (s : State) (c : Nat) (n : Option Nat) : (s.unwalk c n).stamps = s.stamps := rfl
@[simp] theorem State.unwalk_power (s : State) (c : Nat) (n : Option Nat) : (s.unwalk c n).power = s.power := rfl
@[simp] theorem State.unwalk_rot (s : State) (c : Nat) (n : Option Nat) : (s.unwalk c n).rot = s.rot := rfl
@[simp] theorem State.unwalk_ports (s : State) (c : Nat) (n : Option Nat) : (s.unwalk c n).ports = s.ports := rfl
@[simp] theorem State.unwalk_sysSelf (s : State) (c : Nat) (n : Option Nat) : (s.unwalk c n).sysSelf = s.sysSelf := rfl
@[simp] theorem State.unwalk_routes (s : State) (c : Nat) (n : Option Nat) : (s.unwalk c n).routes = s.routes := rfl
@[simp] theorem State.unwalk_featMask (s : State) (c : Nat) (n : Option Nat) : (s.unwalk c n).featMask = s.featMask := rfl
@[simp] theorem State.unwalk_fns (s : State) (c : Nat) (n : Option Nat) : (s.unwalk c n).fns = s.fns := rfl
@[simp] theorem State.unwalk_runs (s : State) (c : Nat) (n : Option Nat) : (s.unwalk c n).runs = s.runs := rfl
@[simp] theorem State.unwalk_nextRun (s : State) (c : Nat) (n : Option Nat) : (s.unwalk c n).nextRun = s.nextRun := rfl
@[simp] theorem State.unwalk_nextOrder (s : State) (c : Nat) (n : Option Nat) : (s.unwalk c n).nextOrder = s.nextOrder := rfl
@[simp] theorem State.unwalk_cores (s : State) (c : Nat) (n : Option Nat) : (s.unwalk c n).cores = s.cores := rfl
@[simp] theorem State.unwalk_parked (s : State) (c : Nat) (n : Option Nat) : (s.unwalk c n).parked = s.parked := rfl
@[simp] theorem State.unwalk_coreGen (s : State) (c : Nat) (n : Option Nat) : (s.unwalk c n).coreGen = s.coreGen := rfl
@[simp] theorem State.unwalk_contexts (s : State) (c : Nat) (n : Option Nat) : (s.unwalk c n).contexts = s.contexts := rfl
@[simp] theorem State.unwalk_nextContext (s : State) (c : Nat) (n : Option Nat) : (s.unwalk c n).nextContext = s.nextContext := rfl
@[simp] theorem State.unwalk_lines (s : State) (c : Nat) (n : Option Nat) : (s.unwalk c n).lines = s.lines := rfl
@[simp] theorem State.unwalk_events (s : State) (c : Nat) (n : Option Nat) : (s.unwalk c n).events = s.events := rfl
@[simp] theorem State.unwalk_vaults (s : State) (c : Nat) (n : Option Nat) : (s.unwalk c n).vaults = s.vaults := rfl
@[simp] theorem State.unwalk_hbm (s : State) (c : Nat) (n : Option Nat) : (s.unwalk c n).hbm = s.hbm := rfl
@[simp] theorem State.unwalk_poison (s : State) (c : Nat) (n : Option Nat) : (s.unwalk c n).poison = s.poison := rfl

/-! ## `mapLine` -/

@[simp] theorem State.mapLine_pcyc (s : State) (n : Nat) (g : Line → Line) : (s.mapLine n g).pcyc = s.pcyc := rfl
@[simp] theorem State.mapLine_agenda (s : State) (n : Nat) (g : Line → Line) : (s.mapLine n g).agenda = s.agenda := rfl
@[simp] theorem State.mapLine_turn (s : State) (n : Nat) (g : Line → Line) : (s.mapLine n g).turn = s.turn := rfl
@[simp] theorem State.mapLine_cur (s : State) (n : Nat) (g : Line → Line) : (s.mapLine n g).cur = s.cur := rfl
@[simp] theorem State.mapLine_free (s : State) (n : Nat) (g : Line → Line) : (s.mapLine n g).free = s.free := rfl
@[simp] theorem State.mapLine_gens (s : State) (n : Nat) (g : Line → Line) : (s.mapLine n g).gens = s.gens := rfl
@[simp] theorem State.mapLine_stamps (s : State) (n : Nat) (g : Line → Line) : (s.mapLine n g).stamps = s.stamps := rfl
@[simp] theorem State.mapLine_power (s : State) (n : Nat) (g : Line → Line) : (s.mapLine n g).power = s.power := rfl
@[simp] theorem State.mapLine_rot (s : State) (n : Nat) (g : Line → Line) : (s.mapLine n g).rot = s.rot := rfl
@[simp] theorem State.mapLine_ports (s : State) (n : Nat) (g : Line → Line) : (s.mapLine n g).ports = s.ports := rfl
@[simp] theorem State.mapLine_sysSelf (s : State) (n : Nat) (g : Line → Line) : (s.mapLine n g).sysSelf = s.sysSelf := rfl
@[simp] theorem State.mapLine_routes (s : State) (n : Nat) (g : Line → Line) : (s.mapLine n g).routes = s.routes := rfl
@[simp] theorem State.mapLine_featMask (s : State) (n : Nat) (g : Line → Line) : (s.mapLine n g).featMask = s.featMask := rfl
@[simp] theorem State.mapLine_fns (s : State) (n : Nat) (g : Line → Line) : (s.mapLine n g).fns = s.fns := rfl
@[simp] theorem State.mapLine_runs (s : State) (n : Nat) (g : Line → Line) : (s.mapLine n g).runs = s.runs := rfl
@[simp] theorem State.mapLine_nextRun (s : State) (n : Nat) (g : Line → Line) : (s.mapLine n g).nextRun = s.nextRun := rfl
@[simp] theorem State.mapLine_nextOrder (s : State) (n : Nat) (g : Line → Line) : (s.mapLine n g).nextOrder = s.nextOrder := rfl
@[simp] theorem State.mapLine_cores (s : State) (n : Nat) (g : Line → Line) : (s.mapLine n g).cores = s.cores := rfl
@[simp] theorem State.mapLine_parked (s : State) (n : Nat) (g : Line → Line) : (s.mapLine n g).parked = s.parked := rfl
@[simp] theorem State.mapLine_coreGen (s : State) (n : Nat) (g : Line → Line) : (s.mapLine n g).coreGen = s.coreGen := rfl
@[simp] theorem State.mapLine_contexts (s : State) (n : Nat) (g : Line → Line) : (s.mapLine n g).contexts = s.contexts := rfl
@[simp] theorem State.mapLine_nextContext (s : State) (n : Nat) (g : Line → Line) : (s.mapLine n g).nextContext = s.nextContext := rfl
@[simp] theorem State.mapLine_halls (s : State) (n : Nat) (g : Line → Line) : (s.mapLine n g).halls = s.halls := rfl
@[simp] theorem State.mapLine_lines (s : State) (n : Nat) (g : Line → Line) :
    (s.mapLine n g).lines = s.lines.map (fun l => if l.no == n then g l else l) := rfl
@[simp] theorem State.mapLine_events (s : State) (n : Nat) (g : Line → Line) : (s.mapLine n g).events = s.events := rfl
@[simp] theorem State.mapLine_vaults (s : State) (n : Nat) (g : Line → Line) : (s.mapLine n g).vaults = s.vaults := rfl
@[simp] theorem State.mapLine_hbm (s : State) (n : Nat) (g : Line → Line) : (s.mapLine n g).hbm = s.hbm := rfl
@[simp] theorem State.mapLine_poison (s : State) (n : Nat) (g : Line → Line) : (s.mapLine n g).poison = s.poison := rfl

/-! ## `mapPort` -/

@[simp] theorem State.mapPort_pcyc (s : State) (n : Nat) (g : Port → Port) : (s.mapPort n g).pcyc = s.pcyc := rfl
@[simp] theorem State.mapPort_agenda (s : State) (n : Nat) (g : Port → Port) : (s.mapPort n g).agenda = s.agenda := rfl
@[simp] theorem State.mapPort_turn (s : State) (n : Nat) (g : Port → Port) : (s.mapPort n g).turn = s.turn := rfl
@[simp] theorem State.mapPort_cur (s : State) (n : Nat) (g : Port → Port) : (s.mapPort n g).cur = s.cur := rfl
@[simp] theorem State.mapPort_free (s : State) (n : Nat) (g : Port → Port) : (s.mapPort n g).free = s.free := rfl
@[simp] theorem State.mapPort_gens (s : State) (n : Nat) (g : Port → Port) : (s.mapPort n g).gens = s.gens := rfl
@[simp] theorem State.mapPort_stamps (s : State) (n : Nat) (g : Port → Port) : (s.mapPort n g).stamps = s.stamps := rfl
@[simp] theorem State.mapPort_power (s : State) (n : Nat) (g : Port → Port) : (s.mapPort n g).power = s.power := rfl
@[simp] theorem State.mapPort_rot (s : State) (n : Nat) (g : Port → Port) : (s.mapPort n g).rot = s.rot := rfl
@[simp] theorem State.mapPort_ports (s : State) (n : Nat) (g : Port → Port) :
    (s.mapPort n g).ports = s.ports.zipIdx.map (fun x => if x.2 == n then g x.1 else x.1) := rfl
@[simp] theorem State.mapPort_sysSelf (s : State) (n : Nat) (g : Port → Port) : (s.mapPort n g).sysSelf = s.sysSelf := rfl
@[simp] theorem State.mapPort_routes (s : State) (n : Nat) (g : Port → Port) : (s.mapPort n g).routes = s.routes := rfl
@[simp] theorem State.mapPort_featMask (s : State) (n : Nat) (g : Port → Port) : (s.mapPort n g).featMask = s.featMask := rfl
@[simp] theorem State.mapPort_fns (s : State) (n : Nat) (g : Port → Port) : (s.mapPort n g).fns = s.fns := rfl
@[simp] theorem State.mapPort_runs (s : State) (n : Nat) (g : Port → Port) : (s.mapPort n g).runs = s.runs := rfl
@[simp] theorem State.mapPort_nextRun (s : State) (n : Nat) (g : Port → Port) : (s.mapPort n g).nextRun = s.nextRun := rfl
@[simp] theorem State.mapPort_nextOrder (s : State) (n : Nat) (g : Port → Port) : (s.mapPort n g).nextOrder = s.nextOrder := rfl
@[simp] theorem State.mapPort_cores (s : State) (n : Nat) (g : Port → Port) : (s.mapPort n g).cores = s.cores := rfl
@[simp] theorem State.mapPort_parked (s : State) (n : Nat) (g : Port → Port) : (s.mapPort n g).parked = s.parked := rfl
@[simp] theorem State.mapPort_coreGen (s : State) (n : Nat) (g : Port → Port) : (s.mapPort n g).coreGen = s.coreGen := rfl
@[simp] theorem State.mapPort_contexts (s : State) (n : Nat) (g : Port → Port) : (s.mapPort n g).contexts = s.contexts := rfl
@[simp] theorem State.mapPort_nextContext (s : State) (n : Nat) (g : Port → Port) : (s.mapPort n g).nextContext = s.nextContext := rfl
@[simp] theorem State.mapPort_halls (s : State) (n : Nat) (g : Port → Port) : (s.mapPort n g).halls = s.halls := rfl
@[simp] theorem State.mapPort_lines (s : State) (n : Nat) (g : Port → Port) : (s.mapPort n g).lines = s.lines := rfl
@[simp] theorem State.mapPort_events (s : State) (n : Nat) (g : Port → Port) : (s.mapPort n g).events = s.events := rfl
@[simp] theorem State.mapPort_vaults (s : State) (n : Nat) (g : Port → Port) : (s.mapPort n g).vaults = s.vaults := rfl
@[simp] theorem State.mapPort_hbm (s : State) (n : Nat) (g : Port → Port) : (s.mapPort n g).hbm = s.hbm := rfl
@[simp] theorem State.mapPort_poison (s : State) (n : Nat) (g : Port → Port) : (s.mapPort n g).poison = s.poison := rfl

/-! ## The turn, a trap and a record -/

@[simp] theorem State.passTurn_pcyc (s : State) (c : Nat) : (s.passTurn c).pcyc = s.pcyc := by
  unfold State.passTurn; split <;> rfl
@[simp] theorem State.passTurn_agenda (s : State) (c : Nat) : (s.passTurn c).agenda = s.agenda := by
  unfold State.passTurn; split <;> rfl
@[simp] theorem State.passTurn_cur (s : State) (c : Nat) : (s.passTurn c).cur = s.cur := by
  unfold State.passTurn; split <;> rfl
@[simp] theorem State.passTurn_free (s : State) (c : Nat) : (s.passTurn c).free = s.free := by
  unfold State.passTurn; split <;> rfl
@[simp] theorem State.passTurn_gens (s : State) (c : Nat) : (s.passTurn c).gens = s.gens := by
  unfold State.passTurn; split <;> rfl
@[simp] theorem State.passTurn_stamps (s : State) (c : Nat) : (s.passTurn c).stamps = s.stamps := by
  unfold State.passTurn; split <;> rfl
@[simp] theorem State.passTurn_power (s : State) (c : Nat) : (s.passTurn c).power = s.power := by
  unfold State.passTurn; split <;> rfl
@[simp] theorem State.passTurn_rot (s : State) (c : Nat) : (s.passTurn c).rot = s.rot := by
  unfold State.passTurn; split <;> rfl
@[simp] theorem State.passTurn_ports (s : State) (c : Nat) : (s.passTurn c).ports = s.ports := by
  unfold State.passTurn; split <;> rfl
@[simp] theorem State.passTurn_sysSelf (s : State) (c : Nat) : (s.passTurn c).sysSelf = s.sysSelf := by
  unfold State.passTurn; split <;> rfl
@[simp] theorem State.passTurn_routes (s : State) (c : Nat) : (s.passTurn c).routes = s.routes := by
  unfold State.passTurn; split <;> rfl
@[simp] theorem State.passTurn_featMask (s : State) (c : Nat) : (s.passTurn c).featMask = s.featMask := by
  unfold State.passTurn; split <;> rfl
@[simp] theorem State.passTurn_fns (s : State) (c : Nat) : (s.passTurn c).fns = s.fns := by
  unfold State.passTurn; split <;> rfl
@[simp] theorem State.passTurn_runs (s : State) (c : Nat) : (s.passTurn c).runs = s.runs := by
  unfold State.passTurn; split <;> rfl
@[simp] theorem State.passTurn_nextRun (s : State) (c : Nat) : (s.passTurn c).nextRun = s.nextRun := by
  unfold State.passTurn; split <;> rfl
@[simp] theorem State.passTurn_nextOrder (s : State) (c : Nat) : (s.passTurn c).nextOrder = s.nextOrder := by
  unfold State.passTurn; split <;> rfl
@[simp] theorem State.passTurn_cores (s : State) (c : Nat) : (s.passTurn c).cores = s.cores := by
  unfold State.passTurn; split <;> rfl
@[simp] theorem State.passTurn_parked (s : State) (c : Nat) : (s.passTurn c).parked = s.parked := by
  unfold State.passTurn; split <;> rfl
@[simp] theorem State.passTurn_coreGen (s : State) (c : Nat) : (s.passTurn c).coreGen = s.coreGen := by
  unfold State.passTurn; split <;> rfl
@[simp] theorem State.passTurn_contexts (s : State) (c : Nat) : (s.passTurn c).contexts = s.contexts := by
  unfold State.passTurn; split <;> rfl
@[simp] theorem State.passTurn_nextContext (s : State) (c : Nat) : (s.passTurn c).nextContext = s.nextContext := by
  unfold State.passTurn; split <;> rfl
@[simp] theorem State.passTurn_halls (s : State) (c : Nat) : (s.passTurn c).halls = s.halls := by
  unfold State.passTurn; split <;> rfl
@[simp] theorem State.passTurn_lines (s : State) (c : Nat) : (s.passTurn c).lines = s.lines := by
  unfold State.passTurn; split <;> rfl
@[simp] theorem State.passTurn_events (s : State) (c : Nat) : (s.passTurn c).events = s.events := by
  unfold State.passTurn; split <;> rfl
@[simp] theorem State.passTurn_vaults (s : State) (c : Nat) : (s.passTurn c).vaults = s.vaults := by
  unfold State.passTurn; split <;> rfl
@[simp] theorem State.passTurn_hbm (s : State) (c : Nat) : (s.passTurn c).hbm = s.hbm := by
  unfold State.passTurn; split <;> rfl
@[simp] theorem State.passTurn_poison (s : State) (c : Nat) : (s.passTurn c).poison = s.poison := by
  unfold State.passTurn; split <;> rfl
theorem State.passTurn_turn_head (s : State) (c : Nat) (rest : List Nat) (h : s.turn = c :: rest) : (s.passTurn c).turn = rest := by
  unfold State.passTurn; simp [h]

@[simp] theorem State.trap_pcyc (s : State) (k : Core) (t : TrapInfo) : (s.trap k t).pcyc = s.pcyc := by
  simp [State.trap]
@[simp] theorem State.trap_agenda (s : State) (k : Core) (t : TrapInfo) : (s.trap k t).agenda = s.agenda := by
  simp [State.trap]
@[simp] theorem State.trap_cur (s : State) (k : Core) (t : TrapInfo) : (s.trap k t).cur = s.cur := by
  simp [State.trap]
@[simp] theorem State.trap_free (s : State) (k : Core) (t : TrapInfo) : (s.trap k t).free = s.free := by
  simp [State.trap]
@[simp] theorem State.trap_gens (s : State) (k : Core) (t : TrapInfo) : (s.trap k t).gens = s.gens := by
  simp [State.trap]
@[simp] theorem State.trap_stamps (s : State) (k : Core) (t : TrapInfo) : (s.trap k t).stamps = s.stamps := by
  simp [State.trap]
@[simp] theorem State.trap_power (s : State) (k : Core) (t : TrapInfo) : (s.trap k t).power = s.power := by
  simp [State.trap]
@[simp] theorem State.trap_rot (s : State) (k : Core) (t : TrapInfo) : (s.trap k t).rot = s.rot := by
  simp [State.trap]
@[simp] theorem State.trap_ports (s : State) (k : Core) (t : TrapInfo) : (s.trap k t).ports = s.ports := by
  simp [State.trap]
@[simp] theorem State.trap_sysSelf (s : State) (k : Core) (t : TrapInfo) : (s.trap k t).sysSelf = s.sysSelf := by
  simp [State.trap]
@[simp] theorem State.trap_routes (s : State) (k : Core) (t : TrapInfo) : (s.trap k t).routes = s.routes := by
  simp [State.trap]
@[simp] theorem State.trap_featMask (s : State) (k : Core) (t : TrapInfo) : (s.trap k t).featMask = s.featMask := by
  simp [State.trap]
@[simp] theorem State.trap_fns (s : State) (k : Core) (t : TrapInfo) : (s.trap k t).fns = s.fns := by
  simp [State.trap]
@[simp] theorem State.trap_runs (s : State) (k : Core) (t : TrapInfo) : (s.trap k t).runs = s.runs := by
  simp [State.trap]
@[simp] theorem State.trap_nextRun (s : State) (k : Core) (t : TrapInfo) : (s.trap k t).nextRun = s.nextRun := by
  simp [State.trap]
@[simp] theorem State.trap_nextOrder (s : State) (k : Core) (t : TrapInfo) : (s.trap k t).nextOrder = s.nextOrder := by
  simp [State.trap]
@[simp] theorem State.trap_parked (s : State) (k : Core) (t : TrapInfo) : (s.trap k t).parked = s.parked := by
  simp [State.trap]
@[simp] theorem State.trap_coreGen (s : State) (k : Core) (t : TrapInfo) : (s.trap k t).coreGen = s.coreGen := by
  simp [State.trap]
@[simp] theorem State.trap_contexts (s : State) (k : Core) (t : TrapInfo) : (s.trap k t).contexts = s.contexts := by
  simp [State.trap]
@[simp] theorem State.trap_nextContext (s : State) (k : Core) (t : TrapInfo) : (s.trap k t).nextContext = s.nextContext := by
  simp [State.trap]
@[simp] theorem State.trap_halls (s : State) (k : Core) (t : TrapInfo) : (s.trap k t).halls = s.halls := by
  simp [State.trap]
@[simp] theorem State.trap_lines (s : State) (k : Core) (t : TrapInfo) : (s.trap k t).lines = s.lines := by
  simp [State.trap]
@[simp] theorem State.trap_events (s : State) (k : Core) (t : TrapInfo) : (s.trap k t).events = s.events := by
  simp [State.trap]
@[simp] theorem State.trap_vaults (s : State) (k : Core) (t : TrapInfo) : (s.trap k t).vaults = s.vaults := by
  simp [State.trap]
@[simp] theorem State.trap_hbm (s : State) (k : Core) (t : TrapInfo) : (s.trap k t).hbm = s.hbm := by
  simp [State.trap]
@[simp] theorem State.trap_poison (s : State) (k : Core) (t : TrapInfo) : (s.trap k t).poison = s.poison := by
  simp [State.trap]

@[simp] theorem State.stamp_pcyc (s : State) (n : Nat) (src : W16) (t : Nat) : (s.stamp n src t).2.pcyc = s.pcyc := rfl
@[simp] theorem State.stamp_agenda (s : State) (n : Nat) (src : W16) (t : Nat) : (s.stamp n src t).2.agenda = s.agenda := rfl
@[simp] theorem State.stamp_turn (s : State) (n : Nat) (src : W16) (t : Nat) : (s.stamp n src t).2.turn = s.turn := rfl
@[simp] theorem State.stamp_cur (s : State) (n : Nat) (src : W16) (t : Nat) : (s.stamp n src t).2.cur = s.cur := rfl
@[simp] theorem State.stamp_free (s : State) (n : Nat) (src : W16) (t : Nat) : (s.stamp n src t).2.free = s.free := rfl
@[simp] theorem State.stamp_gens (s : State) (n : Nat) (src : W16) (t : Nat) : (s.stamp n src t).2.gens = s.gens := rfl
@[simp] theorem State.stamp_power (s : State) (n : Nat) (src : W16) (t : Nat) : (s.stamp n src t).2.power = s.power := rfl
@[simp] theorem State.stamp_rot (s : State) (n : Nat) (src : W16) (t : Nat) : (s.stamp n src t).2.rot = s.rot := rfl
@[simp] theorem State.stamp_ports (s : State) (n : Nat) (src : W16) (t : Nat) : (s.stamp n src t).2.ports = s.ports := rfl
@[simp] theorem State.stamp_sysSelf (s : State) (n : Nat) (src : W16) (t : Nat) : (s.stamp n src t).2.sysSelf = s.sysSelf := rfl
@[simp] theorem State.stamp_routes (s : State) (n : Nat) (src : W16) (t : Nat) : (s.stamp n src t).2.routes = s.routes := rfl
@[simp] theorem State.stamp_featMask (s : State) (n : Nat) (src : W16) (t : Nat) : (s.stamp n src t).2.featMask = s.featMask := rfl
@[simp] theorem State.stamp_fns (s : State) (n : Nat) (src : W16) (t : Nat) : (s.stamp n src t).2.fns = s.fns := rfl
@[simp] theorem State.stamp_runs (s : State) (n : Nat) (src : W16) (t : Nat) : (s.stamp n src t).2.runs = s.runs := rfl
@[simp] theorem State.stamp_nextRun (s : State) (n : Nat) (src : W16) (t : Nat) : (s.stamp n src t).2.nextRun = s.nextRun := rfl
@[simp] theorem State.stamp_nextOrder (s : State) (n : Nat) (src : W16) (t : Nat) : (s.stamp n src t).2.nextOrder = s.nextOrder := rfl
@[simp] theorem State.stamp_cores (s : State) (n : Nat) (src : W16) (t : Nat) : (s.stamp n src t).2.cores = s.cores := rfl
@[simp] theorem State.stamp_parked (s : State) (n : Nat) (src : W16) (t : Nat) : (s.stamp n src t).2.parked = s.parked := rfl
@[simp] theorem State.stamp_coreGen (s : State) (n : Nat) (src : W16) (t : Nat) : (s.stamp n src t).2.coreGen = s.coreGen := rfl
@[simp] theorem State.stamp_contexts (s : State) (n : Nat) (src : W16) (t : Nat) : (s.stamp n src t).2.contexts = s.contexts := rfl
@[simp] theorem State.stamp_nextContext (s : State) (n : Nat) (src : W16) (t : Nat) : (s.stamp n src t).2.nextContext = s.nextContext := rfl
@[simp] theorem State.stamp_halls (s : State) (n : Nat) (src : W16) (t : Nat) : (s.stamp n src t).2.halls = s.halls := rfl
@[simp] theorem State.stamp_lines (s : State) (n : Nat) (src : W16) (t : Nat) : (s.stamp n src t).2.lines = s.lines := rfl
@[simp] theorem State.stamp_events (s : State) (n : Nat) (src : W16) (t : Nat) : (s.stamp n src t).2.events = s.events := rfl
@[simp] theorem State.stamp_vaults (s : State) (n : Nat) (src : W16) (t : Nat) : (s.stamp n src t).2.vaults = s.vaults := rfl
@[simp] theorem State.stamp_hbm (s : State) (n : Nat) (src : W16) (t : Nat) : (s.stamp n src t).2.hbm = s.hbm := rfl
@[simp] theorem State.stamp_poison (s : State) (n : Nat) (src : W16) (t : Nat) : (s.stamp n src t).2.poison = s.poison := rfl

@[simp] theorem State.post_pcyc (s : State) (n : Nat) (r : Rec) : (s.post n r).pcyc = s.pcyc := rfl
@[simp] theorem State.post_agenda (s : State) (n : Nat) (r : Rec) : (s.post n r).agenda = s.agenda := rfl
@[simp] theorem State.post_turn (s : State) (n : Nat) (r : Rec) : (s.post n r).turn = s.turn := rfl
@[simp] theorem State.post_cur (s : State) (n : Nat) (r : Rec) : (s.post n r).cur = s.cur := rfl
@[simp] theorem State.post_free (s : State) (n : Nat) (r : Rec) : (s.post n r).free = s.free := rfl
@[simp] theorem State.post_gens (s : State) (n : Nat) (r : Rec) : (s.post n r).gens = s.gens := rfl
@[simp] theorem State.post_power (s : State) (n : Nat) (r : Rec) : (s.post n r).power = s.power := rfl
@[simp] theorem State.post_rot (s : State) (n : Nat) (r : Rec) : (s.post n r).rot = s.rot := rfl
@[simp] theorem State.post_ports (s : State) (n : Nat) (r : Rec) : (s.post n r).ports = s.ports := rfl
@[simp] theorem State.post_sysSelf (s : State) (n : Nat) (r : Rec) : (s.post n r).sysSelf = s.sysSelf := rfl
@[simp] theorem State.post_routes (s : State) (n : Nat) (r : Rec) : (s.post n r).routes = s.routes := rfl
@[simp] theorem State.post_featMask (s : State) (n : Nat) (r : Rec) : (s.post n r).featMask = s.featMask := rfl
@[simp] theorem State.post_runs (s : State) (n : Nat) (r : Rec) : (s.post n r).runs = s.runs := rfl
@[simp] theorem State.post_nextRun (s : State) (n : Nat) (r : Rec) : (s.post n r).nextRun = s.nextRun := rfl
@[simp] theorem State.post_nextOrder (s : State) (n : Nat) (r : Rec) : (s.post n r).nextOrder = s.nextOrder := rfl
@[simp] theorem State.post_cores (s : State) (n : Nat) (r : Rec) : (s.post n r).cores = s.cores := rfl
@[simp] theorem State.post_parked (s : State) (n : Nat) (r : Rec) : (s.post n r).parked = s.parked := rfl
@[simp] theorem State.post_coreGen (s : State) (n : Nat) (r : Rec) : (s.post n r).coreGen = s.coreGen := rfl
@[simp] theorem State.post_contexts (s : State) (n : Nat) (r : Rec) : (s.post n r).contexts = s.contexts := rfl
@[simp] theorem State.post_nextContext (s : State) (n : Nat) (r : Rec) : (s.post n r).nextContext = s.nextContext := rfl
@[simp] theorem State.post_halls (s : State) (n : Nat) (r : Rec) : (s.post n r).halls = s.halls := rfl
@[simp] theorem State.post_lines (s : State) (n : Nat) (r : Rec) : (s.post n r).lines = s.lines := rfl
@[simp] theorem State.post_events (s : State) (n : Nat) (r : Rec) : (s.post n r).events = s.events := rfl
@[simp] theorem State.post_vaults (s : State) (n : Nat) (r : Rec) : (s.post n r).vaults = s.vaults := rfl
@[simp] theorem State.post_hbm (s : State) (n : Nat) (r : Rec) : (s.post n r).hbm = s.hbm := rfl
@[simp] theorem State.post_poison (s : State) (n : Nat) (r : Rec) : (s.post n r).poison = s.poison := rfl

@[simp] theorem State.endTurn_pcyc (s : State) : (s.endTurn).pcyc = s.pcyc := by
  simp [State.endTurn]
@[simp] theorem State.endTurn_agenda (s : State) : (s.endTurn).agenda = s.agenda := by
  simp [State.endTurn]
@[simp] theorem State.endTurn_cur (s : State) : (s.endTurn).cur = s.cur := by
  simp [State.endTurn]
@[simp] theorem State.endTurn_free (s : State) : (s.endTurn).free = s.free := by
  simp [State.endTurn]
@[simp] theorem State.endTurn_gens (s : State) : (s.endTurn).gens = s.gens := by
  simp [State.endTurn]
@[simp] theorem State.endTurn_stamps (s : State) : (s.endTurn).stamps = s.stamps := by
  simp [State.endTurn]
@[simp] theorem State.endTurn_power (s : State) : (s.endTurn).power = s.power := by
  simp [State.endTurn]
@[simp] theorem State.endTurn_rot (s : State) : (s.endTurn).rot = s.rot := by
  simp [State.endTurn]
@[simp] theorem State.endTurn_ports (s : State) : (s.endTurn).ports = s.ports := by
  simp [State.endTurn]
@[simp] theorem State.endTurn_sysSelf (s : State) : (s.endTurn).sysSelf = s.sysSelf := by
  simp [State.endTurn]
@[simp] theorem State.endTurn_routes (s : State) : (s.endTurn).routes = s.routes := by
  simp [State.endTurn]
@[simp] theorem State.endTurn_featMask (s : State) : (s.endTurn).featMask = s.featMask := by
  simp [State.endTurn]
@[simp] theorem State.endTurn_fns (s : State) : (s.endTurn).fns = s.fns := by
  simp [State.endTurn]
@[simp] theorem State.endTurn_runs (s : State) : (s.endTurn).runs = s.runs := by
  simp [State.endTurn]
@[simp] theorem State.endTurn_nextRun (s : State) : (s.endTurn).nextRun = s.nextRun := by
  simp [State.endTurn]
@[simp] theorem State.endTurn_nextOrder (s : State) : (s.endTurn).nextOrder = s.nextOrder := by
  simp [State.endTurn]
@[simp] theorem State.endTurn_cores (s : State) : (s.endTurn).cores = s.cores := by
  simp [State.endTurn]
@[simp] theorem State.endTurn_parked (s : State) : (s.endTurn).parked = s.parked := by
  simp [State.endTurn]
@[simp] theorem State.endTurn_coreGen (s : State) : (s.endTurn).coreGen = s.coreGen := by
  simp [State.endTurn]
@[simp] theorem State.endTurn_contexts (s : State) : (s.endTurn).contexts = s.contexts := by
  simp [State.endTurn]
@[simp] theorem State.endTurn_nextContext (s : State) : (s.endTurn).nextContext = s.nextContext := by
  simp [State.endTurn]
@[simp] theorem State.endTurn_halls (s : State) : (s.endTurn).halls = s.halls := by
  simp [State.endTurn]
@[simp] theorem State.endTurn_lines (s : State) : (s.endTurn).lines = s.lines := by
  simp [State.endTurn]
@[simp] theorem State.endTurn_events (s : State) : (s.endTurn).events = s.events := by
  simp [State.endTurn]
@[simp] theorem State.endTurn_vaults (s : State) : (s.endTurn).vaults = s.vaults := by
  simp [State.endTurn]
@[simp] theorem State.endTurn_hbm (s : State) : (s.endTurn).hbm = s.hbm := by
  simp [State.endTurn]
@[simp] theorem State.endTurn_poison (s : State) : (s.endTurn).poison = s.poison := by
  simp [State.endTurn]

end Sys2Proof.Machine
end

