-- ==== Sys2Proof/Laws/Form.lean ====
section
/-! SUPPORT. What each operation on the state does to its memories and ports: each keeps their form. -/

namespace Sys2Proof.Machine

theorem form_update (s : State) (pcyc : Nat) (agenda : List (Nat × Instr)) (turn : List Nat) (cur free gens : Nat)
    (stamps : List ((Nat × W16) × Nat)) (power : Power) (rot : Rot) (sysSelf : W32) (routes : List (Nat × W32)) (featMask : List W32)
    (fns : List Fn) (runs : List Run) (nextRun nextOrder : Nat) (cores parked : List Core) (coreGen : Nat) (contexts : List Context) (nextContext : Nat)
    (halls : List Hall) (lines : List Line) (events : List (Nat × Carried)) (poison : List Nat) :
    State.Inv { pcyc, agenda, turn, cur, free, gens, stamps, power, rot, ports := s.ports, sysSelf, routes, featMask, fns, runs, nextRun
                nextOrder, cores, parked, coreGen, contexts, nextContext, halls, lines, events, vaults := s.vaults, hbm := s.hbm, poison } = s.Inv := rfl

theorem form_foldl {α : Type} (f : State → α → State) (l : List α) (s : State) (h : s.Inv) (hf : ∀ t a, t.Inv → (f t a).Inv) :
    (l.foldl f s).Inv := by
  induction l generalizing s with
  | nil => exact h
  | cons a l ih => exact ih _ (hf _ _ h)


theorem State.setCore_form (s : State) (k : Core) (h : s.Inv) : (s.setCore k).Inv := by
  unfold State.setCore
  repeat' first | with_reducible assumption | (intro _) | split | (simp only [form_update]) | (dsimp only)

theorem State.addCore_form (s : State) (k : Core) (h : s.Inv) : (s.addCore k).Inv := by
  unfold State.addCore
  repeat' first | with_reducible assumption | (intro _) | split | (simp only [form_update]) | (dsimp only)

theorem State.dropCores_form (s : State) (p : Core → Bool) (h : s.Inv) : (s.dropCores p).Inv := by
  unfold State.dropCores
  repeat' first | with_reducible assumption | (intro _) | split | (simp only [form_update]) | (dsimp only)

theorem State.dropCore_form (s : State) (c : Nat) (h : s.Inv) : (s.dropCore c).Inv := by
  unfold State.dropCore
  repeat' first
    | with_reducible assumption | (intro _) | with_reducible apply State.dropCores_form | split | (simp only [form_update])
    | (dsimp only)

theorem State.mapCore_form (s : State) (c : Nat) (f : Core → Core) (h : s.Inv) : (s.mapCore c f).Inv := by
  unfold State.mapCore
  repeat' first | with_reducible assumption | (intro _) | split | (simp only [form_update]) | (dsimp only)

theorem State.mapFn_form (s : State) (n : Nat) (f : Fn → Fn) (h : s.Inv) : (s.mapFn n f).Inv := by
  unfold State.mapFn
  repeat' first | with_reducible assumption | (intro _) | split | (simp only [form_update]) | (dsimp only)

theorem State.mapRun_form (s : State) (id : Nat) (g : Run → Run) (h : s.Inv) : (s.mapRun id g).Inv := by
  unfold State.mapRun
  repeat' first | with_reducible assumption | (intro _) | split | (simp only [form_update]) | (dsimp only)

theorem State.mapContext_form (s : State) (id : Nat) (g : Context → Context) (h : s.Inv) : (s.mapContext id g).Inv := by
  unfold State.mapContext
  repeat' first | with_reducible assumption | (intro _) | split | (simp only [form_update]) | (dsimp only)

theorem State.setHall_form (s : State) (x : Hall) (h : s.Inv) : (s.setHall x).Inv := h


theorem State.mapLine_form (s : State) (n : Nat) (g : Line → Line) (h : s.Inv) : (s.mapLine n g).Inv := by
  unfold State.mapLine
  repeat' first | with_reducible assumption | (intro _) | split | (simp only [form_update]) | (dsimp only)

theorem State.stamp_form (s : State) (fn : Nat) (src : W16) (tick : Nat) (h : s.Inv) : (s.stamp fn src tick).2.Inv := h

theorem State.post_form (s : State) (fn : Nat) (r : Rec) (h : s.Inv) : (s.post fn r).Inv := h


theorem State.passTurn_form (s : State) (c : Nat) (h : s.Inv) : (s.passTurn c).Inv := by
  unfold State.passTurn; split <;> exact h


theorem State.trap_form (s : State) (k : Core) (t : TrapInfo) (h : s.Inv) : (s.trap k t).Inv :=
  State.passTurn_form _ _ (State.setCore_form _ _ h)


theorem State.storeWrite_form (s : State) (p : Place) (bs : List Byte) (h : s.Inv) : (s.storeWrite p bs).Inv := by
  unfold State.storeWrite
  split
  · exact ⟨h.1, Mem.write_wf h.2.1 .., h.2.2⟩
  · exact ⟨Mem.write_wf h.1 .., h.2⟩


theorem State.cleanGranules_form (s : State) (p : Place) (n : Nat) (h : s.Inv) : (s.cleanGranules p n).Inv := by
  unfold State.cleanGranules
  repeat' first | with_reducible assumption | (intro _) | split | (simp only [form_update]) | (dsimp only)

theorem State.perform_form (s : State) (rid : Nat) (w : TapeWrite) (h : s.Inv) : (s.perform rid w).Inv := by
  unfold State.perform
  repeat' first
    | with_reducible assumption | (intro _) | with_reducible apply State.mapRun_form | with_reducible apply State.storeWrite_form
    | with_reducible apply State.cleanGranules_form | split | (simp only [form_update]) | (dsimp only)

theorem State.ringStore_form (s : State) (r : Run) (fn : Fn) (f : Flight) (t : BitVec 20) (record : Nat) (data : List Byte) (h : s.Inv) :
    (s.ringStore r fn f t record data).Inv := by
  unfold State.ringStore
  repeat' first
    | with_reducible assumption | (intro _) | with_reducible apply State.storeWrite_form | with_reducible apply State.cleanGranules_form
    | split | (simp only [form_update]) | (dsimp only)

theorem State.startWalk_form (s : State) (c run : Nat) (t : BitVec 20) (i : Nat) (window : Option (Nat × Nat)) (h : s.Inv) :
    (s.startWalk c run t i window).Inv := by
  unfold State.startWalk
  repeat' first
    | with_reducible assumption | (intro _) | with_reducible apply State.setHall_form | split | (simp only [form_update]) | (dsimp only)

theorem State.touchExtent_form (s : State) (c run : Nat) (t : BitVec 20) (i : Nat) (h : s.Inv) : (s.touchExtent c run t i).Inv := by
  unfold State.touchExtent
  repeat' first
    | with_reducible assumption | (intro _) | with_reducible apply State.setHall_form | split | (simp only [form_update]) | (dsimp only)

theorem State.arriveHome_form (s : State) (rid : Nat) (w : TapeWrite) (h : s.Inv) : (s.arriveHome rid w).Inv := by
  unfold State.arriveHome
  repeat' first
    | with_reducible assumption | (intro _) | with_reducible apply State.perform_form | split | (simp only [form_update]) | (dsimp only)

theorem State.landTape_form (s : State) (rid : Nat) (w : TapeWrite) (h : s.Inv) : (s.landTape rid w).Inv := by
  unfold State.landTape
  repeat' first
    | with_reducible assumption | (intro _) | with_reducible apply State.mapRun_form | with_reducible apply State.arriveHome_form
    | split | (simp only [form_update]) | (dsimp only)

theorem State.unwalk_form (s : State) (c : Nat) (n : Option Nat) (h : s.Inv) : (s.unwalk c n).Inv := h

theorem State.mapPort_form (s : State) (n : Nat) (g : Port → Port) (h : s.Inv) : (s.mapPort n g).Inv :=
  ⟨h.1, h.2.1, by simp [State.mapPort, h.2.2]⟩


theorem State.injectTo_form (s t : State) (d lane : Nat) (o : Option Nat) (b : List Byte) (h : s.Inv) (ht : s.injectTo d lane o b = some t) :
    t.Inv := by
  simp only [State.injectTo, Option.map_eq_some_iff] at ht
  obtain ⟨p, -, rfl⟩ := ht
  exact State.mapPort_form _ _ _ h

theorem State.inject_form (s t : State) (d lane : Nat) (o : Option Nat) (h : s.Inv) (ht : s.inject d lane o = some t) : t.Inv := by
  unfold State.inject at ht; split at ht
  · cases ht
  · exact State.injectTo_form { s with gens := s.gens + 1 } _ _ _ _ _ h ht

theorem State.tellEach_form (lane : Nat) (o : Option Nat) (ds : List (Option Nat)) (x : State × Bool) (h : x.1.Inv) :
    (State.tellEach lane o ds x).1.Inv := by
  induction ds generalizing x with
  | nil => exact h
  | cons d ds ih =>
    apply ih
    split
    · rename_i t ht
      obtain ⟨d, -, ht⟩ := Option.bind_eq_some_iff.mp ht
      exact State.inject_form _ _ _ _ _ h ht
    · exact h

theorem State.tell_form (s : State) (r : Run) (lane : Nat) (h : s.Inv) : (s.tell r lane).1.Inv := by
  unfold State.tell; split
  · exact h
  · exact State.tellEach_form _ _ _ _ h

theorem State.spoil_form (s : State) (p : Place) (n : Nat) (h : s.Inv) : (s.spoil p n).Inv := by
  unfold State.spoil
  repeat' first
    | with_reducible assumption | (intro _) | with_reducible apply State.storeWrite_form | split | (simp only [form_update])
    | (dsimp only)

theorem State.spoilRecord_form (s : State) (r : Run) (t : BitVec 20) (record : Nat) (h : s.Inv) : (s.spoilRecord r t record).Inv := by
  unfold State.spoilRecord
  repeat' first
    | with_reducible assumption | (intro _) | with_reducible apply State.spoil_form | split | (simp only [form_update]) | (dsimp only)

theorem State.leaveCells_form (s : State) (fn : Fn) (a : CellArray) (h : s.Inv) : (s.leaveCells fn a).Inv := by
  unfold State.leaveCells
  repeat' first
    | with_reducible assumption | (intro _) | with_reducible apply form_foldl | with_reducible apply State.storeWrite_form | split

theorem State.leaveArrays_form (s : State) (r : Run) (h : s.Inv) : (s.leaveArrays r).Inv := by
  unfold State.leaveArrays
  repeat' first
    | with_reducible assumption | (intro _) | with_reducible apply form_foldl | with_reducible apply State.leaveCells_form | split

theorem State.zeroBytes_form (s : State) (p : Place) (n : Nat) (h : s.Inv) : (s.zeroBytes p n).Inv :=
  State.cleanGranules_form _ _ _ (State.storeWrite_form _ _ _ h)

theorem State.zeroCells_form (s : State) (v : Nat) (a : CellArray) (h : s.Inv) : (s.zeroCells v a).Inv := by
  exact form_foldl _ _ _ h (fun _ _ ht => State.zeroBytes_form _ _ _ ht)

theorem State.giveSlots_form (s : State) (r : Run) (fn : Fn) (array : Nat) (h : s.Inv) : (s.giveSlots r fn array).Inv :=
  State.mapRun_form _ _ _ (form_foldl _ _ _ h (fun _ _ hs => State.leaveCells_form _ _ _ hs))

/-- An array takes slots, or nothing changes. -/
theorem State.takeSlots_form (s : State) (r : Run) (fn : Fn) (node array : Nat) (desc : W64) (h : s.Inv) (t : State)
    (ht : s.takeSlots r fn node array desc = some t) : t.Inv := by
  obtain ⟨v, -, hv⟩ := Option.bind_eq_some_iff.mp ht
  obtain ⟨sl, -, rfl⟩ := Option.map_eq_some_iff.mp hv
  exact State.mapRun_form _ _ _ (State.zeroCells_form _ _ _ (State.giveSlots_form _ _ _ _ h))

theorem State.recordTrap_form (s : State) (fn : Fn) (f : Flight) (k : Core) (t : TrapInfo) (dict : W64) (tick : Nat) (h : s.Inv) :
    (s.recordTrap fn f k t dict tick).1.Inv := by
  unfold State.recordTrap
  exact State.mapFn_form _ _ _ (State.stamp_form _ _ _ _ h)

theorem State.recordOpen_form (s : State) (r : Run) (h : s.Inv) : (s.recordOpen r).Inv := by
  unfold State.recordOpen
  repeat' first
    | with_reducible assumption | (intro _) | with_reducible apply form_foldl | with_reducible apply State.recordTrap_form | split

theorem State.dropRun_form (s : State) (r : Run) (h : s.Inv) : (s.dropRun r).Inv := by
  unfold State.dropRun
  repeat' first
    | with_reducible assumption | (intro _) | with_reducible apply State.dropCores_form | with_reducible apply State.leaveArrays_form
    | split | (simp only [form_update]) | (dsimp only)

theorem State.faultRun_form (s : State) (rid cause : Nat) (h : s.Inv) : (s.faultRun rid cause).Inv := by
  unfold State.faultRun
  repeat' first
    | with_reducible assumption | (intro _) | with_reducible apply form_foldl | with_reducible apply State.mapFn_form
    | with_reducible apply State.post_form | with_reducible apply State.tell_form | with_reducible apply State.spoilRecord_form
    | with_reducible apply State.dropRun_form | with_reducible apply State.recordOpen_form | split | (simp only [form_update])
    | (dsimp only)

theorem State.report_form (s : State) (rid lane : Nat) (h : s.Inv) : (s.report rid lane).Inv := by
  unfold State.report
  repeat' first
    | with_reducible assumption | (intro _) | with_reducible apply State.tell_form | with_reducible apply State.faultRun_form | split
    | (simp only [form_update]) | (dsimp only)

theorem State.landPend_form (s : State) (k : Core) (p : Pend) (h : s.Inv) : (s.landPend k p).Inv := by
  unfold State.landPend
  repeat' first
    | with_reducible assumption | (intro _) | with_reducible apply State.setCore_form | with_reducible apply State.trap_form | split
    | (simp only [form_update]) | (dsimp only)

theorem State.landNext_form (s : State) (c : Nat) (cls : LandClass) (h : s.Inv) : (s.landNext c cls).Inv := by
  unfold State.landNext
  repeat' first
    | with_reducible assumption | (intro _) | with_reducible apply State.landPend_form | split | (simp only [form_update])
    | (dsimp only)

theorem State.record_form (s : State) (k : Core) (t : TrapRec) (h : s.Inv) : (s.record k t).Inv := by
  unfold State.record
  repeat' first
    | with_reducible assumption | (intro _) | with_reducible apply State.mapFn_form | with_reducible apply State.stamp_form | split
    | (simp only [form_update]) | (dsimp only)

theorem State.stopRecord_form (s : State) (k : Core) (a : StopKind) (h : s.Inv) : (s.stopRecord k a).Inv := by
  unfold State.stopRecord
  repeat' first
    | with_reducible assumption | (intro _) | with_reducible apply State.record_form | split | (simp only [form_update]) | (dsimp only)

theorem State.freeze_form (s : State) (k : Core) (h : s.Inv) : (s.freeze k).Inv := by
  unfold State.freeze
  repeat' first
    | with_reducible assumption | (intro _) | with_reducible apply form_foldl | with_reducible apply State.setCore_form
    | with_reducible apply State.stopRecord_form | split | (simp only [form_update]) | (dsimp only)

theorem State.stopNow_form (s : State) (k : Core) (a : StopKind) (h : s.Inv) : (s.stopNow k a).Inv := by
  unfold State.stopNow
  repeat' first
    | with_reducible assumption | (intro _) | with_reducible apply State.setCore_form | with_reducible apply State.stopRecord_form
    | split | (simp only [form_update]) | (dsimp only)

theorem State.newWrite_form (s : State) (k : Core) (h : s.Inv) : (s.newWrite k).1.Inv := by
  unfold State.newWrite; split <;> exact h

theorem State.raise_form (s : State) (k : Core) (line : Nat) (h : s.Inv) : (s.raise k line).Inv := by
  unfold State.raise
  repeat' first
    | with_reducible assumption | (intro _) | with_reducible apply State.setCore_form | with_reducible apply State.mapLine_form | split
    | (simp only [form_update]) | (dsimp only)

theorem State.slackPassed_form (s : State) (c : Nat) (h : s.Inv) : (s.slackPassed c).Inv := by
  unfold State.slackPassed
  repeat' first
    | with_reducible assumption | (intro _) | with_reducible apply State.setCore_form | with_reducible apply State.faultRun_form | split
    | (simp only [form_update]) | (dsimp only)

theorem State.endTurn_form (s : State) (h : s.Inv) : (s.endTurn).Inv := by
  unfold State.endTurn
  repeat' first
    | with_reducible assumption | (intro _) | with_reducible apply State.passTurn_form | split | (simp only [form_update])
    | (dsimp only)

theorem State.spill_form (s : State) (c q : Nat) (data : List Byte) (h : s.Inv) : (s.spill c q data).Inv := by
  unfold State.spill
  repeat' first
    | with_reducible assumption | (intro _) | with_reducible apply State.setCore_form | with_reducible apply State.mapRun_form
    | with_reducible apply State.perform_form | split | (simp only [form_update]) | (dsimp only)

theorem State.solveEnd_form (s : State) (k : Core) (x : Decision) (held : Option TrapInfo) (h : s.Inv) : (s.solveEnd k x held).Inv := by
  unfold State.solveEnd
  repeat' first
    | with_reducible assumption | (intro _) | with_reducible apply State.setCore_form | with_reducible apply State.mapRun_form
    | with_reducible apply State.slackPassed_form | with_reducible apply State.endTurn_form | split | (simp only [form_update])
    | (dsimp only)

theorem State.fetchTrap_form (s : State) (k : Core) (code : Nat) (i0 : W64) (h : s.Inv) : (s.fetchTrap k code i0).Inv := by
  unfold State.fetchTrap
  repeat' first
    | with_reducible assumption | (intro _) | with_reducible apply State.trap_form | split | (simp only [form_update]) | (dsimp only)

theorem State.tapeHome_form (s : State) (r : Run) (wid : Nat) (h : s.Inv) : (s.tapeHome r wid).Inv := by
  unfold State.tapeHome
  repeat' first
    | with_reducible assumption | (intro _) | with_reducible apply State.landTape_form | split | (simp only [form_update])
    | (dsimp only)

theorem State.cellHome_form (s : State) (r : Run) (wid : Nat) (h : s.Inv) : (s.cellHome r wid).Inv := by
  unfold State.cellHome
  repeat' first
    | with_reducible assumption | (intro _) | with_reducible apply State.mapRun_form | with_reducible apply State.faultRun_form | split
    | (simp only [form_update]) | (dsimp only)

theorem State.landFlying_form (s : State) (rid : Nat) (x : Flying) (h : s.Inv) : (s.landFlying rid x).Inv := by
  unfold State.landFlying
  repeat' first
    | with_reducible assumption | with_reducible apply State.landTape_form | with_reducible apply State.cellHome_form | split

theorem State.landOwn_form (s : State) (rid c : Nat) (homes : List (Option Nat)) (h : s.Inv) : (s.landOwn rid c homes).Inv := by
  unfold State.landOwn
  split
  · exact h
  · exact form_foldl _ _ _ h (fun t x ht => State.landFlying_form t rid x ht)

theorem State.cellValue_form (s : State) (r : Run) (k : Core) (pick : List Nat) (h : s.Inv) : (s.cellValue r k pick).Inv := by
  unfold State.cellValue
  repeat' first
    | with_reducible assumption | (intro _) | with_reducible apply State.setCore_form | split | (simp only [form_update]) | (dsimp only)

theorem State.freePicks_form (s : State) (n : Nat) (h : s.Inv) : (s.freePicks n).1.Inv := h

theorem State.recordArrives_form (s : State) (r : Run) (fn : Fn) (f : Flight) (k : Core) (n record : Nat) (sel : List Nat) (again : Bool)
    (h : s.Inv) : (s.recordArrives r fn f k n record sel again).1.Inv := by
  unfold State.recordArrives
  dsimp only
  repeat' first
    | with_reducible assumption | with_reducible apply State.startWalk_form | with_reducible apply State.setCore_form
    | with_reducible apply State.touchExtent_form | split

theorem State.refillOne_form (s : State) (c : Nat) (x : Nat × Nat) (h : s.Inv) : (s.refillOne c x).1.Inv := by
  unfold State.refillOne
  split
  · exact h
  · dsimp only
    split
    · exact h
    · split
      · exact h
      · exact State.recordArrives_form _ _ _ _ _ _ _ _ _ h

theorem State.refill_form (s : State) (c : Nat) (want : List (Nat × Nat)) (h : s.Inv) : (s.refill c want).1.Inv := by
  induction want generalizing s with
  | nil => exact h
  | cons x rest ih => exact ih _ (State.refillOne_form _ _ _ h)

theorem State.refillAll_form (s : State) (c : Nat) (want : List (Nat × Nat)) (h : s.Inv) : (s.refillAll c want).Inv := by
  unfold State.refillAll
  repeat' first
    | with_reducible assumption | (intro _) | with_reducible apply State.mapCore_form | with_reducible apply State.refill_form | split
    | (simp only [form_update]) | (dsimp only)

theorem State.restartLine_form (s : State) (l : Line) (h : s.Inv) : (s.restartLine l).Inv := by
  unfold State.restartLine
  repeat' first
    | with_reducible assumption | (intro _) | with_reducible apply State.mapLine_form | split | (simp only [form_update]) | (dsimp only)

theorem State.handTile_form (s : State) (rid node pick : Nat) (h : s.Inv) : (s.handTile rid node pick).1.Inv := by
  unfold State.handTile; dsimp only; repeat' split
  all_goals exact h

theorem State.closeNode_form (s : State) (rid i : Nat) (settled : Bool) (h : s.Inv) : (s.closeNode rid i settled).Inv := by
  unfold State.closeNode
  repeat' first
    | with_reducible assumption | (intro _) | with_reducible apply State.dropCores_form | with_reducible apply State.mapRun_form | split
    | (simp only [form_update]) | (dsimp only)

theorem State.commitNode_form (s : State) (rid i : Nat) (js : List Nat) (settled : Bool) (h : s.Inv) :
    (s.commitNode rid i js settled).Inv := by
  unfold State.commitNode
  repeat' first
    | with_reducible assumption | (intro _) | with_reducible apply State.mapRun_form | with_reducible apply State.faultRun_form
    | with_reducible apply State.closeNode_form | split | (simp only [form_update]) | (dsimp only)

theorem State.applyWait_form (s : State) (rid i : Nat) (a : ArmWrite) (h : s.Inv) : (s.applyWait rid i a).Inv := by
  unfold State.applyWait
  repeat' first
    | with_reducible assumption | (intro _) | with_reducible apply State.mapRun_form | with_reducible apply State.commitNode_form
    | split | (simp only [form_update]) | (dsimp only)

theorem State.applyHeld_form (s : State) (rid n : Nat) (h : s.Inv) : (s.applyHeld rid n).Inv := by
  induction n generalizing s with
  | zero => exact h
  | succ n ih =>
    unfold State.applyHeld; split
    · exact ih _ (State.applyWait_form _ _ _ _ h)
    · exact h

theorem State.addRun_form (s : State) (f : Flight) (r : Run) (h : s.Inv) : (s.addRun f r).Inv := by
  unfold State.addRun
  repeat' first
    | with_reducible assumption | (intro _) | with_reducible apply State.mapFn_form | with_reducible apply State.faultRun_form
    | with_reducible apply State.applyHeld_form | split | (simp only [form_update]) | (dsimp only)

theorem State.startNext_form (s : State) (fn flight : Nat) (h : s.Inv) : (s.startNext fn flight).Inv := by
  unfold State.startNext
  repeat' first
    | with_reducible assumption | (intro _) | with_reducible apply State.mapFn_form | with_reducible apply State.addRun_form | split
    | (simp only [form_update]) | (dsimp only)

theorem State.endRun_form (s : State) (rid : Nat) (h : s.Inv) : (s.endRun rid).Inv := by
  unfold State.endRun
  repeat' first
    | with_reducible assumption | (intro _) | with_reducible apply State.mapFn_form | with_reducible apply State.mapRun_form
    | with_reducible apply State.post_form | with_reducible apply State.dropRun_form | with_reducible apply State.startNext_form | split
    | (simp only [form_update]) | (dsimp only)

theorem State.settle_form (s : State) (rid : Nat) (h : s.Inv) : (s.settle rid).Inv := by
  unfold State.settle
  repeat' first
    | with_reducible assumption | (intro _) | with_reducible apply State.applyHeld_form | with_reducible apply State.endRun_form | split
    | (simp only [form_update]) | (dsimp only)

theorem State.endWaiting_form (s : State) (fn : Nat) (h : s.Inv) : (s.endWaiting fn).Inv := by
  unfold State.endWaiting
  repeat' first
    | with_reducible assumption | (intro _) | with_reducible apply form_foldl | with_reducible apply State.endRun_form | split
    | (simp only [form_update]) | (dsimp only)

theorem State.keptTapes_form (s : State) (f : Flight) (ts : List TapeState) (h : s.Inv) : (s.keptTapes f ts).1.Inv := by
  unfold State.keptTapes
  generalize ([] : List TapeState) = l
  have h' : (s, l).1.Inv := h
  revert h'
  generalize (s, l) = x
  induction ts generalizing x with
  | nil => exact id
  | cons t ts ih =>
    intro hx
    refine ih _ ?_
    dsimp only
    repeat' split
    all_goals exact hx

theorem State.retake_form (s : State) (r : Run) (fn : Fn) (a : CellArray) (h : s.Inv) : (s.retake r fn a).Inv := by
  unfold State.retake
  split
  · exact h
  · exact State.mapRun_form _ _ _ (State.takeSlots_form _ _ _ _ _ _ h _ ‹_›)

theorem State.keptArrays_form (s : State) (r : Run) (as : List CellArray) (h : s.Inv) : (s.keptArrays r as).1.Inv := by
  unfold State.keptArrays
  split
  · exact h
  · exact form_foldl _ as { s with runs := s.runs ++ [r] } h (fun _ _ ht => State.retake_form _ _ _ _ ht)

theorem State.resumeRun_form (s : State) (fn : Nat) (f : Flight) (k : Kept) (im : CommitImage) (h : s.Inv) :
    (s.resumeRun fn f k im).Inv := by
  unfold State.resumeRun
  repeat' first
    | with_reducible assumption | (intro _) | with_reducible apply State.addRun_form | with_reducible apply State.keptTapes_form
    | with_reducible apply State.keptArrays_form | split | (simp only [form_update]) | (dsimp only)

theorem State.startTask_form (s : State) (r : Run) (fn : Fn) (i c : Nat) (pc dict : W64) (regs : List (Nat × W64)) (dom : List W32)
    (coll : List Nat) (handler : Option Nat) (h : s.Inv) : (s.startTask r fn i c pc dict regs dom coll handler).Inv := h

theorem State.nextTask_form (s : State) (rid i c pick : Nat) (dom : List W32) (coll : List Nat) (h : s.Inv) :
    (s.nextTask rid i c pick dom coll).Inv := by
  unfold State.nextTask
  repeat' first
    | with_reducible assumption | (intro _) | with_reducible apply State.handTile_form | with_reducible apply State.startTask_form
    | split | (simp only [form_update]) | (dsimp only)

theorem State.takeLines_form (s : State) (rid i : Nat) (us : List ((Nat × DomDesc) × Nat)) (cores : List Nat) (h : s.Inv) :
    (s.takeLines rid i us cores).Inv := h

theorem State.beginNode_form (s : State) (rid i : Nat) (cores : List Nat) (h : s.Inv) : (s.beginNode rid i cores).Inv := by
  unfold State.beginNode
  repeat' first
    | with_reducible assumption | (intro _) | with_reducible apply State.mapRun_form | split | (simp only [form_update]) | (dsimp only)

theorem State.startTasks_form (s : State) (r : Run) (i : Nat) (us : List ((Nat × DomDesc) × Nat)) (cores pick : List Nat) (h : s.Inv) :
    (s.startTasks r i us cores pick).Inv := form_foldl _ _ _ h (fun t c ht => State.nextTask_form t r.id i c.1 _ _ _ ht)

theorem State.placeNode_form (s : State) (r : Run) (fn : Fn) (f : Flight) (n : Node) (i : Nat) (cores pick : List Nat) (h : s.Inv) :
    (s.placeNode r fn f n i cores pick).Inv := by
  unfold State.placeNode
  repeat' first
    | with_reducible assumption | (intro _) | with_reducible apply form_foldl | with_reducible apply State.mapRun_form
    | with_reducible apply State.report_form | with_reducible apply State.takeLines_form | with_reducible apply State.beginNode_form
    | with_reducible apply State.startTasks_form | with_reducible apply State.faultRun_form | split | (simp only [form_update])
    | (dsimp only)

theorem State.endContexts_form (s : State) (rid c : Nat) (h : s.Inv) : (s.endContexts rid c).Inv := by
  unfold State.endContexts
  repeat' first | with_reducible assumption | (intro _) | split | (simp only [form_update]) | (dsimp only)

theorem State.handlerOutcome_form (s : State) (c : Nat) (v : W64) (h : s.Inv) : (s.handlerOutcome c v).Inv := by
  unfold State.handlerOutcome
  repeat' first
    | with_reducible assumption | (intro _) | with_reducible apply State.setCore_form | with_reducible apply State.faultRun_form | split
    | (simp only [form_update]) | (dsimp only)

theorem State.endTask_form (s : State) (k : Core) (s1 : W64) (h : s.Inv) : (s.endTask k s1).Inv := by
  unfold State.endTask
  repeat' first
    | with_reducible assumption | (intro _) | with_reducible apply State.setCore_form | with_reducible apply State.dropCore_form
    | with_reducible apply State.mapRun_form | with_reducible apply State.endContexts_form
    | with_reducible apply State.handlerOutcome_form | split | (simp only [form_update]) | (dsimp only)

theorem State.loopAgain_form (s : State) (r : Run) (f : Flight) (n : Node) (i : Nat) (h : s.Inv) : (s.loopAgain r f n i).Inv := by
  unfold State.loopAgain
  repeat' first
    | with_reducible assumption | (intro _) | with_reducible apply State.mapRun_form | with_reducible apply State.faultRun_form
    | with_reducible apply State.commitNode_form | with_reducible apply State.settle_form | split | (simp only [form_update])
    | (dsimp only)

theorem State.takeShare_form (s : State) (rid : Nat) (f : Flight) (n : Node) (node dom before after : Nat) (cores pick : List Nat)
    (h : s.Inv) :
    (s.takeShare rid f n node dom before after cores pick).Inv := by
  unfold State.takeShare
  repeat' first
    | with_reducible assumption | (intro _) | with_reducible apply State.mapRun_form | with_reducible apply State.startTasks_form
    | split | (simp only [form_update]) | (dsimp only)

theorem State.armResumes_form (s : State) (fn flight : Nat) (node : W16) (h : s.Inv) : (s.armResumes fn flight node).Inv := by
  unfold State.armResumes
  repeat' first
    | with_reducible assumption | (intro _) | with_reducible apply State.mapFn_form | with_reducible apply State.settle_form
    | with_reducible apply State.resumeRun_form | split | (simp only [form_update]) | (dsimp only)

theorem State.armStarts_form (s : State) (fn : Nat) (w : ArmWrite) (order : Nat) (h : s.Inv) : (s.armStarts fn w order).Inv := by
  unfold State.armStarts
  repeat' first
    | with_reducible assumption | (intro _) | with_reducible apply State.mapFn_form | with_reducible apply State.startNext_form
    | with_reducible apply State.settle_form | split | (simp only [form_update]) | (dsimp only)

theorem State.armWaits_form (s : State) (fn : Nat) (w : ArmWrite) (node : W16) (h : s.Inv) : (s.armWaits fn w node).Inv := by
  unfold State.armWaits
  repeat' first
    | with_reducible assumption | (intro _) | with_reducible apply State.mapFn_form | with_reducible apply State.settle_form | split
    | (simp only [form_update]) | (dsimp only)

theorem State.arm_form (s : State) (w : ArmWrite) (node : W16) (h : s.Inv) : (s.arm w node).Inv := by
  unfold State.arm
  repeat' first
    | with_reducible assumption | (intro _) | with_reducible apply State.mapFn_form | with_reducible apply State.post_form
    | with_reducible apply State.armResumes_form | with_reducible apply State.armStarts_form | with_reducible apply State.armWaits_form
    | split | (simp only [form_update]) | (dsimp only)

theorem State.beginCut_form (s : State) (rid : Nat) (reason : CutReason) (abandoned : Nat) (h : s.Inv) :
    (s.beginCut rid reason abandoned).Inv := by
  unfold State.beginCut
  repeat' first
    | with_reducible assumption | (intro _) | with_reducible apply State.mapRun_form | with_reducible apply State.faultRun_form | split
    | (simp only [form_update]) | (dsimp only)

theorem State.startCut_form (s : State) (rid : Nat) (reason : CutReason) (abandoned : Nat) (h : s.Inv) :
    (s.startCut rid reason abandoned).Inv := by
  unfold State.startCut
  repeat' first
    | with_reducible assumption | (intro _) | with_reducible apply State.report_form | with_reducible apply State.beginCut_form | split
    | (simp only [form_update]) | (dsimp only)

theorem State.remoteMax_form (s : State) (r : Run) (width v : Nat) (h : s.Inv) : (s.remoteMax r width v).1.Inv := by
  unfold State.remoteMax; repeat' split
  all_goals exact h

theorem State.deliverEvents_form (s : State) (rid : Nat) (h : s.Inv) : (s.deliverEvents rid).Inv := by
  unfold State.deliverEvents
  repeat' first | with_reducible assumption | (intro _) | with_reducible apply form_foldl | split | (simp only [form_update]) | (dsimp only)

theorem State.cutOut_form (s : State) (r : Run) (c : Cut) (h : s.Inv) : (s.cutOut r c).Inv := by
  unfold State.cutOut
  repeat' first
    | with_reducible assumption | (intro _) | with_reducible apply form_foldl | with_reducible apply State.dropCores_form
    | with_reducible apply State.mapRun_form | with_reducible apply State.post_form | with_reducible apply State.deliverEvents_form
    | split | (simp only [form_update]) | (dsimp only)

theorem State.moveRun_form (s : State) (r : Run) (css : List (Nat × List Nat)) (h : s.Inv) : (s.moveRun r css).Inv := by
  unfold State.moveRun
  repeat' first
    | with_reducible assumption | (intro _) | with_reducible apply State.mapRun_form | split | (simp only [form_update]) | (dsimp only)

theorem State.resumeCore_form (s : State) (r : Run) (fn : Fn) (f : Flight) (m : Moves) (i c : Nat) (dom : List W32) (im : CoreImage)
    (h : s.Inv) :
    (s.resumeCore r fn f m i c dom im).Inv := by
  unfold State.resumeCore
  repeat' first
    | with_reducible assumption | (intro _) | with_reducible apply State.addCore_form | with_reducible apply State.unwalk_form | split
    | (simp only [form_update]) | (dsimp only)

theorem State.resumeNode_form (s : State) (r : Run) (fn : Fn) (f : Flight) (m : Moves) (i : Nat) (n : Node) (cs : List Nat) (h : s.Inv) :
    (s.resumeNode r fn f m i n cs).Inv := by
  unfold State.resumeNode
  repeat' first
    | with_reducible assumption | (intro _) | with_reducible apply form_foldl | with_reducible apply State.mapRun_form
    | with_reducible apply State.takeLines_form | with_reducible apply State.resumeCore_form | split | (simp only [form_update])
    | (dsimp only)

theorem State.enlarge_form (s : State) (r : Run) (fn : Fn) (x : BitVec 20 × Dir) (h : s.Inv) : (s.enlarge r fn x).Inv := by
  unfold State.enlarge
  repeat' first
    | with_reducible assumption | (intro _) | with_reducible apply State.mapFn_form | with_reducible apply State.mapRun_form
    | with_reducible apply State.faultRun_form | split | (simp only [form_update]) | (dsimp only)

theorem State.holdTrap_form (s : State) (r : Run) (fn : Fn) (k : Core) (t : TrapRec) (h : s.Inv) : (s.holdTrap r fn k t).Inv := by
  unfold State.holdTrap
  repeat' first
    | with_reducible assumption | (intro _) | with_reducible apply State.mapRun_form | with_reducible apply State.post_form | split
    | (simp only [form_update]) | (dsimp only)

theorem State.applyPolicy_form (s : State) (r : Run) (fn : Fn) (k : Core) (t : TrapRec) (p : Policy) (h : s.Inv) :
    (s.applyPolicy r fn k t p).Inv := by
  unfold State.applyPolicy
  repeat' first
    | with_reducible assumption | (intro _) | with_reducible apply State.setCore_form | with_reducible apply State.mapFn_form
    | with_reducible apply State.faultRun_form | with_reducible apply State.holdTrap_form | split | (simp only [form_update])
    | (dsimp only)

theorem State.keepWalks_form (s : State) (f : Flight) (k : Core) (h : s.Inv) : (s.keepWalks f k).Inv := by
  unfold State.keepWalks
  simpa only [form_update] using h

theorem State.trapTaken_form (s : State) (r : Run) (fn : Fn) (f : Flight) (k : Core) (t : TrapInfo) (dict : W64) (tick : Nat) (h : s.Inv) :
    (s.trapTaken r fn f k t dict tick).Inv := by
  unfold State.trapTaken
  repeat' first
    | with_reducible assumption | (intro _) | with_reducible apply State.setCore_form | with_reducible apply State.recordTrap_form
    | with_reducible apply State.applyPolicy_form | with_reducible apply State.keepWalks_form
    | split | (dsimp only)

theorem State.patchRecord_form (s : State) (r : Run) (fn : Fn) (f : Flight) (t : BitVec 20) (d : Dir) (gs : List Nat) (record : Nat)
    (h : s.Inv) :
    (s.patchRecord r fn f t d gs record).Inv := by
  unfold State.patchRecord
  repeat' first
    | with_reducible assumption | (intro _) | with_reducible apply State.mapRun_form | with_reducible apply State.storeWrite_form
    | with_reducible apply State.record_form | split | (simp only [form_update]) | (dsimp only)

theorem State.repairRecord_form (s : State) (r : Run) (fn : Fn) (f : Flight) (t : BitVec 20) (record : Nat) (h : s.Inv) :
    (s.repairRecord r fn f t record).Inv := by
  unfold State.repairRecord
  repeat' first
    | with_reducible assumption | (intro _) | with_reducible apply form_foldl | with_reducible apply State.cleanGranules_form
    | with_reducible apply State.patchRecord_form | split | (simp only [form_update]) | (dsimp only)

theorem State.repairOne_form (s : State) (r : Run) (fn : Fn) (f : Flight) (c : Nat) (x : BitVec 20 × Nat) (h : s.Inv) :
    (s.repairOne r fn f c x).Inv := by
  unfold State.repairOne
  repeat' first
    | with_reducible assumption | (intro _) | with_reducible apply State.mapCore_form | with_reducible apply State.repairRecord_form
    | split | (simp only [form_update]) | (dsimp only)

theorem State.jcEnd_form (s : State) (fn : Nat) (word : W32) (status : Nat) (h : s.Inv) : (s.jcEnd fn word status).Inv := by
  unfold State.jcEnd
  repeat' first
    | with_reducible assumption | (intro _) | with_reducible apply State.mapFn_form | split | (simp only [form_update]) | (dsimp only)

theorem State.settleHeld_form (s : State) (fn op : Nat) (fnNo : BitVec 5) (flight : BitVec 10) (act : State → Run → HeldTrap → State)
    (ha : ∀ t r x, t.Inv → (act t r x).Inv) (h : s.Inv) : (s.settleHeld fn op fnNo flight act).Inv := by
  unfold State.settleHeld
  repeat' first | with_reducible assumption | with_reducible apply ha | with_reducible apply State.jcEnd_form | split | (dsimp only)


theorem State.dbgEnd_form (s : State) (fn op : Nat) (count : Option Nat) (status : Nat) (h : s.Inv) : (s.dbgEnd fn op count status).Inv := by
  unfold State.dbgEnd
  repeat' first
    | with_reducible assumption | (intro _) | with_reducible apply State.mapFn_form | split | (simp only [form_update]) | (dsimp only)

theorem State.dbgCommand_form (s : State) (fn op : Nat) (count : Option Nat) (writes : Bool) (act : State → Core → State × Nat)
    (ha : ∀ t k, t.Inv → (act t k).1.Inv) (h : s.Inv) : (s.dbgCommand fn op count writes act).Inv := by
  unfold State.dbgCommand
  repeat' first | with_reducible assumption | with_reducible apply ha | with_reducible apply State.dbgEnd_form | split | (dsimp only)


theorem State.dbgPoke_form (s : State) (fn count : Nat) (d : Bool) (k : Core) (h : s.Inv) : (s.dbgPoke fn count d k).1.Inv := by
  unfold State.dbgPoke; dsimp only; repeat' split
  all_goals exact h

theorem State.endSession_form (s : State) (h : s.Inv) : (s.endSession).Inv := by
  unfold State.endSession
  repeat' first | with_reducible assumption | (intro _) | split | (simp only [form_update]) | (dsimp only)

theorem State.putCommand_form (s : State) (id : Nat) (c : Command) (h : s.Inv) : (s.putCommand id c).Inv := by
  unfold State.putCommand
  repeat' first
    | with_reducible assumption | (intro _) | with_reducible apply State.mapContext_form | split | (simp only [form_update])
    | (dsimp only)

theorem State.finishMatch_form (s : State) (r : Run) (fn : Fn) (f : Flight) (y : List Nat × Flags) (p : Nat) (l : List (Context × Command))
    (h : s.Inv) : (s.finishMatch r fn f y p l).Inv := by
  induction l generalizing s with
  | nil => exact h
  | cons m l ih =>
    unfold State.finishMatch
    repeat' first
      | with_reducible assumption | with_reducible apply ih | with_reducible apply State.faultRun_form
      | with_reducible apply State.putCommand_form | split

theorem State.finishColl_form (s : State) (r : Run) (fn : Fn) (f : Flight) (x : Context) (c : Command) (h : s.Inv) :
    (s.finishColl r fn f x c).Inv := by
  unfold State.finishColl
  repeat' first | with_reducible assumption | with_reducible apply State.finishMatch_form | split | (dsimp only)

theorem State.matchColl_form (s : State) (r : Run) (fn : Fn) (f : Flight) (ms : List (Context × Command)) (remote : List (List W32))
    (h : s.Inv) : (s.matchColl r fn f ms remote).Inv := by
  unfold State.matchColl
  repeat' first
    | with_reducible assumption | (intro _) | with_reducible apply State.finishColl_form | with_reducible apply form_foldl
    | with_reducible apply State.faultRun_form | with_reducible apply State.report_form | with_reducible apply State.putCommand_form
    | split | (simp only [form_update]) | (dsimp only)

theorem State.withLanding_form (s : State) (rid i : Nat) (coll : Bool) (h : s.Inv) : (s.withLanding rid i coll).Inv := by
  unfold State.withLanding
  repeat' first | with_reducible assumption | (intro _) | split | (simp only [form_update]) | (dsimp only)

theorem State.issueBlock_form (s : State) (rid i : Nat) (fn : Fn) (reached : List Nat) (coll : Bool) (b : List Byte) (h : s.Inv) :
    (s.issueBlock rid i fn reached coll b).Inv := by
  unfold State.issueBlock
  repeat' first
    | with_reducible assumption | (intro _) | with_reducible apply State.mapRun_form | with_reducible apply State.mapContext_form
    | split | (simp only [form_update]) | (dsimp only)

theorem State.issueBlocks_form (s : State) (rid i : Nat) (fn : Fn) (f : Flight) (coll : Bool) (bs : List (List Byte)) (h : s.Inv) :
    (s.issueBlocks rid i fn f coll bs).Inv := by
  induction bs generalizing s with
  | nil => exact h
  | cons b rest ih =>
    unfold State.issueBlocks
    repeat' first
      | with_reducible assumption | with_reducible apply ih | with_reducible apply State.issueBlock_form
      | with_reducible apply State.faultRun_form | split | (dsimp only)

theorem State.feedNode_form (s : State) (rid : Nat) (fn : Fn) (f : Flight) (coll : Bool) (i : Nat) (h : s.Inv) :
    (s.feedNode rid fn f coll i).Inv := by
  unfold State.feedNode
  repeat' first
    | with_reducible assumption | (intro _) | with_reducible apply State.issueBlocks_form | split | (simp only [form_update])
    | (dsimp only)

theorem State.feedNodes_form (s : State) (rid : Nat) (fn : Fn) (f : Flight) (coll : Bool) (h : s.Inv) :
    (s.feedNodes rid fn f coll).Inv := by
  unfold State.feedNodes
  repeat' first
    | with_reducible assumption | (intro _) | with_reducible apply form_foldl | with_reducible apply State.feedNode_form | split
    | (simp only [form_update]) | (dsimp only)

theorem State.transformDone_form (s : State) (rid : Nat) (x : Context) (c : Command) (wids : List Nat) (h : s.Inv) :
    (s.transformDone rid x c wids).Inv := by
  unfold State.transformDone
  repeat' first
    | with_reducible assumption | (intro _) | with_reducible apply State.mapRun_form | with_reducible apply State.mapContext_form
    | split | (simp only [form_update]) | (dsimp only)

theorem State.deliver_form (s : State) (port lane : Nat) (payload : List Byte) (h : s.Inv) : (s.deliver port lane payload).Inv := by
  unfold State.deliver
  repeat' first
    | with_reducible assumption | (intro _) | with_reducible apply State.mapPort_form | split | (simp only [form_update]) | (dsimp only)

theorem State.forward_form (s : State) (lane : Nat) (payload : List Byte) (h : s.Inv) : (s.forward lane payload).Inv := by
  have hl : ∀ (o : Option Nat) (t : State), t.Inv → State.Inv (match o with
      | some r => t.faultRun r 0x39
      | none => t) := by
    intro o t ht
    cases o with
    | none => exact ht
    | some r => exact State.faultRun_form _ _ _ ht
  unfold State.forward
  dsimp only
  split
  · exact hl _ _ h
  · split
    · rename_i t ht
      exact State.injectTo_form { s with free := s.free + 1 } t _ _ _ _ h ht
    · exact hl _ _ h

theorem State.loseFlit_form (s : State) (o : Option Nat) (h : s.Inv) : (s.loseFlit o).Inv := by
  unfold State.loseFlit; split
  · exact State.faultRun_form _ _ _ h
  · exact h

theorem State.routeFlit_form (s : State) (port : Nat) (bytes : List Byte) (h : s.Inv) : (s.routeFlit port bytes).Inv := by
  unfold State.routeFlit
  repeat' first
    | with_reducible assumption | (intro _) | with_reducible apply State.deliver_form | with_reducible apply State.forward_form
    | with_reducible apply State.loseFlit_form | split
    | (simp only [form_update]) | (dsimp only)

theorem State.thaw_form (s : State) (h : s.Inv) : (s.thaw).Inv := by
  unfold State.thaw
  repeat' first | with_reducible assumption | (intro _) | split | (simp only [form_update]) | (dsimp only)

theorem State.freezeCore_form (s : State) (k : Core) (h : s.Inv) : (s.freezeCore k).Inv := by
  unfold State.freezeCore
  repeat' first
    | with_reducible assumption | (intro _) | with_reducible apply State.setCore_form | with_reducible apply State.stopNow_form | split
    | (simp only [form_update]) | (dsimp only)

theorem State.freezeAll_form (s : State) (h : s.Inv) : (s.freezeAll).Inv := by
  unfold State.freezeAll
  repeat' first
    | with_reducible assumption | (intro _) | with_reducible apply form_foldl | with_reducible apply State.freezeCore_form | split
    | (simp only [form_update]) | (dsimp only)

theorem State.cutAll_form (s : State) (h : s.Inv) : (s.cutAll).Inv := by
  unfold State.cutAll
  repeat' first
    | with_reducible assumption | (intro _) | with_reducible apply form_foldl | with_reducible apply State.faultRun_form
    | with_reducible apply State.startCut_form | split | (simp only [form_update]) | (dsimp only)

theorem State.beginPower_form (s : State) (t : PowerState) (k : Nat) (req : Bool) (h : s.Inv) : (s.beginPower t k req).Inv := by
  unfold State.beginPower
  repeat' first
    | with_reducible assumption | (intro _) | with_reducible apply State.thaw_form | with_reducible apply State.freezeAll_form
    | with_reducible apply State.cutAll_form | split | (simp only [form_update]) | (dsimp only)

theorem State.askPower_form (s : State) (t : PowerState) (k : Nat) (req : Bool) (h : s.Inv) : (s.askPower t k req).Inv := by
  unfold State.askPower
  repeat' first
    | with_reducible assumption | (intro _) | with_reducible apply State.beginPower_form | split | (simp only [form_update])
    | (dsimp only)

theorem State.pwrReq_form (s : State) (fn : Nat) (target : Nat) (t : Option PowerState) (k : BitVec 3) (h : s.Inv) :
    (s.pwrReq fn target t k).Inv := by
  unfold State.pwrReq
  repeat' first
    | with_reducible assumption | (intro _) | with_reducible apply State.askPower_form | split | (simp only [form_update])
    | (dsimp only)

theorem State.loseVaults_form (s : State) (h : s.Inv) : (s.loseVaults).Inv := ⟨Mem.empty_wf _, h.2⟩


theorem State.coresOff_form (s : State) (h : s.Inv) : (s.coresOff).Inv := by
  unfold State.coresOff
  repeat' first | with_reducible assumption | (intro _) | split | (simp only [form_update]) | (dsimp only)

theorem State.enterP3_form (s : State) (h : s.Inv) : (s.enterP3).Inv := by
  unfold State.enterP3
  repeat' first
    | with_reducible assumption | (intro _) | with_reducible apply State.endSession_form | with_reducible apply State.loseVaults_form
    | with_reducible apply State.coresOff_form | split | (simp only [form_update]) | (dsimp only)

theorem State.arrivePower_form (s : State) (check : State → State) (hc : ∀ t, t.Inv → (check t).Inv) (h : s.Inv) :
    (s.arrivePower check).Inv := by
  unfold State.arrivePower
  repeat' first
    | with_reducible assumption | with_reducible apply hc | with_reducible apply State.thaw_form
    | with_reducible apply State.enterP3_form | with_reducible apply State.beginPower_form | split | (simp only [form_update])
    | (dsimp only)


theorem State.dark_form (s : State) : (s.dark).Inv := ⟨Mem.empty_wf _, Mem.empty_wf _, by simp [State.dark, State.reset]⟩


theorem State.powerOff_form (s : State) (h : s.Inv) : (s.powerOff).Inv := by
  unfold State.powerOff
  repeat' first
    | with_reducible assumption | (intro _) | with_reducible apply State.dark_form | split | (simp only [form_update]) | (dsimp only)

theorem State.manage_form (s : State) (m : Option Nat) (h : s.Inv) : (s.manage m).Inv := by
  unfold State.manage
  repeat' first
    | with_reducible assumption | (intro _) | with_reducible apply State.askPower_form | split | (simp only [form_update])
    | (dsimp only)

theorem State.recover_form (s : State) (h : s.Inv) : (s.recover).Inv := by
  unfold State.recover
  repeat' first | with_reducible assumption | (intro _) | split | (simp only [form_update]) | (dsimp only)

theorem State.erase_form (s : State) (old new : Nat) (h : s.Inv) : (s.erase old new).Inv := by
  unfold State.erase
  split
  · exact ⟨Mem.empty_wf _, Mem.empty_wf _, h.2.2⟩
  · exact h


theorem State.resetAll_form (s : State) (h : s.Inv) : (s.resetAll).Inv := by
  unfold State.resetAll
  split
  · exact State.dark_form s
  · exact ⟨h.1, h.2.1, (State.dark_form s).2.2⟩


theorem State.train_form (s : State) (fw bs : List Byte) (h : s.Inv) : (s.train fw bs).Inv := by
  unfold State.train
  dsimp only
  split
  · exact h
  · exact ⟨h.1, h.2.1, by simpa using h.2.2⟩

theorem State.remeasure_form (s : State) (h : s.Inv) : (s.remeasure).Inv := by
  unfold State.remeasure
  repeat' first
    | with_reducible assumption | (intro _) | with_reducible apply State.recover_form | split | (simp only [form_update]) | (dsimp only)

theorem State.serveOne_form (s : State) (f : Fn) (h : s.Inv) : (s.serveOne f).1.Inv := by
  unfold State.serveOne
  repeat' split
  · exact h
  · unfold State.serveQuote; dsimp only; repeat' split
    all_goals exact h
  · unfold State.serveExtend; split <;> exact h
  · unfold State.serveOpen; dsimp only; repeat' split
    all_goals exact h
  · unfold State.serveClose; repeat' split
    · exact h
    · exact State.endSession_form s h
    · exact h
  · unfold State.serveFw; repeat' split
    all_goals exact h
  · unfold State.serveCfg; repeat' split
    all_goals exact h
  · exact h

theorem State.serveNext_form (s : State) (h : s.Inv) : (s.serveNext).Inv := by
  unfold State.serveNext
  repeat' first
    | with_reducible assumption | (intro _) | with_reducible apply State.serveOne_form | split | (simp only [form_update])
    | (dsimp only)

theorem State.submit_form (s : State) (fn : Nat) (h : s.Inv) : (s.submit fn).Inv := by
  unfold State.submit
  repeat' first
    | with_reducible assumption | (intro _) | with_reducible apply State.mapFn_form | with_reducible apply State.serveNext_form | split
    | (simp only [form_update]) | (dsimp only)

theorem State.submitKind_form (s : State) (fn kind : Nat) (h : s.Inv) : (s.submitKind fn kind).Inv := by
  unfold State.submitKind
  repeat' first
    | with_reducible assumption | (intro _) | with_reducible apply State.submit_form | split | (simp only [form_update]) | (dsimp only)

theorem State.install_form (s : State) (f : Fn) (id : Nat) (h : s.Inv) : (s.install f id).1.Inv := by
  unfold State.install; repeat' split
  all_goals exact h

theorem State.remove_form (s : State) (f : Fn) (id : Nat) (h : s.Inv) : (s.remove f id).1.Inv := by
  unfold State.remove; repeat' split
  all_goals exact h

theorem State.stage_form (s : State) (f : Fn) (id : Nat) (h : s.Inv) : (s.stage f id).1.Inv := by
  unfold State.stage; split <;> exact h

theorem State.flStart_form (s : State) (fn op id : Nat) (h : s.Inv) : (s.flStart fn op id).Inv := by
  unfold State.flStart
  repeat' first
    | with_reducible assumption | (intro _) | with_reducible apply State.mapFn_form | split | (simp only [form_update]) | (dsimp only)

theorem State.writeMessage_form (s : State) (f : Fn) (off : Nat) (v : BitVec 128) (h : s.Inv) : (s.writeMessage f off v).Inv := by
  unfold State.writeMessage
  repeat' first
    | with_reducible assumption | (intro _) | with_reducible apply State.mapFn_form | with_reducible apply State.submit_form | split
    | (simp only [form_update]) | (dsimp only)

theorem State.writePower_form (s : State) (fn : Nat) (v : BitVec 128) (h : s.Inv) : (s.writePower fn v).Inv := by
  unfold State.writePower
  repeat' first
    | with_reducible assumption | (intro _) | with_reducible apply State.pwrReq_form | split | (simp only [form_update]) | (dsimp only)

theorem State.tick_form (s : State) (h : s.Inv) : (s.tick).Inv := by
  have h0 : State.Inv { s with runs := s.runs.map s.runTick, ports := s.ports.map (fun p => p.turn s.pcyc s.sysId.isSome) } :=
    ⟨h.1, h.2.1, by simp [h.2.2]⟩
  exact form_foldl _ _ _ h0 (fun t r ht => State.endRun_form t r.id ht)


theorem State.firstTask_form (s : State) (ws : List W32) (h : s.Inv) : (s.firstTask ws).Inv :=
  ⟨h.1, Mem.write_wf h.2.1 .., h.2.2⟩


end Sys2Proof.Machine
end

