-- ==== Sys2Proof/Laws/Links.lean ====
section
/-! SUPPORT. Flits: what `makeFlit` writes passes the receiver's check (R21), and its fields read back. -/

namespace Sys2Proof.Machine

/-- Eight little-endian bytes hold every 64-bit number. -/
theorem leVal_leBytes_eight (v : Nat) (h : v < 2 ^ 64) : leVal (leBytes 8 v) = v := by
  simp only [leBytes, List.range, List.range.loop, List.map_cons, List.map_nil, leVal, BitVec.toNat_ofNat, Nat.shiftRight_eq_div_pow]
  omega

/-- The 248 bytes of a flit before its check. -/
theorem makeFlit_head_length (kind lane : Nat) (seq ack : BitVec 12) (pause : BitVec 4) (payload : List Byte) :
    (leBytes 1 kind ++ leBytes 1 lane ++ leBytes 2 seq.toNat ++ leBytes 2 ack.toNat ++ leBytes 1 pause.toNat ++ [0] ++
      (payload ++ List.replicate 240 0).take 240 : List Byte).length = 248 := by
  simp only [List.length_append, leBytes_length, List.length_cons, List.length_nil, List.length_take, List.length_replicate]
  omega

/-- A flit has 256 bytes. -/
theorem makeFlit_length (kind lane : Nat) (seq ack : BitVec 12) (pause : BitVec 4) (payload : List Byte) :
    (makeFlit kind lane seq ack pause payload).length = 256 := by
  unfold makeFlit
  rw [List.length_append, makeFlit_head_length, leBytes_length]

/-- The kind of a flit. -/
theorem makeFlit_kind (kind lane : Nat) (seq ack : BitVec 12) (pause : BitVec 4) (payload : List Byte) (h : kind < 256) :
    flitKind (makeFlit kind lane seq ack pause payload) = kind := by
  simp [makeFlit, flitKind, flitNum, leBytes, List.range, List.range.loop, leVal]
  all_goals omega

/-- A flit of one of the four kinds passes the check. -/
theorem makeFlit_passes (kind lane : Nat) (seq ack : BitVec 12) (pause : BitVec 4) (payload : List Byte) (h1 : 1 ≤ kind) (h4 : kind ≤ 4) :
    flitPasses (makeFlit kind lane seq ack pause payload) = true := by
  have hl := makeFlit_length kind lane seq ack pause payload
  have hk := makeFlit_kind kind lane seq ack pause payload (by omega)
  have hh := makeFlit_head_length kind lane seq ack pause payload
  have hc : flitNum (makeFlit kind lane seq ack pause payload) 248 8 =
      (crc64 ((makeFlit kind lane seq ack pause payload).take 248)).toNat := by
    unfold makeFlit flitNum
    dsimp only
    rw [List.drop_left' hh, List.take_left' hh, List.take_of_length_le (Nat.le_of_eq (leBytes_length 8 _)), leVal_leBytes_eight _ (BitVec.isLt _)]
  unfold flitPasses
  simp [hl, hk, hc, h1, h4]

/-- The payload of a flit of 240 bytes. -/
theorem makeFlit_payload (kind lane : Nat) (seq ack : BitVec 12) (pause : BitVec 4) (payload : List Byte) (h : payload.length = 240) :
    flitPayload (makeFlit kind lane seq ack pause payload) = payload := by
  have ht : (payload ++ List.replicate 240 0).take 240 = payload := List.take_left' h
  unfold flitPayload makeFlit
  dsimp only
  rw [ht, List.append_assoc, List.drop_left' (by simp only [List.length_append, leBytes_length, List.length_cons, List.length_nil]), List.take_left' h]

end Sys2Proof.Machine
end

