-- ==== Sys2Proof/Laws/Order.lean ====
section
/-! SUPPORT. The order of a job's writes: where a scope reaches from, what a commit adds, what the sequencer's step keeps, results that
landed early and traps still in their rollback. -/

namespace Sys2Proof.Machine

/-! ## Places (R207, R211) -/

/-- Until a core moves, a scope reaches from where it did. -/
@[simp] theorem Spot.includes_here (c scope y : Nat) : (⟨c, []⟩ : Spot).includes scope y = scopeIncludes scope c y := rfl

@[simp] theorem Spot.moved_at (m : Moves) (p : Spot) : (p.moved m).at_ = p.at_ := rfl

/-- A core that has moved is known there by the number that it had. -/
theorem Spot.was_moved (m : Moves) (p : Spot) (old new : Nat) (h : m.find? (fun x => x.2 == new) = some (old, new)) :
    (p.moved m).was new = p.was old := by
  simp only [Spot.was, Spot.moved, List.find?_append, List.find?_map, Function.comp_def, h]
  rfl

/-- What a core's release carries names the core and its place. -/
@[simp] theorem Core.carries_from (k : Core) (scope : Nat) : (k.carries scope).from_ = k.no := rfl
@[simp] theorem Core.carries_spot (k : Core) (scope : Nat) : (k.carries scope).spot = ⟨k.no, []⟩ := rfl
@[simp] theorem Carried.moved_pubs (m : Moves) (c : Carried) : (c.moved m).pubs = c.pubs := rfl
@[simp] theorem Carried.moved_scope (m : Moves) (c : Carried) : (c.moved m).scope = c.scope := rfl

/-! ## What a commit carries (R396) -/

@[simp] theorem Run.gain_gained (r : Run) (i : Nat) (ws : List Nat) : (r.gain i ws).gained = r.gained ++ [(i, ws)] := rfl
@[simp] theorem Run.gain_widNodes (r : Run) (i : Nat) (ws : List Nat) : (r.gain i ws).widNodes = r.widNodes := rfl
@[simp] theorem Run.gain_committedWrites (r : Run) (i : Nat) (ws : List Nat) : (r.gain i ws).committedWrites = r.committedWrites := rfl

/-! ## The sequencer's step (R285 to R290, R349) -/

@[simp] theorem Arch.follow_pc (a : Arch) (body : Bodies) (pc len : Nat) (c : Ctl) : (a.follow body pc len c).pc = (a.sequence body pc len c).pc := rfl
@[simp] theorem Arch.follow_loops (a : Arch) (body : Bodies) (pc len : Nat) (c : Ctl) :
    (a.follow body pc len c).loops = (a.sequence body pc len c).loops := rfl

/-- The entries that stood when SOLVE executed are never more than those of the stack. -/
theorem Arch.follow_solve_le (a : Arch) (body : Bodies) (pc len : Nat) (c : Ctl) :
    (a.follow body pc len c).solve.loops ≤ (a.follow body pc len c).loops.length := by
  simp only [Arch.follow]
  exact Nat.min_le_right _ _

/-! ## Stream tapes (R62, R169) -/

@[simp] theorem TapeState.free_fill (x : TapeState) (n : Nat) : (x.free n).fill = x.fill := rfl
@[simp] theorem TapeState.free_by (x : TapeState) (n : Nat) : (x.free n).by_ = x.by_ := rfl
@[simp] theorem TapeState.free_records (x : TapeState) (n : Nat) : (x.free n).records = x.records := rfl
@[simp] theorem TapeState.free_fresh (x : TapeState) (n : Nat) : (x.free n).fresh = x.fresh := rfl
@[simp] theorem TapeState.appended_fill (x : TapeState) (g : Nat → Nat) (i : Nat) (d : List Byte) (c : Carried) (b : Bool) :
    (x.appended g i d c b).fill = x.fill + 1 := rfl
@[simp] theorem TapeState.appended_freed (x : TapeState) (g : Nat → Nat) (i : Nat) (d : List Byte) (c : Carried) (b : Bool) :
    (x.appended g i d c b).freed = x.freed := rfl
@[simp] theorem TapeState.appended_unstored (x : TapeState) (g : Nat → Nat) (i : Nat) (d : List Byte) (c : Carried) :
    (x.appended g i d c false).fresh = x.fresh := rfl

/-- The count of freed records never falls. -/
theorem TapeState.free_le (x : TapeState) (n : Nat) : x.freed ≤ (x.free n).freed := Nat.le_max_left _ _

/-- A stored append is the last of the records that the ring holds of nodes not committed. -/
theorem TapeState.appended_stored (x : TapeState) (g : Nat → Nat) (i : Nat) (d : List Byte) (c : Carried) :
    (x.fill, i) ∈ (x.appended g i d c true).fresh := by
  simp [TapeState.appended]

/-! ## Results that landed early (R128) -/

/-- A result that landed early at a freeze only leaves the results in flight at its own vc. -/
theorem Core.landed_spent (k : Core) (p : Pend) (h : p.spent = true) : k.landed p = { k with pend := k.pend.filter (fun q => q != p) } := by
  simp [Core.landed, h]

/-- What has yet to land is in flight and has not landed early. -/
theorem Core.mem_toLand (k : Core) (p : Pend) : p ∈ k.toLand ↔ p ∈ k.pend ∧ p.spent = false := by
  simp [Core.toLand]

/-- No result in flight is lost between what has yet to land and what has landed early. -/
theorem Core.toLand_or_spent (k : Core) (p : Pend) (h : p ∈ k.pend) : p ∈ k.toLand ∨ p.spent = true := by
  cases hp : p.spent <;> simp [Core.toLand, h, hp]

@[simp] theorem joinEntries_nil : joinEntries [] = [] := rfl
@[simp] theorem joinEntries_one (p : Pend) : joinEntries [p] = [p] := rfl

/-- Tags that a landing leaves are among those that it makes. -/
theorem tagsOfBoth_sub (old new other : List Tag) (t : Tag) (h : t ∈ tagsOfBoth old new other) : t ∈ new :=
  (List.mem_filter.mp h).1

theorem tagsOfBoth_length (old new other : List Tag) : (tagsOfBoth old new other).length ≤ new.length := List.length_filter_le _ _

@[simp] theorem Core.applyUndo_tokensCk (k : Core) (u : Undo) : (k.applyUndo u).tokensCk = k.tokensCk := by
  unfold Core.applyUndo; split <;> rfl

/-- A rollback has the token acquisitions of its checkpoint again (R206). -/
theorem Core.rollback_tokensIn (k : Core) : k.rollback.1.tokensIn = k.settle.1.tokensCk := by
  have keeps : ∀ (l : List Undo) (k : Core), (l.foldl Core.applyUndo k).tokensCk = k.tokensCk := by
    intro l
    induction l with
    | nil => intro _; rfl
    | cons u l ih => intro k; rw [List.foldl_cons, ih, Core.applyUndo_tokensCk]
  exact keeps _ _

/-! ## Traps still in their rollback (R109) -/

/-- A trap takes its place among the others and drops none. -/
theorem mem_insertTrap (x y : Core × TrapInfo × W64 × Nat) (l : List (Core × TrapInfo × W64 × Nat)) :
    y ∈ insertTrap x l ↔ y = x ∨ y ∈ l := by
  induction l with
  | nil => simp [insertTrap]
  | cons z l ih =>
    unfold insertTrap
    split
    · simp
    · simp only [List.mem_cons, ih]
      exact or_left_comm

/-- Every core of the run that is in a trap's rollback is among its open traps. -/
theorem State.mem_openTraps (s : State) (rid : Nat) (k : Core) (t : TrapInfo) (dict : W64) (tick : Nat)
    (hk : k ∈ s.cores) (hr : k.run = rid) (hs : k.stage = .trapping t dict tick) : (k, t, dict, tick) ∈ s.openTraps rid := by
  have mem : ∀ (l : List (Core × TrapInfo × W64 × Nat)) y, y ∈ l.foldr insertTrap [] ↔ y ∈ l := by
    intro l y
    induction l with
    | nil => rfl
    | cons x l ih => simp [mem_insertTrap, ih]
  refine (mem _ _).mpr (List.mem_filterMap.mpr ⟨k, hk, ?_⟩)
  simp [hr, hs]

/-! ## Commands in progress (R218, R229) -/

/-- A copy is in progress from its start. -/
theorem State.inProgress_copy (s : State) (x : Context) (c : Command) (h : blkOp c.block < 16) : s.inProgress x c = c.started := by
  simp [State.inProgress, h]

/-- A collective that has its result is in progress. -/
theorem State.inProgress_ready (s : State) (x : Context) (c : Command) (h : 16 ≤ blkOp c.block) (hr : c.ready = true) :
    s.inProgress x c = true := by
  simp [State.inProgress, Nat.not_lt.mpr h, hr]

/-- A command in progress is one that its context owes whatever the bound of the cut. -/
theorem State.owes_of_inProgress {s : State} {x : Context} {c : Command} (hc : c ∈ x.queue) (h : s.inProgress x c = true) (n : Nat) :
    s.owes x n = true := by
  simp only [State.owes, List.any_eq_true]
  exact ⟨c, hc, by simp [h]⟩

end Sys2Proof.Machine
end

