-- ==== Sys2Proof/Laws/PerInstr.lean ====
section
/-! SUPPORT. Family `Encodable`, one lemma per instruction: a slot instruction has one word, and its opcode may stand in its slot. -/

namespace Sys2Proof.Laws

/-- A slot instruction is encoded as one word whose opcode its slot accepts (Table 14.10); an event has no words, and a bundle has
the words of its header or call and what follows. -/
def Encodable.Statement (i : Instr) : Prop :=
  (∀ slot ck, Machine.soloOf i = some (slot, ck) → ∃ w : W32, encode i = [w] ∧ placed slot w = true) ∧
  (Machine.soloOf i = none → (encode i).length = 0 ∨ (∃ n f, i = .shortCall n f) ∨ (∃ n f, i = .longCall n f) ∨ ∃ h ws, i = .literalBundle h ws)

theorem Encodable.add (d : BitVec 6) (a : BitVec 6) (b : BitVec 6) : Encodable.Statement (.add d a b) :=
  ⟨fun _ _ h => by cases h; exact ⟨_, rfl, by simp (disch := decide) only [placed, fld_append_left]; rfl⟩, nofun⟩
theorem Encodable.sub (d : BitVec 6) (a : BitVec 6) (b : BitVec 6) : Encodable.Statement (.sub d a b) :=
  ⟨fun _ _ h => by cases h; exact ⟨_, rfl, by simp (disch := decide) only [placed, fld_append_left]; rfl⟩, nofun⟩
theorem Encodable.mul (d : BitVec 6) (a : BitVec 6) (b : BitVec 6) : Encodable.Statement (.mul d a b) :=
  ⟨fun _ _ h => by cases h; exact ⟨_, rfl, by simp (disch := decide) only [placed, fld_append_left]; rfl⟩, nofun⟩
theorem Encodable.mulh (d : BitVec 6) (a : BitVec 6) (b : BitVec 6) : Encodable.Statement (.mulh d a b) :=
  ⟨fun _ _ h => by cases h; exact ⟨_, rfl, by simp (disch := decide) only [placed, fld_append_left]; rfl⟩, nofun⟩
theorem Encodable.mulhu (d : BitVec 6) (a : BitVec 6) (b : BitVec 6) : Encodable.Statement (.mulhu d a b) :=
  ⟨fun _ _ h => by cases h; exact ⟨_, rfl, by simp (disch := decide) only [placed, fld_append_left]; rfl⟩, nofun⟩
theorem Encodable.divu (d : BitVec 6) (a : BitVec 6) (b : BitVec 6) : Encodable.Statement (.divu d a b) :=
  ⟨fun _ _ h => by cases h; exact ⟨_, rfl, by simp (disch := decide) only [placed, fld_append_left]; rfl⟩, nofun⟩
theorem Encodable.remu (d : BitVec 6) (a : BitVec 6) (b : BitVec 6) : Encodable.Statement (.remu d a b) :=
  ⟨fun _ _ h => by cases h; exact ⟨_, rfl, by simp (disch := decide) only [placed, fld_append_left]; rfl⟩, nofun⟩
theorem Encodable.and (d : BitVec 6) (a : BitVec 6) (b : BitVec 6) : Encodable.Statement (.and d a b) :=
  ⟨fun _ _ h => by cases h; exact ⟨_, rfl, by simp (disch := decide) only [placed, fld_append_left]; rfl⟩, nofun⟩
theorem Encodable.or (d : BitVec 6) (a : BitVec 6) (b : BitVec 6) : Encodable.Statement (.or d a b) :=
  ⟨fun _ _ h => by cases h; exact ⟨_, rfl, by simp (disch := decide) only [placed, fld_append_left]; rfl⟩, nofun⟩
theorem Encodable.xor (d : BitVec 6) (a : BitVec 6) (b : BitVec 6) : Encodable.Statement (.xor d a b) :=
  ⟨fun _ _ h => by cases h; exact ⟨_, rfl, by simp (disch := decide) only [placed, fld_append_left]; rfl⟩, nofun⟩
theorem Encodable.shl (d : BitVec 6) (a : BitVec 6) (b : BitVec 6) : Encodable.Statement (.shl d a b) :=
  ⟨fun _ _ h => by cases h; exact ⟨_, rfl, by simp (disch := decide) only [placed, fld_append_left]; rfl⟩, nofun⟩
theorem Encodable.shr (d : BitVec 6) (a : BitVec 6) (b : BitVec 6) : Encodable.Statement (.shr d a b) :=
  ⟨fun _ _ h => by cases h; exact ⟨_, rfl, by simp (disch := decide) only [placed, fld_append_left]; rfl⟩, nofun⟩
theorem Encodable.sar (d : BitVec 6) (a : BitVec 6) (b : BitVec 6) : Encodable.Statement (.sar d a b) :=
  ⟨fun _ _ h => by cases h; exact ⟨_, rfl, by simp (disch := decide) only [placed, fld_append_left]; rfl⟩, nofun⟩
theorem Encodable.min (d : BitVec 6) (a : BitVec 6) (b : BitVec 6) : Encodable.Statement (.min d a b) :=
  ⟨fun _ _ h => by cases h; exact ⟨_, rfl, by simp (disch := decide) only [placed, fld_append_left]; rfl⟩, nofun⟩
theorem Encodable.max (d : BitVec 6) (a : BitVec 6) (b : BitVec 6) : Encodable.Statement (.max d a b) :=
  ⟨fun _ _ h => by cases h; exact ⟨_, rfl, by simp (disch := decide) only [placed, fld_append_left]; rfl⟩, nofun⟩
theorem Encodable.minu (d : BitVec 6) (a : BitVec 6) (b : BitVec 6) : Encodable.Statement (.minu d a b) :=
  ⟨fun _ _ h => by cases h; exact ⟨_, rfl, by simp (disch := decide) only [placed, fld_append_left]; rfl⟩, nofun⟩
theorem Encodable.maxu (d : BitVec 6) (a : BitVec 6) (b : BitVec 6) : Encodable.Statement (.maxu d a b) :=
  ⟨fun _ _ h => by cases h; exact ⟨_, rfl, by simp (disch := decide) only [placed, fld_append_left]; rfl⟩, nofun⟩
theorem Encodable.clz (d : BitVec 6) (a : BitVec 6) : Encodable.Statement (.clz d a) :=
  ⟨fun _ _ h => by cases h; exact ⟨_, rfl, by simp (disch := decide) only [placed, fld_append_left]; rfl⟩, nofun⟩
theorem Encodable.popc (d : BitVec 6) (a : BitVec 6) : Encodable.Statement (.popc d a) :=
  ⟨fun _ _ h => by cases h; exact ⟨_, rfl, by simp (disch := decide) only [placed, fld_append_left]; rfl⟩, nofun⟩
theorem Encodable.sel (d : BitVec 6) (a : BitVec 6) (b : BitVec 6) (p : BitVec 1) (n : BitVec 3) : Encodable.Statement (.sel d a b p n) :=
  ⟨fun _ _ h => by cases h; exact ⟨_, rfl, by simp (disch := decide) only [placed, fld_append_left]; rfl⟩, nofun⟩
theorem Encodable.addi (d : BitVec 6) (a : BitVec 6) (i : BitVec 12) : Encodable.Statement (.addi d a i) :=
  ⟨fun _ _ h => by cases h; exact ⟨_, rfl, by simp (disch := decide) only [placed, fld_append_left]; rfl⟩, nofun⟩
theorem Encodable.andi (d : BitVec 6) (a : BitVec 6) (i : BitVec 12) : Encodable.Statement (.andi d a i) :=
  ⟨fun _ _ h => by cases h; exact ⟨_, rfl, by simp (disch := decide) only [placed, fld_append_left]; rfl⟩, nofun⟩
theorem Encodable.ori (d : BitVec 6) (a : BitVec 6) (i : BitVec 12) : Encodable.Statement (.ori d a i) :=
  ⟨fun _ _ h => by cases h; exact ⟨_, rfl, by simp (disch := decide) only [placed, fld_append_left]; rfl⟩, nofun⟩
theorem Encodable.xori (d : BitVec 6) (a : BitVec 6) (i : BitVec 12) : Encodable.Statement (.xori d a i) :=
  ⟨fun _ _ h => by cases h; exact ⟨_, rfl, by simp (disch := decide) only [placed, fld_append_left]; rfl⟩, nofun⟩
theorem Encodable.shli (d : BitVec 6) (a : BitVec 6) (n : BitVec 6) : Encodable.Statement (.shli d a n) :=
  ⟨fun _ _ h => by cases h; exact ⟨_, rfl, by simp (disch := decide) only [placed, fld_append_left]; rfl⟩, nofun⟩
theorem Encodable.shri (d : BitVec 6) (a : BitVec 6) (n : BitVec 6) : Encodable.Statement (.shri d a n) :=
  ⟨fun _ _ h => by cases h; exact ⟨_, rfl, by simp (disch := decide) only [placed, fld_append_left]; rfl⟩, nofun⟩
theorem Encodable.sari (d : BitVec 6) (a : BitVec 6) (n : BitVec 6) : Encodable.Statement (.sari d a n) :=
  ⟨fun _ _ h => by cases h; exact ⟨_, rfl, by simp (disch := decide) only [placed, fld_append_left]; rfl⟩, nofun⟩
theorem Encodable.bfx (d : BitVec 6) (a : BitVec 6) (p : BitVec 6) (l : BitVec 6) : Encodable.Statement (.bfx d a p l) :=
  ⟨fun _ _ h => by cases h; exact ⟨_, rfl, by simp (disch := decide) only [placed, fld_append_left]; rfl⟩, nofun⟩
theorem Encodable.bfi (d : BitVec 6) (a : BitVec 6) (p : BitVec 6) (l : BitVec 6) : Encodable.Statement (.bfi d a p l) :=
  ⟨fun _ _ h => by cases h; exact ⟨_, rfl, by simp (disch := decide) only [placed, fld_append_left]; rfl⟩, nofun⟩
theorem Encodable.movi (d : BitVec 6) (i : BitVec 18) : Encodable.Statement (.movi d i) :=
  ⟨fun _ _ h => by cases h; exact ⟨_, rfl, by simp (disch := decide) only [placed, fld_append_left]; rfl⟩, nofun⟩
theorem Encodable.movhi (d : BitVec 6) (i : BitVec 18) : Encodable.Statement (.movhi d i) :=
  ⟨fun _ _ h => by cases h; exact ⟨_, rfl, by simp (disch := decide) only [placed, fld_append_left]; rfl⟩, nofun⟩
theorem Encodable.cmpCc (d : BitVec 3) (a : BitVec 6) (b : BitVec 6) (c : BitVec 6) : Encodable.Statement (.cmpCc d a b c) :=
  ⟨fun _ _ h => by cases h; exact ⟨_, rfl, by simp (disch := decide) only [placed, fld_append_left]; rfl⟩, nofun⟩
theorem Encodable.pand (d : BitVec 3) (a : BitVec 3) (b : BitVec 3) : Encodable.Statement (.pand d a b) :=
  ⟨fun _ _ h => by cases h; exact ⟨_, rfl, by simp (disch := decide) only [placed, fld_append_left]; rfl⟩, nofun⟩
theorem Encodable.por (d : BitVec 3) (a : BitVec 3) (b : BitVec 3) : Encodable.Statement (.por d a b) :=
  ⟨fun _ _ h => by cases h; exact ⟨_, rfl, by simp (disch := decide) only [placed, fld_append_left]; rfl⟩, nofun⟩
theorem Encodable.pxor (d : BitVec 3) (a : BitVec 3) (b : BitVec 3) : Encodable.Statement (.pxor d a b) :=
  ⟨fun _ _ h => by cases h; exact ⟨_, rfl, by simp (disch := decide) only [placed, fld_append_left]; rfl⟩, nofun⟩
theorem Encodable.pnot (d : BitVec 3) (a : BitVec 3) : Encodable.Statement (.pnot d a) :=
  ⟨fun _ _ h => by cases h; exact ⟨_, rfl, by simp (disch := decide) only [placed, fld_append_left]; rfl⟩, nofun⟩
theorem Encodable.cmpiCc (c : BitVec 4) (d : BitVec 3) (a : BitVec 6) (i : BitVec 12) : Encodable.Statement (.cmpiCc c d a i) :=
  ⟨fun _ _ h => by cases h; exact ⟨_, rfl, by simp (disch := decide) only [placed, fld_append_left]; revert c; decide⟩, nofun⟩
theorem Encodable.faddS (d : BitVec 6) (a : BitVec 6) (b : BitVec 6) (m : BitVec 3) : Encodable.Statement (.faddS d a b m) :=
  ⟨fun _ _ h => by cases h; exact ⟨_, rfl, by simp (disch := decide) only [placed, fld_append_left]; rfl⟩, nofun⟩
theorem Encodable.fmulS (d : BitVec 6) (a : BitVec 6) (b : BitVec 6) (m : BitVec 3) : Encodable.Statement (.fmulS d a b m) :=
  ⟨fun _ _ h => by cases h; exact ⟨_, rfl, by simp (disch := decide) only [placed, fld_append_left]; rfl⟩, nofun⟩
theorem Encodable.ffmaS (d : BitVec 6) (a : BitVec 6) (b : BitVec 6) (m : BitVec 3) : Encodable.Statement (.ffmaS d a b m) :=
  ⟨fun _ _ h => by cases h; exact ⟨_, rfl, by simp (disch := decide) only [placed, fld_append_left]; rfl⟩, nofun⟩
theorem Encodable.fminS (d : BitVec 6) (a : BitVec 6) (b : BitVec 6) : Encodable.Statement (.fminS d a b) :=
  ⟨fun _ _ h => by cases h; exact ⟨_, rfl, by simp (disch := decide) only [placed, fld_append_left]; rfl⟩, nofun⟩
theorem Encodable.fmaxS (d : BitVec 6) (a : BitVec 6) (b : BitVec 6) : Encodable.Statement (.fmaxS d a b) :=
  ⟨fun _ _ h => by cases h; exact ⟨_, rfl, by simp (disch := decide) only [placed, fld_append_left]; rfl⟩, nofun⟩
theorem Encodable.fcmpCc (d : BitVec 3) (a : BitVec 6) (b : BitVec 6) (c : BitVec 6) : Encodable.Statement (.fcmpCc d a b c) :=
  ⟨fun _ _ h => by cases h; exact ⟨_, rfl, by simp (disch := decide) only [placed, fld_append_left]; rfl⟩, nofun⟩
theorem Encodable.icvt (d : BitVec 6) (a : BitVec 6) (u : BitVec 1) (m : BitVec 3) : Encodable.Statement (.icvt d a u m) :=
  ⟨fun _ _ h => by cases h; exact ⟨_, rfl, by simp (disch := decide) only [placed, fld_append_left]; rfl⟩, nofun⟩
theorem Encodable.fcvt (d : BitVec 6) (a : BitVec 6) (u : BitVec 1) (m : BitVec 3) : Encodable.Statement (.fcvt d a u m) :=
  ⟨fun _ _ h => by cases h; exact ⟨_, rfl, by simp (disch := decide) only [placed, fld_append_left]; rfl⟩, nofun⟩
theorem Encodable.ldB (d : BitVec 6) (a : BitVec 6) (i : BitVec 12) : Encodable.Statement (.ldB d a i) :=
  ⟨fun _ _ h => by cases h; exact ⟨_, rfl, by simp (disch := decide) only [placed, fld_append_left]; rfl⟩, nofun⟩
theorem Encodable.ldH (d : BitVec 6) (a : BitVec 6) (i : BitVec 12) : Encodable.Statement (.ldH d a i) :=
  ⟨fun _ _ h => by cases h; exact ⟨_, rfl, by simp (disch := decide) only [placed, fld_append_left]; rfl⟩, nofun⟩
theorem Encodable.ldW (d : BitVec 6) (a : BitVec 6) (i : BitVec 12) : Encodable.Statement (.ldW d a i) :=
  ⟨fun _ _ h => by cases h; exact ⟨_, rfl, by simp (disch := decide) only [placed, fld_append_left]; rfl⟩, nofun⟩
theorem Encodable.ldD (d : BitVec 6) (a : BitVec 6) (i : BitVec 12) : Encodable.Statement (.ldD d a i) :=
  ⟨fun _ _ h => by cases h; exact ⟨_, rfl, by simp (disch := decide) only [placed, fld_append_left]; rfl⟩, nofun⟩
theorem Encodable.stB (d : BitVec 6) (a : BitVec 6) (i : BitVec 12) : Encodable.Statement (.stB d a i) :=
  ⟨fun _ _ h => by cases h; exact ⟨_, rfl, by simp (disch := decide) only [placed, fld_append_left]; rfl⟩, nofun⟩
theorem Encodable.stH (d : BitVec 6) (a : BitVec 6) (i : BitVec 12) : Encodable.Statement (.stH d a i) :=
  ⟨fun _ _ h => by cases h; exact ⟨_, rfl, by simp (disch := decide) only [placed, fld_append_left]; rfl⟩, nofun⟩
theorem Encodable.stW (d : BitVec 6) (a : BitVec 6) (i : BitVec 12) : Encodable.Statement (.stW d a i) :=
  ⟨fun _ _ h => by cases h; exact ⟨_, rfl, by simp (disch := decide) only [placed, fld_append_left]; rfl⟩, nofun⟩
theorem Encodable.stD (d : BitVec 6) (a : BitVec 6) (i : BitVec 12) : Encodable.Statement (.stD d a i) :=
  ⟨fun _ _ h => by cases h; exact ⟨_, rfl, by simp (disch := decide) only [placed, fld_append_left]; rfl⟩, nofun⟩
theorem Encodable.rdsr (d : BitVec 6) (r : BitVec 18) : Encodable.Statement (.rdsr d r) :=
  ⟨fun _ _ h => by cases h; exact ⟨_, rfl, by simp (disch := decide) only [placed, fld_append_left]; rfl⟩, nofun⟩
theorem Encodable.wrsr (a : BitVec 6) (r : BitVec 18) : Encodable.Statement (.wrsr a r) :=
  ⟨fun _ _ h => by cases h; exact ⟨_, rfl, by simp (disch := decide) only [placed, fld_append_left]; rfl⟩, nofun⟩
theorem Encodable.view (v : BitVec 6) (a : BitVec 6) (b : BitVec 6) : Encodable.Statement (.view v a b) :=
  ⟨fun _ _ h => by cases h; exact ⟨_, rfl, by simp (disch := decide) only [placed, fld_append_left]; rfl⟩, nofun⟩
theorem Encodable.ftset (a : BitVec 6) (b : BitVec 6) : Encodable.Statement (.ftset a b) :=
  ⟨fun _ _ h => by cases h; exact ⟨_, rfl, by simp (disch := decide) only [placed, fld_append_left]; rfl⟩, nofun⟩
theorem Encodable.rngk (a : BitVec 6) (b : BitVec 6) : Encodable.Statement (.rngk a b) :=
  ⟨fun _ _ h => by cases h; exact ⟨_, rfl, by simp (disch := decide) only [placed, fld_append_left]; rfl⟩, nofun⟩
theorem Encodable.revon (a : BitVec 6) : Encodable.Statement (.revon a) :=
  ⟨fun _ _ h => by cases h; exact ⟨_, rfl, by simp (disch := decide) only [placed, fld_append_left]; rfl⟩, nofun⟩
theorem Encodable.rstag (d : BitVec 6) (c : BitVec 1) (m : BitVec 4) : Encodable.Statement (.rstag d c m) :=
  ⟨fun _ _ h => by cases h; exact ⟨_, rfl, by simp (disch := decide) only [placed, fld_append_left]; rfl⟩, nofun⟩
theorem Encodable.vadd (d : BitVec 5) (a : BitVec 5) (b : BitVec 5) (q : BitVec 2) (m : BitVec 3) (f : BitVec 4) : Encodable.Statement (.vadd d a b q m f) :=
  ⟨fun _ _ h => by cases h; exact ⟨_, rfl, rfl⟩, nofun⟩
theorem Encodable.vsub (d : BitVec 5) (a : BitVec 5) (b : BitVec 5) (q : BitVec 2) (m : BitVec 3) (f : BitVec 4) : Encodable.Statement (.vsub d a b q m f) :=
  ⟨fun _ _ h => by cases h; exact ⟨_, rfl, rfl⟩, nofun⟩
theorem Encodable.vmul (d : BitVec 5) (a : BitVec 5) (b : BitVec 5) (q : BitVec 2) (m : BitVec 3) (f : BitVec 4) : Encodable.Statement (.vmul d a b q m f) :=
  ⟨fun _ _ h => by cases h; exact ⟨_, rfl, rfl⟩, nofun⟩
theorem Encodable.vfma (d : BitVec 5) (a : BitVec 5) (b : BitVec 5) (c : BitVec 5) (f : BitVec 4) : Encodable.Statement (.vfma d a b c f) :=
  ⟨fun _ _ h => by cases h; exact ⟨_, rfl, rfl⟩, nofun⟩
theorem Encodable.vfms (d : BitVec 5) (a : BitVec 5) (b : BitVec 5) (c : BitVec 5) (f : BitVec 4) : Encodable.Statement (.vfms d a b c f) :=
  ⟨fun _ _ h => by cases h; exact ⟨_, rfl, rfl⟩, nofun⟩
theorem Encodable.vmin (d : BitVec 5) (a : BitVec 5) (b : BitVec 5) (q : BitVec 2) (m : BitVec 3) (f : BitVec 4) : Encodable.Statement (.vmin d a b q m f) :=
  ⟨fun _ _ h => by cases h; exact ⟨_, rfl, rfl⟩, nofun⟩
theorem Encodable.vmax (d : BitVec 5) (a : BitVec 5) (b : BitVec 5) (q : BitVec 2) (m : BitVec 3) (f : BitVec 4) : Encodable.Statement (.vmax d a b q m f) :=
  ⟨fun _ _ h => by cases h; exact ⟨_, rfl, rfl⟩, nofun⟩
theorem Encodable.vabs (d : BitVec 5) (a : BitVec 5) (q : BitVec 2) (m : BitVec 3) (f : BitVec 4) : Encodable.Statement (.vabs d a q m f) :=
  ⟨fun _ _ h => by cases h; exact ⟨_, rfl, rfl⟩, nofun⟩
theorem Encodable.vneg (d : BitVec 5) (a : BitVec 5) (q : BitVec 2) (m : BitVec 3) (f : BitVec 4) : Encodable.Statement (.vneg d a q m f) :=
  ⟨fun _ _ h => by cases h; exact ⟨_, rfl, rfl⟩, nofun⟩
theorem Encodable.vaddSr (d : BitVec 5) (a : BitVec 5) (b : BitVec 5) (q : BitVec 2) (g : ModeFmt) : Encodable.Statement (.vaddSr d a b q g) :=
  ⟨fun _ _ h => by cases h; exact ⟨_, rfl, rfl⟩, nofun⟩
theorem Encodable.vcmpCc (c : BitVec 4) (e : BitVec 2) (a : BitVec 5) (b : BitVec 5) (q : BitVec 2) (g : ModeFmt) : Encodable.Statement (.vcmpCc c e a b q g) :=
  ⟨fun _ _ h => by cases h; exact ⟨_, rfl, rfl⟩, nofun⟩
theorem Encodable.vsel (d : BitVec 5) (a : BitVec 5) (b : BitVec 5) (q : BitVec 2) : Encodable.Statement (.vsel d a b q) :=
  ⟨fun _ _ h => by cases h; exact ⟨_, rfl, rfl⟩, nofun⟩
theorem Encodable.vand (d : BitVec 5) (a : BitVec 5) (b : BitVec 5) (q : BitVec 2) : Encodable.Statement (.vand d a b q) :=
  ⟨fun _ _ h => by cases h; exact ⟨_, rfl, rfl⟩, nofun⟩
theorem Encodable.vor (d : BitVec 5) (a : BitVec 5) (b : BitVec 5) (q : BitVec 2) : Encodable.Statement (.vor d a b q) :=
  ⟨fun _ _ h => by cases h; exact ⟨_, rfl, rfl⟩, nofun⟩
theorem Encodable.vxor (d : BitVec 5) (a : BitVec 5) (b : BitVec 5) (q : BitVec 2) : Encodable.Statement (.vxor d a b q) :=
  ⟨fun _ _ h => by cases h; exact ⟨_, rfl, rfl⟩, nofun⟩
theorem Encodable.vshl (d : BitVec 5) (a : BitVec 5) (b : BitVec 5) (q : BitVec 2) (g : ModeFmt) : Encodable.Statement (.vshl d a b q g) :=
  ⟨fun _ _ h => by cases h; exact ⟨_, rfl, rfl⟩, nofun⟩
theorem Encodable.vshr (d : BitVec 5) (a : BitVec 5) (b : BitVec 5) (q : BitVec 2) (g : ModeFmt) : Encodable.Statement (.vshr d a b q g) :=
  ⟨fun _ _ h => by cases h; exact ⟨_, rfl, rfl⟩, nofun⟩
theorem Encodable.vsar (d : BitVec 5) (a : BitVec 5) (b : BitVec 5) (q : BitVec 2) (g : ModeFmt) : Encodable.Statement (.vsar d a b q g) :=
  ⟨fun _ _ h => by cases h; exact ⟨_, rfl, rfl⟩, nofun⟩
theorem Encodable.vcvt (d : BitVec 5) (a : BitVec 5) (t : BitVec 4) (s : BitVec 1) (q : BitVec 2) (m : BitVec 3) (f : BitVec 4) : Encodable.Statement (.vcvt d a t s q m f) :=
  ⟨fun _ _ h => by cases h; exact ⟨_, rfl, rfl⟩, nofun⟩
theorem Encodable.vqnt (d : BitVec 5) (a : BitVec 5) (m : BitVec 3) (f : BitVec 4) : Encodable.Statement (.vqnt d a m f) :=
  ⟨fun _ _ h => by cases h; exact ⟨_, rfl, rfl⟩, nofun⟩
theorem Encodable.vdqnt (d : BitVec 5) (a : BitVec 5) (g : ModeFmt) : Encodable.Statement (.vdqnt d a g) :=
  ⟨fun _ _ h => by cases h; exact ⟨_, rfl, rfl⟩, nofun⟩
theorem Encodable.vrsqrta (d : BitVec 5) (a : BitVec 5) (q : BitVec 2) : Encodable.Statement (.vrsqrta d a q) :=
  ⟨fun _ _ h => by cases h; exact ⟨_, rfl, rfl⟩, nofun⟩
theorem Encodable.vrcpa (d : BitVec 5) (a : BitVec 5) (q : BitVec 2) : Encodable.Statement (.vrcpa d a q) :=
  ⟨fun _ _ h => by cases h; exact ⟨_, rfl, rfl⟩, nofun⟩
theorem Encodable.vexp2a (d : BitVec 5) (a : BitVec 5) (q : BitVec 2) : Encodable.Statement (.vexp2a d a q) :=
  ⟨fun _ _ h => by cases h; exact ⟨_, rfl, rfl⟩, nofun⟩
theorem Encodable.vlog2a (d : BitVec 5) (a : BitVec 5) (q : BitVec 2) : Encodable.Statement (.vlog2a d a q) :=
  ⟨fun _ _ h => by cases h; exact ⟨_, rfl, rfl⟩, nofun⟩
theorem Encodable.vredsum (d : BitVec 5) (a : BitVec 5) (q : BitVec 2) (g : ModeFmt) : Encodable.Statement (.vredsum d a q g) :=
  ⟨fun _ _ h => by cases h; exact ⟨_, rfl, rfl⟩, nofun⟩
theorem Encodable.vredmax (d : BitVec 5) (a : BitVec 5) (q : BitVec 2) (g : ModeFmt) : Encodable.Statement (.vredmax d a q g) :=
  ⟨fun _ _ h => by cases h; exact ⟨_, rfl, rfl⟩, nofun⟩
theorem Encodable.vbcast (d : BitVec 5) (s : BitVec 5) (q : BitVec 2) : Encodable.Statement (.vbcast d s q) :=
  ⟨fun _ _ h => by cases h; exact ⟨_, rfl, rfl⟩, nofun⟩
theorem Encodable.vextr (d : BitVec 5) (a : BitVec 5) (b : BitVec 5) (g : ModeFmt) : Encodable.Statement (.vextr d a b g) :=
  ⟨fun _ _ h => by cases h; exact ⟨_, rfl, rfl⟩, nofun⟩
theorem Encodable.vperm (d : BitVec 5) (a : BitVec 5) (b : BitVec 5) (q : BitVec 2) : Encodable.Statement (.vperm d a b q) :=
  ⟨fun _ _ h => by cases h; exact ⟨_, rfl, rfl⟩, nofun⟩
theorem Encodable.vrot (d : BitVec 5) (a : BitVec 5) (b : BitVec 5) (q : BitVec 2) : Encodable.Statement (.vrot d a b q) :=
  ⟨fun _ _ h => by cases h; exact ⟨_, rfl, rfl⟩, nofun⟩
theorem Encodable.vmov (d : BitVec 5) (a : BitVec 5) (q : BitVec 2) : Encodable.Statement (.vmov d a q) :=
  ⟨fun _ _ h => by cases h; exact ⟨_, rfl, rfl⟩, nofun⟩
theorem Encodable.viota (d : BitVec 5) (s : BitVec 5) (q : BitVec 2) : Encodable.Statement (.viota d s q) :=
  ⟨fun _ _ h => by cases h; exact ⟨_, rfl, rfl⟩, nofun⟩
theorem Encodable.vld (d : BitVec 5) (s : BitVec 5) (q : BitVec 2) : Encodable.Statement (.vld d s q) :=
  ⟨fun _ _ h => by cases h; exact ⟨_, rfl, rfl⟩, nofun⟩
theorem Encodable.vst (v : BitVec 5) (s : BitVec 5) (q : BitVec 2) : Encodable.Statement (.vst v s q) :=
  ⟨fun _ _ h => by cases h; exact ⟨_, rfl, rfl⟩, nofun⟩
theorem Encodable.trowLd (d : BitVec 5) (t : BitVec 4) (b : BitVec 5) (q : BitVec 2) (g : ModeFmt) : Encodable.Statement (.trowLd d t b q g) :=
  ⟨fun _ _ h => by cases h; exact ⟨_, rfl, rfl⟩, nofun⟩
theorem Encodable.trowSt (v : BitVec 5) (t : BitVec 4) (b : BitVec 5) (q : BitVec 2) (g : ModeFmt) : Encodable.Statement (.trowSt v t b q g) :=
  ⟨fun _ _ h => by cases h; exact ⟨_, rfl, rfl⟩, nofun⟩
theorem Encodable.tcolLd (d : BitVec 5) (t : BitVec 4) (b : BitVec 5) (q : BitVec 2) (g : ModeFmt) : Encodable.Statement (.tcolLd d t b q g) :=
  ⟨fun _ _ h => by cases h; exact ⟨_, rfl, rfl⟩, nofun⟩
theorem Encodable.tcolSt (v : BitVec 5) (t : BitVec 4) (b : BitVec 5) (q : BitVec 2) (g : ModeFmt) : Encodable.Statement (.tcolSt v t b q g) :=
  ⟨fun _ _ h => by cases h; exact ⟨_, rfl, rfl⟩, nofun⟩
theorem Encodable.qmovToMask (e : BitVec 2) (s : BitVec 5) : Encodable.Statement (.qmovToMask e s) :=
  ⟨fun _ _ h => by cases h; exact ⟨_, rfl, rfl⟩, nofun⟩
theorem Encodable.qmovFromMask (d : BitVec 5) (e : BitVec 2) : Encodable.Statement (.qmovFromMask d e) :=
  ⟨fun _ _ h => by cases h; exact ⟨_, rfl, rfl⟩, nofun⟩
theorem Encodable.qops (d : BitVec 2) (a : BitVec 2) (b : BitVec 2) (o : BitVec 4) : Encodable.Statement (.qops d a b o) :=
  ⟨fun _ _ h => by cases h; exact ⟨_, rfl, rfl⟩, nofun⟩
theorem Encodable.radd (d : BitVec 5) (a : BitVec 5) (b : BitVec 5) (q : BitVec 2) (f : BitVec 4) : Encodable.Statement (.radd d a b q f) :=
  ⟨fun _ _ h => by cases h; exact ⟨_, rfl, rfl⟩, nofun⟩
theorem Encodable.rsub (d : BitVec 5) (a : BitVec 5) (b : BitVec 5) (q : BitVec 2) (f : BitVec 4) : Encodable.Statement (.rsub d a b q f) :=
  ⟨fun _ _ h => by cases h; exact ⟨_, rfl, rfl⟩, nofun⟩
theorem Encodable.rxor (d : BitVec 5) (a : BitVec 5) (b : BitVec 5) (q : BitVec 2) (f : BitVec 4) : Encodable.Statement (.rxor d a b q f) :=
  ⟨fun _ _ h => by cases h; exact ⟨_, rfl, rfl⟩, nofun⟩
theorem Encodable.rmulq (d : BitVec 5) (a : BitVec 5) (b : BitVec 5) (h : BitVec 5) (f : BitVec 4) : Encodable.Statement (.rmulq d a b h f) :=
  ⟨fun _ _ h => by cases h; exact ⟨_, rfl, rfl⟩, nofun⟩
theorem Encodable.unmulq (d : BitVec 5) (a : BitVec 5) (b : BitVec 5) (h : BitVec 5) (f : BitVec 4) : Encodable.Statement (.unmulq d a b h f) :=
  ⟨fun _ _ h => by cases h; exact ⟨_, rfl, rfl⟩, nofun⟩
theorem Encodable.rshr (d : BitVec 5) (a : BitVec 5) (h : BitVec 5) (f : BitVec 4) : Encodable.Statement (.rshr d a h f) :=
  ⟨fun _ _ h => by cases h; exact ⟨_, rfl, rfl⟩, nofun⟩
theorem Encodable.unshr (d : BitVec 5) (a : BitVec 5) (h : BitVec 5) (f : BitVec 4) : Encodable.Statement (.unshr d a h f) :=
  ⟨fun _ _ h => by cases h; exact ⟨_, rfl, rfl⟩, nofun⟩
theorem Encodable.rleak (d : BitVec 5) (a : BitVec 5) (h : BitVec 5) (f : BitVec 4) : Encodable.Statement (.rleak d a h f) :=
  ⟨fun _ _ h => by cases h; exact ⟨_, rfl, rfl⟩, nofun⟩
theorem Encodable.unleak (d : BitVec 5) (a : BitVec 5) (h : BitVec 5) (f : BitVec 4) : Encodable.Statement (.unleak d a h f) :=
  ⟨fun _ _ h => by cases h; exact ⟨_, rfl, rfl⟩, nofun⟩
theorem Encodable.rnarw (d : BitVec 5) (a : BitVec 5) (h : BitVec 5) (f : BitVec 4) : Encodable.Statement (.rnarw d a h f) :=
  ⟨fun _ _ h => by cases h; exact ⟨_, rfl, rfl⟩, nofun⟩
theorem Encodable.unnarw (d : BitVec 5) (a : BitVec 5) (h : BitVec 5) (f : BitVec 4) : Encodable.Statement (.unnarw d a h f) :=
  ⟨fun _ _ h => by cases h; exact ⟨_, rfl, rfl⟩, nofun⟩
theorem Encodable.mmaTile (c : BitVec 3) (a : BitVec 4) (b : BitVec 4) (n : BitVec 5) (f : BitVec 4) (x : BitVec 1) (y : BitVec 1) (z : BitVec 1) : Encodable.Statement (.mmaTile c a b n f x y z) :=
  ⟨fun _ _ h => by cases h; exact ⟨_, rfl, rfl⟩, nofun⟩
theorem Encodable.mmaStream (c : BitVec 3) (h : BitVec 3) (b : BitVec 4) (n : BitVec 5) (f : BitVec 4) (y : BitVec 1) (z : BitVec 1) : Encodable.Statement (.mmaStream c h b n f y z) :=
  ⟨fun _ _ h => by cases h; exact ⟨_, rfl, rfl⟩, nofun⟩
theorem Encodable.mmas (c : BitVec 3) (a : BitVec 4) (b : BitVec 4) (n : BitVec 5) (f : BitVec 4) (x : BitVec 1) (y : BitVec 1) (z : BitVec 1) : Encodable.Statement (.mmas c a b n f x y z) :=
  ⟨fun _ _ h => by cases h; exact ⟨_, rfl, rfl⟩, nofun⟩
theorem Encodable.mzero (c : BitVec 3) (n : BitVec 5) (z : BitVec 1) : Encodable.Statement (.mzero c n z) :=
  ⟨fun _ _ h => by cases h; exact ⟨_, rfl, rfl⟩, nofun⟩
theorem Encodable.mload (c : BitVec 3) (a : BitVec 4) (n : BitVec 5) (f : BitVec 4) (t : BitVec 1) : Encodable.Statement (.mload c a n f t) :=
  ⟨fun _ _ h => by cases h; exact ⟨_, rfl, rfl⟩, nofun⟩
theorem Encodable.mdrain (c : BitVec 3) (a : BitVec 4) (n : BitVec 5) (f : BitVec 4) (t : BitVec 1) (s : BitVec 1) (z : BitVec 1) : Encodable.Statement (.mdrain c a n f t s z) :=
  ⟨fun _ _ h => by cases h; exact ⟨_, rfl, rfl⟩, nofun⟩
theorem Encodable.mswap (c : BitVec 3) (e : BitVec 3) (n : BitVec 5) : Encodable.Statement (.mswap c e n) :=
  ⟨fun _ _ h => by cases h; exact ⟨_, rfl, rfl⟩, nofun⟩
theorem Encodable.mstat (c : BitVec 3) (d : BitVec 6) (n : BitVec 5) : Encodable.Statement (.mstat c d n) :=
  ⟨fun _ _ h => by cases h; exact ⟨_, rfl, rfl⟩, nofun⟩
theorem Encodable.maddt (c : BitVec 3) (a : BitVec 4) (n : BitVec 5) (f : BitVec 4) (t : BitVec 1) : Encodable.Statement (.maddt c a n f t) :=
  ⟨fun _ _ h => by cases h; exact ⟨_, rfl, rfl⟩, nofun⟩
theorem Encodable.mscl (c : BitVec 3) (b : BitVec 6) (n : BitVec 5) (s : BitVec 1) : Encodable.Statement (.mscl c b n s) :=
  ⟨fun _ _ h => by cases h; exact ⟨_, rfl, rfl⟩, nofun⟩
theorem Encodable.mxpose (c : BitVec 3) (e : BitVec 3) (n : BitVec 5) : Encodable.Statement (.mxpose c e n) :=
  ⟨fun _ _ h => by cases h; exact ⟨_, rfl, rfl⟩, nofun⟩
theorem Encodable.hatt (h : BitVec 3) (a : BitVec 6) (w : BitVec 1) (b : BitVec 1) : Encodable.Statement (.hatt h a w b) :=
  ⟨fun _ _ h => by cases h; exact ⟨_, rfl, rfl⟩, nofun⟩
theorem Encodable.hdet (h : BitVec 3) : Encodable.Statement (.hdet h) :=
  ⟨fun _ _ h => by cases h; exact ⟨_, rfl, rfl⟩, nofun⟩
theorem Encodable.hrd (h : BitVec 3) (v : BitVec 5) (k : BitVec 1) : Encodable.Statement (.hrd h v k) :=
  ⟨fun _ _ h => by cases h; exact ⟨_, rfl, rfl⟩, nofun⟩
theorem Encodable.hrds (h : BitVec 3) (v : BitVec 5) (k : BitVec 1) : Encodable.Statement (.hrds h v k) :=
  ⟨fun _ _ h => by cases h; exact ⟨_, rfl, rfl⟩, nofun⟩
theorem Encodable.hwr (h : BitVec 3) (v : BitVec 5) (k : BitVec 1) : Encodable.Statement (.hwr h v k) :=
  ⟨fun _ _ h => by cases h; exact ⟨_, rfl, rfl⟩, nofun⟩
theorem Encodable.happ (h : BitVec 3) (v : BitVec 5) (k : BitVec 1) : Encodable.Statement (.happ h v k) :=
  ⟨fun _ _ h => by cases h; exact ⟨_, rfl, rfl⟩, nofun⟩
theorem Encodable.hstep (h : BitVec 3) (n : BitVec 10) : Encodable.Statement (.hstep h n) :=
  ⟨fun _ _ h => by cases h; exact ⟨_, rfl, rfl⟩, nofun⟩
theorem Encodable.hstepr (h : BitVec 3) (a : BitVec 6) : Encodable.Statement (.hstepr h a) :=
  ⟨fun _ _ h => by cases h; exact ⟨_, rfl, rfl⟩, nofun⟩
theorem Encodable.hmark (h : BitVec 3) (k : BitVec 2) : Encodable.Statement (.hmark h k) :=
  ⟨fun _ _ h => by cases h; exact ⟨_, rfl, rfl⟩, nofun⟩
theorem Encodable.hrew (h : BitVec 3) (k : BitVec 2) : Encodable.Statement (.hrew h k) :=
  ⟨fun _ _ h => by cases h; exact ⟨_, rfl, rfl⟩, nofun⟩
theorem Encodable.hpos (h : BitVec 3) (d : BitVec 6) : Encodable.Statement (.hpos h d) :=
  ⟨fun _ _ h => by cases h; exact ⟨_, rfl, rfl⟩, nofun⟩
theorem Encodable.hdist (h : BitVec 3) (d : BitVec 6) (k : BitVec 2) : Encodable.Statement (.hdist h d k) :=
  ⟨fun _ _ h => by cases h; exact ⟨_, rfl, rfl⟩, nofun⟩
theorem Encodable.hlen (h : BitVec 3) (d : BitVec 6) (f : BitVec 1) : Encodable.Statement (.hlen h d f) :=
  ⟨fun _ _ h => by cases h; exact ⟨_, rfl, rfl⟩, nofun⟩
theorem Encodable.hstat (h : BitVec 3) (d : BitVec 6) : Encodable.Statement (.hstat h d) :=
  ⟨fun _ _ h => by cases h; exact ⟨_, rfl, rfl⟩, nofun⟩
theorem Encodable.cadd (v : BitVec 5) (a : BitVec 6) (m : BitVec 2) (b : BitVec 1) : Encodable.Statement (.cadd v a m b) :=
  ⟨fun _ _ h => by cases h; exact ⟨_, rfl, rfl⟩, nofun⟩
theorem Encodable.crd (v : BitVec 5) (a : BitVec 6) (m : BitVec 2) (b : BitVec 1) : Encodable.Statement (.crd v a m b) :=
  ⟨fun _ _ h => by cases h; exact ⟨_, rfl, rfl⟩, nofun⟩
theorem Encodable.crdStat (a : BitVec 6) (d : BitVec 6) : Encodable.Statement (.crdStat a d) :=
  ⟨fun _ _ h => by cases h; exact ⟨_, rfl, rfl⟩, nofun⟩
theorem Encodable.cclr (a : BitVec 6) (b : BitVec 6) : Encodable.Statement (.cclr a b) :=
  ⟨fun _ _ h => by cases h; exact ⟨_, rfl, rfl⟩, nofun⟩
theorem Encodable.ccfg (a : BitVec 6) (b : BitVec 6) : Encodable.Statement (.ccfg a b) :=
  ⟨fun _ _ h => by cases h; exact ⟨_, rfl, rfl⟩, nofun⟩
theorem Encodable.cpy (t : BitVec 6) (b : BitVec 6) (l : BitVec 4) : Encodable.Statement (.cpy t b l) :=
  ⟨fun _ _ h => by cases h; exact ⟨_, rfl, rfl⟩, nofun⟩
theorem Encodable.cpyh (t : BitVec 6) (b : BitVec 6) (l : BitVec 4) : Encodable.Statement (.cpyh t b l) :=
  ⟨fun _ _ h => by cases h; exact ⟨_, rfl, rfl⟩, nofun⟩
theorem Encodable.collAllred (t : BitVec 6) (b : BitVec 6) (l : BitVec 4) : Encodable.Statement (.collAllred t b l) :=
  ⟨fun _ _ h => by cases h; exact ⟨_, rfl, rfl⟩, nofun⟩
theorem Encodable.collRdscat (t : BitVec 6) (b : BitVec 6) (l : BitVec 4) : Encodable.Statement (.collRdscat t b l) :=
  ⟨fun _ _ h => by cases h; exact ⟨_, rfl, rfl⟩, nofun⟩
theorem Encodable.collAllgth (t : BitVec 6) (b : BitVec 6) (l : BitVec 4) : Encodable.Statement (.collAllgth t b l) :=
  ⟨fun _ _ h => by cases h; exact ⟨_, rfl, rfl⟩, nofun⟩
theorem Encodable.tlwait (a : BitVec 6) (l : BitVec 4) : Encodable.Statement (.tlwait a l) :=
  ⟨fun _ _ h => by cases h; exact ⟨_, rfl, rfl⟩, nofun⟩
theorem Encodable.tlrd (d : BitVec 6) (l : BitVec 4) : Encodable.Statement (.tlrd d l) :=
  ⟨fun _ _ h => by cases h; exact ⟨_, rfl, rfl⟩, nofun⟩
theorem Encodable.nextt (d : BitVec 6) : Encodable.Statement (.nextt d) :=
  ⟨fun _ _ h => by cases h; exact ⟨_, rfl, rfl⟩, nofun⟩
theorem Encodable.flsig (v : BitVec 6) (o : BitVec 2) (w : BitVec 6) : Encodable.Statement (.flsig v o w) :=
  ⟨fun _ _ h => by cases h; exact ⟨_, rfl, rfl⟩, nofun⟩
theorem Encodable.erep (v : BitVec 6) (c : BitVec 8) : Encodable.Statement (.erep v c) :=
  ⟨fun _ _ h => by cases h; exact ⟨_, rfl, rfl⟩, nofun⟩
theorem Encodable.btree (a : BitVec 6) (b : BitVec 6) (c : BitVec 6) (d : BitVec 6) : Encodable.Statement (.btree a b c d) :=
  ⟨fun _ _ h => by cases h; exact ⟨_, rfl, rfl⟩, nofun⟩
theorem Encodable.jmpRel (o : BitVec 22) : Encodable.Statement (.jmpRel o) :=
  ⟨fun _ _ h => by cases h; exact ⟨_, rfl, rfl⟩, nofun⟩
theorem Encodable.jmpReg (r : BitVec 6) : Encodable.Statement (.jmpReg r) :=
  ⟨fun _ _ h => by cases h; exact ⟨_, rfl, rfl⟩, nofun⟩
theorem Encodable.callRel (o : BitVec 22) : Encodable.Statement (.callRel o) :=
  ⟨fun _ _ h => by cases h; exact ⟨_, rfl, rfl⟩, nofun⟩
theorem Encodable.callReg (r : BitVec 6) : Encodable.Statement (.callReg r) :=
  ⟨fun _ _ h => by cases h; exact ⟨_, rfl, rfl⟩, nofun⟩
theorem Encodable.ret (r : BitVec 6) : Encodable.Statement (.ret r) :=
  ⟨fun _ _ h => by cases h; exact ⟨_, rfl, rfl⟩, nofun⟩
theorem Encodable.loop (c : BitVec 6) (l : BitVec 6) : Encodable.Statement (.loop c l) :=
  ⟨fun _ _ h => by cases h; exact ⟨_, rfl, rfl⟩, nofun⟩
theorem Encodable.loopSp (c : BitVec 6) (s : BitVec 2) (l : BitVec 6) : Encodable.Statement (.loopSp c s l) :=
  ⟨fun _ _ h => by cases h; exact ⟨_, rfl, rfl⟩, nofun⟩
theorem Encodable.lbrk (t : BitVec 4) : Encodable.Statement (.lbrk t) :=
  ⟨fun _ _ h => by cases h; exact ⟨_, rfl, rfl⟩, nofun⟩
theorem Encodable.sync (n : BitVec 2) : Encodable.Statement (.sync n) :=
  ⟨fun _ _ h => by cases h; exact ⟨_, rfl, rfl⟩, nofun⟩
theorem Encodable.phase (s : BitVec 2) : Encodable.Statement (.phase s) :=
  ⟨fun _ _ h => by cases h; exact ⟨_, rfl, rfl⟩, nofun⟩
theorem Encodable.sev (n : BitVec 2) : Encodable.Statement (.sev n) :=
  ⟨fun _ _ h => by cases h; exact ⟨_, rfl, rfl⟩, nofun⟩
theorem Encodable.trap (t : BitVec 4) (i : BitVec 16) : Encodable.Statement (.trap t i) :=
  ⟨fun _ _ h => by cases h; exact ⟨_, rfl, rfl⟩, nofun⟩
theorem Encodable.bkpt (t : BitVec 4) : Encodable.Statement (.bkpt t) :=
  ⟨fun _ _ h => by cases h; exact ⟨_, rfl, rfl⟩, nofun⟩
theorem Encodable.dset (r : BitVec 6) : Encodable.Statement (.dset r) :=
  ⟨fun _ _ h => by cases h; exact ⟨_, rfl, rfl⟩, nofun⟩
theorem Encodable.solve (r : BitVec 6) : Encodable.Statement (.solve r) :=
  ⟨fun _ _ h => by cases h; exact ⟨_, rfl, rfl⟩, nofun⟩
theorem Encodable.solq (t : BitVec 4) : Encodable.Statement (.solq t) :=
  ⟨fun _ _ h => by cases h; exact ⟨_, rfl, rfl⟩, nofun⟩
theorem Encodable.solrd (d : BitVec 6) (s : BitVec 2) : Encodable.Statement (.solrd d s) :=
  ⟨fun _ _ h => by cases h; exact ⟨_, rfl, rfl⟩, nofun⟩
theorem Encodable.literalBundle (h : BitVec 94) (ws : List W32) : Encodable.Statement (.literalBundle h ws) :=
  ⟨nofun, fun _ => by simp⟩
theorem Encodable.shortCall (i : BitVec 12) (f : BitVec 18) : Encodable.Statement (.shortCall i f) :=
  ⟨nofun, fun _ => by simp⟩
theorem Encodable.longCall (i : BitVec 12) (f : BitVec 50) : Encodable.Statement (.longCall i f) :=
  ⟨nofun, fun _ => by simp⟩
theorem Encodable.dataFlitReceive (port : Nat) (bytes : List Byte) : Encodable.Statement (.dataFlitReceive port bytes) :=
  ⟨nofun, fun _ => .inl rfl⟩
theorem Encodable.controlFlitReceive (port : Nat) (bytes : List Byte) : Encodable.Statement (.controlFlitReceive port bytes) :=
  ⟨nofun, fun _ => .inl rfl⟩
theorem Encodable.idleFlitReceive (port : Nat) (bytes : List Byte) : Encodable.Statement (.idleFlitReceive port bytes) :=
  ⟨nofun, fun _ => .inl rfl⟩
theorem Encodable.replayRequestReceive (port : Nat) (bytes : List Byte) : Encodable.Statement (.replayRequestReceive port bytes) :=
  ⟨nofun, fun _ => .inl rfl⟩
theorem Encodable.pauseKeepaliveTimer (port : Nat) : Encodable.Statement (.pauseKeepaliveTimer port) :=
  ⟨nofun, fun _ => .inl rfl⟩
theorem Encodable.portRxTimeout (port : Nat) : Encodable.Statement (.portRxTimeout port) :=
  ⟨nofun, fun _ => .inl rfl⟩
theorem Encodable.pwrReqP0 (fn : Nat) (k : BitVec 3) : Encodable.Statement (.pwrReqP0 fn k) :=
  ⟨nofun, fun _ => .inl rfl⟩
theorem Encodable.pwrReqP1 (fn : Nat) (k : BitVec 3) : Encodable.Statement (.pwrReqP1 fn k) :=
  ⟨nofun, fun _ => .inl rfl⟩
theorem Encodable.pwrReqP2 (fn : Nat) (k : BitVec 3) : Encodable.Statement (.pwrReqP2 fn k) :=
  ⟨nofun, fun _ => .inl rfl⟩
theorem Encodable.pwrReqP3 (fn : Nat) (k : BitVec 3) : Encodable.Statement (.pwrReqP3 fn k) :=
  ⟨nofun, fun _ => .inl rfl⟩
theorem Encodable.msgQuote (fn : Nat) : Encodable.Statement (.msgQuote fn) :=
  ⟨nofun, fun _ => .inl rfl⟩
theorem Encodable.msgExtend (fn : Nat) : Encodable.Statement (.msgExtend fn) :=
  ⟨nofun, fun _ => .inl rfl⟩
theorem Encodable.msgOpenSession (fn : Nat) : Encodable.Statement (.msgOpenSession fn) :=
  ⟨nofun, fun _ => .inl rfl⟩
theorem Encodable.msgCloseSession (fn : Nat) : Encodable.Statement (.msgCloseSession fn) :=
  ⟨nofun, fun _ => .inl rfl⟩
theorem Encodable.msgLoadFw (fn : Nat) : Encodable.Statement (.msgLoadFw fn) :=
  ⟨nofun, fun _ => .inl rfl⟩
theorem Encodable.msgLoadCfg (fn : Nat) : Encodable.Statement (.msgLoadCfg fn) :=
  ⟨nofun, fun _ => .inl rfl⟩
theorem Encodable.msgReadLog (fn : Nat) : Encodable.Statement (.msgReadLog fn) :=
  ⟨nofun, fun _ => .inl rfl⟩
theorem Encodable.armStart (w : ArmWrite) : Encodable.Statement (.armStart w) :=
  ⟨nofun, fun _ => .inl rfl⟩
theorem Encodable.armWait (w : ArmWrite) (node : W16) : Encodable.Statement (.armWait w node) :=
  ⟨nofun, fun _ => .inl rfl⟩
theorem Encodable.armResume (w : ArmWrite) (node : W16) : Encodable.Statement (.armResume w node) :=
  ⟨nofun, fun _ => .inl rfl⟩
theorem Encodable.flInstall (fn : Nat) (flight : BitVec 10) : Encodable.Statement (.flInstall fn flight) :=
  ⟨nofun, fun _ => .inl rfl⟩
theorem Encodable.flRemove (fn : Nat) (flight : BitVec 10) : Encodable.Statement (.flRemove fn flight) :=
  ⟨nofun, fun _ => .inl rfl⟩
theorem Encodable.flStage (fn : Nat) (flight : BitVec 10) : Encodable.Statement (.flStage fn flight) :=
  ⟨nofun, fun _ => .inl rfl⟩
theorem Encodable.jcCut (fn : Nat) (fnNo : BitVec 5) (flight : BitVec 10) : Encodable.Statement (.jcCut fn fnNo flight) :=
  ⟨nofun, fun _ => .inl rfl⟩
theorem Encodable.jcResumeHeld (fn : Nat) (fnNo : BitVec 5) (flight : BitVec 10) : Encodable.Statement (.jcResumeHeld fn fnNo flight) :=
  ⟨nofun, fun _ => .inl rfl⟩
theorem Encodable.jcFaultHeld (fn : Nat) (fnNo : BitVec 5) (flight : BitVec 10) : Encodable.Statement (.jcFaultHeld fn fnNo flight) :=
  ⟨nofun, fun _ => .inl rfl⟩
theorem Encodable.jcReadTrap (fn : Nat) (fnNo : BitVec 5) (index : BitVec 8) : Encodable.Statement (.jcReadTrap fn fnNo index) :=
  ⟨nofun, fun _ => .inl rfl⟩
theorem Encodable.dbgHalt (fn : Nat) : Encodable.Statement (.dbgHalt fn) :=
  ⟨nofun, fun _ => .inl rfl⟩
theorem Encodable.dbgStep (fn : Nat) : Encodable.Statement (.dbgStep fn) :=
  ⟨nofun, fun _ => .inl rfl⟩
theorem Encodable.dbgRun (fn : Nat) : Encodable.Statement (.dbgRun fn) :=
  ⟨nofun, fun _ => .inl rfl⟩
theorem Encodable.dbgRead (fn : Nat) (count : W16) : Encodable.Statement (.dbgRead fn count) :=
  ⟨nofun, fun _ => .inl rfl⟩
theorem Encodable.dbgWrite (fn : Nat) (count : W16) : Encodable.Statement (.dbgWrite fn count) :=
  ⟨nofun, fun _ => .inl rfl⟩
theorem Encodable.dbgWriteDiscard (fn : Nat) (count : W16) : Encodable.Statement (.dbgWriteDiscard fn count) :=
  ⟨nofun, fun _ => .inl rfl⟩
theorem Encodable.cqHeadWrite (fn : Nat) (v : W32) : Encodable.Statement (.cqHeadWrite fn v) :=
  ⟨nofun, fun _ => .inl rfl⟩
theorem Encodable.cqCtlWrite (fn : Nat) (v : W32) : Encodable.Statement (.cqCtlWrite fn v) :=
  ⟨nofun, fun _ => .inl rfl⟩
theorem Encodable.lnkStatWrite (fn port : Nat) (v : W32) : Encodable.Statement (.lnkStatWrite fn port v) :=
  ⟨nofun, fun _ => .inl rfl⟩
theorem Encodable.secStatWrite (fn : Nat) (v : W32) : Encodable.Statement (.secStatWrite fn v) :=
  ⟨nofun, fun _ => .inl rfl⟩
theorem Encodable.routeWrite (fn d : Nat) (v : W32) : Encodable.Statement (.routeWrite fn d v) :=
  ⟨nofun, fun _ => .inl rfl⟩
theorem Encodable.sysSelfWrite (fn : Nat) (v : W32) : Encodable.Statement (.sysSelfWrite fn v) :=
  ⟨nofun, fun _ => .inl rfl⟩
theorem Encodable.featMaskWrite (fn vd : Nat) (v : W32) : Encodable.Statement (.featMaskWrite fn vd v) :=
  ⟨nofun, fun _ => .inl rfl⟩
theorem Encodable.registerWrite (fn off : Nat) (v : BitVec 128) : Encodable.Statement (.registerWrite fn off v) :=
  ⟨nofun, fun _ => .inl rfl⟩
theorem Encodable.completionRecordWrite (fn : Nat) : Encodable.Statement (.completionRecordWrite fn) :=
  ⟨nofun, fun _ => .inl rfl⟩
theorem Encodable.msiModerationTimer (fn : Nat) : Encodable.Statement (.msiModerationTimer fn) :=
  ⟨nofun, fun _ => .inl rfl⟩
theorem Encodable.nexttRequestAccept (die pick : Nat) : Encodable.Statement (.nexttRequestAccept die pick) :=
  ⟨nofun, fun _ => .inl rfl⟩
theorem Encodable.nexttReplyArrive (core : Nat) : Encodable.Statement (.nexttReplyArrive core) :=
  ⟨nofun, fun _ => .inl rfl⟩
theorem Encodable.ageingTimer (run node : Nat) : Encodable.Statement (.ageingTimer run node) :=
  ⟨nofun, fun _ => .inl rfl⟩
theorem Encodable.preemptTimer (run node : Nat) : Encodable.Statement (.preemptTimer run node) :=
  ⟨nofun, fun _ => .inl rfl⟩
theorem Encodable.basinTimer (run : Nat) : Encodable.Statement (.basinTimer run) :=
  ⟨nofun, fun _ => .inl rfl⟩
theorem Encodable.cutTimeout (run : Nat) : Encodable.Statement (.cutTimeout run) :=
  ⟨nofun, fun _ => .inl rfl⟩
theorem Encodable.cutRetryTimer (run : Nat) : Encodable.Statement (.cutRetryTimer run) :=
  ⟨nofun, fun _ => .inl rfl⟩
theorem Encodable.trapRollbackComplete (core : Nat) : Encodable.Statement (.trapRollbackComplete core) :=
  ⟨nofun, fun _ => .inl rfl⟩
theorem Encodable.resultLanding (core : Nat) : Encodable.Statement (.resultLanding core) :=
  ⟨nofun, fun _ => .inl rfl⟩
theorem Encodable.headReadLanding (core : Nat) : Encodable.Statement (.headReadLanding core) :=
  ⟨nofun, fun _ => .inl rfl⟩
theorem Encodable.matrixResultLanding (core : Nat) : Encodable.Statement (.matrixResultLanding core) :=
  ⟨nofun, fun _ => .inl rfl⟩
theorem Encodable.solendDecisionEnd (core : Nat) : Encodable.Statement (.solendDecisionEnd core) :=
  ⟨nofun, fun _ => .inl rfl⟩
theorem Encodable.replayEntryLanding (core : Nat) : Encodable.Statement (.replayEntryLanding core) :=
  ⟨nofun, fun _ => .inl rfl⟩
theorem Encodable.checkpointReleaseEnd (core : Nat) : Encodable.Statement (.checkpointReleaseEnd core) :=
  ⟨nofun, fun _ => .inl rfl⟩
theorem Encodable.handrailLineTrue (line : Nat) : Encodable.Statement (.handrailLineTrue line) :=
  ⟨nofun, fun _ => .inl rfl⟩
theorem Encodable.handrailRestart (line : Nat) : Encodable.Statement (.handrailRestart line) :=
  ⟨nofun, fun _ => .inl rfl⟩
theorem Encodable.eventArrival (core : Nat) : Encodable.Statement (.eventArrival core) :=
  ⟨nofun, fun _ => .inl rfl⟩
theorem Encodable.streamProducerResume (core : Nat) : Encodable.Statement (.streamProducerResume core) :=
  ⟨nofun, fun _ => .inl rfl⟩
theorem Encodable.streamConsumerResume (core : Nat) : Encodable.Statement (.streamConsumerResume core) :=
  ⟨nofun, fun _ => .inl rfl⟩
theorem Encodable.phyLockLoss (port : Nat) : Encodable.Statement (.phyLockLoss port) :=
  ⟨nofun, fun _ => .inl rfl⟩
theorem Encodable.portRetrainEnd (port : Nat) (ok : Bool) : Encodable.Statement (.portRetrainEnd port ok) :=
  ⟨nofun, fun _ => .inl rfl⟩
theorem Encodable.mgmtSample (temps : List Nat) (milliwatts : Nat) (k : Nat) : Encodable.Statement (.mgmtSample temps milliwatts k) :=
  ⟨nofun, fun _ => .inl rfl⟩
theorem Encodable.kernelNodePlace (run node : Nat) (pick : List Nat) : Encodable.Statement (.kernelNodePlace run node pick) :=
  ⟨nofun, fun _ => .inl rfl⟩
theorem Encodable.nextTaskStart (core pick : Nat) : Encodable.Statement (.nextTaskStart core pick) :=
  ⟨nofun, fun _ => .inl rfl⟩
theorem Encodable.taskEnd (core : Nat) : Encodable.Statement (.taskEnd core) :=
  ⟨nofun, fun _ => .inl rfl⟩
theorem Encodable.transformNodeDispatch (run node : Nat) : Encodable.Statement (.transformNodeDispatch run node) :=
  ⟨nofun, fun _ => .inl rfl⟩
theorem Encodable.conditionalNodeEval (run node : Nat) : Encodable.Statement (.conditionalNodeEval run node) :=
  ⟨nofun, fun _ => .inl rfl⟩
theorem Encodable.whileNodeEval (run node : Nat) : Encodable.Statement (.whileNodeEval run node) :=
  ⟨nofun, fun _ => .inl rfl⟩
theorem Encodable.notifyNodeDispatch (run node : Nat) : Encodable.Statement (.notifyNodeDispatch run node) :=
  ⟨nofun, fun _ => .inl rfl⟩
theorem Encodable.nodeCommit (run node : Nat) : Encodable.Statement (.nodeCommit run node) :=
  ⟨nofun, fun _ => .inl rfl⟩
theorem Encodable.remoteJobFault (run : Nat) : Encodable.Statement (.remoteJobFault run) :=
  ⟨nofun, fun _ => .inl rfl⟩
theorem Encodable.domainShareExchange (run node dom : Nat) (before after : Nat) : Encodable.Statement (.domainShareExchange run node dom before after) :=
  ⟨nofun, fun _ => .inl rfl⟩
theorem Encodable.level4LineCompletion (line : Nat) : Encodable.Statement (.level4LineCompletion line) :=
  ⟨nofun, fun _ => .inl rfl⟩
theorem Encodable.cutMFormed (run : Nat) : Encodable.Statement (.cutMFormed run) :=
  ⟨nofun, fun _ => .inl rfl⟩
theorem Encodable.cutSFormed (run : Nat) : Encodable.Statement (.cutSFormed run) :=
  ⟨nofun, fun _ => .inl rfl⟩
theorem Encodable.cutImagesWritten (run : Nat) : Encodable.Statement (.cutImagesWritten run) :=
  ⟨nofun, fun _ => .inl rfl⟩
theorem Encodable.cutRunResume (run : Nat) : Encodable.Statement (.cutRunResume run) :=
  ⟨nofun, fun _ => .inl rfl⟩
theorem Encodable.handlerTaskStart (trapped : Nat) : Encodable.Statement (.handlerTaskStart trapped) :=
  ⟨nofun, fun _ => .inl rfl⟩
theorem Encodable.poisonRepairComplete (core : Nat) : Encodable.Statement (.poisonRepairComplete core) :=
  ⟨nofun, fun _ => .inl rfl⟩
theorem Encodable.translationShootdown (fn flight : Nat) (page : PageEntry) : Encodable.Statement (.translationShootdown fn flight page) :=
  ⟨nofun, fun _ => .inl rfl⟩
theorem Encodable.softErrorDetected (site : ErrorSite) : Encodable.Statement (.softErrorDetected site) :=
  ⟨nofun, fun _ => .inl rfl⟩
theorem Encodable.instructionCacheFill (core : Nat) : Encodable.Statement (.instructionCacheFill core) :=
  ⟨nofun, fun _ => .inl rfl⟩
theorem Encodable.dictionaryCacheFill (core : Nat) : Encodable.Statement (.dictionaryCacheFill core) :=
  ⟨nofun, fun _ => .inl rfl⟩
theorem Encodable.targetTableLineFill (core : Nat) : Encodable.Statement (.targetTableLineFill core) :=
  ⟨nofun, fun _ => .inl rfl⟩
theorem Encodable.extentWalkComplete (hall : Nat) : Encodable.Statement (.extentWalkComplete hall) :=
  ⟨nofun, fun _ => .inl rfl⟩
theorem Encodable.headRecordArrival (core head rec : Nat) (sel : List Nat) : Encodable.Statement (.headRecordArrival core head rec sel) :=
  ⟨nofun, fun _ => .inl rfl⟩
theorem Encodable.cellReadValueArrival (core : Nat) (pick : List Nat) : Encodable.Statement (.cellReadValueArrival core pick) :=
  ⟨nofun, fun _ => .inl rfl⟩
theorem Encodable.remainderTransferEnd (core : Nat) : Encodable.Statement (.remainderTransferEnd core) :=
  ⟨nofun, fun _ => .inl rfl⟩
theorem Encodable.tapeWriteAtHome (wid : Nat) : Encodable.Statement (.tapeWriteAtHome wid) :=
  ⟨nofun, fun _ => .inl rfl⟩
theorem Encodable.cellOpAtVault (wid : Nat) : Encodable.Statement (.cellOpAtVault wid) :=
  ⟨nofun, fun _ => .inl rfl⟩
theorem Encodable.phasePublicationEnd (core : Nat) : Encodable.Statement (.phasePublicationEnd core) :=
  ⟨nofun, fun _ => .inl rfl⟩
theorem Encodable.engineCommandStart (hall : Nat) (coll : Bool) (sel : List Nat) : Encodable.Statement (.engineCommandStart hall coll sel) :=
  ⟨nofun, fun _ => .inl rfl⟩
theorem Encodable.collectiveMatch (run dom : Nat) (remote : List (List W32)) : Encodable.Statement (.collectiveMatch run dom remote) :=
  ⟨nofun, fun _ => .inl rfl⟩
theorem Encodable.engineCommandComplete (ctx : Nat) : Encodable.Statement (.engineCommandComplete ctx) :=
  ⟨nofun, fun _ => .inl rfl⟩
theorem Encodable.functionLevelReset (fn : Nat) : Encodable.Statement (.functionLevelReset fn) :=
  ⟨nofun, fun _ => .inl rfl⟩
theorem Encodable.flightOperationEnd (fn : Nat) : Encodable.Statement (.flightOperationEnd fn) :=
  ⟨nofun, fun _ => .inl rfl⟩
theorem Encodable.remoteCutRequest (run : Nat) : Encodable.Statement (.remoteCutRequest run) :=
  ⟨nofun, fun _ => .inl rfl⟩
theorem Encodable.packageReset : Encodable.Statement (.packageReset) :=
  ⟨nofun, fun _ => .inl rfl⟩
theorem Encodable.powerLoss : Encodable.Statement (.powerLoss) :=
  ⟨nofun, fun _ => .inl rfl⟩
theorem Encodable.powerTransitionEnd : Encodable.Statement (.powerTransitionEnd) :=
  ⟨nofun, fun _ => .inl rfl⟩
theorem Encodable.revoff : Encodable.Statement (.revoff) :=
  ⟨fun _ _ h => by cases h; exact ⟨_, rfl, by simp (disch := decide) only [placed, fld_append_left]; rfl⟩, nofun⟩
theorem Encodable.nop : Encodable.Statement (.nop) :=
  ⟨fun _ _ h => by cases h; exact ⟨_, rfl, rfl⟩, nofun⟩
theorem Encodable.wfe : Encodable.Statement (.wfe) :=
  ⟨fun _ _ h => by cases h; exact ⟨_, rfl, rfl⟩, nofun⟩
theorem Encodable.halt : Encodable.Statement (.halt) :=
  ⟨fun _ _ h => by cases h; exact ⟨_, rfl, rfl⟩, nofun⟩
theorem Encodable.dfence : Encodable.Statement (.dfence) :=
  ⟨fun _ _ h => by cases h; exact ⟨_, rfl, rfl⟩, nofun⟩
theorem Encodable.solend : Encodable.Statement (.solend) :=
  ⟨fun _ _ h => by cases h; exact ⟨_, rfl, rfl⟩, nofun⟩
theorem Encodable.messageRequestEnd : Encodable.Statement (.messageRequestEnd) :=
  ⟨nofun, fun _ => .inl rfl⟩

end Sys2Proof.Laws
end

