-- ==== Sys2Proof/Laws/Shapes.lean ====
section
/-! SUPPORT. What the shared shapes of plans leave, one lemma a shape: each instruction of a shape cites its lemma. -/

namespace Sys2Proof.Machine

variable {s : State} {i : Instr} {c : Ctx} {slot : Nat}

theorem locRegs_append (l m : List Loc) : locRegs (l ++ m) = locRegs l ++ locRegs m := List.filterMap_append

theorem locRegs_reg (rs : List Nat) : locRegs (rs.map Loc.reg) = rs := by
  induction rs with
  | nil => rfl
  | cons x xs ih => simpa [locRegs] using ih

theorem locRegs_none (ls : List Loc) (h : ∀ l ∈ ls, ∀ n, l ≠ .reg n) : locRegs ls = [] := by
  induction ls with
  | nil => rfl
  | cons x xs ih =>
    have hx := h x (by simp)
    have ht := ih (fun l hl => h l (by simp [hl]))
    cases x <;> first | exact absurd rfl (hx _) | simpa [locRegs] using ht

theorem locRegs_bytes (segs : List (Nat × Nat)) : locRegs (segs.map (fun x => Loc.bytes x.1 x.2)) = [] :=
  locRegs_none _ (by simp only [List.mem_map]; rintro l ⟨x, -, rfl⟩; nofun)

theorem locRegs_viewLocs (a : Arch) (v : Nat) : locRegs (viewLocs a v) = [] := locRegs_bytes _

theorem locRegs_views (a : Arch) (vs : List Nat) : locRegs (vs.flatMap (viewLocs a)) = [] := by
  apply locRegs_none
  intro l hl
  obtain ⟨v, -, hv⟩ := List.mem_flatMap.mp hl
  obtain ⟨x, -, rfl⟩ := List.mem_map.mp hv
  nofun

theorem locRegs_masks (ms : List Nat) : locRegs (ms.map Loc.mask) = [] :=
  locRegs_none _ (by simp only [List.mem_map]; rintro l ⟨x, -, rfl⟩; nofun)

theorem locRegs_preds (ms : List Nat) : locRegs (ms.map Loc.pred) = [] :=
  locRegs_none _ (by simp only [List.mem_map]; rintro l ⟨x, -, rfl⟩; nofun)

theorem locRegs_sr (sr : Bool) : locRegs (srWrites sr) = [] := by cases sr <;> rfl

theorem solo_pos (hs : soloOf i = some (slot, false)) : slot ∈ soloSlots := soloOf_slot hs

/-- A register result at issue. -/
theorem exec_alu {rs : List Nat} {d : Nat} {v : W64} (hs : soloOf i = some (slot, false)) (h : Issues s i c)
    (hp : planOf i c = aluPlan rs d v) : exec i s = .next (c.regNow rs d v) := by
  rw [exec_as hs h hp rfl rfl rfl rfl]
  have hr : locRegs (aluPlan rs d v).reads = rs := locRegs_reg rs
  rw [hr, show (aluPlan rs d v).lands = [] from rfl, show (aluPlan rs d v).held = [] from rfl, later_nil, hold_nil]
  split <;> rfl

/-- A scalar register result in flight. -/
theorem exec_late {l : Nat} {rs : List Nat} {d : Nat} {v : W64} {fl : Flags} (hs : soloOf i = some (slot, false)) (h : Issues s i c)
    (hp : planOf i c = latePlan c l rs d v fl) : exec i s = .next (c.regLater l .scalar rs d v fl false) := by
  rw [exec_as hs h hp rfl rfl rfl rfl]
  have hr : locRegs (latePlan c l rs d v fl).reads = rs := locRegs_reg rs
  rw [hr, show (latePlan c l rs d v fl).held = [] from rfl, hold_nil]
  split <;> rfl

/-- The same with the rounding of SR. -/
theorem exec_late_sr {l : Nat} {rs : List Nat} {d : Nat} {v : W64} {fl : Flags} {sr : Bool} {fs : List Nat}
    (hs : soloOf i = some (slot, false)) (h : Issues s i c)
    (hp : planOf i c = { latePlan c l rs d v fl with
      writes := .reg d :: srWrites sr, feats := fs, imm := fun k => { k with arch := k.arch.stepRng sr } }) :
    exec i s = .next (c.regLater l .scalar rs d v fl sr) := by
  rw [exec_as hs h hp rfl rfl rfl rfl]
  have hr : locRegs (latePlan c l rs d v fl).reads = rs := locRegs_reg rs
  have hw : locRegs (.reg d :: srWrites sr) = [d] := by cases sr <;> rfl
  simp only [hw]
  rw [show ({ latePlan c l rs d v fl with
      writes := .reg d :: srWrites sr, feats := fs, imm := fun k => { k with arch := k.arch.stepRng sr } } : Plan).reads =
      (latePlan c l rs d v fl).reads from rfl, hr,
    show ({ latePlan c l rs d v fl with
      writes := .reg d :: srWrites sr, feats := fs, imm := fun k => { k with arch := k.arch.stepRng sr } } : Plan).held = [] from rfl,
    hold_nil]
  split <;> rfl

/-- An FP32 result in flight. -/
theorem exec_fp {rs : List Nat} {d m : Nat} {x : XRes} (hs : soloOf i = some (slot, false)) (h : Issues s i c)
    (hp : planOf i c = fpPlan c rs d m x) : exec i s = .next (c.fpLater rs d m x) :=
  exec_late_sr hs h hp

/-- A predicate at issue. -/
theorem exec_pred {ls : List Loc} {rs : List Nat} {d : Nat} {v : Bool} (hs : soloOf i = some (slot, false)) (h : Issues s i c)
    (hp : planOf i c = cmpPlan c ls d v) (hr : locRegs ls = rs) : exec i s = .next (c.predNow rs d v) := by
  subst hr
  rw [exec_as hs h hp rfl rfl rfl rfl]
  rw [show (cmpPlan c ls d v).lands = [] from rfl, show (cmpPlan c ls d v).held = [] from rfl, later_nil, hold_nil]
  split <;> rfl

/-- An effect on the core alone. -/
theorem exec_core {p : Plan} {rs ws : List Nat} {f : Core → Core} (hs : soloOf i = some (slot, false)) (h : Issues s i c) (hp : planOf i c = p)
    (hl : p.lands = []) (hh : p.held = []) (hi : p.imm = f) (hc : p.ctl = .fall)
    (ha : p.after = .go) (hg : p.glob = id) (hb : p.beats = 0) (hr : p.blocks = [])
    (h1 : locRegs p.reads = rs) (h2 : locRegs p.writes = ws) :
    exec i s = .next (c.coreNow rs ws f) := by
  subst h1 h2
  rw [exec_as hs h hp ha hg hb hr, hl, hh, later_nil, hold_nil, hi, hc]
  split <;> rfl

/-- Held work. -/
theorem exec_held {p : Plan} {rs ws : List Nat} (hs : soloOf i = some (slot, false)) (h : Issues s i c) (hp : planOf i c = p)
    (hl : p.lands = []) (hi : p.imm = id) (hc : p.ctl = .fall)
    (ha : p.after = .go) (hg : p.glob = id) (hb : p.beats = 0) (hr : p.blocks = [])
    (h1 : locRegs p.reads = rs) (h2 : locRegs p.writes = ws) :
    exec i s = .next (c.holds rs ws p.held) := by
  subst h1 h2
  rw [exec_as hs h hp ha hg hb hr, hl, later_nil, hi, hc]
  split <;> rfl

/-- Results in flight and nothing else. -/
theorem exec_lands {p : Plan} {rs ws : List Nat} (hs : soloOf i = some (slot, false)) (h : Issues s i c) (hp : planOf i c = p)
    (hh : p.held = []) (hi : p.imm = id) (hc : p.ctl = .fall)
    (ha : p.after = .go) (hg : p.glob = id) (hb : p.beats = 0) (hr : p.blocks = [])
    (h1 : locRegs p.reads = rs) (h2 : locRegs p.writes = ws) :
    exec i s = .next (c.done .fall ((c.begin rs ws).later p.lands)) := by
  subst h1 h2
  rw [exec_as hs h hp ha hg hb hr, hh, hold_nil, hi, hc]
  split <;> rfl

/-- A transfer of control. -/
theorem exec_goes {p : Plan} {rs : List Nat} {ctl : Ctl} (hs : soloOf i = some (7, false)) (h : Issues s i c) (hp : planOf i c = p)
    (hl : p.lands = []) (hh : p.held = []) (hi : p.imm = id)
    (ha : p.after = .go) (hg : p.glob = id) (hb : p.beats = 0) (hr : p.blocks = []) (hw : locRegs p.writes = [])
    (h1 : locRegs p.reads = rs) (h2 : p.ctl = ctl) : exec i s = .next (c.goes rs ctl) := by
  subst h1 h2
  rw [exec_as hs h hp ha hg hb hr, hl, hh, later_nil, hold_nil, hi, hw]
  rfl

theorem rounded_false (k : Core) : k.rounded false = k := rfl

/-! ## Vector results -/

theorem vecPlan_reads (c : Ctx) (l : Nat) (srcs regs masks : List Nat) (d : Nat) (m : W64) (ws : List Nat) (fl : Flags) :
    locRegs (vecPlan c l srcs regs masks d m ws fl).reads = regs := by
  simp only [vecPlan, locRegs_append, locRegs_views, locRegs_reg, locRegs_masks, List.nil_append, List.append_nil]

theorem vecPlan_writes (c : Ctx) (l : Nat) (srcs regs masks : List Nat) (d : Nat) (m : W64) (ws : List Nat) (fl : Flags) :
    locRegs (vecPlan c l srcs regs masks d m ws fl).writes = [] := locRegs_viewLocs _ _

/-- A vector result in flight. -/
theorem exec_vec {l : Nat} {srcs regs masks : List Nat} {d : Nat} {m : W64} {ws : List Nat} {fl : Flags}
    (hs : soloOf i = some (slot, false)) (h : Issues s i c) (hp : planOf i c = vecPlan c l srcs regs masks d m ws fl) :
    exec i s = .next (c.done .fall ((c.begin regs []).later [vecPend c l .vector d m ws fl])) := by
  have e := exec_lands (p := vecPlan c l srcs regs masks d m ws fl) hs h hp rfl rfl rfl rfl rfl rfl rfl
    (vecPlan_reads c l srcs regs masks d m ws fl) (vecPlan_writes c l srcs regs masks d m ws fl)
  rw [e]; rfl

/-- The same with the rounding of SR. -/
theorem exec_vec_sr {l : Nat} {srcs regs masks : List Nat} {d : Nat} {m : W64} {ws : List Nat} {fl : Flags} {sr : Bool}
    (hs : soloOf i = some (slot, false)) (h : Issues s i c)
    (hp : planOf i c = (vecPlan c l srcs regs masks d m ws fl).rounding sr) :
    exec i s = .next (c.done .fall (((c.begin regs []).later [vecPend c l .vector d m ws fl]).rounded sr)) := by
  rw [exec_as hs h hp rfl rfl rfl rfl]
  have h1 : locRegs ((vecPlan c l srcs regs masks d m ws fl).rounding sr).reads = regs :=
    vecPlan_reads c l srcs regs masks d m ws fl
  have h2 : locRegs ((vecPlan c l srcs regs masks d m ws fl).rounding sr).writes = [] := by
    simp only [Plan.rounding, locRegs_append, vecPlan_writes, locRegs_sr, List.nil_append]
  rw [h1, h2, show ((vecPlan c l srcs regs masks d m ws fl).rounding sr).held = [] from rfl, hold_nil]
  split <;> rfl

end Sys2Proof.Machine
end

