-- ==== Sys2Proof/Tests/Slice0.lean ====
section
/-! SUPPORT. Tests of the model's own: a term that each check of well-formedness refuses, a word of every slot instruction written
out from its encoding, one witness for the hypotheses of each statement, and results of single steps calculated from the spec. -/

namespace Sys2Proof.Tests

-- One theorem at a time: evaluated side by side, these take a stack each.
set_option Elab.async false

open Sys2Proof.Machine

/-! ## Well-formedness: a term that breaks each check is refused (R257, R263, R271 and the rows' own ranges) -/

theorem test_ill_formed_scalar : ([.bfx 53 54 33 31, .bfx 53 54 32 32, .bfi 37 25 33 31, .bfi 37 25 32 32, .cmpCc 0 59 34 3,
    .cmpCc 4 59 34 10, .pand 0 6 7, .por 0 5 4, .pxor 0 6 2, .pnot 0 6, .cmpiCc 10 6 3 973, .cmpiCc 4 0 3 973, .faddS 37 1 30 6,
    .fmulS 46 28 37 6, .ffmaS 10 27 26 6, .fcmpCc 0 45 44 2, .fcmpCc 2 45 44 6, .icvt 47 26 1 6, .fcvt 35 43 1 6, .rdsr 5 262143,
    .wrsr 5 262143, .view 56 54 13] : List Instr).all (fun i => !wellFormed i) = true := by decide
theorem test_ill_formed_vector : ([.vadd 23 18 28 3 6 0, .vadd 23 18 28 3 0 3, .vadd 23 18 28 3 2 6, .vsub 10 16 15 1 6 0,
    .vsub 10 16 15 1 0 3, .vsub 10 16 15 1 2 6, .vmul 23 30 2 1 6 0, .vmul 23 30 2 1 0 3, .vmul 23 30 2 1 2 6, .vfma 30 22 7 13 3,
    .vfms 1 13 16 27 3, .vmin 12 16 8 2 1 0, .vmin 12 16 8 2 0 3, .vmin 12 16 8 2 2 6, .vmax 25 6 2 1 1 0, .vmax 25 6 2 1 0 3,
    .vmax 25 6 2 1 2 6, .vabs 12 30 2 1 0, .vabs 12 30 2 0 3, .vabs 12 30 2 2 6, .vneg 30 28 3 1 0, .vneg 30 28 3 0 3,
    .vneg 30 28 3 2 6, .vaddSr 25 26 28 1 ⟨0, 3⟩, .vcmpCc 10 2 9 7 1 ⟨0, 1⟩, .vcmpCc 4 0 9 7 1 ⟨0, 1⟩, .vcmpCc 4 2 9 7 1 ⟨0, 3⟩, .vshl 28 22 20 2 ⟨0, 0⟩,
    .vshr 20 14 22 1 ⟨0, 0⟩, .vsar 10 31 4 1 ⟨0, 0⟩, .vcvt 31 12 5 1 1 3 7, .vcvt 31 12 3 1 1 6 7, .vcvt 31 12 3 1 1 3 5, .vqnt 19 18 6 4,
    .vqnt 19 18 5 0, .vdqnt 6 7 ⟨0, 0⟩, .vredsum 23 30 2 ⟨0, 1⟩, .vredmax 6 19 3 ⟨0, 3⟩, .vextr 2 7 24 ⟨0, 5⟩, .trowLd 24 15 9 1 ⟨0, 10⟩, .trowSt 20 6 28 3 ⟨0, 10⟩,
    .tcolLd 9 7 24 1 ⟨0, 10⟩, .tcolSt 16 5 22 3 ⟨0, 10⟩, .qmovToMask 0 9, .qops 0 3 2 3, .qops 1 3 2 4, .radd 10 24 5 2 0, .rsub 30 25 9 1 0,
    .rxor 2 13 24 3 0, .rmulq 12 25 1 30 0, .unmulq 12 9 29 16 0, .rshr 3 1 26 0, .unshr 19 30 16 0, .rleak 1 21 3 0,
    .unleak 16 13 3 0, .rnarw 3 24 25 0, .unnarw 10 19 17 7, .unnarw 10 19 3 0, .rshr 3 1 8 6, .rleak 1 21 16 7, .unshr 19 30 16 7,
    .rmulq 12 25 1 8 6, .rnarw 3 24 25 6] : List Instr).all (fun i => !wellFormed i) = true := by decide
theorem test_ill_formed_matrix : ([.mmaTile 2 6 15 15 10 1 1 1, .mmaStream 4 3 11 13 10 1 1, .mmas 2 13 10 20 10 1 1 1,
    .mload 4 12 20 10 1, .mdrain 1 13 21 10 1 1 1, .maddt 6 3 5 10 1] : List Instr).all (fun i => !wellFormed i) = true := by decide
theorem test_ill_formed_head : ([.hrd 2 16 1, .hrds 2 16 1, .hwr 2 16 1,
    .happ 2 16 1] : List Instr).all (fun i => !wellFormed i) = true := by decide
theorem test_ill_formed_engine : ([.cpy 26 11 4, .cpyh 61 7 4, .collAllred 32 58 0, .collRdscat 21 22 0, .collAllgth 59 16 0,
    .tlwait 39 8, .tlrd 13 8, .nextt 0, .flsig 9 3 26,
    .collAllred 32 58 8] : List Instr).all (fun i => !wellFormed i) = true := by decide
/-- An arm write of slot 0 of the physical function of link 0. -/
def arm : ArmWrite :=
  { fn := 0, link := 0, slot := 0, whole := true, flightId := 0, hostSeq := 1, nArg := 0, flags := 0, reserved := 0
    args := List.replicate 12 0 }

theorem test_ill_formed_events : ([.literalBundle (soloHdr 0 false) [], .dataFlitReceive 0 [], .controlFlitReceive 0 [],
    .idleFlitReceive 0 [], .replayRequestReceive 0 [], .pauseKeepaliveTimer 16, .portRxTimeout 16, .phyLockLoss 16,
    .portRetrainEnd 16 true, .lnkStatWrite 0 16 0, .routeWrite 0 4096 0, .featMaskWrite 0 16 0, .engineCommandStart 64 false [],
    .extentWalkComplete 64, .nexttRequestAccept 4 0, .armStart { arm with args := [] }, .armStart { arm with slot := 4096 },
    .armStart { arm with link := 2 }, .armWait { arm with args := [] } 0, .armWait { arm with slot := 4096 } 0,
    .armWait { arm with link := 2 } 0, .armWait arm 0xFFFF, .armResume { arm with args := [] } 0,
    .armResume { arm with slot := 4096 } 0,
    .armResume { arm with link := 2 } 0] : List Instr).all (fun i => !wellFormed i) = true := by decide

theorem test_ill_formed_flits (b : List Byte) : wellFormed (.dataFlitReceive 16 b) = false ∧ wellFormed (.controlFlitReceive 16 b) = false ∧
    wellFormed (.idleFlitReceive 16 b) = false ∧ wellFormed (.replayRequestReceive 16 b) = false :=
  ⟨rfl, rfl, rfl, rfl⟩

theorem test_well_formed : ([.add 0 0 63, .bfx 1 2 0 63, .cmpiCc 9 7 2 0, .view 55 0 0, .rdsr 1 0x29, .vadd 0 1 2 3 5 14,
    .rshr 0 1 31 8, .mmaTile 0 0 0 0 9 0 0 0, .hrd 7 15 1, .cpy 0 0 3, .collAllgth 0 0 7, .nextt 1, .flsig 0 2 63, .literalBundle 0 [],
    .armStart arm, .armWait arm 0xFFFE, .routeWrite 0 4095 0, .nexttRequestAccept 3 0] : List Instr).all wellFormed = true := by decide

/-! ## Decoding: every slot instruction's word, its bits written out from the encodings (Tables 14.5, 15.1 to 18.3; the opcode table) -/

theorem test_decode_scalar_1 :
    decodeSlot 0 (0b00000001_101000_010001_110000_000000 : W32) = .ok (.add 40 17 48) ∧
    decodeSlot 0 (0b00000010_110110_001110_001001_000000 : W32) = .ok (.sub 54 14 9) ∧
    decodeSlot 0 (0b00000011_100100_101000_010100_000000 : W32) = .ok (.mul 36 40 20) ∧
    decodeSlot 0 (0b00000100_101111_011100_111111_000000 : W32) = .ok (.mulh 47 28 63) ∧
    decodeSlot 0 (0b00000101_101010_001011_000101_000000 : W32) = .ok (.mulhu 42 11 5) ∧
    decodeSlot 0 (0b00000110_110011_010011_111001_000000 : W32) = .ok (.divu 51 19 57) ∧
    decodeSlot 0 (0b00000111_101000_010100_100001_000000 : W32) = .ok (.remu 40 20 33) ∧
    decodeSlot 0 (0b00001000_110000_010101_110101_000000 : W32) = .ok (.and 48 21 53) ∧
    decodeSlot 0 (0b00001001_000011_111010_011011_000000 : W32) = .ok (.or 3 58 27) ∧
    decodeSlot 0 (0b00001010_100110_011011_001000_000000 : W32) = .ok (.xor 38 27 8) ∧
    decodeSlot 0 (0b00001011_000110_101010_101011_000000 : W32) = .ok (.shl 6 42 43) ∧
    decodeSlot 0 (0b00001100_111010_010001_100010_000000 : W32) = .ok (.shr 58 17 34) ∧
    decodeSlot 0 (0b00001101_001100_010101_010111_000000 : W32) = .ok (.sar 12 21 23) ∧
    decodeSlot 0 (0b00001110_001101_101000_001010_000000 : W32) = .ok (.min 13 40 10) ∧
    decodeSlot 0 (0b00001111_010010_110110_011111_000000 : W32) = .ok (.max 18 54 31) ∧
    decodeSlot 0 (0b00010000_001110_011000_011100_000000 : W32) = .ok (.minu 14 24 28) :=
  ⟨rfl, rfl, rfl, rfl, rfl, rfl, rfl, rfl, rfl, rfl, rfl, rfl, rfl, rfl, rfl, rfl⟩

theorem test_decode_scalar_2 :
    decodeSlot 0 (0b00010001_101011_101010_011000_000000 : W32) = .ok (.maxu 43 42 24) ∧
    decodeSlot 0 (0b00010010_001001_111010_000000000000 : W32) = .ok (.clz 9 58) ∧
    decodeSlot 0 (0b00010011_000110_111010_000000000000 : W32) = .ok (.popc 6 58) ∧
    decodeSlot 0 (0b00010100_101010_110110_100011_00_1_010 : W32) = .ok (.sel 42 54 35 1 2) ∧
    decodeSlot 0 (0b00011000_110100_011100_011001000101 : W32) = .ok (.addi 52 28 1605) ∧
    decodeSlot 0 (0b00011001_100011_100001_001110000010 : W32) = .ok (.andi 35 33 898) ∧
    decodeSlot 0 (0b00011010_111101_001101_100111110011 : W32) = .ok (.ori 61 13 2547) ∧
    decodeSlot 0 (0b00011011_001101_100000_101110110101 : W32) = .ok (.xori 13 32 2997) ∧
    decodeSlot 0 (0b00011100_100011_011110_000000_101101 : W32) = .ok (.shli 35 30 45) ∧
    decodeSlot 0 (0b00011101_010000_010110_000000_000100 : W32) = .ok (.shri 16 22 4) ∧
    decodeSlot 0 (0b00011110_100110_011111_000000_000111 : W32) = .ok (.sari 38 31 7) ∧
    decodeSlot 0 (0b00011111_110101_110110_010001_101000 : W32) = .ok (.bfx 53 54 17 40) ∧
    decodeSlot 0 (0b00100000_100101_011001_100001_001100 : W32) = .ok (.bfi 37 25 33 12) ∧
    decodeSlot 0 (0b00100010_010101_100000101110101001 : W32) = .ok (.movi 21 134057) ∧
    decodeSlot 0 (0b00100011_100000_111001010111110001 : W32) = .ok (.movhi 32 234993) ∧
    decodeSlot 0 (0b00101000_000_100_111011_100010_000011 : W32) = .ok (.cmpCc 4 59 34 3) :=
  ⟨rfl, rfl, rfl, rfl, rfl, rfl, rfl, rfl, rfl, rfl, rfl, rfl, rfl, rfl, rfl, rfl⟩

theorem test_decode_scalar_3 :
    decodeSlot 0 (0b00101001_000_011_000_110_000_111_000000 : W32) = .ok (.pand 3 6 7) ∧
    decodeSlot 0 (0b00101010_000_010_000_101_000_100_000000 : W32) = .ok (.por 2 5 4) ∧
    decodeSlot 0 (0b00101011_000_100_000_110_000_010_000000 : W32) = .ok (.pxor 4 6 2) ∧
    decodeSlot 0 (0b00101100_000_111_000_110_000000000000 : W32) = .ok (.pnot 7 6) ∧
    decodeSlot 0 (0b0011_0100_000_110_000011_001111001101 : W32) = .ok (.cmpiCc 4 6 3 973) ∧
    decodeSlot 0 (0b01000000_100101_000001_011110_000_101 : W32) = .ok (.faddS 37 1 30 5) ∧
    decodeSlot 0 (0b01000001_101110_011100_100101_000_011 : W32) = .ok (.fmulS 46 28 37 3) ∧
    decodeSlot 0 (0b01000010_001010_011011_011010_000_100 : W32) = .ok (.ffmaS 10 27 26 4) ∧
    decodeSlot 0 (0b01000011_010010_000010_100101_000000 : W32) = .ok (.fminS 18 2 37) ∧
    decodeSlot 0 (0b01000100_110100_110010_011101_000000 : W32) = .ok (.fmaxS 52 50 29) ∧
    decodeSlot 0 (0b01000101_000_010_101101_101100_000010 : W32) = .ok (.fcmpCc 2 45 44 2) ∧
    decodeSlot 0 (0b01000110_101111_011010_00000000_1_101 : W32) = .ok (.icvt 47 26 1 5) ∧
    decodeSlot 0 (0b01000111_100011_101011_00000000_1_100 : W32) = .ok (.fcvt 35 43 1 4) ∧
    decodeSlot 0 (0b01010000_010111_100110_101101101011 : W32) = .ok (.ldB 23 38 2923) ∧
    decodeSlot 0 (0b01010001_001011_010011_010111011000 : W32) = .ok (.ldH 11 19 1496) ∧
    decodeSlot 0 (0b01010010_101110_001000_100101010110 : W32) = .ok (.ldW 46 8 2390) :=
  ⟨rfl, rfl, rfl, rfl, rfl, rfl, rfl, rfl, rfl, rfl, rfl, rfl, rfl, rfl, rfl, rfl⟩

theorem test_decode_scalar_4 :
    decodeSlot 0 (0b01010011_100001_110011_110000011010 : W32) = .ok (.ldD 33 51 3098) ∧
    decodeSlot 0 (0b01010100_010010_110001_111110001001 : W32) = .ok (.stB 18 49 3977) ∧
    decodeSlot 0 (0b01010101_100100_110000_000111111001 : W32) = .ok (.stH 36 48 505) ∧
    decodeSlot 0 (0b01010110_110010_000111_010111001111 : W32) = .ok (.stW 50 7 1487) ∧
    decodeSlot 0 (0b01010111_101000_001001_101001000111 : W32) = .ok (.stD 40 9 2631) ∧
    decodeSlot 1 (0b01100000_000101_000000000000011000 : W32) = .ok (.rdsr 5 0x18) ∧
    decodeSlot 1 (0b01100001_000101_000000000000101001 : W32) = .ok (.wrsr 5 0x29) ∧
    decodeSlot 1 (0b01100010_000111_110110_001101_000000 : W32) = .ok (.view 7 54 13) ∧
    decodeSlot 1 (0b01100011_000000_000010_101111_000000 : W32) = .ok (.ftset 2 47) ∧
    decodeSlot 1 (0b01100100_000000_100111_011101_000000 : W32) = .ok (.rngk 39 29) ∧
    decodeSlot 1 (0b01101000_000000_101000_000000000000 : W32) = .ok (.revon 40) ∧
    decodeSlot 1 (0b01101001_000000000000000000000000 : W32) = .ok (.revoff) ∧
    decodeSlot 1 (0b01101010_100011_000000000_1_0000_1100 : W32) = .ok (.rstag 35 1 12) :=
  ⟨rfl, rfl, rfl, rfl, rfl, rfl, rfl, rfl, rfl, rfl, rfl, rfl, rfl⟩

theorem test_decode_vector_1 :
    decodeSlot 2 (0b00000001_10111_10010_11100_11_111_1110 : W32) = .ok (.vadd 23 18 28 3 7 14) ∧
    decodeSlot 2 (0b00000010_01010_10000_01111_01_111_1110 : W32) = .ok (.vsub 10 16 15 1 7 14) ∧
    decodeSlot 2 (0b00000011_10111_11110_00010_01_101_1110 : W32) = .ok (.vmul 23 30 2 1 5 14) ∧
    decodeSlot 2 (0b00000100_11110_10110_00111_01101_1001 : W32) = .ok (.vfma 30 22 7 13 9) ∧
    decodeSlot 2 (0b00000101_00001_01101_10000_11011_0111 : W32) = .ok (.vfms 1 13 16 27 7) ∧
    decodeSlot 2 (0b00000110_01100_10000_01000_10_111_1110 : W32) = .ok (.vmin 12 16 8 2 7 14) ∧
    decodeSlot 2 (0b00000111_11001_00110_00010_01_100_1110 : W32) = .ok (.vmax 25 6 2 1 4 14) ∧
    decodeSlot 2 (0b00001000_01100_11110_00000_10_001_1110 : W32) = .ok (.vabs 12 30 2 1 14) ∧
    decodeSlot 2 (0b00001001_11110_11100_00000_11_101_1110 : W32) = .ok (.vneg 30 28 3 5 14) ∧
    decodeSlot 2 (0b00001010_11001_11010_11100_01_000_0010 : W32) = .ok (.vaddSr 25 26 28 1 ⟨0, 2⟩) ∧
    decodeSlot 2 (0b0001_0100_000_10_01001_00111_01_000_0001 : W32) = .ok (.vcmpCc 4 2 9 7 1 ⟨0, 1⟩) ∧
    decodeSlot 2 (0b00100000_11010_11000_10101_01_0000000 : W32) = .ok (.vsel 26 24 21 1) ∧
    decodeSlot 2 (0b00100001_10010_10110_01001_11_0000000 : W32) = .ok (.vand 18 22 9 3) ∧
    decodeSlot 2 (0b00100010_01000_00011_01001_01_0000000 : W32) = .ok (.vor 8 3 9 1) ∧
    decodeSlot 2 (0b00100011_01111_11101_11011_11_0000000 : W32) = .ok (.vxor 15 29 27 3) ∧
    decodeSlot 2 (0b00100100_11100_10110_10100_10_000_1110 : W32) = .ok (.vshl 28 22 20 2 ⟨0, 14⟩) :=
  ⟨rfl, rfl, rfl, rfl, rfl, rfl, rfl, rfl, rfl, rfl, rfl, rfl, rfl, rfl, rfl, rfl⟩

theorem test_decode_vector_2 :
    decodeSlot 2 (0b00100101_10100_01110_10110_01_000_1001 : W32) = .ok (.vshr 20 14 22 1 ⟨0, 9⟩) ∧
    decodeSlot 2 (0b00100110_01010_11111_00100_01_000_1001 : W32) = .ok (.vsar 10 31 4 1 ⟨0, 9⟩) ∧
    decodeSlot 2 (0b00101000_11111_01100_0011_1_01_011_0111 : W32) = .ok (.vcvt 31 12 3 1 1 3 7) ∧
    decodeSlot 2 (0b00101001_10011_10010_0000000_101_0100 : W32) = .ok (.vqnt 19 18 5 4) ∧
    decodeSlot 2 (0b00101010_00110_00111_0000000000_0011 : W32) = .ok (.vdqnt 6 7 ⟨0, 3⟩) ∧
    decodeSlot 2 (0b00110000_00010_11111_00000_11_0000000 : W32) = .ok (.vrsqrta 2 31 3) ∧
    decodeSlot 2 (0b00110001_11000_10100_00000_11_0000000 : W32) = .ok (.vrcpa 24 20 3) ∧
    decodeSlot 2 (0b00110010_01011_01100_00000_11_0000000 : W32) = .ok (.vexp2a 11 12 3) ∧
    decodeSlot 2 (0b00110011_01101_01111_00000_01_0000000 : W32) = .ok (.vlog2a 13 15 1) ∧
    decodeSlot 2 (0b00111000_10111_11110_00000_10_000_0111 : W32) = .ok (.vredsum 23 30 2 ⟨0, 7⟩) ∧
    decodeSlot 2 (0b00111001_00110_10011_00000_11_000_1000 : W32) = .ok (.vredmax 6 19 3 ⟨0, 8⟩) ∧
    decodeSlot 2 (0b01000000_10110_10000_00000_01_0000000 : W32) = .ok (.vbcast 22 16 1) ∧
    decodeSlot 2 (0b01000001_00010_00111_11000_00000_1001 : W32) = .ok (.vextr 2 7 24 ⟨0, 9⟩) ∧
    decodeSlot 2 (0b01000010_01110_11000_00110_10_0000000 : W32) = .ok (.vperm 14 24 6 2) ∧
    decodeSlot 2 (0b01000011_11101_00110_11001_01_0000000 : W32) = .ok (.vrot 29 6 25 1) ∧
    decodeSlot 2 (0b01000100_10000_01111_00000_01_0000000 : W32) = .ok (.vmov 16 15 1) :=
  ⟨rfl, rfl, rfl, rfl, rfl, rfl, rfl, rfl, rfl, rfl, rfl, rfl, rfl, rfl, rfl, rfl⟩

theorem test_decode_vector_3 :
    decodeSlot 2 (0b01000101_00111_11010_00000_11_0000000 : W32) = .ok (.viota 7 26 3) ∧
    decodeSlot 2 (0b01001000_11001_01100_00000_11_0000000 : W32) = .ok (.vld 25 12 3) ∧
    decodeSlot 2 (0b01001001_01011_11111_00000_01_0000000 : W32) = .ok (.vst 11 31 1) ∧
    decodeSlot 2 (0b01010000_11000_0_1111_01001_01_000_0101 : W32) = .ok (.trowLd 24 15 9 1 ⟨0, 5⟩) ∧
    decodeSlot 2 (0b01010001_10100_0_0110_11100_11_000_0001 : W32) = .ok (.trowSt 20 6 28 3 ⟨0, 1⟩) ∧
    decodeSlot 2 (0b01010010_01001_0_0111_11000_01_000_1000 : W32) = .ok (.tcolLd 9 7 24 1 ⟨0, 8⟩) ∧
    decodeSlot 2 (0b01010011_10000_0_0101_10110_11_000_0001 : W32) = .ok (.tcolSt 16 5 22 3 ⟨0, 1⟩) ∧
    decodeSlot 2 (0b01011000_000_01_01001_00000000000000 : W32) = .ok (.qmovToMask 1 9) ∧
    decodeSlot 2 (0b01011000_01100_000_10_00000000000001 : W32) = .ok (.qmovFromMask 12 2) ∧
    decodeSlot 2 (0b01011001_000_01_000_11_000_10_00000_0011 : W32) = .ok (.qops 1 3 2 3) ∧
    decodeSlot 2 (0b10000000_01010_11000_00101_10_000_1000 : W32) = .ok (.radd 10 24 5 2 8) ∧
    decodeSlot 2 (0b10000001_11110_11001_01001_01_000_1110 : W32) = .ok (.rsub 30 25 9 1 14) ∧
    decodeSlot 2 (0b10000010_00010_01101_11000_11_000_0111 : W32) = .ok (.rxor 2 13 24 3 7) ∧
    decodeSlot 2 (0b10000100_01100_11001_00001_11110_1110 : W32) = .ok (.rmulq 12 25 1 30 14) ∧
    decodeSlot 2 (0b10000101_01100_01001_11101_10000_1110 : W32) = .ok (.unmulq 12 9 29 16 14) ∧
    decodeSlot 2 (0b10000110_00011_00001_00000_11010_1000 : W32) = .ok (.rshr 3 1 26 8) :=
  ⟨rfl, rfl, rfl, rfl, rfl, rfl, rfl, rfl, rfl, rfl, rfl, rfl, rfl, rfl, rfl, rfl⟩

theorem test_decode_vector_4 :
    decodeSlot 2 (0b10000111_10011_11110_00000_10000_1110 : W32) = .ok (.unshr 19 30 16 14) ∧
    decodeSlot 2 (0b10001000_00001_10101_00000_00011_1110 : W32) = .ok (.rleak 1 21 3 14) ∧
    decodeSlot 2 (0b10001001_10000_01101_00000_00011_1000 : W32) = .ok (.unleak 16 13 3 8) ∧
    decodeSlot 2 (0b10001010_00011_11000_00000_11001_1110 : W32) = .ok (.rnarw 3 24 25 14) ∧
    decodeSlot 2 (0b10001011_01010_10011_00000_00011_0111 : W32) = .ok (.unnarw 10 19 3 7) :=
  ⟨rfl, rfl, rfl, rfl, rfl⟩

theorem test_decode_matrix :
    decodeSlot 3 (0b00000001_010_0110_1111_01111_0010_1_1_0_1 : W32) = .ok (.mmaTile 2 6 15 15 2 1 1 1) ∧
    decodeSlot 3 (0b00000001_100_0_011_1011_01101_1000_0_1_1_1 : W32) = .ok (.mmaStream 4 3 11 13 8 1 1) ∧
    decodeSlot 3 (0b00000010_010_1101_1010_10100_0100_1_1_0_1 : W32) = .ok (.mmas 2 13 10 20 4 1 1 1) ∧
    decodeSlot 3 (0b00000011_100_00000000_10101_0000000_1 : W32) = .ok (.mzero 4 21 1) ∧
    decodeSlot 3 (0b00000100_100_1100_0000_10100_1001_1_000 : W32) = .ok (.mload 4 12 20 9 1) ∧
    decodeSlot 3 (0b00000101_001_1101_0000_10101_0101_1_1_0_1 : W32) = .ok (.mdrain 1 13 21 5 1 1 1) ∧
    decodeSlot 3 (0b00000110_001_0_101_0000_01110_00000000 : W32) = .ok (.mswap 1 5 14) ∧
    decodeSlot 3 (0b00000111_111_001111_00_10110_00000000 : W32) = .ok (.mstat 7 15 22) ∧
    decodeSlot 3 (0b00001000_110_0011_0000_00101_1000_1_000 : W32) = .ok (.maddt 6 3 5 8 1) ∧
    decodeSlot 3 (0b00001001_010_001110_00_01101_00000_1_00 : W32) = .ok (.mscl 2 14 13 1) ∧
    decodeSlot 3 (0b00001010_011_0_100_0000_00001_00000000 : W32) = .ok (.mxpose 3 4 1) :=
  ⟨rfl, rfl, rfl, rfl, rfl, rfl, rfl, rfl, rfl, rfl, rfl⟩

theorem test_decode_head_1 :
    decodeSlot 4 (0b00000001_001_00000_010110_00000000_1_1 : W32) = .ok (.hatt 1 22 1 1) ∧
    decodeSlot 4 (0b00000010_101_000000000000000000000 : W32) = .ok (.hdet 5) ∧
    decodeSlot 4 (0b00000011_010_01001_0000000_1_00000000 : W32) = .ok (.hrd 2 9 1) ∧
    decodeSlot 4 (0b00000100_010_01000_0000000_1_00000000 : W32) = .ok (.hrds 2 8 1) ∧
    decodeSlot 4 (0b00000101_010_01100_0000000_1_00000000 : W32) = .ok (.hwr 2 12 1) ∧
    decodeSlot 4 (0b00000110_010_01110_0000000_1_00000000 : W32) = .ok (.happ 2 14 1) ∧
    decodeSlot 4 (0b00000111_111_00000000000_0111000101 : W32) = .ok (.hstep 7 453) ∧
    decodeSlot 4 (0b00001000_101_00000_111101_0000000000 : W32) = .ok (.hstepr 5 61) ∧
    decodeSlot 4 (0b00001001_100_0000000000000000000_11 : W32) = .ok (.hmark 4 3) ∧
    decodeSlot 4 (0b00001010_101_0000000000000000000_11 : W32) = .ok (.hrew 5 3) ∧
    decodeSlot 4 (0b00001011_110_00000_111110_0000000000 : W32) = .ok (.hpos 6 62) ∧
    decodeSlot 4 (0b00001100_010_00000_110011_00000000_01 : W32) = .ok (.hdist 2 51 1) ∧
    decodeSlot 4 (0b00001101_011_00000_111000_000000000_1 : W32) = .ok (.hlen 3 56 1) ∧
    decodeSlot 4 (0b00001110_101_00000_000100_0000000000 : W32) = .ok (.hstat 5 4) ∧
    decodeSlot 4 (0b00100000_000_00111_100001_11_1_0000000 : W32) = .ok (.cadd 7 33 3 1) ∧
    decodeSlot 4 (0b00100001_000_00110_010110_10_1_0000000 : W32) = .ok (.crd 6 22 2 1) :=
  ⟨rfl, rfl, rfl, rfl, rfl, rfl, rfl, rfl, rfl, rfl, rfl, rfl, rfl, rfl, rfl, rfl⟩

theorem test_decode_head_2 :
    decodeSlot 4 (0b00100001_00000000_110001_0001_110011 : W32) = .ok (.crdStat 49 51) ∧
    decodeSlot 4 (0b00100010_00000000_101111_0000_111100 : W32) = .ok (.cclr 47 60) ∧
    decodeSlot 4 (0b00100011_00000000_100110_0000_110011 : W32) = .ok (.ccfg 38 51) :=
  ⟨rfl, rfl, rfl⟩

theorem test_decode_engine :
    decodeSlot 6 (0b00000001_011010_001011_0001_00000000 : W32) = .ok (.cpy 26 11 1) ∧
    decodeSlot 6 (0b00000010_111101_000111_0011_00000000 : W32) = .ok (.cpyh 61 7 3) ∧
    decodeSlot 6 (0b00010000_100000_111010_0111_00000000 : W32) = .ok (.collAllred 32 58 7) ∧
    decodeSlot 6 (0b00010001_010101_010110_0111_00000000 : W32) = .ok (.collRdscat 21 22 7) ∧
    decodeSlot 6 (0b00010010_111011_010000_0101_00000000 : W32) = .ok (.collAllgth 59 16 5) ∧
    decodeSlot 6 (0b00100000_000000_100111_0010_00000000 : W32) = .ok (.tlwait 39 2) ∧
    decodeSlot 6 (0b00100001_001101_000000_0011_00000000 : W32) = .ok (.tlrd 13 3) ∧
    decodeSlot 6 (0b00110000_000010_000000000000000000 : W32) = .ok (.nextt 2) ∧
    decodeSlot 6 (0b00110001_000000_001001_0000_10_011010 : W32) = .ok (.flsig 9 2 26) ∧
    decodeSlot 6 (0b00110010_000000_001010_0000_01000101 : W32) = .ok (.erep 10 69) :=
  ⟨rfl, rfl, rfl, rfl, rfl, rfl, rfl, rfl, rfl, rfl⟩

theorem test_decode_branch_1 :
    decodeSlot 7 (0b00000001_000000000000000000000000 : W32) = .ok (.nop) ∧
    decodeSlot 7 (0b00000010_110010_111001_101010_000111 : W32) = .ok (.btree 50 57 42 7) ∧
    decodeSlot 7 (0b00000011_00_0011001001111100001100 : W32) = .ok (.jmpRel 827148) ∧
    decodeSlot 7 (0b00000011_010000000000000000_001000 : W32) = .ok (.jmpReg 8) ∧
    decodeSlot 7 (0b00000100_00_0001000011000111001000 : W32) = .ok (.callRel 274888) ∧
    decodeSlot 7 (0b00000100_010000000000000000_000011 : W32) = .ok (.callReg 3) ∧
    decodeSlot 7 (0b00000101_000000000000000000_111011 : W32) = .ok (.ret 59) ∧
    decodeSlot 7 (0b00001000_110110_000000000000_011010 : W32) = .ok (.loop 54 26) ∧
    decodeSlot 7 (0b00001001_010100_0000000000_01_110111 : W32) = .ok (.loopSp 20 1 55) ∧
    decodeSlot 7 (0b00001010_00000000000000000000_1000 : W32) = .ok (.lbrk 8) ∧
    decodeSlot 7 (0b00010000_0000000000000000000000_01 : W32) = .ok (.sync 1) ∧
    decodeSlot 7 (0b00010001_0000000000000000000000_10 : W32) = .ok (.phase 2) ∧
    decodeSlot 7 (0b00010010_000000000000000000000000 : W32) = .ok (.wfe) ∧
    decodeSlot 7 (0b00010011_0000000000000000000000_10 : W32) = .ok (.sev 2) ∧
    decodeSlot 7 (0b00011000_0000_0010_0001000001101111 : W32) = .ok (.trap 2 4207) ∧
    decodeSlot 7 (0b00011001_0000_0111_0000000000000000 : W32) = .ok (.bkpt 7) :=
  ⟨rfl, rfl, rfl, rfl, rfl, rfl, rfl, rfl, rfl, rfl, rfl, rfl, rfl, rfl, rfl, rfl⟩

theorem test_decode_branch_2 :
    decodeSlot 7 (0b00011010_000000000000000000000000 : W32) = .ok (.halt) ∧
    decodeSlot 7 (0b00100000_110001_000000000000000000 : W32) = .ok (.dset 49) ∧
    decodeSlot 7 (0b00100001_000000000000000000000000 : W32) = .ok (.dfence) ∧
    decodeSlot 7 (0b00101000_001010_000000000000000000 : W32) = .ok (.solve 10) ∧
    decodeSlot 7 (0b00101001_000000000000000000000000 : W32) = .ok (.solend) ∧
    decodeSlot 7 (0b00101010_00000000000000000000_1100 : W32) = .ok (.solq 12) ∧
    decodeSlot 7 (0b00101011_010100_0000000000000000_10 : W32) = .ok (.solrd 20 2) :=
  ⟨rfl, rfl, rfl, rfl, rfl, rfl, rfl⟩

/-- Stream words: a short call (index 5, fill 0x3_0001), a long call, the literal bundle of one ADD in SA, and kind 0b11 (Table 14.1). -/
theorem test_decode_bundles :
    decodeWords [0b00_000000000101_110000000000000001] = .ok (.shortCall 5 0x30001, 1) ∧
    decodeWords [0b01_111111111111_000000000000000001, 0x80000000] = .ok (.longCall 4095 0x2000000000001, 2) ∧
    decodeWords [0b10_0_0_00000001_0000_0000_0000_0000_0000, 0, 0, 0x010C1080] = .ok (.literalBundle (1#94 <<< 84) [0x010C1080], 4) ∧
    decodeWords [0b11_000000000000_000000000000000000] = .error .streamKind :=
  ⟨rfl, rfl, rfl, rfl⟩

/-- Refusals by name: an unassigned opcode, a reserved bit, an out-of-range field, a slot it may not stand in (R263). -/
theorem test_decode_refuses :
    decodeSlot 0 (0x00000000 : W32) = .error .unassigned ∧ decodeSlot 7 (0xFF000000 : W32) = .error .unassigned ∧
    decodeSlot 7 (0x01000001 : W32) = .error .reserved ∧ decodeSlot 0 (0b00101000_000_000_111011_100010_000011 : W32) = .error .range ∧
    decodeSlot 1 (0b01010000_000001_000010_000000000000 : W32) = .error .misplaced :=
  ⟨rfl, rfl, rfl, rfl, rfl⟩

/-- The table's numbering: a row's bits from the first word up (the row of RDSR, and a bundle's three words). -/
theorem test_table_word : decodeTableWord 32 0x010C1080 = some (.add 3 1 2) ∧ decodeTableWord 32 0x00400005 = some (.shortCall 16 5) :=
  ⟨rfl, rfl⟩
/-! ## A bench: states in which every slot instruction issues -/

/-- A slot word with its bundle's header, placed as the first instruction after reset. -/
def placed (w : W32) : State := State.reset.withFetchWord 32 w.toNat

/-- A tile descriptor: base, rows, columns, width code, pitch and, where `m` is not 0, metadata there. -/
def tile (base rows cols w pitch m : Nat) : Desc :=
  BitVec.ofNat 128 (2 ^ 127 + base + 2 ^ 38 * (cols - 1) + 2 ^ 44 * (rows - 1) + 2 ^ 50 * w + 2 ^ 52 * (pitch / 4) +
    (if m = 0 then 0 else 2 ^ 126 + 2 ^ 109 * (m / 2)))

/-- Views of the bench: vectors in bays 8 to 15; tiles of 8 × 8 elements in bays 0 to 3, of 8 (0, 1), 16 (2, 3) and 32 bits (4, 5), and one
in bay 14, of 8 bits (6); with metadata, 1 × 32 and 32 × 32 elements of 8 bits (7, 8); accumulators in bays 4 to 7. -/
def views : List Desc :=
  (List.range 8).map (fun n => BitVec.ofNat 128 (2 ^ 127 + 512 + 64 * n)) ++ List.replicate 24 0 ++
  [tile 0 8 8 1 32 0, tile 16384 8 8 1 32 0, tile 32768 8 8 2 32 0, tile 49152 8 8 2 32 0,
   tile 4096 8 8 3 32 0, tile 20480 8 8 3 32 0, tile (14 * 16384 + 8192) 8 8 1 256 0,
   tile 8192 1 32 1 32 12288, tile 24576 32 32 1 32 28672] ++ List.replicate 7 0 ++
  (List.range 4).map (fun n => BitVec.ofNat 128 (2 ^ 127 + 2 ^ 32 * (n + 4))) ++ List.replicate 4 0

/-- A tape directory of four tapes of 16 records of 256 bytes: read-only, append, update, stream; and one entry of an extent table
that names an HBM extent. -/
def directory : List Byte :=
  leBytes 4 4 ++ List.replicate 60 0 ++
  (List.range 4).flatMap (fun t => leBytes 5 16 ++ leBytes 1 8 ++ leBytes 1 (3 + 4 * t) ++ [0] ++ leBytes 8 (0x20000 + 192) ++ leBytes 4 0 ++ leBytes 4 16 ++ List.replicate 8 0) ++
  leBytes 8 (2 ^ 63 + 2 ^ 10)

/-- The bench: that state with the views, the directory and heads 0 to 3 on its tapes, changed by `f` and `g`. -/
def bench (f : Core → Core) (g : State → State) : State :=
  let s := placed 0x01000000
  let hd (t : Nat) (w : Bool) : Head := ⟨true, BitVec.ofNat 20 t, BitVec.ofNat 32 (t + (if w then 4 else 0) + 8 + 128), 0, [some 0, none, none, none], 0⟩
  let s := s.mapCore 0 (fun k => f { k with arch := { k.arch with views := views, heads := [hd 0 false, hd 1 true, hd 2 true, hd 3 true] ++ List.replicate 4 Head.detached } })
  let s := s.mapFn 0 (fun x => { x with flights := x.flights.map (fun fl => { fl with tapeDir := 0x20000, pages := fl.pages ++ [⟨2, true, false, 0x20000⟩] }) })
  g { s with hbm := s.hbm.write 0x20000 directory
             halls := [⟨0, (List.range 4).map (fun t => (1, BitVec.ofNat 20 t, 0)), [], 0, 0⟩] }

def issues (s : State) (i : Instr) : Bool :=
  match soloOf i with
  | none => false
  | some (slot, ck) =>
    match s.ctx (soloHdr slot ck) (encode i) (s.lenHere 16) slot with
    | none => false
    | some c => c.k.stops.isEmpty && (c.check [(c.slot, planOf i c)]).isNone

theorem issues_spec {s : State} {i : Instr} (h : issues s i = true) : ∃ c, Issues s i c := by
  unfold issues at h
  split at h
  · cases h
  · rename_i hs
    split at h
    · cases h
    · rename_i c hc
      simp only [Bool.and_eq_true, List.isEmpty_iff, Option.isNone_iff_eq_none] at h
      exact ⟨c, by unfold Ready; rw [hs]; exact ⟨hc, h.1⟩, h.2⟩

def allIssue (s : State) (l : List Instr) : Bool := l.all (issues s)

/-- The bench as it stands, and with another architectural state. -/
def plain : State := bench id id
def withArch (f : Arch → Arch) : State := bench (·.withArch f) id

/-- A command block: opcode, one dimension of 32 FP32 elements of stride 1, from tape 0 (or window 5) to tape 2, domain 0. -/
def block (op : Nat) : List Byte :=
  leBytes 8 (op + 2 ^ 24) ++ leBytes 4 (if op == 2 then 5 else 0) ++ leBytes 4 2 ++ leBytes 24 0 ++ leBytes 4 32 ++ leBytes 4 1 ++ leBytes 4 1 ++
  leBytes 76 0

/-- The bench with that block at scratch 0, and a member of a domain of one. -/
def engines (op : Nat) : State :=
  bench (fun k => { k with scratch := (Mem.empty 0).write 0 (block op), dom := [2 ^ 28, 0, 0, 0] })
    (fun s => s.mapFn 0 (fun x => { x with flights := x.flights.map (fun fl => { fl with dom := [⟨1, 1⟩] }) }))

/-- The bench with a gallery of zeros but for v2, whose bytes are 1, and an entry of `len` payload bytes and tag `tag` on the stack. -/
def stacked (len tag : Nat) : State :=
  bench (fun k => { k with
    gallery := (Mem.empty 0).write (256 * 640) (List.replicate 256 1), ring := (Mem.empty 0).put len 4 (256 * len + tag)
    arch := { k.arch with rsDepth := BitVec.ofNat 32 (len + 4) } }) id

/-- The bench with a cell array 0 of 4096 cells of the run, configured. -/
def cells : State := bench id (fun s => s.mapRun 1 (fun r => { r with arrays := [⟨0, 0x8000000000000FFF, [0], [], []⟩] }))

/-- The bench inside a solve region that carries t4. -/
def solving : State :=
  withArch (fun a => { a with solve := { a.solve with active := true, carried := [4, 0xFF, 0xFF, 0xFF], shape := carriedShape a [36], depth := 1 } })

/-- The bench with tape 0 of 64 records of 64 bytes, all of them in the window of head 0. -/
def streaming : State :=
  bench (fun k => { k with windows := k.windows.set 0 ((List.range 64).map (fun i => ⟨i, List.replicate 64 0, [], 0, 0⟩)) 
                           arch := { k.arch with views := k.arch.views.set 41 (tile 4096 64 8 1 32 0) } })
    (fun s => { s with hbm := s.hbm.write 0x20040 (leBytes 5 64 ++ leBytes 1 6) })

/-! ## Witnesses: in these states the instructions of each statement issue, so its hypotheses hold together -/

theorem test_wit_IntegerResults : allIssue plain [.add 1 2 3, .sub 63 0 62, .and 1 2 3, .or 1 2 3, .xor 1 2 3, .shl 1 2 3, .shr 1 2 3, .sar 1 2 3,
    .min 1 2 3, .max 1 2 3, .minu 1 2 3, .maxu 0 2 3, .clz 1 2, .popc 1 0, .sel 1 2 3 1 7, .addi 1 2 0xFFF, .andi 1 2 0, .ori 1 2 3, .xori 1 2 3,
    .shli 1 2 63, .shri 1 2 63, .sari 1 2 0, .bfx 1 2 0 63, .bfi 1 2 63 0, .movi 1 0x3FFFF, .movhi 1 0] = true := by decide

theorem test_wit_IntegerLateResults : allIssue plain [.mul 1 2 3, .mulh 1 2 3, .mulhu 0 2 3, .divu 1 2 0, .remu 1 2 0] = true := by decide

theorem test_wit_PredicateResults :
    allIssue plain [.cmpCc 1 2 3 9, .cmpiCc 9 7 2 0x800, .pand 1 0 7, .por 1 2 3, .pxor 7 2 3, .pnot 1 2, .fcmpCc 1 2 3 5] = true := by decide

theorem test_wit_FloatResults : allIssue plain [.faddS 1 2 3 0, .fmulS 1 2 3 5, .ffmaS 1 2 3 0, .icvt 1 2 0 4, .fminS 1 2 3, .fmaxS 1 2 3,
    .fcvt 1 2 1 0] = true := by decide

theorem test_wit_ScratchAccess : allIssue plain [.ldB 1 2 0, .ldH 1 2 1, .ldW 1 2 0, .ldD 1 2 0xFFF, .stB 1 2 0, .stH 1 2 1, .stW 1 2 0,
    .stD 1 2 0xFFF] = true := by decide

theorem test_wit_SystemRegisters : (allIssue plain (WellFormed.sysRegs.map (fun r => .rdsr 1 (BitVec.ofNat 18 r))) &&
    allIssue plain ([0x010, 0x011, 0x012, 0x013, 0x018, 0x019, 0x01A, 0x020, 0x029].map (fun r => .wrsr 1 (BitVec.ofNat 18 r)))) = true := by decide

theorem test_wit_ViewsAndTables :
    allIssue plain [.view 0 0 0, .view 47 1 2, .view 48 0 0, .view 55 1 2, .ftset 1 2, .rngk 1 2, .dset 1, .dfence] = true := by decide

theorem test_wit_ControlTransfers : (allIssue plain [.nop, .jmpRel 0, .jmpReg 1, .ret 39, .callRel 0x200000, .callReg 1, .loop 0 63, .loopSp 0 3 0,
    .lbrk 8, .btree 0 0 0 0] && allIssue (withArch (fun a => { a with loops := [⟨0, 1, 0, .plain, 0, 0⟩] })) [.lbrk 0]) = true := by decide

theorem test_wit_CheckpointInstructions : (allIssue (engines 1) [.sync 0, .sev 0] && allIssue plain [.phase 0, .phase 3, .halt, .trap 0 0xFFFF,
    .trap 8 0, .bkpt 0, .bkpt 8, .wfe] && allIssue (withArch (fun a => { a with event := true })) [.wfe] && allIssue solving [.solend] &&
    allIssue (bench (fun k => { k with stage := .syncIssue, dom := [2 ^ 28, 0, 0, 0] }) id) [.sync 0]) = true := by decide

theorem test_wit_EngineInstructions : (allIssue (engines 1) [.cpy 1 0 0, .cpy 0 0 3] && allIssue (engines 2) [.cpyh 1 0 0] &&
    allIssue (engines 16) [.collAllred 1 0 4] && allIssue (engines 17) [.collRdscat 1 0 4] && allIssue (engines 18) [.collAllgth 1 0 7] &&
    allIssue plain [.flsig 1 0 0, .flsig 1 2 63, .erep 1 0, .tlwait 0 0, .tlrd 1 7, .nextt 1, .nextt 63]) = true := by decide

/-- TLWAIT on a value that its context has reached, and NEXTT where a tile is at hand and where the null value has been seen. -/
theorem test_wit_EngineInstructions_more : (allIssue (bench (·.withArch (·.setReg 1 1)) (fun s => s.mapContext 1 (fun x =>
      { x with counter := 1, last := 1 }))) [.tlwait 1 0] &&
    allIssue (bench (fun k => { k with tiles := [(0, 7)] }) id) [.nextt 1] && allIssue (bench (fun k => { k with nullSeen := true }) id) [.nextt 1]) =
    true := by decide

theorem test_wit_SolveInstructions : (allIssue (withArch (·.setReg 2 (4 + 2 ^ 4 * 5 + 2 ^ 16 + 2 ^ 36))) [.solve 2] &&
    allIssue plain [.solq 0, .solq 8, .solrd 1 0, .solrd 1 3]) = true := by decide +kernel

theorem test_wit_VectorArithmetic : allIssue plain [.vadd 0 1 2 0 0 0, .vsub 0 1 2 3 5 1, .vmul 0 1 2 1 0 9, .vmin 0 1 2 0 0 0, .vmax 0 1 2 0 0 6,
    .vabs 0 1 0 0 0, .vneg 0 1 0 0 9, .vfma 0 1 2 3 0, .vfms 0 1 2 3 8, .vaddSr 0 1 2 0 ⟨0, 0⟩] = true := by decide

theorem test_wit_VectorMoves : allIssue plain [.vsel 0 1 2 3, .vand 0 1 2 0, .vor 0 1 2 0, .vxor 0 1 2 3, .vmov 0 1 0, .vbcast 0 1 0, .viota 0 1 0,
    .vperm 0 1 2 0, .vrot 0 1 2 0, .vld 0 1 0, .vshl 0 1 2 0 ⟨0, 6⟩, .vshr 0 1 2 0 ⟨0, 9⟩, .vsar 0 1 2 0 ⟨0, 7⟩, .radd 0 1 2 0 6, .rsub 0 1 2 0 8,
    .rxor 0 1 2 0 7] = true := by decide

theorem test_wit_VectorConversions : allIssue plain [.vcvt 0 1 0 0 0 0 6, .vqnt 0 1 0 3, .vdqnt 0 1 ⟨0, 5⟩, .vrsqrta 0 1 0, .vrcpa 0 1 0, .vexp2a 0 1 0,
    .vlog2a 0 1 0, .vredsum 0 1 0 ⟨0, 0⟩, .vredmax 0 1 0 ⟨0, 9⟩] = true := by decide

theorem test_wit_MaskResults : allIssue plain [.vcmpCc 0 1 2 3 0 ⟨0, 0⟩, .vcmpCc 9 3 1 2 0 ⟨0, 9⟩, .qmovToMask 1 2, .qmovFromMask 1 3, .qops 1 2 3 4,
    .vextr 1 0 2 ⟨0, 0⟩, .vst 0 1 0] = true := by decide

theorem test_wit_TileSlices : allIssue plain [.trowLd 0 0 1 0 ⟨0, 6⟩, .tcolLd 0 6 1 0 ⟨0, 6⟩, .trowSt 0 0 1 0 ⟨0, 6⟩, .tcolSt 0 6 1 0 ⟨0, 6⟩] = true := by decide

theorem test_wit_StackPushes : (allIssue plain [.rshr 0 1 0 8, .rleak 0 1 31 8, .rnarw 0 1 24 6, .rstag 1 0 15] &&
    allIssue (stacked 0 0) [.rmulq 0 1 2 31 8]) = true := by decide +kernel

theorem test_wit_StackPops : (allIssue (stacked 64 (pushTag 0x84 8 8)) [.unmulq 0 1 2 8 8] && allIssue (stacked 64 (pushTag 0x86 8 8)) [.unshr 0 1 8 8] &&
    allIssue (stacked 64 (pushTag 0x88 8 8)) [.unleak 0 1 8 8] && allIssue (stacked 192 (pushTag 0x8A 6 24)) [.unnarw 0 1 24 6] &&
    allIssue (stacked 0 0xFF) [.rstag 1 1 15]) = true := by decide +kernel

theorem test_wit_RemainderTape : (allIssue (withArch (·.setReg 1 2)) [.revon 1] && allIssue (withArch (fun a => { a with revOn := true })) [.revoff]) =
    true := by decide

theorem test_wit_MatrixResults : allIssue plain [.mzero 0 1 1, .mload 0 4 1 0 0, .maddt 0 6 1 6 1, .mscl 0 1 1 0, .mxpose 0 1 2, .mswap 0 1 1,
    .mswap 0 0 1, .mstat 0 1 1, .mdrain 0 4 1 0 0 0 1] = true := by decide +kernel

/-- MSWAP of two accumulator views on one bay. -/
theorem test_wit_MatrixResults_one_bay :
    allIssue (withArch (fun a => { a with views := a.views.set 49 (a.views.getD 48 0) })) [.mswap 0 1 1] = true := by decide

theorem test_wit_MatrixProducts : (allIssue plain [.mmaTile 0 0 1 1 6 0 0 1, .mmaTile 0 6 0 1 6 1 0 0, .mmaTile 0 2 3 0 1 0 0 1,
    .mmas 0 7 8 2 3 0 0 1] && allIssue streaming [.mmaStream 0 0 9 0 6 0 1]) = true := by decide +kernel

theorem test_wit_HeadMoves : (allIssue plain [.hatt 4 1 0 0, .hdet 0, .hstep 0 0, .hstep 0 1, .hstepr 0 1, .hmark 0 3, .hrew 0 0, .hpos 0 1,
    .hdist 0 1 0, .hlen 0 1 0, .hlen 1 1 1, .hstat 7 1] && allIssue (withArch (·.setReg 1 1)) [.hstepr 0 1] &&
    allIssue (withArch (fun a => { a with heads := a.heads.set 0 { a.heads.getD 0 Head.detached with pos := 1 } })) [.hrew 0 0]) = true := by decide

theorem test_wit_HeadTransfers : allIssue plain [.hrd 0 0 0, .hrd 0 4 1, .hrds 0 0 0, .hwr 2 0 0, .happ 1 0 0, .happ 3 0 0] = true := by decide

theorem test_wit_CellInstructions : (allIssue cells [.cadd 0 1 0 0, .crd 0 1 0 0, .crdStat 1 2, .cclr 1 2, .ccfg 1 2] &&
    allIssue (bench (·.withArch (·.setReg 2 1)) (fun s => s.mapRun 1 (fun r => { r with arrays := [⟨0, 0x8000000000000FFF, [0], [], []⟩] })))
      [.cclr 1 2]) = true := by decide

/-! ## Witnesses of the other statements -/

/-- The step or instruction answered a next state. -/
def next (o : Out) : Bool := match o with
  | .next _ => true
  | _ => false

def isOk {α : Type} (x : Except Reject α) : Bool := match x with
  | .ok _ => true
  | .error _ => false

/-- A test of core 0, of its job, and of an instruction's context. -/
def at0 (s : State) (p : Core → Bool) : Bool := ((s.coreAt 0).map p).getD false
def job (s : State) (p : Core → Run → Fn → Flight → Bool) : Bool :=
  match s.coreJob 0 with
  | none => false
  | some (k, r, x, f) => p k r x f
def ctxOf (s : State) (i : Instr) (p : Ctx → Bool) : Bool :=
  match soloOf i with
  | none => false
  | some (slot, ck) => ((s.ctx (soloHdr slot ck) (encode i) (s.lenHere 16) slot).map (fun c => c.k.stops.isEmpty && p c)).getD false

/-- A result in flight that is due. -/
def pend (kind : Kind) (dest : Dest) : Pend :=
  { issue := 0, due := 0, slot := 0, kind := kind, dest := dest, lock := [], val := 7, data := [], flags := 0, absorb := 0, accView := none
    accFlags := 0, accClear := false, poison := [], source := none, need := .ready, preCk := false, pc := 0, at_ := 0, replay := false }

def stage (x : Stage) : State := bench (fun k => { k with stage := x }) id

theorem test_wit_StepKeepsForm : (placed 0x01000000).Inv ∧ next (step (placed 0x01000000)) = true :=
  ⟨⟨by decide, by decide, by decide⟩, by decide +kernel⟩

theorem test_wit_SlotRoundTrip : wellFormed (.add 0 0 63) = true ∧ soloOf (.add 0 0 63) = some (0, false) ∧
    scalarInSB (fld (0x0100_0FC0 : W32) 24 8).toNat = true ∧ wellFormed (.hrd 7 15 1) = true ∧ soloOf (.hrd 7 15 1) = some (4, false) := by decide

theorem test_wit_WordRoundTrip : decodeSlot 7 (0x01000000 : W32) = .ok .nop ∧ decodeSlot 0 (0x01FC0FC0 : W32) = .ok (.add 63 0 63) := ⟨rfl, rfl⟩

theorem test_wit_BundleRoundTrip : wellFormed (.literalBundle (soloHdr 7 true) [0x01000000]) = true := by decide

theorem test_wit_StepRunsFetched : (let s := placed 0x01000000
    s.power.state != .p4 && (s.pickAgenda s.agenda).isNone && s.timed.isNone && s.turn == [0] && job s (fun k _ _ f =>
      k.stage == .run && k.stops.isEmpty && k.asks.isEmpty && k.stepVc.isNone && k.nextLanding.isNone && k.stuckLanding.isNone &&
      (match s.fetchBundle f k k.arch.pc.toNat with
       | .words ws => isOk (decodeWords ws)
       | _ => false))) = true := by decide +kernel

theorem test_wit_SoloBundle : soloOf .nop = some (7, false) ∧ decodeSlot 7 (0x01000000 : W32) = .ok .nop := ⟨rfl, rfl⟩

theorem test_wit_QuietIssues : ctxOf plain (.vadd 0 1 2 0 0 0) (fun c =>
    let p := planOf (.vadd 0 1 2 0 0 0) c
    c.k.pend.isEmpty && c.k.tokens.isEmpty && c.k.poison.isEmpty && c.k.busy.isEmpty && c.feats.getLsbD p.feature &&
    p.views.all c.k.arch.configured && !p.bad && decide (p.ports ≤ hdrPort c.h c.slot) && decide ((p.access.eraseDups).map Prod.snd).Nodup &&
    p.feats.all c.feats.getLsbD && p.late.isNone && !p.badLast && p.wait.isNone && c.k.undo.isEmpty && c.k.held.isEmpty &&
    decide ((c.k.linesNeeded p).length ≤ 1) && p.held.isEmpty) = true := by decide +kernel

theorem test_wit_PredicateResults_order : ∀ n : Nat, n = 1 ∨ n = 7 → 0 < n ∧ n < 8 := by omega

/-- Loop bodies of one bundle: the last pass and the one before, plain and pipelined. -/
theorem test_wit_SequencerRules : (let e (kind : LoopKind) (i : BitVec 33) (n : W32) : LoopEntry := ⟨65536, n, i, kind, 1, 1⟩
    let body : Bodies := fun _ => ([65536], 65552)
    let plainE := e .plain 0 2
    let last := e .plain 1 2
    let piped := e .pipelined 1 2
    let lastP := e .pipelined 2 2
    (body plainE).1.getLast? == some 65536 && decide (plainE.index.toNat + 1 < plainE.count.toNat) &&
    decide (last.count.toNat ≤ (last.index + 1).toNat) &&
    decide (piped.index.toNat + 1 < piped.count.toNat + piped.stagesM1.toNat) &&
    decide (lastP.count.toNat + lastP.stagesM1.toNat ≤ (lastP.index + 1).toNat) &&
    [last, lastP].all (fun e => decide (e.limit ≤ (e.index + 1).toNat)) && (body last).2 == 65536 + 16) = true := by decide

/-! ### Traps -/

/-- A virtual function without features but the base set. -/
def masked : State :=
  bench id (fun s => { s with featMask := 0xFE :: s.featMask.drop 1, fns := s.fns.map (fun x => { x with no := 1 }), runs := s.runs.map (fun r => { r with fn := 1 }) })

/-- A core that waits for the token of register 2. -/
def waiting : State := bench (fun k => { k with tokens := [(2, 0, some 1)] }) id

theorem test_wit_CheckTraps : (ctxOf masked (.solq 0) (fun c => !c.feats.getLsbD (planOf (.solq 0) c).feature) &&
    ctxOf plain (.vadd 0 31 2 0 0 0) (fun c => c.feats.getLsbD (planOf (.vadd 0 31 2 0 0 0) c).feature &&
      (planOf (.vadd 0 31 2 0 0 0) c).views.find? (fun v => !c.k.arch.configured v) == some 31) &&
    ctxOf waiting (.add 1 2 3) (fun c => (c.k.tokenWait (planOf (.add 1 2 3) c)).isSome) &&
    ctxOf plain (.hdet 6) (fun c => c.feats.getLsbD (planOf (.hdet 6) c).feature && (planOf (.hdet 6) c).views.isEmpty && (planOf (.hdet 6) c).bad) &&
    ctxOf plain (.lbrk 0) (fun c =>
      let p := planOf (.lbrk 0) c
      c.k.pend.isEmpty && c.k.tokens.isEmpty && c.k.poison.isEmpty && c.k.busy.isEmpty && c.feats.getLsbD p.feature && p.views.isEmpty && !p.bad &&
      p.ports == 0 && p.access.isEmpty && p.feats.isEmpty && p.badLast) &&
    ctxOf plain (.revon 1) (fun c =>
      let p := planOf (.revon 1) c
      c.k.pend.isEmpty && c.k.tokens.isEmpty && c.k.poison.isEmpty && c.k.busy.isEmpty && c.feats.getLsbD p.feature && p.views.isEmpty && !p.bad &&
      p.ports == 0 && p.access.isEmpty && p.feats.isEmpty && !p.badLast && p.late.isSome) &&
    at0 plain (fun k => k.stage == .run)) = true := by decide +kernel

theorem test_wit_LockedOperandTraps :
    (let reg : State := bench (fun k => { k with pend := [{ pend .scalar (.reg 2) with due := 9 }] }) id
     let bytes : State := bench (fun k => { k with pend := [{ pend .vector (.bytes [(147456, 256)]) with lock := [(147456, 256)] }] }) id
     let status : State := bench (fun k => { k with pend := [{ pend .mma .none with accView := some 48 }] }) id
     ctxOf reg (.add 1 2 3) (fun c => (c.k.tokenWait (planOf (.add 1 2 3) c)).isNone && (planOf (.add 1 2 3) c).chain.isNone && (planOf (.add 1 2 3) c).reads.contains (.reg 2) && physReg c.k.arch.rot 2 == 2) &&
     ctxOf bytes (.vmov 0 1 0) (fun c => (planOf (.vmov 0 1 0) c).chain.isNone && (planOf (.vmov 0 1 0) c).reads.contains (.bytes 147456 256)) &&
     ctxOf status (.mstat 0 1 1) (fun c => (planOf (.mstat 0 1 1) c).chain.isNone && (planOf (.mstat 0 1 1) c).reads.contains (.status 48))) =
    true := by decide +kernel

theorem test_wit_RollbackRestores : at0 (bench (fun k => { (k.logLine 3).logRing 7 with pend := [pend .scalar (.reg 2)] }) id)
    (fun k => k.pend.all (fun p => !p.preCk) && k.undo.length == 2 && k.undo.all (fun u => u.old.length == 256)) = true := by decide +kernel

theorem test_wit_TrapRollback : job (stage (.trapping ⟨0x11, 7, 0, 0, 65536, []⟩ 65536 0))
    (fun k _ _ _ => k.stage == .trapping ⟨0x11, 7, 0, 0, 65536, []⟩ 65536 0 && k.settled) = true := by decide +kernel
/-- Another core of the run whose trap, with a later stamp, is still in its rollback when the fault ends the run. -/
theorem test_wit_TrapRollback_open_trap :
    (let t (n : Nat) : Stage := .trapping ⟨0x11, 7, 0, 0, 65536, []⟩ 65536 n
     let s := (bench (fun k => { k with stage := t 0, handlerOf := some 5 }) id)
     let s := match s.coreAt 0 with
       | some k => s.addCore { k with no := 1, stage := t 3 }
       | none => s
     job s (fun k _ fn f => k.settled && !s.earlierTrap k 0 && s.policyOf fn f k ⟨0x11, 7, 0, 0, 65536, []⟩ == .fault &&
       ((s.openTraps 1).filter (fun y => y.1.no != 0)).length == 1)) = true := by decide +kernel

/-- Policies whose outcome is a job fault because of a cut: a debugger's halt in any, the hypervisor's hold in one for P3. -/
theorem test_wit_TrapRollback_in_cut :
    (let c (r : CutReason) : Cut := { reason := r, step := 2, left := 9, waited := 0, m := 0, s := 0, abandoned := 0, preempts := false }
     let cutting (r : CutReason) : State := bench (fun k => { k with stage := .trapping ⟨0x11, 7, 0, 0, 65536, []⟩ 65536 0 })
       (fun s => s.mapRun 1 (fun x => { x with cut := some (c r) }))
     job (cutting .command) (fun k r _ _ => k.settled && r.endsWith .debug && !r.endsWith .hypervisor && ((cutting .command).openTraps 1).length == 1) &&
     job (cutting .power) (fun k r _ _ => k.settled && r.endsWith .hypervisor && !r.endsWith .resume)) = true := by decide +kernel

theorem test_wit_RevoffRule :
    (let on (d : W32) : State := withArch (fun a => { a with revOn := true, rsDepth := d })
     ctxOf (on 4) .revoff (fun c => c.feats.getLsbD 1 && c.k.arch.revOn && c.k.arch.rsDepth.toNat != 0 && c.k.stage == .run) &&
     ctxOf plain .revoff (fun c => c.feats.getLsbD 1 && !c.k.arch.revOn && c.k.stage == .run) &&
     ctxOf (on 0) .revoff (fun c => c.feats.getLsbD 1 && c.k.arch.revOn && c.k.arch.rsDepth.toNat == 0 && c.k.undo.isEmpty && c.k.held.isEmpty)) =
    true := by decide +kernel

theorem test_wit_NopRule : (ctxOf plain .nop (fun c => c.feats.getLsbD 0 && c.k.undo.isEmpty && c.k.held.isEmpty) &&
    ((plain.ctx 0 [] (plain.lenHere 12) 8).map (fun c => c.k.stops.isEmpty)).getD false) = true := by decide +kernel

theorem test_wit_MstatRule : ctxOf (bench (fun k => { k with pend := [{ pend .mma .none with accView := some 48 }] }) id) (.mstat 0 1 1) (fun c =>
    let p := planOf (.mstat 0 1 1) c
    c.feats.getLsbD p.feature && p.views.all c.k.arch.configured && !p.bad && decide (p.ports ≤ hdrPort c.h c.slot) && p.access.isEmpty &&
    p.feats.isEmpty && (c.k.pend.map Pend.accView) == [some 48]) = true := by decide +kernel

theorem test_wit_LinkStatus : (!plain.rot.recovery && (plain.fnAt 0).isSome && (masked.fnAt 1).isSome) = true := by decide +kernel

/-! ### Bundles and frames -/

/-- A dictionary entry of two slots, an ADD in SA and a NOP in BR, at index 16 of the dictionary at 0x1_0000. -/
def called : State :=
  let words : List W32 := [0, 0, 0x08100000, 0x010C1080] ++ List.replicate 6 0 ++ [0x01000000, 0, 0, 0, 0, 0x80000000]
  bench (fun k => { k with dcache := [65536, 66560] })
    (fun s => { s with hbm := s.hbm.write (65536 + 1024) (words.flatMap bytesOfWord) })

/-- The words of a bundle issue: its header is legal and nothing stops its plans. -/
def bundleIssues (c : Ctx) (ws : List W32) : Bool :=
  headerLegal c.h && ws.length == (hdrSlots c.h).length &&
  (match decodeSlots (slotWords c.h ws) with
   | .error _ => false
   | .ok is =>
     let b : Bundle := { h := c.h, len := c.len, slots := is.map (fun x => (x.1, planOf x.2)) }
     !(is.any (fun x => isTag x.2) && is.any (fun x => usesStack x.2)) && (c.check (c.plans b)).isNone && (syncOf c.k.stage (c.plans b)).isNone)

theorem test_wit_Bundles : (let h : BitVec 94 := BitVec.ofNat 94 (2 ^ 84 + 2 ^ 91)
    let short := called.ctx 0 [] 4 8
    let long := called.ctx 0 [] 8 8
    let calls (c : Ctx) : Bool :=
      let e := dictEntryOf (called.entryWords 66560)
      c.k.arch.pendBase.isNone && (c.k.arch.dictBase.toNat + 64 * 16) % 2 ^ 64 == 66560 && c.k.dcache.contains 66560 && (c.fl.code 66560 == some 66560) &&
      e.eflags.getLsbD 31 && ((e.eflags &&& 0x7FFFFFFF) &&& ~~~c.feats) == 0 && entryLegal e &&
      bundleIssues { c with h := (expand e 0).1 } (expand e 0).2
    ((called.ctx h [0x010C1080, 0x01000000] (called.lenHere 20) 8).map (fun c => c.k.stops.isEmpty && bundleIssues c [0x010C1080, 0x01000000])).getD false && (short.map calls).getD false &&
    (long.map calls).getD false) = true := by decide +kernel

theorem test_wit_RegisterFrame : (at0 plain (fun _ => true) && next (exec (.add 1 2 3) plain) && next (exec (.bfi 0 2 63 0) plain)) = true := by
  decide +kernel

theorem test_wit_FlightFrame : (next (exec (.mul 1 2 3) plain) && next (exec (.vsel 0 1 2 3) plain) &&
    next (exec (.mzero 0 1 1) plain) && next (exec (.nextt 1) plain) && next (exec (.hrd 0 0 0) plain) && next (exec (.crd 0 1 0 0) cells)) = true := by decide +kernel

theorem test_wit_StoreFrame : (next (exec (.stB 1 2 0xFFF) plain) && next (exec (.stD 1 2 0x7FF) plain)) = true := by decide +kernel

/-! ### Landings and the ends of long actions -/

theorem test_wit_LandingsAndEnds :
    (let due (p : Pend) : State := bench (fun k => { k with pend := [p] }) id
     let lands (p : Pend) (c : LandClass) : Bool := at0 (due p) (fun k => k.stops.isEmpty && k.stage.lands && k.nextLanding == some p && decide (p.landClass = c))
     lands (pend .scalar (.reg 63)) .result && lands (pend .head (.bytes [(0, 0)])) .head && lands (pend .mma .none) .matrix &&
     lands { pend .scalar (.reg 2) with replay := true } .replay &&
     at0 (due (pend .scalar (.reg 2))) (fun k => k.arch.raised (pend .scalar (.reg 2)) == 0) &&
     at0 (bench (·.withArch (fun a => { a with fstat := 2 ^ 16 })) id) (fun k => k.arch.raised { pend .scalar (.reg 2) with flags := 1 } != 0) &&
     at0 (stage (.releasing .go)) (fun k => k.stage == .releasing .go && k.held.isEmpty && k.arch.cpos == k.shadow.cpos) &&
     at0 (stage (.frozen .remainder)) (fun k => k.stage == .frozen .remainder)) = true := by decide +kernel

/-- A SOLEND decision at its last cycle: the norm 0 meets the bound 0; a region that has run all its iterations is exhausted; else it goes on. -/
theorem test_wit_LandingsAndEnds_decision :
    (let s (ceiling : Nat) : State := bench (fun k => { k with
       stage := .deciding 1 ⟨[], 0, 0, 16, []⟩ none, history := Mem.empty 0
       arch := { k.arch with solve := { k.arch.solve with active := true, depth := 1, ceiling := ceiling } } }) id
     at0 (s 1) (fun k => k.stage == .deciding 1 ⟨[], 0, 0, 16, []⟩ none && k.arch.cpos == k.shadow.cpos && k.arch.loops.isEmpty)) = true := by decide +kernel

/-- The bench with a record in the stream window of tape 3, and head 3 its consumer. -/
def consumer : State :=
  bench (fun k => { k with arch := { k.arch with heads := k.arch.heads.set 3 ⟨true, 3, 139, 0, [some 0, none, none, none], 0⟩ } })
    (fun s => s.mapRun 1 (fun r => r.setTape ⟨3, [], 1, 0, 0, [(0, [], ⟨0, 0, [], ⟨0, []⟩⟩)], []⟩))

theorem test_wit_FillsAndArrivals :
    (let ext (e : Nat) : State := bench id (fun s => { s with hbm := s.hbm.write (0x20000 + 192) (leBytes 8 e), halls := [⟨0, [], [⟨1, 2, 0, []⟩], 0, 0⟩] })
     let walk (e : Nat) (hole there : Bool) : Bool := job (ext e) (fun _ r fn f =>
       ((ext e).hallAt 0).walks == [⟨r.id, 2, 0, []⟩] && (match (ext e).dir f 2 with
         | none => false
         | some d => holeEntry d ((ext e).extEntry f d 0) == hole && ((ext e).extPlace fn d ((ext e).extEntry f d 0)).isSome == there))
     job (stage (.frozen (.icache 1024))) (fun k _ _ f => k.stage == .frozen (.icache 1024) && f.code 65536 == some 65536 && decide (65536 < hbmSize)) &&
     walk (2 ^ 63 + 2 ^ 10) false true && walk 0 false false && walk (2 ^ 63 + 196608 * 2 ^ 10) true false &&
     job (stage (.frozen (.streamEmpty 3))) (fun _ r _ f => !(stage (.frozen (.streamEmpty 3))).streamReady r f (.streamEmpty 3)) &&
     job (stage (.frozen (.streamFull 3))) (fun _ r _ f => (stage (.frozen (.streamFull 3))).streamReady r f (.streamFull 3)) &&
     job consumer (fun _ r _ f => consumer.streamReady r f (.streamEmpty 3))) = true := by
  decide +kernel

/-- A record on its way, a write on its way to its home, a cell operation, and cell reads that wait. -/
theorem test_wit_FillsAndArrivals_more :
    (let p : Pend := { pend .head (.bytes [(0, 256)]) with need := .record 0 0 1 256 0 none 0 none }
     let s : State := bench (fun k => { k with pend := [p] }) id
     let flying (x : Flying) : State := bench id (fun s => s.mapRun 1 (fun r => { r with flying := [x] }))
     let reads (n : Need) : State := bench (fun k => { k with pend := [{ pend .head (.reg 2) with need := n }] }) id
     job s (fun k r fn f => k.pend.findSome? (fun p => p.wants 0 1) == some (0, 0, none, 0, none) && (match s.dir f 0 with
       | none => false
       | some d => !r.recordInFlight k 0 1 (some 0) && s.extCached 0 r.id 0 (d.extentOf 1) &&
           (s.readRecord r fn f d 0 1 { reached := k.phase, own := 0, floor := k.floor 0 1, bound := some 0, cap := none } []).isSome)) &&
     job (flying (.tape ⟨1, 0, 2, 0, List.replicate 256 0⟩)) (fun _ r _ _ => r.flying == [.tape ⟨1, 0, 2, 0, List.replicate 256 0⟩] &&
       !(flying (.tape ⟨1, 0, 2, 0, List.replicate 256 0⟩)).spilledOn 1 2 0) &&
     job (flying (.cell 1 0 [])) (fun k r _ _ => r.flying == [.cell 1 0 []] && k.pend.isEmpty) &&
     job (reads (.status 0)) (fun k r _ _ => (k.pend.find? (fun p => p.need.cause == .cell)).isSome && r.flying.isEmpty) &&
     job (reads (.cells 0 1 none false [])) (fun k r _ _ => (k.pend.find? (fun p => p.need.cause == .cell)).isSome && r.flying.isEmpty)) = true := by
  decide +kernel

theorem test_wit_Handoffs :
    (let line (l : Line) (f : Core → Core) : State := bench f (fun s => { s with lines := [l] })
     let l : Line := { no := 0, run := 1, node := 0, dom := 0, level := 1, members := [0], raised := [0], carried := [], ended := [], trueTick := none, remote := false }
     let tile (q : TileReq) : State := bench (fun k => { k with tileReq := [q] }) (fun s => s.mapRun 1 (fun r => { r with nodes := r.nodes.map (fun ns => { ns with handed := [] }) }))
     job (stage (.publishing 3)) (fun k r _ _ => k.stage == .publishing 3 && r.flying.isEmpty) &&
     (((line l id).lineAt 0).map (fun l => l.all && l.trueTick.isNone && l.level != 4)).getD false &&
     at0 (line { l with trueTick := some 0 } (fun k => { k with stage := .waitLine 0 })) (fun k => k.stage == .waitLine 0) &&
     decide (12 ≤ ({ line { l with trueTick := some 0 } id with pcyc := 12 } : State).pcyc) &&
     at0 (bench (fun k => { k with stage := .waitEvent true }) (fun s => { s with events := [(0, ⟨0, 0, [], ⟨0, []⟩⟩)] })) (fun k => k.stage == .waitEvent true) &&
     job (tile ⟨0, none⟩) (fun k r _ f => k.asksTile && ((tile ⟨0, none⟩).cores.find? (fun k => dieOf (hallOf k.no) == 0 && k.asksTile) == some k) &&
       (match f.nodes[0]?, r.nodes[0]? with
        | some n, some ns => decide (ns.handed.length < n.tileCount)
        | _, _ => false)) &&
     at0 (tile ⟨0, some (0, 0)⟩) (fun k => k.tileReq == [⟨0, some (0, 0)⟩])) = true := by decide +kernel

/-! ### Jobs -/

/-- The run's node of another kind, ready and not dispatched, and no core at work. -/
def ready (kind : NodeKind) (g : Node → Node) : State :=
  bench id (fun s => { s with
    cores := []
    fns := s.fns.map (fun x => { x with flights := x.flights.map (fun fl => { fl with nodes := fl.nodes.map (fun n => g { n with kind := kind }) }) })
    runs := s.runs.map (fun r => { r with nodes := r.nodes.map (fun ns => { ns with stage := .ready, dispatched := false, handed := [], cores := [] }) }) })

/-- A transform node whose list is tape 0, read-only and of records of 128 bytes. -/
def listed : State :=
  let s := ready .transform (fun n => { n with listTape := 0, nCmd := 1 })
  { s with hbm := s.hbm.write 0x20045 [7, 3] }

theorem test_wit_NodesAndTasks :
    (let goes (kind : NodeKind) : Bool := match (ready kind id).mayDispatch 1 0 with
       | none => false
       | some (_, fn, f, n) => decide (n.kind = kind) && ((ready kind id).nodeFault fn f n).isNone &&
           (kind != .kernel || (f.choose fn n ((ready kind id).freeCores fn)).isSome)
     goes .kernel && goes .conditional && goes .while_ && goes .notify &&
     (match listed.mayDispatch 1 0 with
      | none => false
      | some (_, fn, f, n) => decide (n.kind = .transform) && !listed.listBad fn f n) &&
     (match (ready .kernel (fun n => { n with codeVa := 0x7FFF0000, featReq := 0x100 })).mayDispatch 1 0 with
      | none => false
      | some (_, fn, f, n) => ((ready .kernel (fun n => { n with codeVa := 0x7FFF0000, featReq := 0x100 })).nodeFault fn f n).isSome)) = true := by
  decide +kernel

theorem test_wit_NodesAndTasks_more :
    (let done : State := bench id (fun s => { s with cores := [] })
     let again (h : List Nat) : State := bench (fun k => { k with stage := .idle }) (fun s => s.mapRun 1 (fun r => { r with nodes := r.nodes.map (fun ns => { ns with handed := h }) }))
     let old : State := { ready .kernel (fun n => { n with useClass := true, cls := 1 }) with pcyc := Config.ageing }
     (match done.runAt 1 with
      | none => false
      | some r => decide (r.stage = .active) && r.cut.isNone && (match (done.flightOf r).bind (fun f => f.nodes[0]?), r.nodes[0]? with
          | some n, some ns => ns.stage == .running && done.nodeDone r n ns 0
          | _, _ => false)) &&
     at0 (again []) (fun k => k.stage == .idle && (again []).awake && (again []).handsTiles 1 && (again []).tilesLeft 1 0) &&
     at0 (again [0]) (fun k => k.stage == .idle && !(again [0]).tilesLeft 1 0) && (again []).nodeFeatures 1 0 &&
     (let masked : State := (again []).mapFn 0 (fun x => { x with flights := x.flights.map (fun fl =>
       { fl with nodes := fl.nodes.map (fun n => { n with featReq := 0x100 }) }) })
      masked.tilesLeft 1 0 && !masked.nodeFeatures 1 0) &&
     at0 (stage (.halting 0)) (fun k => k.stage == .halting 0 && k.pend.isEmpty && k.stops.isEmpty) &&
     ((old.runAt 1).map (fun r => old.agesNow r 0)).getD false) = true := by decide +kernel

theorem test_wit_CutsAndTimers :
    (let c : Cut := { reason := .command, step := 2, left := 0, waited := 0, m := 0, s := 0, abandoned := 0, preempts := false }
     let cutting (c : Cut) (f : Core → Core) : State := bench f (fun s => s.mapRun 1 (fun r => { r with cut := some c }))
     let stopped (k : Core) : Core := { k with stops := [.cut] }
     let retry : State := bench id (fun s => s.mapRun 1 (fun r => { r with retryAt := some (0, 1) }))
     (plain.answering 0).isSome && (plain.jcRun 0 0 0).isSome && (plain.jcRun 0 0 1).isNone &&
     job (cutting c stopped) (fun _ _ _ f => (cutting c stopped).allStopped 1 && decide (f.nPkg ≤ 1)) &&
     (let s5 := cutting { c with step := 5 } stopped
      job s5 (fun k r x f => s5.allStopped 1 && k.handlerOf.isNone && s5.contexts.all (fun x => !(x.run == 1 && s5.owes x 0)) && x.roomFor && s5.stampsPast r && decide (f.nPkg ≤ 1))) &&
     ((retry.runAt 1).map Run.retryAt == some (some (0, 1)))) = true := by decide +kernel

/-- A run that a cut has put out can come back; a ready node of class 0 triggers, with a victim and without one; the basin timer. -/
theorem test_wit_CutsAndTimers_more :
    (let out : State := bench id (fun s => { s with cores := [], runs := s.runs.map (fun r => { r with stage := .cutOut }) })
     let waits : State := { ready .kernel (fun n => { n with useClass := true, cls := 0 }) with pcyc := Config.preempt }
     job { out with cores := plain.cores } (fun _ r x f => out.canResume r && out.leads 0 (out.cutKey r) && !out.resumeFault x f r &&
       (f.chooseAll x (r.cutRecords f) (out.freeCores x)).isSome) &&
     ((waits.runAt 1).map (fun r => waits.triggers r 0 && (waits.victim r).isNone)).getD false) = true := by decide +kernel

theorem test_wit_TrapsSettled :
    (let h : HeldTrap := ⟨0, 0x12, 0⟩
     let held : State := bench id (fun s => s.mapRun 1 (fun r => { r with heldTraps := [h] }))
     let t : TrapRec := { tick := 0, src := 0, code := 7, slot := 0, tflags := 0, flight := 0, pc := 0, ckPc := 0, dict := 0, info0 := 0, info1 := 0, node := 0 }
     let waiting : State := bench (fun k => { k with stage := .trapped t [] }) (fun s => s.mapFn 0 (fun x => { x with handlers := [0], traps := [t] }))
     (plain.jcTarget 0 0).isSome && (((plain.jcTarget 0 0).map (plain.settles 0)).getD false) && (((plain.jcTarget 0 0).map (plain.settles 17)) == some false) &&
     (((plain.activeRun 0 0).map Run.oldestHeld) == some none) && (((held.activeRun 0 0).map Run.oldestHeld) == some (some h)) &&
     job waiting (fun k _ x _ => k.stage == .trapped t [] && x.traps[0]? == some t && !(waiting.freeCores x).isEmpty && x.handlers.head? == some 0 && waiting.awake) &&
     ((plain.fnAt 0).bind (fun x => x.flightAt 0)).isSome) = true := by decide +kernel

/-- A job of two packages: its faults and cuts from outside, and a share of a domain of level 4. -/
theorem test_wit_TrapsSettled_more :
    (let s : State := bench id (fun s => { (ready .kernel (fun n => { n with domUse := 1 })) with
       fns := (ready .kernel (fun n => { n with domUse := 1 })).fns.map (fun x => { x with flights := x.flights.map (fun fl => { fl with sysJob := 1, nPkg := 2, dom := [⟨4, 2⟩] }) })
       turn := s.turn })
     ((s.runAt 1).bind s.flightOf).map (fun f => f.sysJob != 0 && decide (1 < f.nPkg) && decide ((f.dom.getD 0 ⟨0, 0⟩).level = 4) &&
       ((f.nodes[0]?).map (fun n => n.domUse.getLsbD 0 && decide (n.kind = .kernel))).getD false) == some true) = true := by decide +kernel

theorem test_wit_Engines :
    (let c (op : Nat) : Command := { num := 1, block := block op, token := none, windows := [], reached := [], collSeq := 0, matched := decide (16 ≤ op), rank := 0, started := false, ready := true, out := [], sources := [], node := 0, flags := 0 }
     let s (op tl : Nat) : State := bench id (fun s => s.mapContext (1 + tl) (fun x => { x with queue := [c op] }))
     let has (op tl : Nat) (coll : Bool) : Bool := (s op tl).enginesRun && !(s op tl).copyBusy 0 && (((s op tl).nextContextOf 0 coll).map (fun x => x.queue.length == 1)).getD false
     has 1 0 false && has 16 4 true && (((s 1 0).contextAt 1).map (fun x => !x.ended && x.core == some 0)).getD false) = true := by decide +kernel

/-! ### The host's side -/

theorem test_wit_HostRegisters :
    (let r : Rec := { tick := 0, src := 0, kind := 0, status := 0, flight := 0, node := 0, hostSeq := 0, slot := 0, detail := 0 }
     let s : State := bench id (fun s => s.mapFn 0 (fun x => { x with cqCtl := 0x80000000, buffer := [r] }))
     (plain.fnAt 0).isSome && !plain.rot.recovery && ((plain.fnAt 0).map (fun x => !x.flCmd.getLsbD 31 && !x.cqCtl.getLsbD 31)).getD false &&
     ((s.fnAt 0).map (fun x => x.ringOpen && x.buffer == [r])).getD false && s.runs.all (fun r => r.stage != .ended)) = true := by decide +kernel

/-- Moderation: records unsignalled since tick 0, and a bound of one microsecond. -/
theorem test_wit_HostRegisters_moderated :
    (let s : State := bench id (fun s => s.mapFn 0 (fun x => { x with cqCtl := 0x80000001, unsignalled := [(0, 1, 0)] }))
     ((s.fnAt 0).map (fun x => (x.moderated 1000000).isSome)).getD false) = true := by decide +kernel

/-- A port that is up, and a flit of each kind for package 1. -/
def up (f : Port → Port) : State := bench id (fun s => { s.mapPort 0 (fun p => f { p with stage := .up }) with sysSelf := 0x80000001 })
def flit (kind : Nat) : List Byte := makeFlit kind 0 0 0xFFF 0 (leBytes 4 1)

theorem test_wit_PeerPorts_flits : flitPasses (flit 1) = true ∧ flitPasses (flit 2) = true ∧ flitPasses (flit 3) = true ∧ flitPasses (flit 4) = true :=
  ⟨makeFlit_passes _ _ _ _ _ _ (by decide) (by decide), makeFlit_passes _ _ _ _ _ _ (by decide) (by decide),
    makeFlit_passes _ _ _ _ _ _ (by decide) (by decide), makeFlit_passes _ _ _ _ _ _ (by decide) (by decide)⟩

/-- In order, for this package; damaged; out of order; a pause to repeat; a silent port. -/
theorem test_wit_PeerPorts : ((up id).ports.length == 16 && [1, 2, 3, 4].all (fun n => flitKind (flit n) == n && flitSeq (flit n) == ((up id).portAt 0).rxSeq) &&
    (up id).sysId == some 1 && leVal ((flitPayload (flit 1)).take 4) % 4096 == 1 && !flitPasses (List.replicate 256 0) &&
    flitSeq (makeFlit 1 0 1 0 0 []) != 0 && ((up (fun p => { p with pauseTx := 1 })).portAt 0).keepaliveDue 64 &&
    ((up id).portAt 0).rxTimedOut 1000000 && decide ((plain.portAt 0).stage = .down)) = true := by decide +kernel

theorem test_wit_PowerAndReset :
    (let pfs : State := bench id (fun s => { s with fns := s.fns ++ s.fns.map (fun x => { x with no := 17 }) })
     let going : State := bench id (fun s => { s with power := { s.power with busy := some (.p1, 8, false) } })
     (plain.fnAt 0).isSome && !plain.rot.recovery && !plain.power.req.getLsbD 31 && plain.power.busy.isNone && (pfs.fnAt 17).isSome && going.powerReady .p1 &&
     going.power.queue.isEmpty) = true := by decide +kernel

theorem test_wit_TrustAndDebug :
    (let asks (kind : Nat) : State := bench id (fun s => s.mapFn 0 (fun x => { x with msgReq := (Mem.empty 0).write 0 (leBytes 2 kind) }))
     let dbg (stops : List StopKind) : State := bench (fun k => { k with stops := stops }) (fun s => { s with rot := { s.rot with session := some ⟨0, true, none⟩ } })
     (List.range 7).all (fun n => ((asks (n + 1)).fnAt 0).map (fun x => decide (x.reqKind = n + 1) && !x.msgGo) == some true) && plain.rot.queue.isEmpty &&
     plain.rot.session.isNone && ((dbg []).fnAt 0).map (fun x => ((dbg []).dbgRefusal x true none).isNone && x.dbgCore == some 0) == some true &&
     ((dbg [.halt]).fnAt 0).map (fun x => ((dbg [.halt]).dbgRefusal x true (some 16)).isNone && ((dbg [.halt]).dbgRefusal x false (some 16)).isNone) == some true &&
     at0 (dbg []) (fun k => !k.standsStill) && at0 (dbg [.cut]) (fun k => k.standsStill && !(dbg [.cut]).cutting k) &&
     at0 (dbg [.halt]) (fun k => k.stops == [.halt] && !k.tokenIn (0, 16))) = true := by decide +kernel

theorem test_wit_ArmsAndFlights :
    (let w : ArmWrite := { arm with flightId := 0, hostSeq := 1 }
     let fl (v : W32) : State := bench id (fun s => s.mapFn 0 (fun x => { x with flCmd := v }))
     !plain.rot.recovery && (plain.fnAt 0).map (fun x => !x.armsHeld && (x.refusal w 0xFFFF).isNone && !resumeBit w && (x.refusal { w with flightId := 9 } 0xFFFF).isSome) == some true && ((fl 0xA0000000).fnAt 0).map Fn.flCmd == some (BitVec.ofNat 32 (2 ^ 31 + 2 * 2 ^ 28 + 0)) &&
     ((plain.fnAt 0).map (fun x => !x.flCmd.getLsbD 31)) == some true) = true := by decide +kernel

/-! ### Further clauses -/

/-- A SYNC bundle that restarts, and a bundle in the loop buffer: the core holds them decoded (R130, R133). -/
theorem test_wit_StepRunsFetched_decoded :
    (let d : Decoded := ⟨65536, 16, soloHdr 7 true, [0x01000000]⟩
     at0 (bench (fun k => { k with stage := .syncIssue, synced := some d }) id) (fun k => k.decodedHere == some d) &&
     at0 (bench (fun k => { k with loopBuf := [d] }) id) (fun k => k.stage == .run && k.decodedHere == some d)) = true := by decide +kernel

/-- Events of the clearing tick stay pending behind a WFE, earlier ones do not (R134, R206). -/
theorem test_wit_CheckpointInstructions_events :
    (let k : Core → Core := fun k => { k with eventFrom := [(3, ⟨5, 0, [], ⟨5, []⟩⟩), (4, ⟨6, 0, [], ⟨6, []⟩⟩)], eventSince := 3 }
     at0 (bench k id) (fun k => (k.takeEvent 4).eventFrom.length == 1 && (k.takeEvent 4).arch.event && !(k.takeEvent 5).arch.event)) = true := by
  decide +kernel

theorem test_wit_LockedOperandTraps_fits : (ctxOf plain (.mstat 0 1 1) (fun c =>
    let p := planOf (.mstat 0 1 1) c
    c.feats.getLsbD p.feature && p.views.all c.k.arch.configured && !p.bad && decide (p.ports ≤ hdrPort c.h c.slot) && p.access.isEmpty &&
    p.feats.all c.feats.getLsbD) && at0 plain (fun k => !(plain.earlierTrap k 0)) && at0 (stage .syncIssue) (fun k => k.stage == .syncIssue)) = true := by
  decide +kernel

theorem test_wit_LandingFrame_more : ({ pend .pred (.pred 7) with val := 1 } : Pend).dest = .pred 7 ∧ (pend .scalar (.mask 3)).dest = .mask 3 ∧
    ({ pend .mma .none with accView := some 55, accClear := true } : Pend).accView = some 55 ∧ 55 < views.length := by decide

/-- What follows a release: a phase, a HALT, a TRAP, a WFE's wait, a decision, a SYNC whose head reads are made or still wait. -/
theorem test_wit_LandingsAndEnds_releases :
    (let ends (a : After) : Bool := at0 (stage (.releasing a)) (fun k => k.stage == .releasing a && k.held.isEmpty && k.arch.cpos == k.shadow.cpos)
     let l : Line := { no := 0, run := 1, node := 0, dom := 0, level := 1, members := [0], raised := [], carried := [], ended := [], trueTick := none, remote := false }
     let sync (p : List Pend) : State := bench (fun k => { k with stage := .releasing (.sync 0), pend := p }) (fun s => { s with lines := [l] })
     [After.phase 0, .phase 3, .halt 0, .trap 0x12 0 65536, .trap 0x11 0 65536, .event, .decide ⟨[], 0, 0, 16, []⟩].all ends &&
     at0 (sync []) (fun k => k.readsHeld) && ((sync []).lineAt 0).isSome &&
     at0 (sync [{ pend .head (.bytes [(0, 256)]) with need := .record 0 0 1 256 0 none 0 none }]) (fun k => !k.readsHeld)) = true := by decide +kernel

/-- Slack bundles in a cut of step 2, and of step 4 at, below and beyond M; a handler task. -/
theorem test_wit_LandingsAndEnds_slack :
    (let c (step m : Nat) : Cut := { reason := .command, step := step, left := 1, waited := 0, m := BitVec.ofNat 64 m, s := 0, abandoned := 0, preempts := false }
     let s (step m : Nat) : State := bench (fun k => { k with stage := .releasing .go, arch := { k.arch with cpos := 5 } })
       (fun s => s.mapRun 1 (fun r => { r with cut := some (c step m) }))
     [(2, 0), (4, 5), (4, 4), (4, 6)].all (fun x => job (s x.1 x.2) (fun k r _ _ => k.arch.cpos != k.shadow.cpos && r.cut == some (c x.1 x.2) && k.handlerOf.isNone)) &&
     at0 (bench (fun k => { k with handlerOf := some 1 }) id) (fun k => k.handlerOf.isSome)) = true := by decide +kernel

/-- A decision inside a loop that a trap of its window waits for. -/
theorem test_wit_LandingsAndEnds_in_loop :
    (let t : TrapInfo := ⟨0x0F, 2, 0, 0, 65536, []⟩
     let d : Decision := ⟨[], 0, 0, 16, []⟩
     at0 (bench (fun k => { k with stage := .deciding 1 d (some t), arch := { k.arch with loops := [⟨65536, 2, 0, .plain, 0, 0⟩] } }) id)
       (fun k => k.stage == .deciding 1 d (some t) && k.arch.cpos == k.shadow.cpos && k.arch.loops.all (fun e => e.kind == .plain))) = true := by decide +kernel

/-- A phase that releases cell adds; a WFE behind its release; a level-4 line before and after its own AND; an event of another package. -/
theorem test_wit_Handoffs_commit :
    (let s := bench id (fun s => s.mapRun 1 (fun r => { r with widNodes := [(5, 0)], gained := [(0, [6])] }))
     let t := s.closeNode 1 0 true
     (s.runAt 1).isSome && ((t.runAt 1).map Run.committedWrites) == some [5, 6]) = true := by decide +kernel

theorem test_wit_Handoffs_more :
    (let l : Line := { no := 0, run := 1, node := 0, dom := 0, level := 4, members := [0], raised := [], carried := [], ended := [], trueTick := none, remote := false }
     let far : State := bench (fun k => { k with dom := [BitVec.ofNat 32 (4 * 2 ^ 29 + 2 ^ 28), 0, 0, 0] })
       (fun s => s.mapFn 0 (fun x => { x with flights := x.flights.map (fun fl => { fl with nPkg := 2, sysJob := 1 }) }))
     job (bench (fun k => { k with stage := .publishing 0, cellAdds := [1], reached := [1] }) id) (fun k r _ _ =>
       k.stage == .publishing 0 && !r.reachedFlying k && k.readsHeld && k.windowRecords.isEmpty) &&
     at0 (stage (.releasing .event)) (fun k => k.stage == .releasing .event) &&
     ((bench id (fun s => { s with lines := [{ l with trueTick := some 0 }] }) : State).lineAt 0 == some { l with trueTick := some 0 }) &&
     ((bench id (fun s => { s with lines := [l] }) : State).lineAt 0 == some l) &&
     at0 far (fun k => far.farMember k) && far.events.isEmpty) = true := by decide +kernel

/-- A cut out of time: complete, and short of its stop for a pre-emption, a repeated one and a command. -/
theorem test_wit_CutsAndTimers_timeout :
    (let c (r : CutReason) (n : Nat) : Cut := { reason := r, step := 5, left := 0, waited := 0, m := 0, s := 0, abandoned := n, preempts := r == .preempt }
     let s (r : CutReason) (n : Nat) (st : List StopKind) : State := bench (fun k => { k with stops := st }) (fun s => s.mapRun 1 (fun x => { x with cut := some (c r n) }))
     job (s .command 0 [.cut]) (fun _ r _ _ => (s .command 0 [.cut]).cutComplete r (c .command 0)) &&
     [(CutReason.preempt, 0), (.preempt, 1), (.command, 0)].all (fun x => job (s x.1 x.2 []) (fun _ r _ _ => !(s x.1 x.2 []).cutComplete r (c x.1 x.2)))) = true := by
  decide +kernel

/-- Held traps whose record has its place, and one whose record waits (R60); a share of a placed node, and one that must wait. -/
theorem test_wit_TrapsSettled_shares :
    (let h : HeldTrap := ⟨0, 0x12, 0⟩
     let held : State := bench id (fun s => s.mapRun 1 (fun r => { r with heldTraps := [h] }))
     let base := ready .kernel (fun n => { n with domUse := 1 })
     let placed (c : Option Cut) : State := { base with
       runs := base.runs.map (fun r => { r with cut := c, nodes := r.nodes.map (fun ns => { ns with stage := .running, placing := some [0], cores := [0] }) }) }
     job held (fun _ r _ _ => held.heldSaid r == [h]) && base.awake &&
     (((placed none).runAt 1).bind (fun r => r.nodes[0]?)).map NodeState.placing == some (some [0]) && (placed none).awake &&
     (placed none).nodeFeatures 1 0) = true := by
  decide +kernel

/-- An abandoned cut whose time has come while another cut for pre-emption is in progress in its function. -/
theorem test_wit_CutsAndTimers_preempting :
    (let c : Cut := { reason := .command, step := 2, left := 9, waited := 0, m := 0, s := 0, abandoned := 0, preempts := true }
     let s : State := bench id (fun s => { s with runs := s.runs.map (fun r => { r with retryAt := some (0, 1) }) ++ s.runs.map (fun r => { r with id := 2, cut := some c }) })
     job s (fun _ r _ _ => r.retryAt == some (0, 1) && s.preempting 1)) = true := by decide +kernel

/-- A collective whose match is yet to come is served in its turn (R216). -/
theorem test_wit_Engines_unmatched :
    (let c : Command := { num := 1, block := block 16, token := none, windows := [], reached := [], collSeq := 0, matched := false, rank := 0, started := false, ready := false, out := [], sources := [], node := 0, flags := 0 }
     let s : State := bench id (fun s => s.mapContext 5 (fun x => { x with queue := [c] }))
     ((s.nextContextOf 0 true).map (fun x => x.queue == [c])).getD false) = true := by decide +kernel

theorem test_wit_Engines_complete :
    (let c : Command := { num := 1, block := block 1, token := none, windows := [], reached := [], collSeq := 0, matched := false, rank := 0, started := true, ready := true, out := [(0, [7])], sources := [], node := 0, flags := 0 }
     let s : State := bench (fun k => { k with tokens := [(5, 0, some 1)] }) (fun s => s.mapContext 1 (fun x => { x with queue := [c] }))
     ((s.contextAt 1).map (fun x => x.queue == [c] && !x.ended && x.tl == 0 && x.core == some 0)).getD false && c.ready && c.sources.isEmpty &&
     at0 s (fun k => k.run == 1 && k.tokens == [(5, 0, some c.num)])) = true := by decide +kernel

/-- A buffer that a waiting record fills again; a record counted at every one. -/
theorem test_wit_HostRegisters_waiting :
    (let r : Rec := { tick := 0, src := 0, kind := 0, status := 0, flight := 0, node := 0, hostSeq := 0, slot := 0, detail := 0 }
     let s : State := bench id (fun s => s.mapFn 0 (fun x => { x with cqCtl := 0x80000000, buffer := List.replicate 256 r, waiting := [r] }))
     ((s.fnAt 0).map (fun x => x.ringOpen && x.buffer.length == 256 && x.waiting == [r])).getD false && (s.answering 0).isSome && !(0x60000 ≤ 0x10008 : Bool)) = true := by
  decide +kernel

/-- A flit that is replayed, and a replay request that waits behind it. -/
theorem test_wit_PeerPorts_replay :
    (let t : Transfer := { kind := 1, lane := 0, seq := 0, payload := [], tries := 0, owner := none }
     ((up (fun p => { p with replaying := [t] })).portAt 0).replaying == [t] && 
     (let p := (up (fun p => { p with txQueue := [t] })).portAt 0; p.replaying == [] && !p.asking && p.txQueue.all (fun t => t.kind == 1) && p.sends true) &&
     ((up (fun p => { p with asking := true })).portAt 0).asking &&
     ((up id).portAt 0).replaying.isEmpty && !((up id).portAt 0).discarding) = true := by decide +kernel

/-- Package reset with no region written, the first of the cases; a request in progress; a management sample between the bounds of each test. -/
theorem test_wit_PowerAndReset_more :
    ((plain.rot.dark.load.accept).2.isNone && ({ plain with power := { plain.power with req := 0x80000000 } } : State).power.req.getLsbD 31 &&
    (plain.answering 0).isSome && [110].any (fun x => decide (110 ≤ x)) && [109, 100].all (fun x => decide (x < 110)) && decide (2800000 < 2800001)) = true := by
  decide +kernel

/-- A queue of two requests with the first one's answer; a read of a parked core; a core with no task. -/
theorem test_wit_TrustAndDebug_queue :
    (let s : State := bench id (fun s => { s with rot := { s.rot with queue := [0, 17], answer := some (0, []) } })
     let idle : State := bench id (fun s => { s with cores := [], parked := s.cores.map Core.park, rot := { s.rot with session := some ⟨0, true, none⟩ } })
     s.rot.queue == [0, 17] && s.rot.answer == some (0, []) && (s.bar0 0).isSome && (idle.coreAt 0).isNone && (idle.idleCore 0).stage == .idle &&
     ((idle.fnAt 0).map (fun x => (idle.dbgRefusal x true none).isNone && x.dbgCore == some 0 && (idle.dbgRefusal x false (some 16)).isNone)).getD false &&
     (idle.dbgTarget 0).isSome) = true := by decide +kernel

/-- Each test of Table 3.4 decides at its place; a resume arm of a faulted run; a full queue. -/
theorem test_wit_ArmsAndFlights_refusals :
    (let w : ArmWrite := { arm with flightId := 0, hostSeq := 1 }
     let kept : State := bench id (fun s => s.mapFn 0 (fun x => { x with flights := x.flights.map (fun fl =>
       { fl with kept := some ⟨1, w, 0, 1, 0, [⟨0, [], [], [], [], [], [], false⟩], [], [], []⟩ }) }))
     let full : State := bench id (fun s => s.mapFn 0 (fun x => { x with flights := x.flights.map (fun fl => { fl with queue := List.replicate 16 (0, w) }) }))
     (plain.fnAt 0).map (fun x => x.link == w.link && [(w, none), ({ w with whole := false }, some 1), ({ w with reserved := 1 }, some 2), ({ w with nArg := 13 }, some 2),
       ({ w with flags := 16 }, some 2), ({ w with flightId := 1024 }, some 2), ({ w with hostSeq := 0 }, some 3), ({ w with flightId := 9 }, some 4),
       ({ w with flags := 8 }, some 5)].all (fun y => x.refusal y.1 0xFFFF == y.2) && x.refusal w 7 == some 5) == some true &&
     ((kept.fnAt 0).map (fun x => resumeBit { w with flags := 8 } && x.refusal { w with flags := 8 } 0 == none)) == some true &&
     ((full.fnAt 0).map (fun x => x.refusal w 0xFFFF)) == some (some 6)) = true := by decide +kernel

/-- Results in flight of each destination that LandingFrame names. -/
theorem test_wit_LandingFrame : (pend .scalar (.reg 1)).dest = .reg 1 ∧ (pend .scalar (.reg 0)).dest = .reg 0 ∧
    ({ pend .vector (.bytes [(5, 1)]) with data := [9] } : Pend).data.length = 1 ∧ (pend .scalar (.reg 1)).accView ≠ some 48 ∧
    (pend .scalar (.reg 1)).preCk = false ∧ (pend .scalar (.reg 1)).spent = false ∧
    ({ pend .scalar (.reg 1) with spent := true } : Pend).spent = true := by decide

/-! ## Results of single steps, calculated by hand from the spec -/

/-- What core 0 holds after an instruction, and the oldest result in flight. -/
def after (i : Instr) (s : State) (p : Core → Bool) : Bool := match exec i s with
  | .next t => at0 t p
  | _ => false
def flies (i : Instr) (s : State) (p : Pend → Bool) : Bool := after i s (fun k => (k.pend.head?.map p).getD false)
def regs (l : List (Nat × W64)) : State := withArch (fun a => l.foldl (fun a x => a.setReg x.1 x.2) a)
/-- The value that an integer instruction of latency 1 writes to s1, and the one that a longer one brings there. -/
def gives (i : Instr) (l : List (Nat × W64)) (v : W64) : Bool := after i (regs l) (fun k => k.arch.reg 1 == v)
def brings (i : Instr) (l : List (Nat × W64)) (v : W64) : Bool := flies i (regs l) (fun p => p.dest == .reg 1 && p.val == v)

/-- Table 15.1: sums wrap, shifts take six bits, SAR keeps the sign. -/
theorem test_add_wraps : gives (.add 1 2 3) [(2, 0xFFFFFFFFFFFFFFFF), (3, 2)] 1 = true := by decide
theorem test_sub_order : gives (.sub 1 2 3) [(2, 5), (3, 7)] 0xFFFFFFFFFFFFFFFE = true := by decide
theorem test_addi_sign_extends : gives (.addi 1 2 0xFFF) [(2, 0)] 0xFFFFFFFFFFFFFFFF = true := by decide
theorem test_shl_six_bits : gives (.shl 1 2 3) [(2, 3), (3, 65)] 6 = true := by decide
theorem test_sar_sign : gives (.sar 1 2 3) [(2, 0x8000000000000000), (3, 63)] 0xFFFFFFFFFFFFFFFF = true := by decide
theorem test_mulh_signed : brings (.mulh 1 2 3) [(2, 0xFFFFFFFFFFFFFFFF), (3, 2)] 0xFFFFFFFFFFFFFFFF = true := by decide
theorem test_mulhu_unsigned : brings (.mulhu 1 2 3) [(2, 0xFFFFFFFFFFFFFFFF), (3, 2)] 1 = true := by decide
theorem test_divu_by_zero : brings (.divu 1 2 3) [(2, 9), (3, 0)] 0xFFFFFFFFFFFFFFFF = true := by decide
theorem test_remu_by_zero : brings (.remu 1 2 3) [(2, 9), (3, 0)] 9 = true := by decide
theorem test_clz_zero : gives (.clz 1 2) [(2, 0)] 64 = true := by decide
theorem test_bfx_field : gives (.bfx 1 2 8 7) [(2, 0x12345)] 0x23 = true := by decide
theorem test_bfi_field : gives (.bfi 1 2 8 7) [(1, 0xFFFFF), (2, 0x11)] 0xF11FF = true := by decide
theorem test_movhi_shifts : gives (.movhi 1 0x24000) [(1, 0x10)] 0x424000 = true := by decide
theorem test_min_signed : gives (.min 1 2 3) [(2, 0xFFFFFFFFFFFFFFFF), (3, 1)] 0xFFFFFFFFFFFFFFFF = true := by decide
theorem test_minu_unsigned : gives (.minu 1 2 3) [(2, 0xFFFFFFFFFFFFFFFF), (3, 1)] 1 = true := by decide
theorem test_sel_polarity : gives (.sel 1 2 3 0 1) [(2, 7), (3, 8)] 8 = true := by decide

/-- A register written at s0 stays zero (R115). -/
theorem test_s0_reads_zero : (after (.add 0 2 3) (regs [(2, 1), (3, 1)]) (fun k => k.arch.reg 0 == 0) &&
    after (.mul 0 2 3) (regs [(2, 1), (3, 1)]) (fun k => k.pend.all (fun p => (k.landed p).arch.reg 0 == 0))) = true := by decide

/-- R277: a store writes little-endian bytes, and the address is aligned down. -/
theorem test_store_bytes : after (.stW 1 2 0) (regs [(1, 0x11223344), (2, 0x102)])
    (fun k => k.scratch.bytes 0x100 4 == [0x44, 0x33, 0x22, 0x11]) = true := by decide +kernel

/-- FP32: 1 + 2 is 3; a multiplication beyond the range overflows and is inexact; 0 · ∞ is invalid and gives the canonical NaN (R192, R184). -/
theorem test_fadd : flies (.faddS 1 2 3 0) (regs [(2, 0x3F800000), (3, 0x40000000)]) (fun p => p.val == 0x40400000 && p.flags == 0) = true := by decide +kernel
theorem test_fmul_invalid : flies (.fmulS 1 2 3 0) (regs [(2, 0), (3, 0x7F800000)]) (fun p => p.val == 0x7FC00000 && p.flags.getLsbD 2) = true := by
  decide +kernel

/-- A NaN addend yields NaN without the invalid flag, 0 · ∞ or not (R183). -/
theorem test_ffma_nan_addend : flies (.ffmaS 1 2 3 0) (regs [(1, 0x7FC00000), (2, 0), (3, 0x7F800000)])
    (fun p => p.val == 0x7FC00000 && !p.flags.getLsbD 2) = true := by decide +kernel

/-- The bench with v1 holding these 32-bit lanes first. -/
def lanes (l : List Nat) : State :=
  bench (fun k => { k with gallery := (Mem.empty 0).write 147456 (l.flatMap (leBytes 4)) }) id

/-- The worked example after R189: 2.5, −0.7, 5.0, 0.3, −11.0 and 1.25 quantised to E2M1X, in the layout of R314. -/
theorem test_vqnt_worked_example : flies (.vqnt 0 1 0 5) (lanes [0x40200000, 0xBF333333, 0x40A00000, 0x3E99999A, 0xC1300000, 0x3FA00000])
    (fun p => p.data.take 24 == [2, 0, 0x80, 0x42, 9, 0, 0, 0, 8, 0, 0, 0, 0, 0, 0, 0, 0xF, 0, 0, 0, 1, 0, 0, 0]) = true := by decide +kernel

/-- And decoded: 2.0, −1.0, 5.0, 0, −12.0, 1.0. -/
theorem test_vdqnt_worked_example : flies (.vdqnt 0 1 ⟨0, 5⟩) (lanes [0x42800002, 9, 8, 0, 0xF, 1])
    (fun p => p.data.take 24 == [0x40000000, 0xBF800000, 0x40A00000, 0, 0xC1400000, 0x3F800000].flatMap (leBytes 4)) = true := by decide +kernel

/-- R189: a block with a NaN raises the invalid flag, and is inexact where another element is none. -/
theorem test_vqnt_nan_block : flies (.vqnt 0 1 0 5) (lanes [0x7FC00000, 0x3F800000])
    (fun p => p.flags.getLsbD 2 && p.flags.getLsbD 4) = true := by decide +kernel

/-- R141: MLOAD and a plain MZERO replace an accumulator whole and leave its status word; they read neither. -/
theorem test_mzero_leaves_status : ctxOf plain (.mzero 0 0 0) (fun c =>
    !((planOf (.mzero 0 0 0) c).reads ++ (planOf (.mzero 0 0 0) c).writes).contains (.status 48) &&
    (planOf (.mzero 0 0 1) c).writes.contains (.status 48) && !(planOf (.mload 0 0 0 0 0) c).reads.contains (.status 48)) = true := by decide +kernel

/-- R109: a fault of the job ends a trap that is still in its rollback, with its record kept. -/
theorem test_fault_records_open_trap :
    (((stage (.trapping ⟨0x11, 7, 0, 0, 65536, []⟩ 65536 0)).faultRun 1 0x31).fnAt 0).map (fun f => f.traps.map TrapRec.code) = some [0x11] := by
  decide +kernel

end Sys2Proof.Tests
end

section
/-! SUPPORT. The release of held work and the issue of a bundle keep the form of the memories and ports. -/

namespace Sys2Proof.Machine

/-! ## Shared steps -/

theorem form_ite {p : Prop} [Decidable p] {s t : State} (hs : s.Inv) (ht : t.Inv) : State.Inv (if p then s else t) := by
  split
  · exact hs
  · exact ht

/-! ## The release of held work -/

/-- What a released entry ends in keeps the form. -/
def Released.KeepsForm : Released → Prop
  | .done s _ => s.Inv
  | _ => True

theorem State.releaseOne_keepsForm (s : State) (k : Core) (x : Held) (h : s.Inv) : (s.releaseOne k x).KeepsForm := by
  have hw := s.newWrite_form k h
  unfold State.releaseOne
  split
  · exact h
  split
  · exact h
  cases x with
  | rewrite t rec_ data => exact State.mapRun_form _ _ _ hw
  | overtaken t rec_ data => exact State.mapRun_form _ _ _ hw
  | append t n data =>
    dsimp only
    split
    · trivial
    · exact State.mapRun_form _ _ _ hw
  | streamAppend t data =>
    dsimp only
    split
    · trivial
    · refine State.mapRun_form _ _ _ ?_
      split
      · exact State.ringStore_form _ _ _ _ _ _ _ h
      · exact h
  | cellAdd array cell bf lanes => exact State.mapRun_form _ _ _ hw
  | cellClear array cell n => exact State.mapRun_form _ _ _ hw
  | cellConfig array desc =>
    dsimp only
    split
    · trivial
    · split
      · trivial
      · exact State.takeSlots_form _ _ _ _ _ _ h _ ‹_›
  | command tl block token =>
    dsimp only
    split
    · exact h
    · split
      · trivial
      · exact State.mapContext_form _ _ _ h
  | flsig op w v => exact State.mapRun_form _ _ _ h
  | event d =>
    dsimp only
    split
    · trivial
    · split
      · split
        · trivial
        · exact State.tell_form _ _ _ h
      · exact h
  | report code v =>
    dsimp only
    split
    · trivial
    · exact State.post_form _ _ _ h

theorem State.releaseAll_form (l : List Held) (s : State) (k : Core) (h : s.Inv) : (s.releaseAll k l).1.Inv := by
  induction l generalizing s k with
  | nil => exact h
  | cons x rest ih =>
    have hx := s.releaseOne_keepsForm k x h
    unfold State.releaseAll
    split
    · rename_i t k' e
      rw [e] at hx
      exact ih _ _ hx
    · exact h
    · exact h

theorem State.released_form (s : State) (k : Core) (after : After) (h : s.Inv) : (s.released k after).Inv := by
  have slack (t : State) (p : Prop) [Decidable p] (c : Nat) (ht : t.Inv) : State.Inv (if p then t else t.slackPassed c) :=
    form_ite ht (State.slackPassed_form _ _ ht)
  have stream := State.mapRun_form s k.run (fun r => r.streamCheckpoint k) h
  unfold State.released
  cases after with
  | sync line =>
    dsimp only
    split
    · exact State.raise_form _ _ _ h
    · exact State.setCore_form _ _ h
  | decide d => exact State.setCore_form _ _ h
  | halt s1 => exact State.setCore_form _ _ stream
  | trap code info0 pc => exact slack _ _ _ (State.setCore_form _ _ stream)
  | event => exact slack _ _ _ (State.setCore_form _ _ stream)
  | phase scope => exact slack _ _ _ (State.setCore_form _ _ stream)
  | go => exact slack _ _ _ (State.setCore_form _ _ stream)

theorem State.release_form (s : State) (k : Core) (after : After) (h : s.Inv) : (s.release k after).Inv := by
  have hr := State.releaseAll_form k.held s k h
  unfold State.release
  split
  · rename_i t k' cause e
    rw [e] at hr
    exact State.faultRun_form _ _ _ (State.setCore_form _ _ hr)
  · rename_i t k' e
    rw [e] at hr
    split
    · exact State.released_form _ _ _ hr
    · exact State.setCore_form _ _ hr

/-! ## The issue of a bundle -/

/-- What a plan does outside its core keeps the form. -/
structure Plan.KeepsForm (p : Plan) : Prop where
  starts : ∀ s : State, s.Inv → (p.starts s).Inv
  glob : ∀ s : State, s.Inv → (p.glob s).Inv

/-- Every slot's plan keeps the form, wherever it stands. -/
def PlansKeep (ps : List (Nat × Plan)) : Prop := ∀ p ∈ ps, p.2.KeepsForm

theorem Ctx.beside_keepsForm (c : Ctx) (seen : List Plan) (p : Plan) (hp : p.KeepsForm) : (c.beside seen p).KeepsForm := by
  unfold Ctx.beside
  dsimp only
  split
  · exact hp
  · exact ⟨hp.starts, hp.glob⟩

theorem Ctx.besides_keep (c : Ctx) (ps : List (Nat × Plan)) (seen : List Plan) (h : PlansKeep ps) : PlansKeep (c.besides seen ps) := by
  induction ps generalizing seen with
  | nil => cases seen <;> exact h
  | cons p rest ih =>
    have hrest (seen : List Plan) : PlansKeep (c.besides seen rest) := ih seen (fun q hq => h q (List.mem_cons_of_mem _ hq))
    have hp : p.2.KeepsForm := h p List.mem_cons_self
    intro q hq
    cases seen with
    | nil =>
      rcases List.mem_cons.mp hq with rfl | hq
      · exact hp
      · exact hrest _ q hq
    | cons x xs =>
      rcases List.mem_cons.mp hq with rfl | hq
      · exact c.beside_keepsForm _ _ hp
      · exact hrest _ q hq

/-- Every slot of the bundle has a plan that keeps the form. -/
def Bundle.KeepsForm (b : Bundle) : Prop := ∀ x ∈ b.slots, ∀ c : Ctx, (x.2 c).KeepsForm

theorem Ctx.plans_keep (c : Ctx) (b : Bundle) (hb : b.KeepsForm) : PlansKeep (c.plans b) := by
  refine c.besides_keep _ _ (fun p hp => ?_)
  obtain ⟨x, hx, rfl⟩ := List.mem_map.mp hp
  exact hb x (List.mem_filter.mp hx).1 _

theorem starts_form (ps : List (Nat × Plan)) (s : State) (h : s.Inv) (hps : PlansKeep ps) :
    (ps.foldl (fun s p => p.2.starts s) s).Inv := by
  induction ps generalizing s with
  | nil => exact h
  | cons p rest ih => exact ih _ ((hps p List.mem_cons_self).starts s h) (fun q hq => hps q (List.mem_cons_of_mem _ hq))

theorem Ctx.started_form (c : Ctx) (ps : List (Nat × Plan)) (h : c.st.Inv) (hps : PlansKeep ps) : (c.started ps).Inv := by
  unfold Ctx.started
  split
  · exact h
  · exact starts_form ps c.st h hps

theorem globs_form (ps : List (Nat × Plan)) (s : State) (h : s.Inv) (hps : PlansKeep ps) :
    (ps.foldl (fun s p => p.2.glob s) s).Inv := by
  induction ps generalizing s with
  | nil => exact h
  | cons p rest ih => exact ih _ ((hps p List.mem_cons_self).glob s h) (fun q hq => hps q (List.mem_cons_of_mem _ hq))

theorem Ctx.issue_form (c : Ctx) (b : Bundle) (h : c.st.Inv) (hb : b.KeepsForm) : (c.issue b).Inv := by
  have hps := c.plans_keep b hb
  unfold Ctx.issue
  dsimp only
  split
  · exact State.trap_form _ _ _ h
  · exact State.endTurn_form _ (State.setCore_form _ _ (c.started_form _ h hps))
  · split
    · exact State.endTurn_form _ (State.release_form _ _ _ h)
    · refine State.endTurn_form _ ?_
      have hg := globs_form _ _ (State.setCore_form _ (c.issued b (c.plans b)) h) hps
      split
      · split
        · exact State.release_form _ _ _ hg
        · exact hg
      · exact hg

end Sys2Proof.Machine
end

section
/-! SUPPORT. Every slot instruction's plan keeps the form, and so do bundles and calls. -/

namespace Sys2Proof.Machine

/-! ## The plans of the slot instructions -/

/-- A plan without an effect outside its core keeps the form. -/
theorem Plan.KeepsForm.of_id {p : Plan} (hs : p.starts = id) (hg : p.glob = id) : p.KeepsForm := by
  refine ⟨fun s h => ?_, fun s h => ?_⟩
  · rw [hs]; exact h
  · rw [hg]; exact h

theorem Plan.KeepsForm.ite {b : Prop} [Decidable b] {p q : Plan} (hp : p.KeepsForm) (hq : q.KeepsForm) :
    Plan.KeepsForm (if b then p else q) := by
  split
  · exact hp
  · exact hq

theorem Plan.and_keepsForm {p q : Plan} (hp : p.KeepsForm) (hq : q.KeepsForm) : (p.and q).KeepsForm := by
  unfold Plan.and
  split
  · exact hp
  · exact ⟨hq.starts, fun s h => hq.glob _ (hp.glob s h)⟩

theorem Plan.rounding_keepsForm {p : Plan} (hp : p.KeepsForm) (sr : Bool) : (p.rounding sr).KeepsForm := ⟨hp.starts, hp.glob⟩

theorem vecPlan_keepsForm (c : Ctx) (l : Nat) (srcs regs masks : List Nat) (d : Nat) (m : W64) (ws : List Nat) (fl : Flags) :
    (vecPlan c l srcs regs masks d m ws fl).KeepsForm := .of_id rfl rfl

theorem maskPlan_keepsForm (c : Ctx) (srcs regs masks : List Nat) (e : Nat) (v : W64) :
    (maskPlan c srcs regs masks e v).KeepsForm := .of_id rfl rfl

/-! ### Vector instructions -/

theorem arith2_keepsForm (c : Ctx) (l d x y q m f : Nat) (z : Bool) (fv : Val → Val → Bool → XRes) (fi : Int → Int → Int) :
    (arith2 c l d x y q m f z fv fi).KeepsForm := by
  unfold arith2
  exact .ite (.of_id rfl rfl) (Plan.rounding_keepsForm (vecPlan_keepsForm ..) _)

theorem arith1_keepsForm (c : Ctx) (d x q m f : Nat) (fv : Val → Val) (fi : Int → Int) : (arith1 c d x q m f fv fi).KeepsForm := by
  unfold arith1
  exact .ite (.of_id rfl rfl) (Plan.rounding_keepsForm (vecPlan_keepsForm ..) _)

theorem fmaPlan_keepsForm (c : Ctx) (d x y z f : Nat) (negate : Bool) : (fmaPlan c d x y z f negate).KeepsForm := by
  unfold fmaPlan
  exact .ite (.of_id rfl rfl) (Plan.rounding_keepsForm (vecPlan_keepsForm ..) _)

theorem Plan.zeroMode_keepsForm {p : Plan} (hp : p.KeepsForm) (m : BitVec 3) : (p.zeroMode m).KeepsForm := by
  unfold Plan.zeroMode
  split
  · exact hp
  · exact ⟨hp.starts, hp.glob⟩

theorem shiftPlan_keepsForm (c : Ctx) (d x y q f : Nat) (op : Nat → Nat → Nat → Nat) : (shiftPlan c d x y q f op).KeepsForm := by
  unfold shiftPlan
  exact .ite (.of_id rfl rfl) (vecPlan_keepsForm ..)

theorem planVaddSr_keepsForm (d a b : BitVec 5) (q : BitVec 2) (m : BitVec 3) (f : BitVec 4) (c : Ctx) :
    (planVaddSr d a b q m f c).KeepsForm := by
  unfold planVaddSr
  exact .ite (.of_id rfl rfl) (.of_id rfl rfl)

theorem planVcmpCc_keepsForm (cc : BitVec 4) (e : BitVec 2) (a b : BitVec 5) (q : BitVec 2) (m : BitVec 3) (f : BitVec 4) (c : Ctx) :
    (planVcmpCc cc e a b q m f c).KeepsForm := by
  unfold planVcmpCc
  exact .ite (.of_id rfl rfl) (maskPlan_keepsForm ..)

theorem planVcvt_keepsForm (d a : BitVec 5) (t : BitVec 4) (u : BitVec 1) (q : BitVec 2) (m : BitVec 3) (f : BitVec 4) (c : Ctx) :
    (planVcvt d a t u q m f c).KeepsForm := by
  unfold planVcvt
  exact .ite (.of_id rfl rfl) (Plan.rounding_keepsForm (vecPlan_keepsForm ..) _)

theorem planVqnt_keepsForm (d a : BitVec 5) (m : BitVec 3) (f : BitVec 4) (c : Ctx) : (planVqnt d a m f c).KeepsForm := by
  unfold planVqnt
  exact .ite (.of_id rfl rfl) (.of_id rfl rfl)

theorem planVdqnt_keepsForm (d a : BitVec 5) (m : BitVec 3) (f : BitVec 4) (c : Ctx) : (planVdqnt d a m f c).KeepsForm := by
  unfold planVdqnt
  exact .ite (.of_id rfl rfl) (.of_id rfl rfl)

theorem planVredsum_keepsForm (d a : BitVec 5) (q : BitVec 2) (m : BitVec 3) (f : BitVec 4) (c : Ctx) :
    (planVredsum d a q m f c).KeepsForm := by
  unfold planVredsum
  exact .ite (.of_id rfl rfl) (.of_id rfl rfl)

theorem planVredmax_keepsForm (d a : BitVec 5) (q : BitVec 2) (m : BitVec 3) (f : BitVec 4) (c : Ctx) :
    (planVredmax d a q m f c).KeepsForm := by
  unfold planVredmax
  exact .ite (.of_id rfl rfl) (.of_id rfl rfl)

theorem planVextr_keepsForm (d a b : BitVec 5) (m : BitVec 3) (f : BitVec 4) (c : Ctx) : (planVextr d a b m f c).KeepsForm := by
  unfold planVextr
  exact .ite (.of_id rfl rfl) (.of_id rfl rfl)

theorem sliceLoad_keepsForm (c : Ctx) (d tv b q f : Nat) (col : Bool) : (sliceLoad c d tv b q f col).KeepsForm := by
  unfold sliceLoad
  exact .ite (.of_id rfl rfl) (.of_id rfl rfl)

theorem sliceStore_keepsForm (c : Ctx) (v tv b q f : Nat) (col : Bool) : (sliceStore c v tv b q f col).KeepsForm := by
  unfold sliceStore
  exact .ite (.of_id rfl rfl) (.of_id rfl rfl)

/-! ### Matrix instructions -/

theorem mmaBody_keepsForm (c : Ctx) {base : Plan} (h : base.KeepsForm) (v b kk : Nat) (ints clear : Bool) (as bs : List (List Val)) :
    (mmaBody c base v b kk ints clear as bs).KeepsForm := ⟨h.starts, h.glob⟩

theorem mmaTiles_keepsForm (c : Ctx) (v ta tb : Nat) (n : BitVec 5) (f : Nat) (xa xb clear scaled : Bool) :
    (mmaTiles c v ta tb n f xa xb clear scaled).KeepsForm := by
  unfold mmaTiles
  refine .ite (.of_id rfl rfl) (mmaBody_keepsForm c (.of_id rfl rfl) ..)

theorem mmaStreamed_keepsForm (c : Ctx) (v hn tb : Nat) (n : BitVec 5) (f : Nat) (xb clear : Bool) :
    (mmaStreamed c v hn tb n f xb clear).KeepsForm := by
  unfold mmaStreamed
  dsimp only
  split
  · exact .of_id rfl rfl
  split
  · exact .of_id rfl rfl
  split
  · exact .of_id rfl rfl
  split
  · exact .of_id rfl rfl
  split
  · exact .of_id rfl rfl
  · exact mmaBody_keepsForm c (.of_id rfl rfl) ..

theorem tileIntoAcc_keepsForm (c : Ctx) (v t : Nat) (n : BitVec 5) (f : Nat) (transposed add : Bool) :
    (tileIntoAcc c v t n f transposed add).KeepsForm := by
  unfold tileIntoAcc
  dsimp only
  split
  · exact .of_id rfl rfl
  · split <;> exact .of_id rfl rfl

theorem drainPlan_keepsForm (c : Ctx) (v t : Nat) (n : BitVec 5) (f : Nat) (transposed sat clear : Bool) :
    (drainPlan c v t n f transposed sat clear).KeepsForm := by
  unfold drainPlan
  exact .ite (.of_id rfl rfl) (.of_id rfl rfl)

/-! ### Control and the timeline -/

theorem targetPlan_keepsForm (c : Ctx) (n : Nat) : (targetPlan c n).KeepsForm := by
  unfold targetPlan
  dsimp only
  split
  · exact .of_id rfl rfl
  split
  · exact .of_id rfl rfl
  · split <;> exact .of_id rfl rfl

theorem tlwaitPlan_keepsForm (c : Ctx) (tl reg : Nat) : (tlwaitPlan c tl reg).KeepsForm := by
  unfold tlwaitPlan
  dsimp only
  split
  · exact .of_id rfl rfl
  split
  · exact .of_id rfl rfl
  split
  · exact .of_id rfl rfl
  · split <;> exact .of_id rfl rfl

theorem nexttPlan_keepsForm (c : Ctx) (rd : Nat) : (nexttPlan c rd).KeepsForm := by
  unfold nexttPlan
  dsimp only
  split
  · exact .of_id rfl rfl
  split
  · exact .of_id rfl rfl
  · split <;> exact .of_id rfl rfl

theorem planWfe_keepsForm (c : Ctx) : (planWfe c).KeepsForm := by
  unfold planWfe
  split <;> exact .of_id rfl rfl

theorem solvePlan_keepsForm (c : Ctx) (reg : Nat) : (solvePlan c reg).KeepsForm := by
  unfold solvePlan
  exact .ite (.of_id rfl rfl) (.of_id rfl rfl)

theorem solendPlan_keepsForm (c : Ctx) : (solendPlan c).KeepsForm := by
  unfold solendPlan
  exact .ite (.of_id rfl rfl) (.of_id rfl rfl)

/-! ### Heads -/

theorem Ctx.enter_keepsForm (c : Ctx) (t : BitVec 20) (d : Dir) (p : Nat) : (c.enter t d p).KeepsForm := by
  unfold Ctx.enter
  dsimp only
  split
  · exact .of_id rfl rfl
  split
  · exact .of_id rfl rfl
  split
  · exact ⟨fun _ h => h, fun _ h => State.touchExtent_form _ _ _ _ _ h⟩
  · exact ⟨fun _ h => State.startWalk_form _ _ _ _ _ _ h, fun _ h => h⟩

theorem Ctx.present_keepsForm (c : Ctx) (t : BitVec 20) (d : Dir) (p : Nat) : (c.present t d p).KeepsForm := by
  unfold Ctx.present
  split <;> exact .of_id rfl rfl

theorem Ctx.move_keepsForm (c : Ctx) (n : Nat) (d : Dir) (p : Int) : (c.move n d p).KeepsForm := by
  unfold Ctx.move
  dsimp only
  split
  · exact .of_id rfl rfl
  split
  · exact .of_id rfl rfl
  split
  · exact .of_id rfl rfl
  · exact Plan.and_keepsForm (c.enter_keepsForm ..) (.of_id rfl rfl)

theorem onHead_keepsForm (c : Ctx) (n : Nat) {base : Plan} (f : Head → Dir → Plan) (hb : base.KeepsForm)
    (hf : ∀ h d, (f h d).KeepsForm) : (onHead c n base f).KeepsForm := by
  unfold onHead
  dsimp only
  split
  · exact ⟨hb.starts, hb.glob⟩
  split
  · exact ⟨hb.starts, hb.glob⟩
  · exact ⟨(hf _ _).starts, (hf _ _).glob⟩

theorem hattPlan_keepsForm (c : Ctx) (n : Nat) (v : W64) (writer backward : Bool) : (hattPlan c n v writer backward).KeepsForm := by
  unfold hattPlan
  refine .ite (.of_id rfl rfl) (.ite (.of_id rfl rfl) (.ite (.of_id rfl rfl) ?_))
  split
  · exact .of_id rfl rfl
  refine .ite (.of_id rfl rfl) (.ite (.of_id rfl rfl) ?_)
  have attach {q : Plan} (hq : q.KeepsForm) (t : BitVec 20) (d : Dir) (p : Nat) := Plan.and_keepsForm (c.enter_keepsForm t d p) hq
  refine ⟨(attach ?_ ..).starts, (attach ?_ ..).glob⟩ <;> exact ⟨fun _ h => h, fun _ h => State.unwalk_form _ _ _ h⟩

theorem readPlan_keepsForm (c : Ctx) (n v : Nat) (step : Bool) : (readPlan c n v step).KeepsForm := by
  have landed {p q : Plan} (hp : p.KeepsForm) (hs : q.starts = p.starts) (hg : q.glob = p.glob) :
      Plan.KeepsForm (if p.lands.isEmpty then q else p) := .ite ⟨hs ▸ hp.starts, hg ▸ hp.glob⟩ hp
  unfold readPlan
  refine onHead_keepsForm c n _ (.of_id rfl rfl) (fun h d => .ite (.of_id rfl rfl) (landed ?_ rfl rfl))
  refine .ite (.of_id rfl rfl) (.ite (.of_id rfl rfl) ?_)
  have hmove : Plan.KeepsForm (if step then c.move n d (h.target 1) else {}) := .ite (c.move_keepsForm ..) (.of_id rfl rfl)
  have hbody {body : Plan} (hb : body.KeepsForm) :=
    Plan.and_keepsForm hmove (Plan.and_keepsForm (c.present_keepsForm h.tape d h.pos.toNat) hb)
  refine ⟨(hbody ?_).starts, (hbody ?_).glob⟩ <;> split <;> exact .of_id rfl rfl

theorem writePlan_keepsForm (c : Ctx) (n v : Nat) (append : Bool) : (writePlan c n v append).KeepsForm := by
  unfold writePlan
  refine onHead_keepsForm c n _ (.of_id rfl rfl) (fun h d => ?_)
  dsimp only
  split
  · exact .of_id rfl rfl
  split
  · split
    · exact .of_id rfl rfl
    split
    · exact .of_id rfl rfl
    split
    · exact .of_id rfl rfl
    · have hq (held : List Held) (imm : Core → Core) (p : Int) :=
        Plan.and_keepsForm (c.move_keepsForm n d p) (q := { held := held, imm := imm }) (.of_id rfl rfl)
      exact ⟨(hq _ _ _).starts, (hq _ _ _).glob⟩
  split
  · exact .of_id rfl rfl
  split <;> exact .of_id rfl rfl

theorem stepPlan_keepsForm (c : Ctx) (n : Nat) (amount : Int) : (stepPlan c n amount).KeepsForm := by
  unfold stepPlan
  refine onHead_keepsForm c n _ (.of_id rfl rfl) (fun h d => ?_)
  split
  · exact .of_id rfl rfl
  split
  · exact .of_id rfl rfl
  · exact c.move_keepsForm ..

theorem planHrew_keepsForm (h : BitVec 3) (k : BitVec 2) (c : Ctx) : (planHrew h k c).KeepsForm := by
  unfold planHrew
  refine onHead_keepsForm c _ _ (.of_id rfl rfl) (fun hd d => ?_)
  split
  · exact .of_id rfl rfl
  split
  · exact .of_id rfl rfl
  split
  · exact .of_id rfl rfl
  · exact c.move_keepsForm ..

theorem queryPlan_keepsForm (c : Ctx) (n rd : Nat) (f : Head → Dir → Option W64) : (queryPlan c n rd f).KeepsForm := by
  unfold queryPlan
  refine onHead_keepsForm c n _ (.of_id rfl rfl) (fun h d => ?_)
  split <;> exact .of_id rfl rfl

theorem planHdet_keepsForm (h : BitVec 3) (c : Ctx) : (planHdet h c).KeepsForm := by
  unfold planHdet
  exact onHead_keepsForm c _ _ (.of_id rfl rfl) (fun _ _ => .of_id rfl rfl)

theorem planHmark_keepsForm (h : BitVec 3) (k : BitVec 2) (c : Ctx) : (planHmark h k c).KeepsForm := by
  unfold planHmark
  exact onHead_keepsForm c _ _ (.of_id rfl rfl) (fun _ _ => .of_id rfl rfl)

theorem planHpos_keepsForm (h : BitVec 3) (d : BitVec 6) (c : Ctx) : (planHpos h d c).KeepsForm := by
  unfold planHpos
  exact queryPlan_keepsForm ..

theorem planHdist_keepsForm (h : BitVec 3) (d : BitVec 6) (k : BitVec 2) (c : Ctx) : (planHdist h d k c).KeepsForm := by
  unfold planHdist
  exact queryPlan_keepsForm ..

theorem planHlen_keepsForm (h : BitVec 3) (d : BitVec 6) (f : BitVec 1) (c : Ctx) : (planHlen h d f c).KeepsForm := by
  unfold planHlen
  exact queryPlan_keepsForm ..

theorem planHstat_keepsForm (h : BitVec 3) (d : BitVec 6) (c : Ctx) : (planHstat h d c).KeepsForm := by
  unfold planHstat
  split <;> exact .of_id rfl rfl

/-! ### Cells -/

theorem onCells_keepsForm (c : Ctx) (reg : Nat) {base : Plan} (offs : List Nat) (f : Nat → Nat → W64 → Plan) (hb : base.KeepsForm) :
    (onCells c reg base offs f).KeepsForm := by
  unfold onCells
  dsimp only
  split
  · exact ⟨hb.starts, hb.glob⟩
  split
  · exact ⟨hb.starts, hb.glob⟩
  · split <;> exact ⟨hb.starts, hb.glob⟩

theorem caddPlan_keepsForm (c : Ctx) (v reg q : Nat) (bf : Bool) : (caddPlan c v reg q bf).KeepsForm := by
  unfold caddPlan
  exact onCells_keepsForm c _ _ _ (.of_id rfl rfl)

theorem crdPlan_keepsForm (c : Ctx) (v reg q : Nat) (bf : Bool) : (crdPlan c v reg q bf).KeepsForm := by
  unfold crdPlan
  exact onCells_keepsForm c _ _ _ (.of_id rfl rfl)

theorem crdStatPlan_keepsForm (c : Ctx) (reg rd : Nat) : (crdStatPlan c reg rd).KeepsForm := by
  unfold crdStatPlan
  exact onCells_keepsForm c _ _ _ (.of_id rfl rfl)

theorem cclrPlan_keepsForm (c : Ctx) (ra rb : Nat) : (cclrPlan c ra rb).KeepsForm := by
  unfold cclrPlan
  dsimp only
  split
  · exact .of_id rfl rfl
  split
  · exact .of_id rfl rfl
  · exact onCells_keepsForm c ra _ _ (.of_id rfl rfl)

theorem ccfgPlan_keepsForm (c : Ctx) (ra rb : Nat) : (ccfgPlan c ra rb).KeepsForm := by
  unfold ccfgPlan
  dsimp only
  split
  · exact .of_id rfl rfl
  · split <;> exact .of_id rfl rfl

/-! ### The remainder stack -/

theorem Ctx.landFirst_form (c : Ctx) (blocks : List Nat) (s : State) (h : s.Inv) : (c.landFirst blocks s).Inv := by
  unfold Ctx.landFirst
  split
  · exact h
  · exact h
  · exact State.mapCore_form _ _ _ (State.landOwn_form _ _ _ _ (State.setCore_form _ _ h))

theorem Ctx.transfer_keepsForm (c : Ctx) (blocks : List Nat) : (c.transfer blocks).KeepsForm := by
  unfold Ctx.transfer
  dsimp only
  split
  · exact ⟨fun _ h => h, fun _ h => c.landFirst_form _ _ h⟩
  · exact .of_id rfl rfl

theorem pushPlan_keepsForm (c : Ctx) (payload : List Byte) (tag : Nat) : (pushPlan c payload tag).KeepsForm := by
  unfold pushPlan
  dsimp only
  split
  · exact .of_id rfl rfl
  · exact Plan.and_keepsForm (c.transfer_keepsForm _)
      ⟨fun _ h => h, fun _ h => form_foldl _ _ _ h (fun _ _ ht => State.spill_form _ _ _ _ ht)⟩

theorem Ctx.fillTo_keepsForm (c : Ctx) (x : Nat) {p : Plan} (h : c.fillTo x = .inl p) : p.KeepsForm := by
  unfold Ctx.fillTo at h
  dsimp only at h
  split at h
  · cases h
  split at h
  · cases h
  · split at h <;> cases h <;> exact .of_id rfl rfl

theorem popPlan_keepsForm (c : Ctx) (len tag : Nat) (f : List Byte → Plan) (hf : ∀ bs, (f bs).KeepsForm) :
    (popPlan c len tag f).KeepsForm := by
  unfold popPlan
  dsimp only
  split
  · exact .of_id rfl rfl
  split
  · have hp := c.fillTo_keepsForm _ ‹_›
    exact ⟨hp.starts, hp.glob⟩
  split
  · exact .of_id rfl rfl
  split
  · have hp := c.fillTo_keepsForm _ ‹_›
    exact ⟨hp.starts, hp.glob⟩
  · have hq (blocks : List Nat) (bs : List Byte) := Plan.and_keepsForm (c.transfer_keepsForm blocks) (hf bs)
    exact ⟨(hq _ _).starts, (hq _ _).glob⟩

theorem revonPlan_keepsForm (c : Ctx) (v : W64) : (revonPlan c v).KeepsForm := by
  unfold revonPlan
  dsimp only
  split
  · exact .of_id rfl rfl
  split
  · exact .of_id rfl rfl
  split
  · exact .of_id rfl rfl
  split
  · exact .of_id rfl rfl
  split
  · exact .of_id rfl rfl
  · exact Plan.and_keepsForm (c.enter_keepsForm ..) ⟨fun _ h => h, fun _ h => State.unwalk_form _ _ _ h⟩

theorem revoffPlan_keepsForm (c : Ctx) : (revoffPlan c).KeepsForm := by
  unfold revoffPlan
  dsimp only
  split
  · exact .of_id rfl rfl
  · split <;> exact .of_id rfl rfl

theorem revPlain_keepsForm (c : Ctx) (d x y q f : Nat) (op : Int → Int → Int) : (revPlain c d x y q f op).KeepsForm := by
  unfold revPlain
  exact .ite (.of_id rfl rfl) (.of_id rfl rfl)

theorem revPush_keepsForm (c : Ctx) (opcode l d : Nat) (srcs : List Nat) (f sh nb : Nat) (bad : Bool) (res : Nat → Int × Nat) :
    (revPush c opcode l d srcs f sh nb bad res).KeepsForm := by
  unfold revPush
  dsimp only
  split
  · exact .of_id rfl rfl
  · exact ⟨fun _ h => h, (pushPlan_keepsForm c _ _).glob⟩

theorem revPop_keepsForm (c : Ctx) (opcode l d : Nat) (srcs : List Nat) (f sh nb : Nat) (bad : Bool) (out : Nat) (flags : Bool)
    (res : Nat → Nat → Int) : (revPop c opcode l d srcs f sh nb bad out flags res).KeepsForm := by
  unfold revPop
  dsimp only
  split
  · exact .of_id rfl rfl
  · exact ⟨fun _ h => h, (popPlan_keepsForm c _ _ _ (fun _ => vecPlan_keepsForm ..)).glob⟩

theorem planUnmulq_keepsForm (d a b h : BitVec 5) (f : BitVec 4) (c : Ctx) : (planUnmulq d a b h f c).KeepsForm := by
  unfold planUnmulq
  exact revPop_keepsForm ..

theorem planUnshr_keepsForm (d a h : BitVec 5) (f : BitVec 4) (c : Ctx) : (planUnshr d a h f c).KeepsForm := by
  unfold planUnshr
  exact revPop_keepsForm ..

theorem planUnleak_keepsForm (d a h : BitVec 5) (f : BitVec 4) (c : Ctx) : (planUnleak d a h f c).KeepsForm := by
  unfold planUnleak
  exact revPop_keepsForm ..

theorem planUnnarw_keepsForm (d a h : BitVec 5) (f : BitVec 4) (c : Ctx) : (planUnnarw d a h f c).KeepsForm := by
  unfold planUnnarw
  exact revPop_keepsForm ..

theorem planRstag_keepsForm (d : BitVec 6) (pop : BitVec 1) (m : BitVec 4) (c : Ctx) : (planRstag d pop m c).KeepsForm := by
  have hp : Plan.KeepsForm (if pop == 1 then popPlan c 0 (0xF0 + m.toNat) (fun _ => {}) else pushPlan c [] (0xF0 + m.toNat)) := by
    split
    · exact popPlan_keepsForm c _ _ _ (fun _ => .of_id rfl rfl)
    · exact pushPlan_keepsForm ..
  exact ⟨hp.starts, hp.glob⟩

/-! ### Every slot instruction -/

theorem planOf_keepsForm (i : Instr) (c : Ctx) : (planOf i c).KeepsForm := by
  cases i with
  | revon a => exact ⟨(revonPlan_keepsForm c _).starts, (revonPlan_keepsForm c _).glob⟩
  | revoff => exact ⟨(revoffPlan_keepsForm c).starts, (revoffPlan_keepsForm c).glob⟩
  | rstag d p m => exact planRstag_keepsForm d p m c
  | vadd d a b q m f => exact arith2_keepsForm ..
  | vsub d a b q m f => exact arith2_keepsForm ..
  | vmul d a b q m f => exact arith2_keepsForm ..
  | vmin d a b q m f => exact arith2_keepsForm ..
  | vmax d a b q m f => exact arith2_keepsForm ..
  | vabs d a q m f => exact arith1_keepsForm ..
  | vneg d a q m f => exact arith1_keepsForm ..
  | vfma d a b e f => exact fmaPlan_keepsForm ..
  | vfms d a b e f => exact fmaPlan_keepsForm ..
  | vaddSr d a b q g => exact planVaddSr_keepsForm ..
  | vcmpCc e d a b q g => exact planVcmpCc_keepsForm ..
  | vshl d a b q g => exact Plan.zeroMode_keepsForm (shiftPlan_keepsForm ..) _
  | vshr d a b q g => exact Plan.zeroMode_keepsForm (shiftPlan_keepsForm ..) _
  | vsar d a b q g => exact Plan.zeroMode_keepsForm (shiftPlan_keepsForm ..) _
  | vcvt d a t u q m f => exact planVcvt_keepsForm ..
  | vqnt d a m f => exact planVqnt_keepsForm ..
  | vdqnt d a g => exact planVdqnt_keepsForm ..
  | vredsum d a q g => exact planVredsum_keepsForm ..
  | vredmax d a q g => exact planVredmax_keepsForm ..
  | vextr d a b g => exact planVextr_keepsForm ..
  | trowLd d t b q g => exact Plan.zeroMode_keepsForm (sliceLoad_keepsForm ..) _
  | trowSt v t b q g => exact Plan.zeroMode_keepsForm (sliceStore_keepsForm ..) _
  | tcolLd d t b q g => exact Plan.zeroMode_keepsForm (sliceLoad_keepsForm ..) _
  | tcolSt v t b q g => exact Plan.zeroMode_keepsForm (sliceStore_keepsForm ..) _
  | radd d a b q f => exact revPlain_keepsForm ..
  | rsub d a b q f => exact revPlain_keepsForm ..
  | rxor d a b q f => exact revPlain_keepsForm ..
  | rmulq d a b h f => exact revPush_keepsForm ..
  | rshr d a h f => exact revPush_keepsForm ..
  | rleak d a h f => exact revPush_keepsForm ..
  | rnarw d a h f => exact revPush_keepsForm ..
  | unmulq d a b h f => exact planUnmulq_keepsForm ..
  | unshr d a h f => exact planUnshr_keepsForm ..
  | unleak d a h f => exact planUnleak_keepsForm ..
  | unnarw d a h f => exact planUnnarw_keepsForm ..
  | mmaTile e a b n f x y z => exact mmaTiles_keepsForm ..
  | mmas e a b n f x y z => exact mmaTiles_keepsForm ..
  | mmaStream e h b n f y z => exact mmaStreamed_keepsForm ..
  | mload e a n f t => exact tileIntoAcc_keepsForm ..
  | maddt e a n f t => exact tileIntoAcc_keepsForm ..
  | mdrain e a n f t u z => exact drainPlan_keepsForm ..
  | hatt h a w b => exact ⟨(hattPlan_keepsForm c _ _ _ _).starts, (hattPlan_keepsForm c _ _ _ _).glob⟩
  | hdet h => exact planHdet_keepsForm ..
  | hmark h k => exact planHmark_keepsForm ..
  | hrd h v k => exact readPlan_keepsForm ..
  | hrds h v k => exact readPlan_keepsForm ..
  | hwr h v k => exact writePlan_keepsForm ..
  | happ h v k => exact writePlan_keepsForm ..
  | hstep h n => exact stepPlan_keepsForm ..
  | hstepr h a => exact ⟨(stepPlan_keepsForm c _ _).starts, (stepPlan_keepsForm c _ _).glob⟩
  | hrew h k => exact planHrew_keepsForm h k c
  | hpos h d => exact planHpos_keepsForm ..
  | hdist h d k => exact planHdist_keepsForm ..
  | hlen h d f => exact planHlen_keepsForm ..
  | hstat h d => exact planHstat_keepsForm h d c
  | cadd v a m b => exact caddPlan_keepsForm ..
  | crd v a m b => exact crdPlan_keepsForm ..
  | crdStat a d => exact crdStatPlan_keepsForm ..
  | cclr a b => exact cclrPlan_keepsForm ..
  | ccfg a b => exact ccfgPlan_keepsForm ..
  | tlwait a l => exact tlwaitPlan_keepsForm ..
  | nextt d => exact nexttPlan_keepsForm ..
  | btree a b e d => exact ⟨(targetPlan_keepsForm c _).starts, (targetPlan_keepsForm c _).glob⟩
  | solve r => exact solvePlan_keepsForm ..
  | solend => exact solendPlan_keepsForm c
  | wfe => exact planWfe_keepsForm c
  | _ => exact .of_id rfl rfl

/-! ## Bundles and calls -/

theorem issueAlone_form (slot : Nat) (ck : Bool) (words : List W32) (i : Instr) (s : State) (h : s.Inv) (t : State)
    (ht : issueAlone slot ck words (planOf i) s = .next t) : t.Inv := by
  unfold issueAlone at ht
  split at ht
  · cases ht; exact h
  rename_i c hc
  split at ht
  · cases ht
    refine c.issue_form _ (ctx_st hc ▸ h) (fun x hx d => ?_)
    rw [List.mem_singleton.mp hx]
    exact planOf_keepsForm i d
  · cases ht; exact State.endTurn_form _ h

theorem Ctx.bundle_form (c : Ctx) (h : c.st.Inv) : c.bundle.Inv := by
  unfold Ctx.bundle
  split
  · exact State.trap_form _ _ _ h
  split
  · exact State.trap_form _ _ _ h
  split
  · exact State.trap_form _ _ _ h
  split
  · exact State.trap_form _ _ _ h
  · refine c.issue_form _ h (fun x hx d => ?_)
    obtain ⟨y, -, rfl⟩ := List.mem_map.mp hx
    exact planOf_keepsForm _ d

theorem Ctx.call_form (c : Ctx) (index : Nat) (fill : BitVec 50) (h : c.st.Inv) : (c.call index fill).Inv := by
  have trap (code : Nat) (i0 : W64) : (c.callTrap code i0).Inv := State.trap_form _ _ _ h
  unfold Ctx.call
  dsimp only
  split
  · exact trap _ _
  split
  · exact trap _ _
  split
  · exact State.endTurn_form _ (State.setCore_form _ _ h)
  split
  · exact trap _ _
  split
  · exact trap _ _
  split
  · exact State.trap_form _ _ _ h
  · exact Ctx.bundle_form _ h

theorem State.withCtx_form (s : State) (hd : BitVec 94) (ws : List W32) (len : Nat) (f : Ctx → State) (h : s.Inv)
    (hf : ∀ c : Ctx, c.st.Inv → (f c).Inv) (t : State) (ht : s.withCtx hd ws len f = .next t) : t.Inv := by
  unfold State.withCtx at ht
  split at ht
  · cases ht; exact h
  rename_i c hc
  split at ht
  · cases ht; exact hf c (ctx_st hc ▸ h)
  · cases ht; exact State.endTurn_form _ h

end Sys2Proof.Machine
end

section
/-! SUPPORT. Every event keeps the form. -/

namespace Sys2Proof.Machine

/-! ## Outcomes -/

/-- An outcome that goes on does so in the form. -/
inductive KeepsForm : Out → Prop
  | next {s : State} (h : s.Inv) : KeepsForm (.next s)
  | fault (x : Fault) : KeepsForm (.fault x)
  | refused (x : Refusal) : KeepsForm (.refused x)

theorem KeepsForm.inv {o : Out} (h : KeepsForm o) {t : State} (e : o = .next t) : t.Inv := by
  subst e
  cases h with
  | next h => exact h

section
variable {s : State} (h : s.Inv)
include h

/-! ## Bundles and calls -/

theorem issueAlone_keepsForm (slot : Nat) (ck : Bool) (words : List W32) (i : Instr) :
    KeepsForm (issueAlone slot ck words (planOf i) s) := by
  unfold issueAlone
  split
  · exact .next h
  rename_i c hc
  split
  · refine .next (c.issue_form _ (ctx_st hc ▸ h) (fun x hx d => ?_))
    rw [List.mem_singleton.mp hx]
    exact planOf_keepsForm i d
  · exact .next (State.endTurn_form _ h)

theorem withCtx_keepsForm (hd : BitVec 94) (ws : List W32) (len : Nat) (f : Ctx → State) (hf : ∀ c : Ctx, c.st.Inv → (f c).Inv) :
    KeepsForm (s.withCtx hd ws len f) := by
  unfold State.withCtx
  split
  · exact .next h
  rename_i c hc
  split
  · exact .next (hf c (ctx_st hc ▸ h))
  · exact .next (State.endTurn_form _ h)

/-! ## Events of a core

An event that finds nothing to do leaves the state as it is: `.next h` closes those branches at once, and the others are named. -/

theorem execCheckpointReleaseEnd_keepsForm (core : Nat) : KeepsForm (execCheckpointReleaseEnd core s) := by
  unfold execCheckpointReleaseEnd
  repeat' split
  all_goals try with_reducible exact .next h
  exact .next (State.passTurn_form _ _ (State.release_form _ _ _ h))

theorem execSolendDecisionEnd_keepsForm (core : Nat) : KeepsForm (execSolendDecisionEnd core s) := by
  unfold execSolendDecisionEnd
  repeat' split
  all_goals try with_reducible exact .next h
  exact .next (State.passTurn_form _ _ (State.solveEnd_form _ _ _ _ h))

theorem dictFill_keepsForm (k : Core) (va : Nat) : KeepsForm (s.dictFill k va) := by
  unfold State.dictFill
  split
  · exact .next (State.setCore_form _ _ h)
  split
  · exact .fault _
  · exact .next (State.setCore_form _ _ h)

theorem execDictionaryCacheFill_keepsForm (core : Nat) : KeepsForm (execDictionaryCacheFill core s) := by
  unfold execDictionaryCacheFill
  repeat' split
  all_goals try with_reducible exact .next h
  exact dictFill_keepsForm h _ _

theorem execTargetTableLineFill_keepsForm (core : Nat) : KeepsForm (execTargetTableLineFill core s) := by
  unfold execTargetTableLineFill
  repeat' split
  all_goals try with_reducible exact .next h
  exact dictFill_keepsForm h _ _

theorem execExtentWalkComplete_keepsForm (hall : Nat) : KeepsForm (execExtentWalkComplete hall s) := by
  have set (x : Hall) : KeepsForm (.next (s.setHall x)) := .next (State.setHall_form _ _ h)
  unfold execExtentWalkComplete
  dsimp only
  repeat' split
  all_goals try with_reducible exact set _
  · exact .next h
  · exact .fault _

theorem execHeadRecordArrival_keepsForm (core head rec_ : Nat) (sel : List Nat) : KeepsForm (execHeadRecordArrival core head rec_ sel s) := by
  unfold execHeadRecordArrival
  split
  · exact .next h
  · exact .next (State.recordArrives_form _ _ _ _ _ _ _ _ _ h)

theorem execStreamProducerResume_keepsForm (core : Nat) : KeepsForm (execStreamProducerResume core s) := by
  unfold execStreamProducerResume
  repeat' split
  all_goals try with_reducible exact .next h
  exact .next (State.setCore_form _ _ h)

theorem execStreamConsumerResume_keepsForm (core : Nat) : KeepsForm (execStreamConsumerResume core s) := by
  unfold execStreamConsumerResume
  repeat' split
  all_goals try with_reducible exact .next h
  exact .next (State.setCore_form _ _ h)

theorem execTapeWriteAtHome_keepsForm (wid : Nat) : KeepsForm (execTapeWriteAtHome wid s) := by
  unfold execTapeWriteAtHome
  split
  · exact .next h
  · exact .next (State.tapeHome_form _ _ _ h)

theorem execCellOpAtVault_keepsForm (wid : Nat) : KeepsForm (execCellOpAtVault wid s) := by
  unfold execCellOpAtVault
  split
  · exact .next h
  · exact .next (State.cellHome_form _ _ _ h)

theorem execCellReadValueArrival_keepsForm (core : Nat) (pick : List Nat) : KeepsForm (execCellReadValueArrival core pick s) := by
  unfold execCellReadValueArrival
  split
  · exact .next h
  · exact .next (State.cellValue_form _ _ _ _ h)

theorem execPhasePublicationEnd_keepsForm (core : Nat) : KeepsForm (execPhasePublicationEnd core s) := by
  unfold execPhasePublicationEnd
  repeat' split
  all_goals try with_reducible exact .next h
  · exact .next (State.refillAll_form _ _ _ (State.setCore_form _ _ (State.mapRun_form _ _ _ h)))
  · exact .next (State.passTurn_form _ _ (State.refillAll_form _ _ _ h))

theorem execHandrailLineTrue_keepsForm (line : Nat) : KeepsForm (execHandrailLineTrue line s) := by
  unfold execHandrailLineTrue
  dsimp only
  repeat' split
  all_goals try with_reducible exact .next h
  · exact .next (State.report_form _ _ _ (State.restartLine_form _ _ h))
  · exact .next (State.report_form _ _ _ (State.mapLine_form _ _ _ h))
  · exact .next (State.mapLine_form _ _ _ h)

theorem execHandrailRestart_keepsForm (line : Nat) : KeepsForm (execHandrailRestart line s) := by
  unfold execHandrailRestart
  repeat' split
  all_goals try with_reducible exact .next h
  exact .next (State.restartLine_form _ _ h)

theorem execLevel4LineCompletion_keepsForm (line : Nat) : KeepsForm (execLevel4LineCompletion line s) := by
  unfold execLevel4LineCompletion
  repeat' split
  all_goals try with_reducible exact .next h
  · exact .next (State.restartLine_form _ _ h)
  · exact .next (State.mapLine_form _ _ _ h)

theorem execEventArrival_keepsForm (core : Nat) : KeepsForm (execEventArrival core s) := by
  unfold execEventArrival
  split
  · exact .next (State.mapCore_form _ _ _ h)
  · exact .next (State.mapCore_form _ _ _ h)

theorem execNexttRequestAccept_keepsForm (die pick : Nat) : KeepsForm (execNexttRequestAccept die pick s) := by
  unfold execNexttRequestAccept
  split
  · exact .next h
  · exact .next (State.mapCore_form _ _ _ (State.handTile_form _ _ _ _ h))

theorem execNexttReplyArrive_keepsForm (core : Nat) : KeepsForm (execNexttReplyArrive core s) := by
  unfold execNexttReplyArrive
  split
  · exact .next h
  split
  · split
    · exact .next h
    · exact .next (State.setCore_form _ _ h)
  · exact .next h

/-! ## Nodes and tasks -/

theorem execKernelNodePlace_keepsForm (run node : Nat) (pick : List Nat) : KeepsForm (execKernelNodePlace run node pick s) := by
  unfold execKernelNodePlace
  repeat' split
  all_goals try with_reducible exact .next h
  · exact .next (State.faultRun_form _ _ _ h)
  · exact .next (State.placeNode_form _ _ _ _ _ _ _ _ h)

theorem execNextTaskStart_keepsForm (core pick : Nat) : KeepsForm (execNextTaskStart core pick s) := by
  unfold execNextTaskStart
  split
  · exact .next h
  split
  · exact .next h
  split
  · exact .next (State.dropCore_form _ _ (State.mapRun_form _ _ _ h))
  split
  · exact .next h
  · exact .next (State.nextTask_form _ _ _ _ _ _ _ h)

theorem execTaskEnd_keepsForm (core : Nat) : KeepsForm (execTaskEnd core s) := by
  unfold execTaskEnd
  repeat' split
  all_goals try with_reducible exact .next h
  exact .next (State.passTurn_form _ _ (State.endTask_form _ _ _ h))

theorem execNodeCommit_keepsForm (run node : Nat) : KeepsForm (execNodeCommit run node s) := by
  unfold execNodeCommit
  repeat' split
  all_goals try with_reducible exact .next h
  exact .next (State.settle_form _ _ (State.commitNode_form _ _ _ _ _ h))

theorem execConditionalNodeEval_keepsForm (run node : Nat) : KeepsForm (execConditionalNodeEval run node s) := by
  unfold execConditionalNodeEval
  split
  · exact .next h
  split
  · exact .next h
  split
  · exact .next (State.faultRun_form _ _ _ h)
  · exact .next (State.settle_form _ _ (State.commitNode_form _ _ _ _ _ (State.beginNode_form _ _ _ _ h)))

theorem execWhileNodeEval_keepsForm (run node : Nat) : KeepsForm (execWhileNodeEval run node s) := by
  unfold execWhileNodeEval
  repeat' split
  all_goals try with_reducible exact .next h
  · exact .next (State.faultRun_form _ _ _ h)
  · exact .next (State.loopAgain_form _ _ _ _ _ h)
  · exact .next (State.settle_form _ _ (State.commitNode_form _ _ _ _ _ (State.beginNode_form _ _ _ _ h)))

theorem execNotifyNodeDispatch_keepsForm (run node : Nat) : KeepsForm (execNotifyNodeDispatch run node s) := by
  unfold execNotifyNodeDispatch
  split
  · exact .next h
  split
  · exact .next h
  split
  · exact .next (State.faultRun_form _ _ _ h)
  · exact .next (State.settle_form _ _ (State.commitNode_form _ _ _ _ _ (State.post_form _ _ _ (State.beginNode_form _ _ _ _ h))))

theorem execTransformNodeDispatch_keepsForm (run node : Nat) : KeepsForm (execTransformNodeDispatch run node s) := by
  unfold execTransformNodeDispatch
  repeat' split
  all_goals try with_reducible exact .next h
  · exact .next (State.faultRun_form _ _ _ h)
  · exact .next (State.faultRun_form _ _ _ h)
  · exact .next (State.issueBlocks_form _ _ _ _ _ _ _ (State.withLanding_form _ _ _ _ (State.beginNode_form _ _ _ _ h)))

theorem execAgeingTimer_keepsForm (run node : Nat) : KeepsForm (execAgeingTimer run node s) := by
  unfold execAgeingTimer
  repeat' split
  all_goals try with_reducible exact .next h
  exact .next (State.mapRun_form _ _ _ h)

theorem execDomainShareExchange_keepsForm (run node dom before after : Nat) :
    KeepsForm (execDomainShareExchange run node dom before after s) := by
  unfold execDomainShareExchange
  dsimp only
  repeat' split
  all_goals try with_reducible exact .next h
  · exact .next h
  · exact .next (State.faultRun_form _ _ _ h)
  · exact .next (State.takeShare_form _ _ _ _ _ _ _ _ _ _ h)

theorem execRemoteJobFault_keepsForm (run : Nat) : KeepsForm (execRemoteJobFault run s) := by
  unfold execRemoteJobFault
  repeat' split
  all_goals try with_reducible exact .next h
  exact .next (State.faultRun_form _ _ _ h)

/-! ## The host's writes -/

theorem execArmStart_keepsForm (w : ArmWrite) : KeepsForm (execArmStart w s) := by
  unfold execArmStart
  split
  · exact .next h
  · exact .next (State.arm_form _ _ _ h)

theorem execArmWait_keepsForm (w : ArmWrite) (node : W16) : KeepsForm (execArmWait w node s) := by
  unfold execArmWait
  split
  · exact .next h
  · exact .next (State.arm_form _ _ _ h)

theorem execArmResume_keepsForm (w : ArmWrite) (node : W16) : KeepsForm (execArmResume w node s) := by
  unfold execArmResume
  split
  · exact .next h
  · exact .next (State.arm_form _ _ _ h)

theorem execCompletionRecordWrite_keepsForm (fn : Nat) : KeepsForm (execCompletionRecordWrite fn s) := by
  unfold execCompletionRecordWrite
  repeat' split
  all_goals try with_reducible exact .next h
  exact .next (State.endWaiting_form _ _ (State.mapFn_form _ _ _ h))

theorem execCqHeadWrite_keepsForm (fn : Nat) (v : W32) : KeepsForm (execCqHeadWrite fn v s) := by
  unfold execCqHeadWrite
  repeat' split
  all_goals try with_reducible exact .next h
  exact .next (State.mapFn_form _ _ _ h)

theorem execCqCtlWrite_keepsForm (fn : Nat) (v : W32) : KeepsForm (execCqCtlWrite fn v s) := by
  unfold execCqCtlWrite
  split
  · exact .next h
  · exact .next (State.mapFn_form _ _ _ h)

theorem execLnkStatWrite_keepsForm (fn port : Nat) (v : W32) : KeepsForm (execLnkStatWrite fn port v s) := by
  unfold execLnkStatWrite
  repeat' split
  all_goals try with_reducible exact .next h
  exact .next (State.mapPort_form _ _ _ h)

theorem execSecStatWrite_keepsForm (fn : Nat) (v : W32) : KeepsForm (execSecStatWrite fn v s) := by
  unfold execSecStatWrite
  repeat' split
  all_goals exact .next h

theorem execRouteWrite_keepsForm (fn d : Nat) (v : W32) : KeepsForm (execRouteWrite fn d v s) := by
  unfold execRouteWrite
  repeat' split
  all_goals exact .next h

theorem execSysSelfWrite_keepsForm (fn : Nat) (v : W32) : KeepsForm (execSysSelfWrite fn v s) := by
  unfold execSysSelfWrite
  repeat' split
  all_goals exact .next h

theorem execFeatMaskWrite_keepsForm (fn vd : Nat) (v : W32) : KeepsForm (execFeatMaskWrite fn vd v s) := by
  unfold execFeatMaskWrite
  repeat' split
  all_goals exact .next h

theorem execRegisterWrite_keepsForm (fn off : Nat) (v : BitVec 128) : KeepsForm (execRegisterWrite fn off v s) := by
  unfold execRegisterWrite
  repeat' split
  all_goals try with_reducible exact .next h
  · exact .next (State.writeMessage_form _ _ _ _ h)
  · exact .next (State.writePower_form _ _ _ h)
  · exact .next (State.mapFn_form _ _ _ h)

theorem execFlightOperationEnd_keepsForm (fn : Nat) : KeepsForm (execFlightOperationEnd fn s) := by
  unfold execFlightOperationEnd
  dsimp only
  split
  · exact .next h
  split
  · exact .next h
  refine .next (State.mapFn_form _ _ _ ?_)
  split
  · exact State.install_form _ _ _ h
  · exact State.remove_form _ _ _ h
  · exact State.stage_form _ _ _ h
  · exact h

/-! ## Cuts -/

theorem execCutMFormed_keepsForm (run : Nat) : KeepsForm (execCutMFormed run s) := by
  unfold execCutMFormed
  split
  · exact .next h
  split
  · exact .next h
  · have stopped (x : State) (l : List Core) (hx : x.Inv) : (l.foldl (fun s k => s.stopRecord k .cut) x).Inv :=
      form_foldl _ _ _ hx (fun _ _ ht => State.stopRecord_form _ _ _ ht)
    exact .next (stopped _ _ (State.mapRun_form _ _ _ (State.remoteMax_form _ _ _ _ h)))

theorem execCutSFormed_keepsForm (run : Nat) : KeepsForm (execCutSFormed run s) := by
  unfold execCutSFormed
  split
  · exact .next h
  split
  · exact .next h
  · exact .next (State.mapRun_form _ _ _ (State.remoteMax_form _ _ _ _ h))

theorem execCutImagesWritten_keepsForm (run : Nat) : KeepsForm (execCutImagesWritten run s) := by
  unfold execCutImagesWritten
  repeat' split
  all_goals try with_reducible exact .next h
  exact .next (State.cutOut_form _ _ _ h)

theorem execCutTimeout_keepsForm (run : Nat) : KeepsForm (execCutTimeout run s) := by
  unfold execCutTimeout
  repeat' split
  all_goals try with_reducible exact .next h
  · exact .next h
  · exact .next (State.faultRun_form _ _ _ h)

theorem execCutRetryTimer_keepsForm (run : Nat) : KeepsForm (execCutRetryTimer run s) := by
  unfold execCutRetryTimer
  repeat' split
  all_goals try with_reducible exact .next h
  exact .next (State.startCut_form _ _ _ _ (State.mapRun_form _ _ _ h))

theorem execRemoteCutRequest_keepsForm (run : Nat) : KeepsForm (execRemoteCutRequest run s) := by
  unfold execRemoteCutRequest
  repeat' split
  all_goals try with_reducible exact .next h
  exact .next (State.beginCut_form _ _ _ _ h)

omit h in
theorem State.resumeNodes_form (r : Run) (fn : Fn) (f : Flight) (m : Moves) (l : List (Nat × List Nat)) (s : State) (h : s.Inv) :
    (s.resumeNodes r fn f m l).Inv := by
  induction l generalizing s with
  | nil => exact h
  | cons x rest ih =>
    obtain ⟨i, cs⟩ := x
    unfold State.resumeNodes
    split
    · exact ih _ h
    split
    · exact ih _ (State.resumeNode_form _ _ _ _ _ _ _ _ h)
    · exact ih _ h

theorem execCutRunResume_keepsForm (run : Nat) : KeepsForm (execCutRunResume run s) := by
  unfold execCutRunResume
  repeat' split
  all_goals try with_reducible exact .next h
  · exact .next (State.faultRun_form _ _ _ h)
  · exact .next (State.resumeNodes_form _ _ _ _ _ _ (State.moveRun_form _ _ _ (State.mapRun_form _ _ _ h)))

theorem execPreemptTimer_keepsForm (run node : Nat) : KeepsForm (execPreemptTimer run node s) := by
  unfold execPreemptTimer
  split
  · exact .next h
  split
  · exact .next h
  dsimp only
  split
  · exact .next (State.mapRun_form _ _ _ h)
  · exact .next (State.startCut_form _ _ _ _ (State.mapRun_form _ _ _ h))

theorem execBasinTimer_keepsForm (run : Nat) : KeepsForm (execBasinTimer run s) := by
  unfold execBasinTimer
  repeat' split
  all_goals try with_reducible exact .next h
  · exact .next (State.faultRun_form _ _ _ h)
  · exact .next (State.enlarge_form _ _ _ _ h)

/-! ## Traps, the job controller and debug -/

theorem execTrapRollbackComplete_keepsForm (core : Nat) : KeepsForm (execTrapRollbackComplete core s) := by
  unfold execTrapRollbackComplete
  repeat' split
  all_goals try with_reducible exact .next h
  exact .next (State.passTurn_form _ _ (State.trapTaken_form _ _ _ _ _ _ _ _ h))

theorem execHandlerTaskStart_keepsForm (trapped : Nat) : KeepsForm (execHandlerTaskStart trapped s) := by
  unfold execHandlerTaskStart
  repeat' split
  all_goals try with_reducible exact .next h
  exact .next (State.startTask_form _ _ _ _ _ _ _ _ _ _ _ (State.mapFn_form _ _ _ h))

theorem execPoisonRepairComplete_keepsForm (core : Nat) : KeepsForm (execPoisonRepairComplete core s) := by
  unfold execPoisonRepairComplete
  repeat' split
  all_goals try with_reducible exact .next h
  exact .next (State.mapCore_form _ _ _ (form_foldl _ _ _ h (fun _ _ ht => State.repairOne_form _ _ _ _ _ _ ht)))

theorem execJcCut_keepsForm (fn : Nat) (fnNo : BitVec 5) (flight : BitVec 10) : KeepsForm (execJcCut fn fnNo flight s) := by
  unfold execJcCut
  dsimp only
  split
  · exact .next h
  split
  · exact .next (State.jcEnd_form _ _ _ _ h)
  · exact .next (State.startCut_form _ _ _ _ (State.jcEnd_form _ _ _ _ h))

theorem execJcResumeHeld_keepsForm (fn : Nat) (fnNo : BitVec 5) (flight : BitVec 10) : KeepsForm (execJcResumeHeld fn fnNo flight s) :=
  .next (State.settleHeld_form _ _ _ _ _ _ (fun _ _ _ ht => State.mapCore_form _ _ _ (State.mapRun_form _ _ _ ht)) h)

theorem execJcFaultHeld_keepsForm (fn : Nat) (fnNo : BitVec 5) (flight : BitVec 10) : KeepsForm (execJcFaultHeld fn fnNo flight s) :=
  .next (State.settleHeld_form _ _ _ _ _ _ (fun _ _ _ ht => State.faultRun_form _ _ _ ht) h)

theorem execJcReadTrap_keepsForm (fn : Nat) (fnNo : BitVec 5) (index : BitVec 8) : KeepsForm (execJcReadTrap fn fnNo index s) := by
  unfold execJcReadTrap
  dsimp only
  split
  · exact .next h
  split
  · exact .next (State.jcEnd_form _ _ _ _ h)
  · exact .next (State.mapFn_form _ _ _ (State.jcEnd_form _ _ _ _ h))

theorem execSoftErrorDetected_keepsForm (site : ErrorSite) : KeepsForm (execSoftErrorDetected site s) := by
  cases site with
  | storage far a => exact .next (form_ite h h)
  | elsewhere run => exact .next (State.faultRun_form _ _ _ h)

theorem execTranslationShootdown_keepsForm (fn flight : Nat) (page : PageEntry) :
    KeepsForm (execTranslationShootdown fn flight page s) := .next h

omit h in
theorem State.haltNow_form (s : State) (k : Core) (h : s.Inv) : (s.haltNow k).Inv := by
  unfold State.haltNow
  split
  · exact State.faultRun_form _ _ _ (State.stopNow_form _ _ _ h)
  · exact State.stopNow_form _ _ _ h

theorem execDbgHalt_keepsForm (fn : Nat) : KeepsForm (execDbgHalt fn s) := by
  refine .next (State.dbgCommand_form _ _ _ _ _ _ (fun t k ht => ?_) h)
  split
  · exact ht
  split
  · exact State.haltNow_form _ _ ht
  · exact State.setCore_form _ _ ht

theorem execDbgStep_keepsForm (fn : Nat) : KeepsForm (execDbgStep fn s) := by
  refine .next (State.dbgCommand_form _ _ _ _ _ _ (fun t k ht => ?_) h)
  split
  · exact State.setCore_form _ _ ht
  · exact ht

theorem execDbgRun_keepsForm (fn : Nat) : KeepsForm (execDbgRun fn s) := by
  refine .next (State.dbgCommand_form _ _ _ _ _ _ (fun t k ht => ?_) h)
  split
  · exact State.setCore_form _ _ ht
  · exact ht

theorem execDbgRead_keepsForm (fn : Nat) (count : W16) : KeepsForm (execDbgRead fn count s) :=
  .next (State.dbgCommand_form _ _ _ _ _ _ (fun _ _ ht => State.mapFn_form _ _ _ ht) h)

theorem execDbgWrite_keepsForm (fn : Nat) (count : W16) : KeepsForm (execDbgWrite fn count s) :=
  .next (State.dbgCommand_form _ _ _ _ _ _ (fun _ _ ht => State.dbgPoke_form _ _ _ _ _ ht) h)

theorem execDbgWriteDiscard_keepsForm (fn : Nat) (count : W16) : KeepsForm (execDbgWriteDiscard fn count s) :=
  .next (State.dbgCommand_form _ _ _ _ _ _ (fun _ _ ht => State.dbgPoke_form _ _ _ _ _ ht) h)

/-! ## The engines -/

theorem cmdFetch_form {r : Run} {fn : Fn} {f : Flight} {c : Command} {tape : BitVec 20} {d : Dir} {rs : List (Nat × Nat)} {sel : List Nat}
    {record : Nat} {t : State} {bs : List Byte} (e : s.cmdFetch r fn f c tape d rs sel record = .ok (t, bs)) : t.Inv := by
  unfold State.cmdFetch at e
  dsimp only at e
  split at e
  · cases e
  split at e
  · cases e; exact h
  split at e
  · cases e
  split at e
  · cases e
  · cases e; exact State.repairRecord_form _ _ _ _ _ _ h

omit h in
theorem cmdFetchAll_form {r : Run} {fn : Fn} {f : Flight} {c : Command} {tape : BitVec 20} {d : Dir} {rs : List (Nat × Nat)}
    {sel : List Nat} (l : List Nat) {s t : State} {recs : List (Nat × List Byte)} (h : s.Inv)
    (e : s.cmdFetchAll r fn f c tape d rs sel l = .ok (t, recs)) : t.Inv := by
  induction l generalizing s recs with
  | nil => cases e; exact h
  | cons k rest ih =>
    unfold State.cmdFetchAll at e
    split at e
    · cases e
    rename_i hk
    split at e
    · cases e
    rename_i hr
    cases e
    exact ih (cmdFetch_form h hk) hr

theorem readElems_form {r : Run} {fn : Fn} {f : Flight} {c : Command} {x : CmdEnd} {w : Nat} {bits : List Int} {sel : List Nat}
    {t : State} {vs : List Nat} (e : s.readElems r fn f c x w bits sel = .ok (t, vs)) : t.Inv := by
  unfold State.readElems at e
  split at e
  · cases e
  cases x with
  | window x =>
    dsimp only at e
    split at e
    · cases e; exact h
    split at e
    · cases e
    split at e
    · cases e
    · cases e; exact h
  | tape tp d =>
    dsimp only at e
    split at e
    · cases e
    · rename_i hf
      cases e
      exact cmdFetchAll_form _ h hf

theorem copyRead_form {r : Run} {fn : Fn} {f : Flight} {c c' : Command} {sel : List Nat} {t : State}
    (e : s.copyRead r fn f c sel = .ok (t, c')) : t.Inv := by
  unfold State.copyRead at e
  dsimp only at e
  split at e
  · split at e
    · cases e
    · cases e
    · rename_i hr _
      have ht := readElems_form h hr
      cases e
      exact ht
  · cases e
  · cases e

omit h in
theorem State.collStart_form (s : State) (r : Run) (fn : Fn) (f : Flight) (x : Context) (c : Command) (sel : List Nat) (h : s.Inv) :
    (s.collStart r fn f x c sel).Inv := by
  unfold State.collStart
  dsimp only
  split
  · exact State.faultRun_form _ _ _ h
  split
  · exact State.faultRun_form _ _ _ h
  · rename_i hr
    exact State.finishColl_form _ _ _ _ _ _ (State.mapContext_form _ _ _ (readElems_form h hr))

omit h in
theorem State.startCommand_form (s : State) (r : Run) (fn : Fn) (f : Flight) (x : Context) (sel : List Nat) (h : s.Inv) :
    (s.startCommand r fn f x sel).Inv := by
  unfold State.startCommand
  split
  · exact h
  split
  · exact State.collStart_form _ _ _ _ _ _ _ h
  split
  · exact State.faultRun_form _ _ _ h
  · rename_i hr
    exact State.mapContext_form _ _ _ (copyRead_form h hr)

theorem execEngineCommandStart_keepsForm (hall : Nat) (coll : Bool) (sel : List Nat) :
    KeepsForm (execEngineCommandStart hall coll sel s) := by
  unfold execEngineCommandStart
  split
  · exact .next h
  split
  · exact .next h
  split
  · exact .next h
  split
  · exact .next (State.startCommand_form _ _ _ _ _ _ (State.setHall_form _ _ h))
  · exact .next h

theorem execCollectiveMatch_keepsForm (run dom : Nat) (remote : List (List W32)) : KeepsForm (execCollectiveMatch run dom remote s) := by
  unfold execCollectiveMatch
  dsimp only
  split
  · exact .next h
  split
  · exact .next h
  · exact .next h
  split
  · exact .next (State.matchColl_form _ _ _ _ _ _ h)
  split
  · exact .next (State.matchColl_form _ _ _ _ _ _ h)
  · exact .next h

omit h in
theorem engineRecord_form (r : Run) (fn : Fn) (f : Flight) (x : Context) (c : Command) (t : BitVec 20) (d : Dir) (s0 : State × List Nat)
    (p : Nat × List (Nat × List Byte)) (h : s0.1.Inv) : (State.engineRecord r fn f x c t d s0 p).1.Inv := by
  unfold State.engineRecord
  dsimp only
  split
  · exact State.arriveHome_form _ _ _ (State.mapRun_form _ _ _ h)
  · exact h

omit h in
theorem engineRecords_form (r : Run) (fn : Fn) (f : Flight) (x : Context) (c : Command) (t : BitVec 20) (d : Dir)
    (l : List (Nat × List (Nat × List Byte))) (s0 : State × List Nat) (h : s0.1.Inv) :
    (l.foldl (State.engineRecord r fn f x c t d) s0).1.Inv := by
  induction l generalizing s0 with
  | nil => exact h
  | cons p rest ih => exact ih _ (engineRecord_form r fn f x c t d s0 p h)

omit h in
theorem State.engineWrite_form (s : State) (r : Run) (fn : Fn) (f : Flight) (x : Context) (c : Command) (h : s.Inv) :
    (s.engineWrite r fn f x c).1.Inv := by
  unfold State.engineWrite
  split
  · exact h
  · exact State.mapFn_form _ _ _ h
  · rename_i t d e
    have hy := engineRecords_form r fn f x c t d (outRecords d c.out) (s, []) h
    dsimp only
    split
    · exact hy
    · refine form_foldl _ _ _ hy (fun u i hu => ?_)
      cases u.place fn f d i with
      | none => exact hu
      | some p => exact State.cleanGranules_form _ _ _ hu

omit h in
theorem State.completeCommand_form (s : State) (r : Run) (fn : Fn) (f : Flight) (x : Context) (c : Command) (h : s.Inv) :
    (s.completeCommand r fn f x c).Inv := by
  have hw := State.engineWrite_form { s with gens := s.gens + 1 } r fn f x (s.freshOut r c) h
  have hg (g : Context → Context) (u : Run → Run) (p : Prop) [Decidable p] :=
    form_ite (p := p) (State.mapContext_form _ x.id g hw) (State.mapRun_form _ r.id u (State.mapContext_form _ x.id g hw))
  unfold State.completeCommand
  cases x.core with
  | some k => exact form_ite (hg _ _ _) (State.mapCore_form _ _ _ (hg _ _ _))
  | none => exact State.feedNodes_form _ _ _ _ _ (State.transformDone_form _ _ _ _ _ (hg _ _ _))

theorem execEngineCommandComplete_keepsForm (ctx : Nat) : KeepsForm (execEngineCommandComplete ctx s) := by
  unfold execEngineCommandComplete
  repeat' split
  all_goals try with_reducible exact .next h
  exact .next (State.completeCommand_form _ _ _ _ _ _ h)

/-! ## Ports, power and trust -/

theorem receive_keepsForm (kind port : Nat) (bytes : List Byte) (act : State → State) (ha : ∀ t : State, t.Inv → (act t).Inv) :
    KeepsForm (s.receive kind port bytes act) := by
  unfold State.receive
  split
  · exact .next h
  split
  · exact .next (State.mapPort_form _ _ _ h)
  split
  · exact .next h
  split
  · exact .next (State.mapPort_form _ _ _ h)
  · exact .next (ha _ (State.mapPort_form _ _ _ h))

theorem execDataFlitReceive_keepsForm (port : Nat) (bytes : List Byte) : KeepsForm (execDataFlitReceive port bytes s) := by
  refine receive_keepsForm h _ _ _ _ (fun t ht => ?_)
  have hp := State.mapPort_form t port (fun p => { p.advance with pauseTx := (Config.freeValue t.free).setWidth 4 }) ht
  exact State.routeFlit_form _ _ _ hp

theorem execControlFlitReceive_keepsForm (port : Nat) (bytes : List Byte) : KeepsForm (execControlFlitReceive port bytes s) :=
  receive_keepsForm h _ _ _ _ (fun _ ht => State.mapPort_form _ _ _ ht)

theorem execIdleFlitReceive_keepsForm (port : Nat) (bytes : List Byte) : KeepsForm (execIdleFlitReceive port bytes s) :=
  receive_keepsForm h _ _ _ _ (fun _ ht => ht)

theorem execReplayRequestReceive_keepsForm (port : Nat) (bytes : List Byte) : KeepsForm (execReplayRequestReceive port bytes s) :=
  receive_keepsForm h _ _ _ _ (fun _ ht => State.mapPort_form _ _ _ ht)

theorem execPauseKeepaliveTimer_keepsForm (port : Nat) : KeepsForm (execPauseKeepaliveTimer port s) := by
  unfold execPauseKeepaliveTimer
  split
  · exact .next (State.mapPort_form _ _ _ h)
  · exact .next h

theorem execPortRxTimeout_keepsForm (port : Nat) : KeepsForm (execPortRxTimeout port s) := by
  unfold execPortRxTimeout
  split
  · exact .next (State.mapPort_form _ _ _ h)
  · exact .next h

theorem execPortRetrainEnd_keepsForm (port : Nat) (ok : Bool) : KeepsForm (execPortRetrainEnd port ok s) := by
  unfold execPortRetrainEnd
  dsimp only
  split
  · exact .next h
  split
  · exact .next (State.mapPort_form _ _ _ h)
  · exact .next (form_foldl _ _ _ (State.mapPort_form _ _ _ h) (fun _ _ ht => State.faultRun_form _ _ _ ht))

theorem execMgmtSample_keepsForm (temps : List Nat) (milliwatts k : Nat) : KeepsForm (execMgmtSample temps milliwatts k s) := by
  unfold execMgmtSample
  split
  · exact .next (State.powerOff_form _ h)
  split
  · exact .next (State.manage_form _ _ h)
  split
  · exact .next (State.manage_form _ _ h)
  · exact .next h

theorem execPackageReset_keepsForm : KeepsForm (execPackageReset s) := by
  have hr := State.resetAll_form s h
  unfold execPackageReset
  dsimp only
  split
  · exact .next (State.recover_form _ hr)
  split
  · exact .next (State.train_form _ _ _ (State.erase_form _ _ _ hr))
  · exact .next (State.recover_form _ (State.erase_form _ _ _ hr))

theorem execPowerTransitionEnd_keepsForm : KeepsForm (execPowerTransitionEnd s) := by
  unfold execPowerTransitionEnd
  repeat' split
  all_goals try with_reducible exact .next h
  exact .next (State.arrivePower_form _ _ (fun _ ht => State.remeasure_form _ ht) h)

theorem execMessageRequestEnd_keepsForm : KeepsForm (execMessageRequestEnd s) := by
  unfold execMessageRequestEnd
  split
  · exact .next (State.serveNext_form _ h)
  · exact .next h

end

end Sys2Proof.Machine
end

section
/-! SUPPORT. Every instruction and event, a core's turn and a step keep the form. -/

namespace Sys2Proof.Machine

/-! ## Every instruction and event -/

theorem exec_keepsForm (i : Instr) {s : State} (h : s.Inv) : KeepsForm (exec i s) := by
  cases hi : soloOf i with
  | some x =>
    rw [exec_solo hi]
    exact issueAlone_keepsForm h _ _ _ i
  | none =>
    cases i with
    | literalBundle hd ws => exact withCtx_keepsForm h _ _ _ _ (fun c hc => c.bundle_form hc)
    | shortCall i_ f_ => exact withCtx_keepsForm h _ _ _ _ (fun c hc => c.call_form _ _ hc)
    | longCall i_ f_ => exact withCtx_keepsForm h _ _ _ _ (fun c hc => c.call_form _ _ hc)
    | dataFlitReceive port bytes => exact execDataFlitReceive_keepsForm h port bytes
    | controlFlitReceive port bytes => exact execControlFlitReceive_keepsForm h port bytes
    | idleFlitReceive port bytes => exact execIdleFlitReceive_keepsForm h port bytes
    | replayRequestReceive port bytes => exact execReplayRequestReceive_keepsForm h port bytes
    | pauseKeepaliveTimer port => exact execPauseKeepaliveTimer_keepsForm h port
    | portRxTimeout port => exact execPortRxTimeout_keepsForm h port
    | pwrReqP0 fn k => exact .next (State.pwrReq_form _ _ _ _ _ h)
    | pwrReqP1 fn k => exact .next (State.pwrReq_form _ _ _ _ _ h)
    | pwrReqP2 fn k => exact .next (State.pwrReq_form _ _ _ _ _ h)
    | pwrReqP3 fn k => exact .next (State.pwrReq_form _ _ _ _ _ h)
    | msgQuote fn => exact .next (State.submitKind_form _ _ _ h)
    | msgExtend fn => exact .next (State.submitKind_form _ _ _ h)
    | msgOpenSession fn => exact .next (State.submitKind_form _ _ _ h)
    | msgCloseSession fn => exact .next (State.submitKind_form _ _ _ h)
    | msgLoadFw fn => exact .next (State.submitKind_form _ _ _ h)
    | msgLoadCfg fn => exact .next (State.submitKind_form _ _ _ h)
    | msgReadLog fn => exact .next (State.submitKind_form _ _ _ h)
    | armStart w => exact execArmStart_keepsForm h w
    | armWait w node => exact execArmWait_keepsForm h w node
    | armResume w node => exact execArmResume_keepsForm h w node
    | flInstall fn flight => exact .next (State.flStart_form _ _ _ _ h)
    | flRemove fn flight => exact .next (State.flStart_form _ _ _ _ h)
    | flStage fn flight => exact .next (State.flStart_form _ _ _ _ h)
    | jcCut fn fnNo flight => exact execJcCut_keepsForm h fn fnNo flight
    | jcResumeHeld fn fnNo flight => exact execJcResumeHeld_keepsForm h fn fnNo flight
    | jcFaultHeld fn fnNo flight => exact execJcFaultHeld_keepsForm h fn fnNo flight
    | jcReadTrap fn fnNo index => exact execJcReadTrap_keepsForm h fn fnNo index
    | dbgHalt fn => exact execDbgHalt_keepsForm h fn
    | dbgStep fn => exact execDbgStep_keepsForm h fn
    | dbgRun fn => exact execDbgRun_keepsForm h fn
    | dbgRead fn count => exact execDbgRead_keepsForm h fn count
    | dbgWrite fn count => exact execDbgWrite_keepsForm h fn count
    | dbgWriteDiscard fn count => exact execDbgWriteDiscard_keepsForm h fn count
    | cqHeadWrite fn v => exact execCqHeadWrite_keepsForm h fn v
    | cqCtlWrite fn v => exact execCqCtlWrite_keepsForm h fn v
    | lnkStatWrite fn port v => exact execLnkStatWrite_keepsForm h fn port v
    | secStatWrite fn v => exact execSecStatWrite_keepsForm h fn v
    | routeWrite fn d v => exact execRouteWrite_keepsForm h fn d v
    | sysSelfWrite fn v => exact execSysSelfWrite_keepsForm h fn v
    | featMaskWrite fn vd v => exact execFeatMaskWrite_keepsForm h fn vd v
    | registerWrite fn off v => exact execRegisterWrite_keepsForm h fn off v
    | completionRecordWrite fn => exact execCompletionRecordWrite_keepsForm h fn
    | msiModerationTimer fn => exact .next (State.mapFn_form _ _ _ h)
    | nexttRequestAccept die pick => exact execNexttRequestAccept_keepsForm h die pick
    | nexttReplyArrive core => exact execNexttReplyArrive_keepsForm h core
    | ageingTimer run node => exact execAgeingTimer_keepsForm h run node
    | preemptTimer run node => exact execPreemptTimer_keepsForm h run node
    | basinTimer run => exact execBasinTimer_keepsForm h run
    | cutTimeout run => exact execCutTimeout_keepsForm h run
    | cutRetryTimer run => exact execCutRetryTimer_keepsForm h run
    | trapRollbackComplete core => exact execTrapRollbackComplete_keepsForm h core
    | resultLanding core => exact .next (State.landNext_form _ _ _ h)
    | headReadLanding core => exact .next (State.landNext_form _ _ _ h)
    | matrixResultLanding core => exact .next (State.landNext_form _ _ _ h)
    | solendDecisionEnd core => exact execSolendDecisionEnd_keepsForm h core
    | replayEntryLanding core => exact .next (State.landNext_form _ _ _ h)
    | checkpointReleaseEnd core => exact execCheckpointReleaseEnd_keepsForm h core
    | handrailLineTrue line => exact execHandrailLineTrue_keepsForm h line
    | handrailRestart line => exact execHandrailRestart_keepsForm h line
    | eventArrival core => exact execEventArrival_keepsForm h core
    | streamProducerResume core => exact execStreamProducerResume_keepsForm h core
    | streamConsumerResume core => exact execStreamConsumerResume_keepsForm h core
    | phyLockLoss port => exact .next (State.mapPort_form _ _ _ h)
    | portRetrainEnd port ok => exact execPortRetrainEnd_keepsForm h port ok
    | mgmtSample temps milliwatts k => exact execMgmtSample_keepsForm h temps milliwatts k
    | kernelNodePlace run node pick => exact execKernelNodePlace_keepsForm h run node pick
    | nextTaskStart core pick => exact execNextTaskStart_keepsForm h core pick
    | taskEnd core => exact execTaskEnd_keepsForm h core
    | transformNodeDispatch run node => exact execTransformNodeDispatch_keepsForm h run node
    | conditionalNodeEval run node => exact execConditionalNodeEval_keepsForm h run node
    | whileNodeEval run node => exact execWhileNodeEval_keepsForm h run node
    | notifyNodeDispatch run node => exact execNotifyNodeDispatch_keepsForm h run node
    | nodeCommit run node => exact execNodeCommit_keepsForm h run node
    | remoteJobFault run => exact execRemoteJobFault_keepsForm h run
    | domainShareExchange run node dom before after => exact execDomainShareExchange_keepsForm h run node dom before after
    | level4LineCompletion line => exact execLevel4LineCompletion_keepsForm h line
    | cutMFormed run => exact execCutMFormed_keepsForm h run
    | cutSFormed run => exact execCutSFormed_keepsForm h run
    | cutImagesWritten run => exact execCutImagesWritten_keepsForm h run
    | cutRunResume run => exact execCutRunResume_keepsForm h run
    | handlerTaskStart trapped => exact execHandlerTaskStart_keepsForm h trapped
    | poisonRepairComplete core => exact execPoisonRepairComplete_keepsForm h core
    | translationShootdown fn flight page => exact execTranslationShootdown_keepsForm h fn flight page
    | softErrorDetected site => exact execSoftErrorDetected_keepsForm h site
    | instructionCacheFill core => exact .next (State.mapCore_form _ _ _ h)
    | dictionaryCacheFill core => exact execDictionaryCacheFill_keepsForm h core
    | targetTableLineFill core => exact execTargetTableLineFill_keepsForm h core
    | extentWalkComplete hall => exact execExtentWalkComplete_keepsForm h hall
    | headRecordArrival core head rec_ sel => exact execHeadRecordArrival_keepsForm h core head rec_ sel
    | cellReadValueArrival core pick => exact execCellReadValueArrival_keepsForm h core pick
    | remainderTransferEnd core => exact .next (State.mapCore_form _ _ _ h)
    | tapeWriteAtHome wid => exact execTapeWriteAtHome_keepsForm h wid
    | cellOpAtVault wid => exact execCellOpAtVault_keepsForm h wid
    | phasePublicationEnd core => exact execPhasePublicationEnd_keepsForm h core
    | engineCommandStart hall coll sel => exact execEngineCommandStart_keepsForm h hall coll sel
    | collectiveMatch run dom remote => exact execCollectiveMatch_keepsForm h run dom remote
    | engineCommandComplete ctx => exact execEngineCommandComplete_keepsForm h ctx
    | functionLevelReset fn => exact .next (State.mapFn_form _ _ _ h)
    | flightOperationEnd fn => exact execFlightOperationEnd_keepsForm h fn
    | remoteCutRequest run => exact execRemoteCutRequest_keepsForm h run
    | packageReset => exact execPackageReset_keepsForm h
    | powerLoss => exact .next (State.powerOff_form _ h)
    | powerTransitionEnd => exact execPowerTransitionEnd_keepsForm h
    | messageRequestEnd => exact execMessageRequestEnd_keepsForm h
    | _ => cases hi

/-! ## A core's turn -/

/-- What a core leaves when it does nothing more on its turn is in the form. -/
def Act.KeepsForm : Act → Prop
  | .rest s => s.Inv
  | _ => True

section
variable {s : State} (h : s.Inv)
include h

theorem fetch_keepsForm (f : Flight) (k : Core) : (s.fetch f k).KeepsForm := by
  unfold State.fetch
  split
  · trivial
  split
  · exact State.fetchTrap_form _ _ _ _ h
  · trivial
  · exact State.fetchTrap_form _ _ _ _ h
  · exact State.endTurn_form _ (State.setCore_form _ _ h)
  split
  · trivial
  · exact State.fetchTrap_form _ _ _ _ h

theorem go_keepsForm (f : Flight) (k : Core) : (s.go f k).KeepsForm := by
  unfold State.go
  split
  · trivial
  split
  · exact State.endTurn_form _ (State.setCore_form _ _ h)
  · exact fetch_keepsForm h f k

theorem stopTurn_keepsForm (k : Core) : (s.stopTurn k).KeepsForm := by
  have hs := State.endTurn_form _ (State.freeze_form s k h)
  unfold State.stopTurn
  split
  · trivial
  split
  · exact State.endTurn_form _ h
  split
  · exact State.landPend_form _ _ _ h
  · exact form_ite (State.faultRun_form _ _ _ hs) hs

theorem act_keepsForm (r : Run) (f : Flight) (k : Core) : (s.act r f k).KeepsForm := by
  have rest : (Act.rest s.endTurn).KeepsForm := State.endTurn_form _ h
  have idle : (s.idleCycle k).KeepsForm := State.endTurn_form _ (State.setCore_form _ _ h)
  have hgo : (s.go f k).KeepsForm := go_keepsForm h f k
  unfold State.act
  split
  · exact State.setCore_form _ _ h
  split
  · exact State.endTurn_form _ (State.stopNow_form _ _ _ h)
  split
  · exact State.endTurn_form _ (State.haltNow_form _ _ h)
  split
  · exact rest
  split
  · exact stopTurn_keepsForm h k
  repeat' split
  all_goals try with_reducible assumption
  all_goals try trivial
  exact State.endTurn_form _ (State.setCore_form _ _ h)

theorem turnAct_keepsForm (c : Nat) : (s.turnAct c).KeepsForm := by
  have rest : (Act.rest ({ s with cur := c } : State).endTurn).KeepsForm := State.endTurn_form _ h
  unfold State.turnAct
  dsimp only
  split
  · exact rest
  split
  · exact rest
  split
  · exact rest
  · exact act_keepsForm (s := { s with cur := c }) h _ _ _

end

/-! ## A step -/

/-- What a step runs it runs in the form, and what it leaves is in the form. -/
def NextAct.KeepsForm : NextAct → Prop
  | .run _ s => s.Inv
  | .rest s => s.Inv
  | .hole _ => True

section
variable {s : State} (h : s.Inv)
include h

theorem coreTurn_keepsForm (c : Nat) : (s.coreTurn c).KeepsForm := by
  have ht := turnAct_keepsForm h c
  unfold State.coreTurn
  split
  · exact h
  · rename_i e
    rw [e] at ht
    exact ht
  · trivial

theorem closeTick_keepsForm : s.closeTick.KeepsForm := by
  unfold State.closeTick
  split
  · exact h
  split
  · exact h
  · exact State.tick_form _ h

theorem poweredAct_keepsForm : s.poweredAct.KeepsForm := by
  unfold State.poweredAct
  split
  · exact h
  split
  · exact h
  split
  · exact coreTurn_keepsForm h _
  · exact closeTick_keepsForm h

theorem nextAct_keepsForm : s.nextAct.KeepsForm := by
  unfold State.nextAct
  split
  · split <;> exact h
  · exact poweredAct_keepsForm h

theorem step_keepsForm : KeepsForm (step s) := by
  have ha := nextAct_keepsForm h
  unfold step
  split
  · rename_i i t e
    rw [e] at ha
    exact exec_keepsForm i ha
  · rename_i t e
    rw [e] at ha
    exact .next ha
  · exact .fault _

end

end Sys2Proof.Machine
end

section
/-! PROOFS. The memories of a core and of the host, and the obligations of their form. -/

namespace Sys2Proof.Machine

/-! ## The memories of a core and of the host -/

/-- Writes one after another keep the canonical form. -/
theorem foldl_write_wf {α : Type} (a : α → Nat) (bs : α → List Byte) (l : List α) {m : Mem} (h : m.wf = true) :
    (l.foldl (fun m x => m.write (a x) (bs x)) m).wf = true := by
  induction l generalizing m with
  | nil => exact h
  | cons x rest ih => exact ih (Mem.write_wf h _ _)

theorem Mem.slice_wf {m : Mem} (h : m.wf = true) (lo len : Nat) : (m.slice lo len).wf = true := by
  obtain ⟨hs, hk⟩ := Mem.wf_iff.mp h
  refine Mem.wf_iff.mpr ⟨?_, ?_⟩
  · have hf : (m.cells.filter (fun c => decide (lo ≤ c.1) && decide (c.1 < lo + len))).Pairwise (fun c d => c.1 < d.1) :=
      (List.pairwise_map.mp hs).filter _
    unfold sortedCells Mem.slice
    rw [List.pairwise_map, List.pairwise_map]
    refine hf.imp_of_mem (fun {c d} hc _ hlt => ?_)
    have hlo : lo ≤ c.1 := by
      have := (List.mem_filter.mp hc).2
      simp only [Bool.and_eq_true, decide_eq_true_eq] at this
      exact this.1
    show c.1 - lo < d.1 - lo
    omega
  · intro c hc
    obtain ⟨d, hd, rfl⟩ := List.mem_map.mp hc
    exact hk d (List.mem_filter.mp hd).1

theorem ringPut_wf (data : List Byte) {m : Mem} (h : m.wf = true) (x : Nat) : (ringPut m x data).wf = true := by
  induction data generalizing m x with
  | nil => exact h
  | cons b bs ih => exact ih (Mem.write_wf h _ _) _

theorem ringFrom_wf (data : List Byte) {m : Mem} (h : m.wf = true) (x : Nat) : (ringFrom x data m).wf = true := by
  induction data generalizing m x with
  | nil => exact h
  | cons b bs ih => exact ih (Mem.write_wf h _ _) _

theorem formed_iff {k : Core} : k.formed ↔ k.gallery.wf = true ∧ k.scratch.wf = true ∧ k.ring.wf = true ∧ k.history.wf = true := by
  simp [Core.formed]

theorem Core.start_formed (no run node gen : Nat) (a : Arch) (id : W64) (dom : List W32) (reached : List Nat) :
    (Core.start no run node a gen id dom reached).formed :=
  formed_iff.mpr ⟨Mem.empty_wf _, Mem.empty_wf _, Mem.empty_wf _, Mem.empty_wf _⟩

theorem Core.land_formed {k : Core} (h : k.formed) (segs : List (Nat × Nat)) (data : List Byte) : (k.land segs data).formed := by
  obtain ⟨hg, hrest⟩ := formed_iff.mp h
  exact formed_iff.mpr ⟨foldl_write_wf _ _ _ hg, hrest⟩

theorem Core.applyUndo_formed {k : Core} (h : k.formed) (u : Undo) : (k.applyUndo u).formed := by
  obtain ⟨hg, hs, hr, hh⟩ := formed_iff.mp h
  unfold Core.applyUndo
  split
  · exact formed_iff.mpr ⟨hg, hs, Mem.write_wf hr _ _, hh⟩
  · exact formed_iff.mpr ⟨Mem.write_wf hg _ _, hs, hr, hh⟩

/-- A fold whose steps keep a core's memories in form keeps them. -/
theorem foldl_formed {α : Type} (f : Core → α → Core) (hf : ∀ k a, k.formed → (f k a).formed) (l : List α) {k : Core} (h : k.formed) :
    (l.foldl f k).formed := by
  induction l generalizing k with
  | nil => exact h
  | cons x rest ih => exact ih (hf _ _ h)

theorem Core.undoAll_formed {k : Core} (h : k.formed) (l : List Undo) : (l.foldl Core.applyUndo k).formed :=
  foldl_formed _ (fun _ u hk => Core.applyUndo_formed hk u) l h

theorem Core.repairLines_formed {k : Core} (h : k.formed) (tape : BitVec 20) (record : Nat) (good : List Byte) :
    (k.repairLines tape record good).formed := by
  have part (k : Core) (n : Nat) (bs : List Byte) (d : BitVec 256) (hk : k.formed) :
      Core.formed { k with gallery := k.gallery.write n bs, dirty := d } := by
    obtain ⟨hg, hrest⟩ := formed_iff.mp hk
    exact formed_iff.mpr ⟨Mem.write_wf hg _ _, hrest⟩
  have all := foldl_formed _ (fun k (g : Tag) hk => foldl_formed _ (fun k (x : Nat × Nat × Nat) hk =>
      part k (256 * g.line + x.2.1) ((good.drop x.1).take x.2.2)
        (dirtyWith k.dirty (256 * g.line + x.2.1, ((good.drop x.1).take x.2.2).length)) hk) g.parts hk)
    (k.tags.filter (fun g => g.tape == tape && g.record == record)) h
  exact all

theorem formed_ite {p : Prop} [Decidable p] {k j : Core} (hk : k.formed) (hj : j.formed) : Core.formed (if p then k else j) := by
  split
  · exact hk
  · exact hj

/-- A core whose memories come of those of a core in form by writes is in form. -/
theorem formed_of_writes {j k : Core} (hj : j.formed) {n a b : Nat} {x y z : List Byte} (hg : k.gallery = j.gallery)
    (hs : k.scratch = j.scratch.write a y) (hr : k.ring = ringFrom n x j.ring) (hh : k.history = j.history.write b z) : k.formed := by
  obtain ⟨jg, js, jr, jh⟩ := formed_iff.mp hj
  exact formed_iff.mpr ⟨hg ▸ jg, hs ▸ Mem.write_wf js _ _, hr ▸ ringFrom_wf _ jr _, hh ▸ Mem.write_wf jh _ _⟩

theorem Core.poke_formed {k : Core} (h : k.formed) (head : List Byte) (off : Nat) (data : List Byte) : (k.poke head off data).formed := by
  have loaded (p : Prop) [Decidable p] (rot : Nat) (img : Nat → Byte) : (if p then k.loadRegs rot img else k).formed := formed_ite h h
  unfold Core.poke
  dsimp only
  refine formed_ite (formed_of_writes (loaded _ _ _) rfl rfl rfl rfl) (Core.land_formed ?_ _ _)
  exact formed_of_writes (loaded _ _ _) rfl rfl rfl rfl

theorem CoreImage.load_formed {im : CoreImage} (h : im.core.formed) (hb : im.bytes.wf = true) : im.load.formed := by
  obtain ⟨-, -, hr, hh⟩ := formed_iff.mp h
  refine formed_iff.mpr ⟨Mem.slice_wf hb _ _, Mem.slice_wf hb _ _, ringFrom_wf _ hr _, ?_⟩
  show (if _ then im.bytes.slice _ _ else im.core.history).wf = true
  split
  · exact Mem.slice_wf hb _ _
  · exact hh

/-! ### Host memory -/

@[simp] theorem Fn.refill_host (f : Fn) : f.refill.host = f.host := by
  unfold Fn.refill
  split <;> rfl

@[simp] theorem Fn.signal_host (f : Fn) (kind tick : Nat) : (f.signal kind tick).host = f.host := by
  unfold Fn.signal
  dsimp only
  split <;> rfl

theorem Fn.writeRecord_host_wf {f : Fn} (h : f.host.wf = true) (tick : Nat) : (f.writeRecord tick).host.wf = true := by
  unfold Fn.writeRecord
  split
  · exact h
  · simpa using Mem.write_wf h _ _

@[simp] theorem State.storeWrite_fns (s : State) (p : Place) (bs : List Byte) : (s.storeWrite p bs).fns = s.fns := by
  unfold State.storeWrite
  split <;> rfl

@[simp] theorem State.cleanGranules_fns (s : State) (p : Place) (n : Nat) : (s.cleanGranules p n).fns = s.fns := rfl

@[simp] theorem State.perform_fns (s : State) (rid : Nat) (w : TapeWrite) : (s.perform rid w).fns = s.fns := by
  unfold State.perform
  dsimp only
  repeat' split
  all_goals simp

@[simp] theorem State.arriveHome_fns (s : State) (rid : Nat) (w : TapeWrite) : (s.arriveHome rid w).fns = s.fns := by
  unfold State.arriveHome
  split <;> simp

theorem engineRecord_fns (r : Run) (fn : Fn) (f : Flight) (x : Context) (c : Command) (t : BitVec 20) (d : Dir) (s0 : State × List Nat)
    (p : Nat × List (Nat × List Byte)) : (State.engineRecord r fn f x c t d s0 p).1.fns = s0.1.fns := by
  unfold State.engineRecord
  split <;> simp

theorem engineRecords_fns (r : Run) (fn : Fn) (f : Flight) (x : Context) (c : Command) (t : BitVec 20) (d : Dir)
    (l : List (Nat × List (Nat × List Byte))) (s0 : State × List Nat) :
    (l.foldl (State.engineRecord r fn f x c t d) s0).1.fns = s0.1.fns := by
  induction l generalizing s0 with
  | nil => rfl
  | cons p rest ih => exact (ih _).trans (engineRecord_fns r fn f x c t d s0 p)

theorem foldl_clean_fns (fn : Fn) (f : Flight) (d : Dir) (l : List Nat) (s : State) :
    (l.foldl (fun s i => ((s.place fn f d i).map (fun p => s.cleanGranules p 64)).getD s) s).fns = s.fns := by
  induction l generalizing s with
  | nil => rfl
  | cons i rest ih =>
    refine (ih _).trans ?_
    show (((s.place fn f d i).map (fun p => s.cleanGranules p 64)).getD s).fns = s.fns
    cases s.place fn f d i <;> rfl

theorem State.engineWrite_hosts_wf {s : State} (h : ∀ g ∈ s.fns, g.host.wf = true) (r : Run) (fn : Fn) (f : Flight) (x : Context)
    (c : Command) : ∀ g ∈ (s.engineWrite r fn f x c).1.fns, g.host.wf = true := by
  unfold State.engineWrite
  split
  · exact h
  · intro g hg
    obtain ⟨g', hg', rfl⟩ := List.mem_map.mp hg
    dsimp only
    split
    · exact foldl_write_wf _ _ _ (h g' hg')
    · exact h g' hg'
  · rename_i t d _
    have hy := engineRecords_fns r fn f x c t d (outRecords d c.out) (s, [])
    dsimp only
    split
    · rw [hy]; exact h
    · rw [foldl_clean_fns, hy]; exact h

end Sys2Proof.Machine

namespace Sys2Proof

open Machine

/-- Settles O2. -/
theorem resetKeepsForm : Obligations.ResetKeepsForm := by
  unfold Obligations.ResetKeepsForm
  exact ⟨Mem.empty_wf 0, Mem.empty_wf 0, by simp [State.reset]⟩

/-- Settles O3: what each plan of a slot instruction and each event does to the state keeps its form, and so does the schedule around
them; the memories of a core and of the host change by writes alone. -/
theorem stepKeepsForm : Obligations.StepKeepsForm := by
  unfold Obligations.StepKeepsForm
  refine ⟨fun s t h e => (step_keepsForm h).inv e, fun k u segs data l x tape head hk => ?_, fun im h hb => im.load_formed h hb,
    fun m a n v data h => ?_, Core.start_formed, fun f tick h => Fn.writeRecord_host_wf h tick, fun s t r fn f x c ws h e => ?_⟩
  · exact ⟨Core.land_formed hk _ _, Core.applyUndo_formed hk _, Core.undoAll_formed hk _, Core.repairLines_formed hk _ _ _,
      Core.poke_formed hk _ _ _⟩
  · exact ⟨Mem.write_wf h _ _, Mem.put_wf h _ _ _, Mem.slice_wf h _ _, ringPut_wf _ h _, ringFrom_wf _ h _⟩
  · have hw := State.engineWrite_hosts_wf h r fn f x c
    rw [e] at hw
    exact hw

end Sys2Proof
end

section
/-! SUPPORT. What a core's job holds, and what the arrivals do in it. -/

namespace Sys2Proof.Machine

/-! ## A core's job -/

theorem runAt_id {s : State} {n : Nat} {r : Run} (h : s.runAt n = some r) : r.id = n := by
  simpa using List.find?_some h

/-- A core's job is that core, its run, the run's function and its flight. -/
theorem coreJob_spec {s : State} {c : Nat} {k : Core} {r : Run} {fn : Fn} {f : Flight} (h : s.coreJob c = some (k, r, fn, f)) :
    s.coreAt c = some k ∧ s.runAt k.run = some r ∧ s.fnAt r.fn = some fn ∧ s.flightOf r = some f := by
  unfold State.coreJob at h
  split at h
  · cases h
  rename_i hk
  split at h
  · cases h
  rename_i hr
  split at h
  · rename_i hfn hf
    cases h
    exact ⟨hk, hr, hfn, hf⟩
  · cases h

theorem coreAt_mapCore {s : State} {n : Nat} {k : Core} (h : s.coreAt n = some k) (g : Core → Core) (hn : (g k).no = n) :
    (s.mapCore n g).coreAt n = some (g k) := by
  unfold State.coreAt at h ⊢
  rw [State.mapCore_cores]
  generalize s.cores = l at h
  induction l with
  | nil => cases h
  | cons x xs ih =>
    by_cases hx : x.no = n
    · have hk : x = k := by simpa [hx] using h
      subst hk
      simp [hx, hn]
    · simpa [hx] using ih (by simpa [hx] using h)

theorem hallAt_no (s : State) (n : Nat) : (s.hallAt n).no = n := by
  unfold State.hallAt
  cases h : s.halls.find? (fun x => x.no == n) with
  | none => rfl
  | some x => simpa using List.find?_some h

theorem hallAt_setHall (s : State) {x : Hall} {n : Nat} (hn : x.no = n) : (s.setHall x).hallAt n = x := by
  subst hn
  unfold State.hallAt State.setHall
  dsimp only
  split
  · rename_i h
    obtain ⟨y, hy, he⟩ := List.any_eq_true.mp h
    generalize s.halls = l at hy
    induction l with
    | nil => cases hy
    | cons z zs ih =>
      by_cases hz : z.no = x.no
      · simp [hz]
      · rcases List.mem_cons.mp hy with rfl | hy
        · exact absurd (by simpa using he) hz
        · simpa [hz] using ih hy
  · rename_i h
    have hn : s.halls.find? (fun y => y.no == x.no) = none := by simpa using h
    simp [List.find?_append, hn]

theorem hallAt_setHall_with (s : State) (n : Nat) (walks : List Walk) (extents : List (Nat × BitVec 20 × Nat)) :
    (s.setHall { s.hallAt n with walks := walks, extents := extents }).hallAt n = { s.hallAt n with walks := walks, extents := extents } :=
  hallAt_setHall s (x := { s.hallAt n with walks := walks, extents := extents }) (hallAt_no s n)

@[simp] theorem State.touchExtent_cores (s : State) (c run : Nat) (t : BitVec 20) (i : Nat) : (s.touchExtent c run t i).cores = s.cores := by
  unfold State.touchExtent
  dsimp only
  split <;> rfl

/-! ## Walks -/

/-- What the end of the oldest walk of a hall comes to. -/
theorem exec_extentWalkComplete {s : State} {n : Nat} {w : Walk} {rest : List Walk} {r : Run} {fn : Fn} {f : Flight} {d : Dir}
    (hw : (s.hallAt n).walks = w :: rest) (hr : s.runAt w.run = some r) (hfn : s.fnAt r.fn = some fn) (hf : s.flightOf r = some f)
    (hd : s.dir f w.tape = some d) :
    exec (.extentWalkComplete n) s =
      let h := s.hallAt n
      let e := s.extEntry f d w.index
      let l := h.extents.filter (fun x => x != (w.run, w.tape, w.index)) ++ [(w.run, w.tape, w.index)]
      if holeEntry d e then .fault (.hbmHole ((fld e 10 18).toNat * 2097152))
      else if (s.extPlace fn d e).isNone then .next (s.setHall { h with walks := rest })
      else .next (s.setHall { h with walks := rest, extents := l.drop (l.length - Config.extentCache) }) := by
  show execExtentWalkComplete n s = _
  unfold execExtentWalkComplete
  simp only [hw, hr, hfn, hf, hd]

/-- The newest entry of a cache is kept. -/
theorem newest_mem_drop {α : Type} (l : List α) (x : α) {n : Nat} (hn : 0 < n) : x ∈ (l ++ [x]).drop ((l ++ [x]).length - n) := by
  rw [List.drop_append_of_le_length (by simp; omega)]
  simp

/-- The newest extent stays in its hall's cache. -/
theorem newest_extent_cached {α : Type} (l : List α) (x : α) : x ∈ (l ++ [x]).drop ((l ++ [x]).length - Config.extentCache) :=
  newest_mem_drop l x (n := Config.extentCache) (Nat.succ_pos 511)

/-! ## Results in flight that a record feeds -/

/-- A result that a record feeds has its data, whatever reads stand before and behind it. -/
theorem feed_mem_feedReads {hit : Pend → Bool} {feed : Pend → Pend} {p : Pend} (hp : hit p = true) (t : BitVec 20)
    (record oldest latest : Nat) (ph : Option (List Nat)) (l : List Pend) (seen : Bool) (hl : p ∈ l) :
    feed p ∈ feedReads hit feed t record oldest latest ph seen l := by
  induction l generalizing seen with
  | nil => cases hl
  | cons q rest ih =>
    rcases List.mem_cons.mp hl with rfl | hl
    · simp [feedReads, hp]
    · exact List.mem_cons_of_mem _ (ih _ hl)

/-- The copy that comes to a head's window changes no result in flight. -/
theorem feedWindow_pend (s : State) (r : Run) (fn : Fn) (f : Flight) (d : Dir) (k : Core) (n : Nat) (h : Head) (record : Nat)
    (sel : List Nat) (b : Bool) :
    ((if b then s.feedWindow r fn f d k n h record sel else none).getD k).pend = k.pend ∧
      ((if b then s.feedWindow r fn f d k n h record sel else none).getD k).no = k.no := by
  cases b with
  | false => exact ⟨rfl, rfl⟩
  | true =>
    rw [if_pos rfl]
    cases e : s.feedWindow r fn f d k n h record sel with
    | none => exact ⟨rfl, rfl⟩
    | some j =>
      unfold State.feedWindow at e
      dsimp only at e
      split at e
      · obtain ⟨x, -, rfl⟩ := Option.map_eq_some_iff.mp e
        exact ⟨rfl, rfl⟩
      split at e
      · cases e
      · obtain ⟨x, -, rfl⟩ := Option.map_eq_some_iff.mp e
        exact ⟨rfl, rfl⟩

/-- A read that waits for a record gets it: its core's results in flight are those that the record feeds. -/
theorem recordArrives_feeds {s : State} {r : Run} {fn : Fn} {f : Flight} {k : Core} {n record : Nat} {sel : List Nat}
    {w : BitVec 20 × Nat × Option Nat × Nat × Option (List Nat)} {d : Dir} {fed : Core} (hk : s.coreAt k.no = some k)
    (hw : k.pend.findSome? (fun p => p.wants n record) = some w) (hd : s.dir f w.1 = some d)
    (hc : s.extCached k.no r.id w.1 (d.extentOf record) = true) (hf : s.feedRead r fn f d k n record w sel = some fed) (hno : fed.no = k.no) :
    ∃ k', (s.recordArrives r fn f k n record sel false).1.coreAt k.no = some k' ∧ k'.pend = fed.pend := by
  have hcore : (s.touchExtent k.no r.id w.1 (d.extentOf record)).coreAt k.no = some k := by
    unfold State.coreAt
    rw [State.touchExtent_cores]
    exact hk
  unfold State.recordArrives
  simp only [hw, Option.map_some, Option.getD_some, hd, Option.isNone_some, Bool.false_and, Bool.false_eq_true, if_false, hc, Bool.not_true,
    Option.bind_some, hf]
  obtain ⟨hpend, hsame⟩ := feedWindow_pend s r fn f d fed n (k.arch.heads.getD n Head.detached) record sel _
  exact ⟨_, coreAt_setCore hcore (hsame.trans hno), hpend⟩

/-- What a record read for the oldest read that waits for it brings: every result in flight that wants the same has its data. -/
theorem feedRead_feeds {s : State} {r : Run} {fn : Fn} {f : Flight} {d : Dir} {k : Core} {n record bound floor : Nat} {t : BitVec 20}
    {cap : Option Nat} {ph : Option (List Nat)} {sel : List Nat} {data : List Byte} {bad : List Nat} {v : Nat × Nat}
    (hfl : r.recordInFlight k t record (some bound) = false)
    (hread : s.readRecord r fn f d t record { reached := ph.getD k.phase, own := k.no, floor := floor, bound := some bound, cap := cap } sel =
      some (data, bad, v)) :
    ∃ fed, s.feedRead r fn f d k n record (t, bound, cap, floor, ph) sel = some fed ∧ fed.no = k.no ∧
      ∀ p ∈ k.pend, p.wants n record = some (t, bound, cap, floor, ph) → p.feed data bad ∈ fed.pend := by
  have hmem (p : Pend) (hp : p ∈ k.pend) (hw : p.wants n record = some (t, bound, cap, floor, ph)) :
      p.feed data bad ∈ feedReads (fun p => p.wants n record == some (t, bound, cap, floor, ph)) (fun p => p.feed data bad) t record v.1 v.2 ph
        false k.pend := feed_mem_feedReads (feed := fun p => p.feed data bad) (by simp [hw]) _ _ _ _ _ _ _ hp
  unfold State.feedRead
  rw [if_neg (by simp [hfl])]
  simp only [hread, Option.map_some]
  cases ph with
  | none => exact ⟨_, rfl, rfl, hmem⟩
  | some q => exact ⟨_, rfl, rfl, hmem⟩

/-! ## Released work at its home -/

/-- What heads the work on its way is the first of its core's to its home. -/
theorem firstHome_head (s : State) {r : Run} {x : Flying} {rest : List Flying} (h : r.flying = x :: rest) :
    s.firstHome r x.by_.2 = true := by
  unfold State.firstHome
  simp [h]

theorem tapeHome_head {s : State} {r : Run} {w : TapeWrite} {rest : List Flying} (h : r.flying = .tape w :: rest) :
    s.tapeHome r w.wid = s.landTape r.id w := by
  have hf := firstHome_head s h
  unfold State.tapeHome
  simp only [h, List.findSome?_cons, beq_self_eq_true, if_true]
  exact if_pos hf

theorem cellHome_head {s : State} {r : Run} {wid core : Nat} {ops : List CellOp} {rest : List Flying}
    (h : r.flying = .cell wid core ops :: rest) (hb : s.readBefore r.id core wid = false) :
    s.cellHome r wid = match applyOps wid core ops r.arrays with
      | some as => s.mapRun r.id (fun r => { r with arrays := as, flying := r.flying.filter (fun x => !x.isCell wid) })
      | none => s.faultRun r.id 0x08 := by
  have hf : s.firstHome r wid = true := firstHome_head s h
  unfold State.cellHome
  simp only [h, List.findSome?_cons, beq_self_eq_true, if_true, hf, hb, Bool.not_true, Bool.or_self, Bool.false_eq_true, if_false]
  cases applyOps wid core ops r.arrays <;> rfl

theorem readBefore_idle {s : State} {core : Nat} (h : ∀ x ∈ s.cores, x.no = core → x.pend = []) (rid wid : Nat) :
    s.readBefore rid core wid = false := by
  unfold State.readBefore
  rw [List.any_eq_false]
  intro x hx
  by_cases hn : x.no = core
  · simp [h x hx hn]
  · simp [hn]

end Sys2Proof.Machine
end

section
/-! PROOFS. Fills and arrivals. -/

namespace Sys2Proof.Machine

/-! ## What each arrival brings -/

section
variable {s : State} {core : Nat} {k : Core} {r : Run} {fn : Fn} {f : Flight} (hj : s.coreJob core = some (k, r, fn, f))
include hj

theorem instructionCacheFill_arrives {l : Nat} (hs : k.stage = .frozen (.icache l)) :
    ∃ t, exec (.instructionCacheFill core) s = .next t ∧ { t with cores := s.cores } = s ∧
      t.coreAt core = some { k with icache := insertNat l k.icache, stage := .run } := by
  obtain ⟨hk, -⟩ := coreJob_spec hj
  have hno : k.no = core := coreAt_no hk
  refine ⟨_, rfl, rfl, ?_⟩
  rw [coreAt_mapCore hk _ (by rw [hs]; exact hno), hs]
  rfl

theorem dictFill_arrives {va a : Nat} (hc : f.code va = some a) (ha : a < hbmSize) :
    s.dictFill k va = .next (s.setCore { k with dcache := cacheWith k.dcache va, stage := .run }) := by
  obtain ⟨-, hr, -, hf⟩ := coreJob_spec hj
  have hn : ¬ hbmSize ≤ a := Nat.not_le.mpr ha
  unfold State.dictFill
  simp only [hr, Option.bind_some, hf, hc, if_neg hn, Core.thaw]

theorem dictionaryCacheFill_dict {va : Nat} (hs : k.stage = .frozen (.dict va)) :
    exec (.dictionaryCacheFill core) s = s.dictFill k va := by
  obtain ⟨hk, -⟩ := coreJob_spec hj
  show execDictionaryCacheFill core s = _
  simp only [execDictionaryCacheFill, hk, hs]

theorem targetTableLineFill_targets {line : Nat} (hs : k.stage = .frozen (.targets line)) :
    exec (.targetTableLineFill core) s = s.dictFill k line := by
  obtain ⟨hk, -⟩ := coreJob_spec hj
  show execTargetTableLineFill core s = _
  simp only [execTargetTableLineFill, hk, hs]

theorem extentWalk_of_job {w : Walk} {rest : List Walk} {d : Dir} {n : Nat} (hw : (s.hallAt n).walks = w :: rest) (hid : w.run = r.id)
    (hd : s.dir f w.tape = some d) :
    exec (.extentWalkComplete n) s =
      let h := s.hallAt n
      let e := s.extEntry f d w.index
      let l := h.extents.filter (fun x => x != (r.id, w.tape, w.index)) ++ [(r.id, w.tape, w.index)]
      if holeEntry d e then .fault (.hbmHole ((fld e 10 18).toNat * 2097152))
      else if (s.extPlace fn d e).isNone then .next (s.setHall { h with walks := rest })
      else .next (s.setHall { h with walks := rest, extents := l.drop (l.length - Config.extentCache) }) := by
  obtain ⟨-, hr, hfn, hf⟩ := coreJob_spec hj
  have hrun : s.runAt w.run = some r := by rw [hid, runAt_id hr]; exact hr
  rw [← hid]
  exact exec_extentWalkComplete hw hrun hfn hf hd

theorem extentWalk_hole {w : Walk} {rest : List Walk} {d : Dir} {n : Nat} (hw : (s.hallAt n).walks = w :: rest) (hid : w.run = r.id)
    (hd : s.dir f w.tape = some d) (hh : holeEntry d (s.extEntry f d w.index) = true) :
    exec (.extentWalkComplete n) s = .fault (.hbmHole ((fld (s.extEntry f d w.index) 10 18).toNat * 2097152)) := by
  rw [extentWalk_of_job hj hw hid hd]
  exact if_pos hh

theorem extentWalk_present {w : Walk} {rest : List Walk} {d : Dir} {n : Nat} (hw : (s.hallAt n).walks = w :: rest) (hid : w.run = r.id)
    (hd : s.dir f w.tape = some d) (hh : holeEntry d (s.extEntry f d w.index) = false)
    (hp : (s.extPlace fn d (s.extEntry f d w.index)).isSome = true) :
    ∃ u, exec (.extentWalkComplete n) s = .next u ∧ (u.hallAt n).walks = rest ∧ (r.id, w.tape, w.index) ∈ (u.hallAt n).extents ∧
      { u with halls := s.halls } = s := by
  refine ⟨_, (extentWalk_of_job hj hw hid hd).trans ((if_neg (by simp [hh])).trans (if_neg (by simp [Option.isSome_iff_ne_none.mp hp]))), ?_⟩
  rw [hallAt_setHall_with]
  refine ⟨rfl, ?_, rfl⟩
  dsimp only
  exact newest_extent_cached _ _

theorem extentWalk_absent {w : Walk} {rest : List Walk} {d : Dir} {n : Nat} (hw : (s.hallAt n).walks = w :: rest) (hid : w.run = r.id)
    (hd : s.dir f w.tape = some d) (hh : holeEntry d (s.extEntry f d w.index) = false)
    (hp : (s.extPlace fn d (s.extEntry f d w.index)).isSome = false) :
    ∃ u, exec (.extentWalkComplete n) s = .next u ∧ (u.hallAt n).walks = rest ∧ (u.hallAt n).extents = (s.hallAt n).extents ∧
      { u with halls := s.halls } = s := by
  refine ⟨_, (extentWalk_of_job hj hw hid hd).trans ((if_neg (by simp [hh])).trans (if_pos (by simpa using hp))), ?_⟩
  rw [hallAt_setHall_with]
  exact ⟨rfl, rfl, rfl⟩

theorem headRecordArrival_feeds {n record len bound floor : Nat} {t : BitVec 20} {cap : Option Nat} {ph : Option (List Nat)} {d : Dir}
    {sel : List Nat} {data : List Byte} {bad : List Nat} {v : Nat × Nat} {p : Pend}
    (hw : k.pend.findSome? (fun p => p.wants n record) = some (t, bound, cap, floor, ph)) (hd : s.dir f t = some d)
    (hfl : r.recordInFlight k t record (some bound) = false) (hc : s.extCached core r.id t (d.extentOf record) = true)
    (hread : s.readRecord r fn f d t record { reached := ph.getD k.phase, own := core, floor := floor, bound := some bound, cap := cap } sel =
      some (data, bad, v)) (hp : p ∈ k.pend) (hneed : p.need = .record n t record len bound cap floor ph) :
    ∃ u k', exec (.headRecordArrival core n record sel) s = .next u ∧ u.coreAt core = some k' ∧
      { p with data := data.take len, poison := granuleRanges bad, need := .ready } ∈ k'.pend := by
  obtain ⟨hk, -⟩ := coreJob_spec hj
  have hno := coreAt_no hk
  rw [← hno] at hk hc hread
  obtain ⟨fed, hfed, hsame, hfeeds⟩ := feedRead_feeds (n := n) hfl hread
  obtain ⟨k', hk', hpend⟩ := recordArrives_feeds hk hw hd hc hfed hsame
  refine ⟨_, k', ?_, hno ▸ hk', ?_⟩
  · show execHeadRecordArrival core n record sel s = _
    simp only [execHeadRecordArrival, hj]
  · have hin := hfeeds p hp (by simp [Pend.wants, hneed])
    rw [hpend]
    simpa only [Pend.feed, hneed] using hin

theorem streamProducerResume_goes {t : BitVec 20} (hs : k.stage = .frozen (.streamFull t)) (hready : s.streamReady r f (.streamFull t) = true) :
    exec (.streamProducerResume core) s = .next (s.setCore { k with stage := .run }) := by
  show execStreamProducerResume core s = _
  simp only [execStreamProducerResume, hj, hs, hready, if_true]
  rfl

theorem streamConsumerResume_goes {t : BitVec 20} (hs : k.stage = .frozen (.streamEmpty t)) (hready : s.streamReady r f (.streamEmpty t) = true) :
    exec (.streamConsumerResume core) s = .next (s.setCore { k with stage := .run }) := by
  show execStreamConsumerResume core s = _
  simp only [execStreamConsumerResume, hj, hs, hready, if_true]
  rfl

theorem cellReadValueArrival_eq (pick : List Nat) : exec (.cellReadValueArrival core pick) s = .next (s.cellValue r k pick) := by
  show execCellReadValueArrival core pick s = _
  simp only [execCellReadValueArrival, hj]

theorem cellValue_cells {p : Pend} {array bound : Nat} {frac : Option Nat} {bf : Bool} {ls : List CellLane} (pick : List Nat)
    (hp : k.pend.find? (fun p => p.need.cause == .cell) = some p) (hneed : p.need = .cells array bound frac bf ls) (hfl : r.flying = []) :
    ∃ k', (s.cellValue r k pick).coreAt core = some k' ∧
      { p with data := (ls.map (k.cellLane r.arrays array bound frac bf pick)).flatMap (leBytes 4), need := .ready } ∈ k'.pend := by
  obtain ⟨hk, -⟩ := coreJob_spec hj
  unfold State.cellValue
  simp only [hp, hneed, hfl, List.any_nil, Bool.false_eq_true, if_false]
  have hno : k.no = core := coreAt_no hk
  refine ⟨_, coreAt_setCore hk hno, ?_⟩
  exact List.mem_map.mpr ⟨p, List.mem_of_find?_eq_some hp, by simp⟩

end

theorem cellValue_status {s : State} {r : Run} {k : Core} {p : Pend} {array : Nat} (pick : List Nat)
    (hp : k.pend.find? (fun p => p.need.cause == .cell) = some p) (hneed : p.need = .status array) :
    s.cellValue r k pick = s.setCore { k with pend := k.pend.map (fun x => if x == p then
      { p with val := ((r.arrays.find? (fun x => x.id == array)).map CellArray.desc).getD 0, need := .ready } else x) } := by
  unfold State.cellValue
  simp only [hp, hneed]

theorem tapeWriteAtHome_performs {s : State} {r : Run} {w : TapeWrite} {rest : List Flying}
    (hr : s.runs.find? (fun r => r.flying.any (fun x => x.isTape w.wid)) = some r) (hfl : r.flying = .tape w :: rest)
    (hs : s.spilledOn r.id w.tape w.record = false) :
    exec (.tapeWriteAtHome w.wid) s =
      .next ((s.perform r.id w).mapRun r.id (fun r => { r with flying := r.flying.filter (fun x => !x.isTape w.wid) })) := by
  show execTapeWriteAtHome w.wid s = _
  unfold execTapeWriteAtHome
  simp only [hr, tapeHome_head hfl, State.landTape, State.arriveHome, hs, Bool.false_eq_true, if_false]

theorem cellOpAtVault_applies {s : State} {core wid : Nat} {r : Run} {ops : List CellOp} {rest : List Flying}
    (hr : s.runs.find? (fun r => r.flying.any (fun x => x.isCell wid)) = some r) (hfl : r.flying = .cell wid core ops :: rest)
    (hidle : ∀ x ∈ s.cores, x.no = core → x.pend = []) :
    exec (.cellOpAtVault wid) s = .next (match applyOps wid core ops r.arrays with
      | some as => s.mapRun r.id (fun r => { r with arrays := as, flying := r.flying.filter (fun x => !x.isCell wid) })
      | none => s.faultRun r.id 0x08) := by
  show execCellOpAtVault wid s = _
  unfold execCellOpAtVault
  simp only [hr]
  rw [cellHome_head hfl (readBefore_idle hidle _ _)] <;> rfl

end Sys2Proof.Machine

namespace Sys2Proof

open Machine

/-- Settles O50, an arrival at a time. -/
theorem fillsAndArrivals : Obligations.FillsAndArrivals := by
  unfold Obligations.FillsAndArrivals
  intro s core k r fn f hj
  refine ⟨fun l hs => instructionCacheFill_arrives hj hs, fun va a hc ha => ⟨fun hs => ?_, fun hs => ?_⟩, fun w rest d hw hid hd => ?_,
    fun n t record len sel d data bad v p bound cap fl ph hw hd hfl hc hread hp hneed =>
      headRecordArrival_feeds hj hw hd hfl hc hread hp hneed,
    fun t hs hready => streamProducerResume_goes hj hs hready, fun t hs hready => streamConsumerResume_goes hj hs hready,
    fun w rest hr hfl hs => tapeWriteAtHome_performs hr hfl hs, fun wid ops rest hr hfl hidle => cellOpAtVault_applies hr hfl hidle,
    fun p pick array hp hneed => ?_, fun p pick array bound frac bf ls hp hneed hfl => ?_⟩
  · rw [dictionaryCacheFill_dict hj hs, dictFill_arrives hj hc ha]
  · rw [targetTableLineFill_targets hj hs, dictFill_arrives hj hc ha]
  · exact ⟨extentWalk_hole hj hw hid hd, extentWalk_present hj hw hid hd, extentWalk_absent hj hw hid hd⟩
  · rw [cellReadValueArrival_eq hj, cellValue_status pick hp hneed]
  · obtain ⟨k', hk', hin⟩ := cellValue_cells hj pick hp hneed hfl
    exact ⟨_, k', cellReadValueArrival_eq hj pick, hk', hin⟩

end Sys2Proof
end

section
/-! SUPPORT. Ports and functions by their numbers, and a function that answers. -/

namespace Sys2Proof.Machine

/-! ## Ports -/

/-- A change of one port is a change of one place of their list. -/
theorem State.mapPort_eq (s : State) (n : Nat) (g : Port → Port) : s.mapPort n g = { s with ports := s.ports.modify n g } := by
  have hl : s.ports.zipIdx.map (fun x => if x.2 == n then g x.1 else x.1) = s.ports.modify n g := by
    apply List.ext_getElem?
    intro i
    rw [List.getElem?_modify, List.getElem?_map, List.getElem?_zipIdx]
    cases s.ports[i]? with
    | none => rfl
    | some p =>
      by_cases hi : n = i
      · subst hi; simp
      · simp [hi, Ne.symm hi]
  unfold State.mapPort
  rw [hl]

theorem portAt_mapPort {s : State} {n : Nat} (h : n < s.ports.length) (g : Port → Port) : (s.mapPort n g).portAt n = g (s.portAt n) := by
  rw [State.mapPort_eq]
  simp [State.portAt, List.getD_eq_getElem?_getD, h]

theorem portAt_mapPort_ne (s : State) {n m : Nat} (h : m ≠ n) (g : Port → Port) : (s.mapPort n g).portAt m = s.portAt m := by
  rw [State.mapPort_eq]
  simp [State.portAt, List.getD_eq_getElem?_getD, List.getElem?_modify_ne, Ne.symm h]

theorem State.mapPort_mapPort (s : State) (n : Nat) (g h : Port → Port) : (s.mapPort n g).mapPort n h = s.mapPort n (fun p => h (g p)) := by
  simp only [State.mapPort_eq, List.modify_modify_eq]
  rfl

/-- Two changes that do the same to the port at `n` do the same to the state. -/
theorem State.mapPort_congr {s : State} {n : Nat} {g h : Port → Port} (e : g (s.portAt n) = h (s.portAt n)) : s.mapPort n g = s.mapPort n h := by
  have hl : s.ports.modify n g = s.ports.modify n h := by
    apply List.ext_getElem?
    intro i
    by_cases hi : n = i
    · subst hi
      cases hp : s.ports[n]? with
      | none => simp [hp]
      | some p =>
        have hs : s.portAt n = p := by simp [State.portAt, List.getD_eq_getElem?_getD, hp]
        rw [hs] at e
        simp [hp, e]
    · simp [List.getElem?_modify_ne, hi]
  rw [State.mapPort_eq, State.mapPort_eq, hl]

/-! ## Functions -/

theorem fnAt_no {s : State} {n : Nat} {f : Fn} (h : s.fnAt n = some f) : f.no = n := by
  simpa using List.find?_some h

theorem fnAt_mapFn {s : State} {n : Nat} {f : Fn} (h : s.fnAt n = some f) (g : Fn → Fn) (hg : ∀ x, (g x).no = x.no) :
    (s.mapFn n g).fnAt n = some (g f) := by
  have hp : (fun x : Fn => x.no == n) ∘ (fun x => if x.no == n then g x else x) = fun x => x.no == n := by
    funext x
    by_cases hx : x.no = n
    · simp [hx, hg]
    · simp [hx]
  have hm := congrArg (Option.map (fun x => if x.no == n then g x else x)) h
  unfold State.fnAt at hm ⊢
  rw [State.mapFn_fns, List.find?_map, hp, hm]
  simp [fnAt_no h]

/-- What it means that a function answers: the part is not in recovery mode, and it is no companion. -/
theorem answering_iff {s : State} {n : Nat} {f : Fn} :
    s.answering n = some f ↔ s.rot.recovery = false ∧ s.fnAt n = some f ∧ f.companion = false := by
  unfold State.answering State.bar0
  cases hr : s.rot.recovery <;> simp [Option.filter_eq_some_iff]

theorem bar0_of_answering {s : State} {n : Nat} {f : Fn} (h : s.answering n = some f) : s.bar0 n = some f := by
  obtain ⟨-, hf, hc⟩ := answering_iff.mp h
  simp [State.bar0, hf, hc, Option.filter]

end Sys2Proof.Machine
end

section
/-! PROOFS. The package at reset, and lnk_stat. -/

namespace Sys2Proof.Machine

/-! ## Reset -/

theorem reset_features (fn : Nat) : State.reset.features fn = 0xFF := by
  unfold State.features
  split
  · have hm : State.reset.featMask.getD (fn - 1) 0 = 0 := by
      simp only [State.reset, List.getD_eq_getElem?_getD, List.getElem?_replicate]
      split <;> rfl
    rw [hm]
    rfl
  · rfl

/-! ## lnk_stat -/

/-- The register's fields below bit 30 keep within their places. -/
theorem Port.status_toNat (p : Port) : p.status.toNat = p.stage.code * 2 ^ 30 + min 4095 p.replayCount * 256 + p.downEvent.toNat * 128 +
    p.retrain.toNat * 64 + p.replayLimit.toNat * 32 + (p.pauseRx != 0).toNat * 16 + (p.pauseTx != 0).toNat * 8 := by
  have hc : p.stage.code ≤ 3 := by cases p.stage <;> decide
  have hd := p.downEvent.toNat_le
  have hr := p.retrain.toNat_le
  have hl := p.replayLimit.toNat_le
  have hx := (p.pauseRx != 0).toNat_le
  have ht := (p.pauseTx != 0).toNat_le
  unfold Port.status
  rw [BitVec.toNat_ofNat]
  omega

theorem fld_toNat {n : Nat} (w : BitVec n) (lo len : Nat) : (fld w lo len).toNat = w.toNat / 2 ^ lo % 2 ^ len := by
  simp [fld, Nat.shiftRight_eq_div_pow]

theorem fld_eq_zero {n : Nat} {w : BitVec n} {lo len : Nat} (h : w.toNat / 2 ^ lo % 2 ^ len = 0) : fld w lo len = 0 :=
  BitVec.eq_of_toNat_eq ((fld_toNat w lo len).trans h)

/-- A bit whose weight counts one flag. -/
theorem getLsbD_of_div {n : Nat} {w : BitVec n} {i : Nat} {b : Bool} (h : w.toNat / 2 ^ i % 2 = b.toNat) : w.getLsbD i = b := by
  rw [BitVec.getLsbD, Nat.testBit_eq_decide_div_mod_eq, h]
  cases b <;> rfl

/-- Every field of lnk_stat (Table 1.4). -/
theorem Port.status_fields (p : Port) :
    (fld p.status 30 2).toNat = p.stage.code ∧ fld p.status 20 10 = 0 ∧ (fld p.status 8 12).toNat = min 4095 p.replayCount ∧
    p.status.getLsbD 7 = p.downEvent ∧ p.status.getLsbD 6 = p.retrain ∧ p.status.getLsbD 5 = p.replayLimit ∧
    p.status.getLsbD 4 = (p.pauseRx != 0) ∧ p.status.getLsbD 3 = (p.pauseTx != 0) ∧ fld p.status 0 3 = 0 := by
  have hs := p.status_toNat
  have hc : p.stage.code ≤ 3 := by cases p.stage <;> decide
  have hd := p.downEvent.toNat_le
  have hr := p.retrain.toNat_le
  have hl := p.replayLimit.toNat_le
  have hx := (p.pauseRx != 0).toNat_le
  have ht := (p.pauseTx != 0).toNat_le
  refine ⟨(fld_toNat _ _ _).trans ?_, fld_eq_zero ?_, (fld_toNat _ _ _).trans ?_, getLsbD_of_div ?_, getLsbD_of_div ?_, getLsbD_of_div ?_,
    getLsbD_of_div ?_, getLsbD_of_div ?_, fld_eq_zero ?_⟩
  all_goals rw [hs]; omega

/-- What a function reads at the offset of lnk_stat. -/
theorem readBar0_lnkStat {s : State} (f : Fn) {n : Nat} (hn : n < 16) (hr : s.rot.recovery = false) :
    s.readBar0 f (0x40000 + 0x100 * n) = only0 f.no (s.portAt n).status.toNat := by
  have hne (a : Nat) (h : a < 0x40000 ∨ 0x41000 ≤ a) : (0x40000 + 0x100 * n = a) = False := eq_false (by omega)
  have hle (a : Nat) (h : 0x41000 ≤ a) : (a ≤ 0x40000 + 0x100 * n) = False := eq_false (by omega)
  have hlt (a : Nat) (h : a ≤ 0x40000) : (0x40000 + 0x100 * n < a) = False := eq_false (by omega)
  have hin : (decide (0x40000 ≤ 0x40000 + 0x100 * n) && decide (0x40000 + 0x100 * n < 0x41000) &&
      decide ((0x40000 + 0x100 * n) % 0x100 = 0)) = true := by
    simp only [Bool.and_eq_true, decide_eq_true_eq]
    omega
  have hport : (0x40000 + 0x100 * n - 0x40000) / 0x100 = n := by omega
  unfold State.readBar0
  cases hc : f.companion with
  | true =>
    have h31 : f.no = 31 := by simpa [Fn.companion] using hc
    rw [if_pos rfl, if_neg (by omega), only0, if_neg (by omega)]
  | false =>
    simp (disch := omega) only [hne, hle, hlt, hin, hr, hport, decide_false, Bool.false_and, Bool.and_false, Bool.false_eq_true, if_true, if_false]

theorem lnkStatWrite_pf {s : State} {g : Fn} (hr : s.rot.recovery = false) (hg : s.fnAt 0 = some g) (n : Nat) (v : W32) :
    exec (.lnkStatWrite 0 n v) s = .next (s.mapPort n (fun p => p.clearFlags v)) := by
  have ha : s.answering 0 = some g := answering_iff.mpr ⟨hr, hg, by simp [Fn.companion, fnAt_no hg]⟩
  show execLnkStatWrite 0 n v s = _
  simp [execLnkStatWrite, ha]

theorem lnkStatWrite_other (s : State) {m : Nat} (hm : m ≠ 0) (n : Nat) (v : W32) : exec (.lnkStatWrite m n v) s = .next s := by
  show execLnkStatWrite m n v s = _
  unfold execLnkStatWrite
  split
  · rfl
  · rw [if_neg hm]

end Sys2Proof.Machine

namespace Sys2Proof

open Machine

/-- Settles O1: all but the ports, the feature masks and the measurements stands in the state's own text. -/
theorem resetState : Obligations.ResetState := by
  unfold Obligations.ResetState
  dsimp only
  refine ⟨rfl, rfl, rfl, rfl, rfl, rfl, rfl, rfl, rfl, rfl, rfl, rfl, rfl, rfl, rfl, rfl, fun p hp => ?_, fun _ => rfl, reset_features, rfl, rfl,
    rfl, rfl, rfl, rfl, fun m hm => List.eq_of_mem_replicate hm, rfl, fun _ => ⟨rfl, rfl⟩⟩
  obtain rfl : p = Port.reset := List.eq_of_mem_replicate hp
  exact ⟨rfl, rfl, rfl, rfl, rfl, rfl, rfl, rfl, rfl⟩

/-- Settles O43: each field of the register at its place, then who may write it. -/
theorem linkStatus : Obligations.LinkStatus := by
  unfold Obligations.LinkStatus
  intro s f n v
  dsimp only
  intro hn hr
  rw [readBar0_lnkStat f hn hr]
  refine ⟨fun h0 => ?_, fun h0 => if_neg h0, by decide, by decide, by decide, by decide, fun g hg => lnkStatWrite_pf hr hg n v,
    fun m _ hm _ => lnkStatWrite_other s hm n v⟩
  obtain ⟨hstage, hrest⟩ := (s.portAt n).status_fields
  rw [only0, if_pos h0, BitVec.ofNat_toNat, BitVec.setWidth_eq]
  refine ⟨BitVec.eq_of_toNat_eq (hstage.trans ?_), hrest⟩
  cases (s.portAt n).stage <;> rfl

end Sys2Proof
end

section
/-! PROOFS. The peer ports. -/

namespace Sys2Proof.Machine

/-! ## Flits that arrive -/

theorem portAt_withFree (s : State) (x n : Nat) : ({ s with free := x } : State).portAt n = s.portAt n := rfl

/-- A drawn free value between two changes of a port. -/
theorem mapPort_withFree (s : State) (n : Nat) (g h : Port → Port) (x : Nat) :
    ({ s.mapPort n g with free := x } : State).mapPort n h = { s.mapPort n (fun p => h (g p)) with free := x } :=
  congrArg (fun t : State => { t with free := x }) (State.mapPort_mapPort s n g h)

/-- A data flit whose payload names this package is delivered. -/
theorem routeFlit_here {s : State} {me n : Nat} {b : List Byte} (hme : s.sysId = some me)
    (hd : leVal ((flitPayload b).take 4) % 4096 = me) : s.routeFlit n b = s.deliver n (flitLane b) (flitPayload b) := by
  simp [State.routeFlit, hme, hd]

section
variable {s : State} {n : Nat} {b : List Byte} (hup : (s.portAt n).stage = .up) (hn : n < 16)
include hup hn

/-- An intact flit of its kind that is next in order does what one of its kind does. -/
theorem receive_accepts {kind : Nat} (act : State → State) (hp : flitPasses b = true) (hq : flitSeq b = (s.portAt n).rxSeq)
    (hk : flitKind b = kind) : s.receive kind n b act = .next (act (s.mapPort n (fun p => p.heed s.pcyc b))) := by
  unfold State.receive
  simp [hup, hp, hq, hk, Nat.not_le.mpr hn]

/-- A flit that fails its check, and one of its kind that is out of order, are discarded. -/
theorem receive_discards {kind : Nat} (act : State → State)
    (hb : flitPasses b = false ∨ (flitKind b = kind ∧ flitSeq b ≠ (s.portAt n).rxSeq)) :
    s.receive kind n b act = .next (s.mapPort n (fun p => p.discard s.pcyc)) := by
  unfold State.receive
  cases hp : flitPasses b with
  | false => simp [hup, Nat.not_le.mpr hn]
  | true =>
    obtain ⟨hk, hq⟩ := hb.resolve_left (by simp [hp])
    simp [hup, hk, hq, Nat.not_le.mpr hn]

/-- A data flit in order for this package is delivered, and the sequence number expected next moves on. -/
theorem dataFlit_delivered {me : Nat} (hp : flitPasses b = true) (hq : flitSeq b = (s.portAt n).rxSeq) (hk : flitKind b = 1)
    (hme : s.sysId = some me) (hd : leVal ((flitPayload b).take 4) % 4096 = me) :
    exec (.dataFlitReceive n b) s = .next { s.mapPort n (fun p =>
      { p.heed s.pcyc b with rxSeq := p.rxSeq + 1, pauseTx := (Config.freeValue s.free).setWidth 4
                             rxQueue := p.rxQueue ++ [(flitLane b, flitPayload b)] }) with free := s.free + 1 } := by
  show execDataFlitReceive n b s = _
  unfold execDataFlitReceive
  refine (receive_accepts hup hn _ hp hq hk).trans (congrArg Host.Outcome.next ?_)
  refine (routeFlit_here (me := me) ?_ hd).trans ?_
  · exact hme
  rw [State.mapPort_mapPort, State.deliver]
  exact mapPort_withFree s n _ _ (s.free + 1)

theorem dataFlit_discarded (hb : flitPasses b = false ∨ (flitKind b = 1 ∧ flitSeq b ≠ (s.portAt n).rxSeq)) :
    exec (.dataFlitReceive n b) s = .next (s.mapPort n (fun p => p.discard s.pcyc)) := by
  show execDataFlitReceive n b s = _
  unfold execDataFlitReceive
  exact receive_discards hup hn _ hb

theorem controlFlit_accepted (hp : flitPasses b = true) (hq : flitSeq b = (s.portAt n).rxSeq) (hk : flitKind b = 2) :
    exec (.controlFlitReceive n b) s = .next (s.mapPort n (fun p => { p.heed s.pcyc b with rxSeq := p.rxSeq + 1 })) := by
  show s.receive 2 n b (fun s => s.mapPort n Port.advance) = _
  rw [receive_accepts hup hn _ hp hq hk, State.mapPort_mapPort]
  rfl

theorem replayRequest_accepted (hp : flitPasses b = true) (hq : flitSeq b = (s.portAt n).rxSeq) (hk : flitKind b = 4) :
    exec (.replayRequestReceive n b) s =
      .next (s.mapPort n (fun p => (p.heed s.pcyc b).replay (BitVec.ofNat 12 (flitNum b 8 2)))) := by
  show s.receive 4 n b (fun s => s.mapPort n (fun p => p.replay (BitVec.ofNat 12 (flitNum b 8 2)))) = _
  rw [receive_accepts hup hn _ hp hq hk, State.mapPort_mapPort]

end

/-! ## What a port sends -/

theorem Port.discard_asks {p : Port} {tick : Nat} (hd : p.discarding = false) (hr : p.replaying = []) :
    (p.discard tick).wire = p.wire ++ [makeFlit 4 0 p.txSeq (p.rxSeq - 1) p.pauseTx (leBytes 2 p.rxSeq.toNat)] := by
  simp [Port.discard, hd, hr, Port.put]

/-- A replay request waits behind a replay of the port's own. -/
theorem Port.discard_waits {p : Port} {tick : Nat} (hd : p.discarding = false) (hr : p.replaying ≠ []) :
    (p.discard tick).wire = p.wire ∧ (p.discard tick).asking = true := by
  simp [Port.discard, hd, hr]

theorem Port.sendOne_asking {p : Port} {tick : Nat} {leaves : Bool} (hr : p.replaying = []) (ha : p.asking = true) :
    (p.sendOne tick leaves).wire = p.wire ++ [makeFlit 4 0 p.txSeq (p.rxSeq - 1) p.pauseTx (leBytes 2 p.rxSeq.toNat)] := by
  simp [Port.sendOne, hr, ha, Port.put]

/-- A port all of whose transfers are data sends none while none may leave. -/
theorem Port.turn_held {p : Port} {tick : Nat} (hr : p.replaying = []) (ha : p.asking = false) (hq : ∀ t ∈ p.txQueue, t.kind = 1) :
    p.turn tick false = p := by
  have hnone : p.nextTransfer false = none := List.find?_eq_none.mpr (fun t ht => by simp [Port.clear, hq t ht])
  simp [Port.turn, Port.sends, hr, ha, hnone]

/-! ## Timers, going down, retraining -/

theorem pauseKeepalive_sends {s : State} {n : Nat} (h : (s.portAt n).keepaliveDue s.pcyc = true) :
    exec (.pauseKeepaliveTimer n) s = .next { s.mapPort n (fun p =>
      { p.put s.pcyc 3 0 p.txSeq [] with pauseTx := (Config.freeValue s.free).setWidth 4 }) with free := s.free + 1 } := by
  show execPauseKeepaliveTimer n s = _
  rw [execPauseKeepaliveTimer, if_pos h]
  rfl

/-- A port that is up goes down into its one retraining. -/
theorem mapPort_goDown {s : State} {n : Nat} (h : (s.portAt n).stage = .up) : s.mapPort n Port.goDown = s.mapPort n (fun p =>
    { p with stage := .training, downEvent := true, retrain := true, replaying := [], asking := false }) :=
  State.mapPort_congr (by simp [Port.goDown, h])

theorem portRxTimeout_goesDown {s : State} {n : Nat} (h : (s.portAt n).rxTimedOut s.pcyc = true) :
    exec (.portRxTimeout n) s = .next (s.mapPort n Port.goDown) := by
  show execPortRxTimeout n s = _
  rw [execPortRxTimeout, if_pos h]

theorem portRetrain_succeeds {s : State} {n : Nat} (h : (s.portAt n).stage = .training) :
    exec (.portRetrainEnd n true) s = .next (s.mapPort n (fun p => p.backUp s.pcyc)) := by
  show execPortRetrainEnd n true s = _
  simp [execPortRetrainEnd, h]

/-- A retraining that fails faults the jobs that own a transfer of the port. -/
theorem portRetrain_fails {s : State} {n : Nat} (h : (s.portAt n).stage = .training) :
    exec (.portRetrainEnd n false) s =
      .next ((s.portAt n).owners.foldl (fun s r => s.faultRun r 0x39) (s.mapPort n Port.fail)) := by
  show execPortRetrainEnd n false s = _
  simp [execPortRetrainEnd, h]

end Sys2Proof.Machine

namespace Sys2Proof

open Machine

/-- Settles O57, the kinds of flit first, then what a port sends, then its timers and transitions. -/
theorem peerPorts : Obligations.PeerPorts := by
  unfold Obligations.PeerPorts
  intro s n b
  dsimp only
  intro hn hlen
  have hn' : n < s.ports.length := by omega
  refine ⟨fun hup hp hq => ⟨fun hk me hme hd => ?_, controlFlit_accepted hup hn hp hq, receive_accepts hup hn id hp hq,
      replayRequest_accepted hup hn hp hq⟩,
    fun leaves t rest _ hr => ?_, fun hup hb => ?_, Port.turn_held, fun leaves => Port.sendOne_asking, fun hdue => ?_, fun hup => ?_,
    fun ht => ⟨(portRetrain_succeeds ht).trans (congrArg Host.Outcome.next (State.mapPort_congr rfl)), portRetrain_fails ht⟩⟩
  · refine ⟨_, _, dataFlit_delivered hup hn hp hq hk hme hd, (portAt_withFree _ _ _).trans (portAt_mapPort hn' _), rfl, rfl, rfl, rfl, rfl, rfl,
      fun m hm => ?_⟩
    rw [portAt_withFree, portAt_mapPort_ne s hm]
  · simp only [Port.sendOne, hr]
  · have hport : (s.mapPort n (fun p => p.discard s.pcyc)).portAt n = (s.portAt n).discard s.pcyc := portAt_mapPort hn' _
    refine ⟨_, dataFlit_discarded hup hn hb, hport, rfl, ?_⟩
    rw [hport]
    exact ⟨Port.discard_asks, Port.discard_waits⟩
  · refine ⟨_, pauseKeepalive_sends hdue, ?_⟩
    rw [portAt_withFree, portAt_mapPort hn']
    exact ⟨rfl, rfl, rfl⟩
  · rw [← mapPort_goDown hup]
    exact ⟨rfl, portRxTimeout_goesDown⟩

end Sys2Proof
end

section
/-! PROOFS. The host's registers, the completion ring and its interrupts. -/

namespace Sys2Proof.Machine

/-! ## Registers of an effect of their own -/

/-- The fields of cq_ctl after a write (Table 3.5a). -/
theorem cqCtlNext_fields (old v : W32) :
    (cqCtlNext old v).getLsbD 31 = v.getLsbD 31 ∧ (cqCtlNext old v).getLsbD 30 = (old.getLsbD 30 && !v.getLsbD 30) ∧
    fld (cqCtlNext old v) 0 16 = fld v 0 16 ∧ fld (cqCtlNext old v) 16 4 = 0 ∧
    fld (cqCtlNext old v) 20 4 = (if old.getLsbD 31 then fld old 20 4 else fld v 20 4) ∧ fld (cqCtlNext old v) 24 6 = 0 := by
  unfold cqCtlNext
  generalize old.getLsbD 31 = enabled
  refine ⟨?_, ?_, ?_, ?_, ?_, ?_⟩
  · cases enabled <;> simp
  · cases enabled <;> simp
  all_goals
    have h16 (x : BitVec 16) : x &&& 65535#16 = x := BitVec.and_allOnes
    have h4 (x : BitVec 4) : x &&& 15#4 = x := BitVec.and_allOnes
    simp only [fld, BitVec.extractLsb'_or, BitVec.extractLsb'_and]
    cases enabled <;> simp [h16, h4]

section
variable {s : State} {fn : Nat} {f : Fn} (ha : s.answering fn = some f)
include ha

theorem exec_cqHeadWrite (v : W32) : exec (.cqHeadWrite fn v) s =
    .next (if (f.cqTail - v).toNat ≤ f.ringSize then s.mapFn fn (fun f => { f with cqHead := v }) else s) := by
  show execCqHeadWrite fn v s = _
  rw [execCqHeadWrite, ha]
  exact (apply_ite Host.Outcome.next _ _ _).symm

theorem exec_cqCtlWrite (v : W32) : exec (.cqCtlWrite fn v) s = .next (s.mapFn fn (fun f => { f with cqCtl := cqCtlNext f.cqCtl v })) := by
  show execCqCtlWrite fn v s = _
  rw [execCqCtlWrite, ha]

theorem exec_secStatWrite (v : W32) : exec (.secStatWrite fn v) s = .next (if f.isPf then { s with rot := { s.rot with
    measFail := s.rot.measFail && !v.getLsbD 18, sessEnd := s.rot.sessEnd && !v.getLsbD 17 } } else s) := by
  show execSecStatWrite fn v s = _
  rw [execSecStatWrite, bar0_of_answering ha]
  exact (apply_ite Host.Outcome.next _ _ _).symm

theorem exec_sysSelfWrite (v : W32) : exec (.sysSelfWrite fn v) s = .next (if fn = 0 then { s with sysSelf := v &&& 0x80000FFF } else s) := by
  show execSysSelfWrite fn v s = _
  rw [execSysSelfWrite, ha]
  exact (apply_ite Host.Outcome.next _ _ _).symm

theorem exec_featMaskWrite (vd : Nat) (v : W32) : exec (.featMaskWrite fn vd v) s =
    .next (if fn = 0 then { s with featMask := s.featMask.set vd (v &&& 0xFFFFFFFE) } else s) := by
  show execFeatMaskWrite fn vd v s = _
  rw [execFeatMaskWrite, ha]
  exact (apply_ite Host.Outcome.next _ _ _).symm

theorem exec_routeWrite (d : Nat) (v : W32) : exec (.routeWrite fn d v) s =
    .next (if fn = 0 then { s with routes := putRoute d (v &&& 0x000FFFFF) s.routes } else s) := by
  show execRouteWrite fn d v s = _
  rw [execRouteWrite, ha]
  exact (apply_ite Host.Outcome.next _ _ _).symm

/-- A write to a register of no event of its own writes the function's own registers, the messages and pwr_req apart. -/
theorem exec_registerWrite_own {off : Nat} (x : BitVec 128) (hm : ¬(0x60000 ≤ off ∧ off < 0x70000)) (hp : off ≠ 0x80000) :
    exec (.registerWrite fn off x) s = .next (s.mapFn fn (fun f => s.writeOwn f off x)) := by
  obtain ⟨hr, -, -⟩ := answering_iff.mp ha
  show execRegisterWrite fn off x s = _
  rw [execRegisterWrite, bar0_of_answering ha]
  simp [hm, hp, hr]

end

/-! ## Routes -/

/-- A routing table with an entry for a destination that it lacks. -/
theorem find?_insertRoute (d : Nat) (v : W32) (l : List (Nat × W32)) (h : ∀ x ∈ l, x.1 ≠ d) (e : Nat) :
    (insertRoute d v l).find? (fun x => x.1 == e) = if e = d then some (d, v) else l.find? (fun x => x.1 == e) := by
  induction l with
  | nil => by_cases he : e = d <;> simp [insertRoute, he, Ne.symm]
  | cons x xs ih =>
    have hx : x.1 ≠ d := h x (List.mem_cons_self ..)
    have ih := ih (fun y hy => h y (List.mem_cons_of_mem _ hy))
    unfold insertRoute
    by_cases he : e = d
    · subst he
      split
      · simp
      · rw [if_pos rfl] at ih ⊢
        rw [List.find?_cons_of_neg (by simpa using hx), ih]
    · rw [if_neg he] at ih ⊢
      split
      · rw [List.find?_cons_of_neg (by simpa using Ne.symm he)]
      · rw [List.find?_cons, List.find?_cons, ih]

/-- A routing table with one entry written. -/
theorem route_putRoute (s : State) (d : Nat) (v : W32) (e : Nat) :
    ({ s with routes := putRoute d v s.routes } : State).route e = if e = d then v else s.route e := by
  have hd : ∀ x ∈ s.routes.filter (fun x => x.1 != d), x.1 ≠ d := fun x hx => by simpa using (List.mem_filter.mp hx).2
  have hother (he : e ≠ d) : (s.routes.filter (fun x => x.1 != d)).find? (fun x => x.1 == e) = s.routes.find? (fun x => x.1 == e) := by
    rw [List.find?_filter]
    congr 1
    funext x
    by_cases hx : x.1 = e <;> simp [hx, he]
  have hself : (s.routes.filter (fun x => x.1 != d)).find? (fun x => x.1 == d) = none :=
    List.find?_eq_none.mpr (fun x hx => by simpa using hd x hx)
  show (((putRoute d v s.routes).find? (fun x => x.1 == e)).map Prod.snd).getD 0 = _
  unfold putRoute
  dsimp only
  by_cases he : e = d
  · subst he
    rw [if_pos rfl]
    split
    · rename_i hv
      rw [hself, hv]
      rfl
    · rw [find?_insertRoute _ _ _ hd, if_pos rfl]
      rfl
  · rw [if_neg he]
    split
    · rw [hother he]
      rfl
    · rw [find?_insertRoute _ _ _ hd, if_neg he, hother he]
      rfl

/-! ## A function's own registers (Tables 3.5, 4.2, 5.6) -/

theorem writeOwn_hndCode (s : State) (f : Fn) (x : BitVec 128) : s.writeOwn f 0x100010 x = { f with hndCode := fld x 0 64 } := rfl

theorem writeOwn_hndDict (s : State) (f : Fn) (x : BitVec 128) : s.writeOwn f 0x100018 x = { f with hndDict := fld x 0 64 } := rfl

theorem writeOwn_trapPol (s : State) (f : Fn) (x : BitVec 128) :
    s.writeOwn f 0x100020 x = { f with trapPol := fld x 0 64 &&& 0xFFFFFFFFFC } := rfl

theorem writeOwn_flSrc (s : State) {f : Fn} (h : f.flCmd.getLsbD 31 = false) (x : BitVec 128) :
    s.writeOwn f 0x20008 x = { f with flSrc := fld x 0 64 } := by
  show f.writeFlight 0x20008 x = _
  rw [Fn.writeFlight, h]
  rfl

theorem writeOwn_cqBase (s : State) {f : Fn} (h : f.cqCtl.getLsbD 31 = false) (x : BitVec 128) :
    s.writeOwn f 0x10008 x = { f with cqBase := fld x 0 64 &&& 0xFFFFFFFFFFFFF000 } := by
  show f.writeRing 0x10008 x = _
  rw [Fn.writeRing, h]
  rfl

/-! ## The ring -/

/-- A waiting record takes the free place, and sets overflow when the buffer is full again. -/
theorem Fn.refill_eq (f : Fn) : ∃ ctl, f.refill = { f with buffer := f.buffer ++ f.waiting.take 1, waiting := f.waiting.drop 1, cqCtl := ctl } ∧
    fld ctl 8 8 = fld f.cqCtl 8 8 ∧ (f.waiting ≠ [] → f.buffer.length + 1 = Config.recordBuffer → ctl.getLsbD 30 = true) := by
  cases hw : f.waiting with
  | nil =>
    refine ⟨f.cqCtl, ?_, rfl, fun h => absurd rfl h⟩
    have he : f.refill = f := by rw [Fn.refill, hw]
    rw [he, List.take_nil, List.append_nil, List.drop_nil, ← hw]
  | cons r rest =>
    refine ⟨if (f.buffer ++ [r]).length = Config.recordBuffer then f.cqCtl ||| 0x40000000 else f.cqCtl, ?_, ?_, fun _ hl => ?_⟩
    · rw [Fn.refill, hw]
      rfl
    · split
      · simp [fld, BitVec.extractLsb'_or]
      · rfl
    · rw [if_pos (by simpa using hl)]
      simp

/-- What counting a record towards its vector leaves of the function. -/
theorem Fn.signal_eq (f : Fn) (kind tick : Nat) : ∃ out uns, f.signal kind tick = { f with msiOut := out, unsignalled := uns } ∧
    (f.modCount = 1 → out = f.msiOut ++ [f.vector kind]) := by
  unfold Fn.signal
  dsimp only
  split
  · exact ⟨_, _, rfl, fun _ => rfl⟩
  · rename_i h
    refine ⟨_, _, rfl, fun hm => absurd ?_ h⟩
    show f.modCount ≤ _
    omega

/-- A record at the tail's slot of the ring, with the others of the buffer behind it. -/
def Fn.toRing (f : Fn) (r : Rec) (rest : List Rec) : Fn :=
  { f with host := f.host.write (f.slotAddr f.cqTail.toNat) (r.bytes f.cqTail.toNat f.ringSize), cqTail := f.cqTail + 1, buffer := rest }

theorem Fn.writeRecord_toRing {f : Fn} {r : Rec} {rest : List Rec} (h : f.buffer = r :: rest) (tick : Nat) :
    f.writeRecord tick = (f.toRing r rest).refill.signal r.kind tick := by
  rw [Fn.writeRecord, h]
  rfl

/-- The oldest record goes to the ring at the tail's slot, a waiting one takes its place, and it counts towards its vector. -/
theorem Fn.writeRecord_eq {f : Fn} {r : Rec} {rest : List Rec} (h : f.buffer = r :: rest) (tick : Nat) :
    ∃ ctl out uns, f.writeRecord tick =
      { f with host := f.host.write (f.slotAddr f.cqTail.toNat) (r.bytes f.cqTail.toNat f.ringSize), cqTail := f.cqTail + 1
               buffer := rest ++ f.waiting.take 1, waiting := f.waiting.drop 1, cqCtl := ctl, msiOut := out, unsignalled := uns } ∧
      (f.waiting ≠ [] → rest.length + 1 = Config.recordBuffer → ctl.getLsbD 30 = true) ∧
      (f.modCount = 1 → out = f.msiOut ++ [f.vector r.kind]) := by
  obtain ⟨ctl, hg, hfld, hfull⟩ := (f.toRing r rest).refill_eq
  obtain ⟨out, uns, hs, hout⟩ := (f.toRing r rest).refill.signal_eq r.kind tick
  rw [hg] at hs hout
  refine ⟨ctl, out, uns, ?_, hfull, fun hm => hout ?_⟩
  · rw [Fn.writeRecord_toRing h, hg, hs]
    rfl
  · rw [← hm, Fn.modCount, Fn.modCount, hfld]
    rfl

theorem endWaiting_none {s : State} {fn : Nat} (h : ∀ x ∈ s.runs, x.fn = fn → x.stage ≠ .ended) : s.endWaiting fn = s := by
  have hnone : s.runs.filter (fun r => r.fn == fn && r.stage == .ended) = [] :=
    List.filter_eq_nil_iff.mpr (fun r hr => by simpa using h r hr)
  rw [State.endWaiting, hnone]
  rfl

/-- A record that the ring takes, while no run waits for a place to end. -/
theorem completionRecord_written {s : State} {fn : Nat} {f : Fn} (hf : s.fnAt fn = some f) (ho : f.ringOpen = true) (hb : f.buffer ≠ [])
    (hr : ∀ x ∈ s.runs, x.fn = fn → x.stage ≠ .ended) :
    exec (.completionRecordWrite fn) s = .next (s.mapFn fn (fun f => f.writeRecord s.pcyc)) := by
  have hw : f.writes = true := by simp [Fn.writes, ho, hb]
  show execCompletionRecordWrite fn s = _
  rw [execCompletionRecordWrite, hf]
  dsimp only
  rw [if_pos hw, endWaiting_none (s := s.mapFn fn _) hr]

theorem Fn.writeRecord_no (f : Fn) (tick : Nat) : (f.writeRecord tick).no = f.no := by
  cases hb : f.buffer with
  | nil => rw [Fn.writeRecord, hb]
  | cons r rest =>
    obtain ⟨ctl, out, uns, hw, -, -⟩ := Fn.writeRecord_eq hb tick
    rw [hw]

/-! ## Moderation -/

/-- What the end of a vector's moderation time does to its function. -/
def Fn.moderate (f : Fn) (tick : Nat) : Fn :=
  match f.moderated tick with
  | some v => f.raiseVector v
  | none => f

theorem exec_msiModerationTimer (fn : Nat) (s : State) : exec (.msiModerationTimer fn) s = .next (s.mapFn fn (fun f => f.moderate s.pcyc)) := rfl

theorem Fn.moderate_no (f : Fn) (tick : Nat) : (f.moderate tick).no = f.no := by
  unfold Fn.moderate
  split <;> rfl

end Sys2Proof.Machine

namespace Sys2Proof

open Machine

/-- Settles O56, a register at a time, then the ring and its interrupts. -/
theorem hostRegisters : Obligations.HostRegisters := by
  unfold Obligations.HostRegisters
  intro s fn f v ha
  obtain ⟨-, hf, -⟩ := answering_iff.mp ha
  refine ⟨exec_cqHeadWrite ha v, ⟨_, exec_cqCtlWrite ha v, rfl, cqCtlNext_fields f.cqCtl v⟩, exec_secStatWrite ha v, exec_sysSelfWrite ha v,
    fun vd => exec_featMaskWrite ha vd v, fun d => ⟨fun h0 => ?_, fun h0 => ?_⟩, fun off x hm hp => ?_, fun r rest ho hb hr => ?_,
    fun n hn => ?_, rfl⟩
  · rw [exec_routeWrite ha, if_neg h0]
  · refine ⟨_, (exec_routeWrite ha d v).trans (congrArg Host.Outcome.next (if_pos h0)), ?_, fun e he => ?_, rfl⟩
    · rw [route_putRoute, if_pos rfl]
    · rw [route_putRoute, if_neg he]
  · refine ⟨exec_registerWrite_own ha x hm hp, ?_, ?_, ?_, fun h => ?_, fun h => ?_⟩
    · rw [writeOwn_hndCode]
    · rw [writeOwn_hndDict]
    · rw [writeOwn_trapPol]
    · rw [writeOwn_flSrc s h]
    · rw [writeOwn_cqBase s h]
  · obtain ⟨ctl, out, uns, hw, hfull, hout⟩ := Fn.writeRecord_eq hb s.pcyc
    refine ⟨_, _, completionRecord_written hf ho (by simp [hb]) hr, fnAt_mapFn hf _ (fun x => x.writeRecord_no s.pcyc), ?_⟩
    rw [hw]
    exact ⟨rfl, rfl, rfl, rfl, hfull, hout⟩
  · have hg : f.moderate s.pcyc = f.raiseVector n := by rw [Fn.moderate, hn]
    refine ⟨_, _, exec_msiModerationTimer fn s, fnAt_mapFn hf _ (fun x => x.moderate_no s.pcyc), ?_⟩
    rw [hg]
    exact ⟨rfl, fun u hu => by simpa using (List.mem_filter.mp hu).2, rfl⟩

end Sys2Proof
end

section
/-! PROOFS. Power states, loss of power and package reset. -/

namespace Sys2Proof.Machine

/-! ## pwr_req -/

section
variable {s : State} {f : Fn}

/-- A request of the PF of link 0, while no other is under way, begins the transition at once. -/
theorem pwrReq_begins (ha : s.answering 0 = some f) (hgo : s.power.req.getLsbD 31 = false) (hb : s.power.busy = none) {k : BitVec 3}
    (hk : k ≠ 1) (target : Nat) (t : PowerState) {n : Nat} (hn : (if t == .p1 then (if k = 0 then 8 else k.toNat) else 1) = n) :
    s.pwrReq 0 target (some t) k = ({ s with power := { s.power with
      req := pwrWord target k ||| 0x80000000, asked := t, askedK := n } } : State).beginPower t n true := by
  subst hn
  unfold State.pwrReq State.askPower
  rw [ha, hgo]
  simp [show ¬k = 1#3 from hk, hb]

theorem pwrReq_link1 (ha : s.answering 17 = some f) (target : Nat) (t : Option PowerState) (k : BitVec 3) :
    s.pwrReq 17 target t k = { s with power := { s.power with status := 0x62 } } := by
  simp [State.pwrReq, ha]

theorem pwrReq_busy (ha : s.answering 0 = some f) (hgo : s.power.req.getLsbD 31 = true) (target : Nat) (t : Option PowerState) (k : BitVec 3) :
    s.pwrReq 0 target t k = { s with power := { s.power with status := 0x61 } } := by
  unfold State.pwrReq
  rw [ha, hgo]
  rfl

/-- A write of any kind to pwr_req while go is 1. -/
theorem registerWrite_pwrReq_busy (ha : s.answering 0 = some f) (hgo : s.power.req.getLsbD 31 = true) (v : BitVec 128) :
    exec (.registerWrite 0 0x80000 v) s = .next { s with power := { s.power with status := 0x61 } } := by
  obtain ⟨hr, -, -⟩ := answering_iff.mp ha
  have hw : s.writePower 0 v = { s with power := { s.power with status := 0x61 } } := by
    unfold State.writePower
    split
    · exact pwrReq_busy ha hgo _ _ _
    · rfl
  show execRegisterWrite 0 0x80000 v s = _
  rw [execRegisterWrite, bar0_of_answering ha]
  simp [hr, hw]

end

/-! ## The end of a transition -/

@[simp] theorem State.thaw_power (s : State) : s.thaw.power = s.power := rfl

@[simp] theorem State.recover_power (s : State) : s.recover.power = s.power := rfl

@[simp] theorem State.endSession_power (s : State) : s.endSession.power = s.power := by
  unfold State.endSession
  split
  · rfl
  · dsimp only
    split <;> rfl

@[simp] theorem State.enterP3_power (s : State) : s.enterP3.power = s.power := by
  unfold State.enterP3
  show (if _ then s.endSession else s).power = s.power
  split <;> simp

@[simp] theorem State.remeasure_power (s : State) : s.remeasure.power = s.power := by
  unfold State.remeasure
  dsimp only
  split <;> rfl

/-- What power is after the last step of a transition behind which none waits. -/
theorem arrivePower_power {s : State} {t : PowerState} {n : Nat} {req : Bool} (check : State → State)
    (hc : ∀ u : State, (check u).power = u.power) (hb : s.power.busy = some (t, n, req)) (hq : s.power.queue = []) :
    let p : Power := { s.power with state := (goalOf t n s.power.managed).1, k := (goalOf t n s.power.managed).2, busy := none }
    (s.arrivePower check).power = if req then { p with req := p.req &&& 0x7FFFFFFF, status := 0 } else p := by
  have step (c : Prop) [Decidable c] (g : State → State) (hg : ∀ u : State, (g u).power = u.power) (u : State) :
      (if c then g u else u).power = u.power := by
    split
    · exact hg u
    · rfl
  unfold State.arrivePower
  rw [hb]
  dsimp only
  split
  · rw [step _ _ State.enterP3_power, step _ _ State.thaw_power, step _ _ hc]
  · rename_i h
    rw [step _ _ State.enterP3_power, step _ _ State.thaw_power, step _ _ hc] at h
    cases req <;> cases hq.symm.trans h

/-! ## The management controller -/

theorem mgmtSample_cuts (s : State) {temps : List Nat} (h : ∃ x ∈ temps, 110 ≤ x) (mw j : Nat) :
    exec (.mgmtSample temps mw j) s = .next s.powerOff := by
  show execMgmtSample temps mw j s = _
  rw [execMgmtSample, if_pos (by simpa using h)]

theorem mgmtSample_asks (s : State) {temps : List Nat} {mw : Nat} (h : ∀ x ∈ temps, x < 110)
    (hp : (∃ x ∈ temps, 100 ≤ x) ∨ 2800000 < mw) (j : Nat) :
    exec (.mgmtSample temps mw j) s = .next (s.manage (some (max 2 (min 8 j)))) := by
  show execMgmtSample temps mw j s = _
  rw [execMgmtSample, if_neg (by simpa using h), if_pos (by simpa using hp)]

theorem mgmtSample_withdraws (s : State) {temps : List Nat} {mw : Nat} (h : ∀ x ∈ temps, x < 95) (hp : mw < 2600000) (j : Nat) :
    exec (.mgmtSample temps mw j) s = .next (s.manage none) := by
  have below (b : Nat) (hb : 95 ≤ b) : ¬temps.any (fun x => decide (b ≤ x)) = true := by
    simp only [List.any_eq_true, decide_eq_true_eq, not_exists, not_and, Nat.not_le]
    exact fun x hx => Nat.lt_of_lt_of_le (h x hx) hb
  have hmw : ¬2800000 < mw := by omega
  show execMgmtSample temps mw j s = _
  rw [execMgmtSample, if_neg (below 110 (by omega)), if_neg (by simpa [hmw] using below 100 (by omega)), if_pos (by simpa [hp] using h)]

/-! ## The boot chain (Table 2.2) -/

/-- The counters, and whether the part is in recovery mode, stand in `q` as in `r`. -/
structure Rot.SameCounters (r q : Rot) : Prop where
  ctr : q.ctr = r.ctr
  recovery : q.recovery = r.recovery
  fwMin : q.fwMin = r.fwMin
  cfgMin : q.cfgMin = r.cfgMin
  bootCount : q.bootCount = r.bootCount

theorem Rot.SameCounters.trans {a b c : Rot} (h : a.SameCounters b) (g : b.SameCounters c) : a.SameCounters c :=
  ⟨g.ctr.trans h.ctr, g.recovery.trans h.recovery, g.fwMin.trans h.fwMin, g.cfgMin.trans h.cfgMin, g.bootCount.trans h.bootCount⟩

theorem Rot.SameCounters.refl (r : Rot) : r.SameCounters r := ⟨rfl, rfl, rfl, rfl, rfl⟩

theorem Rot.measure_counters (r : Rot) (i kind : Nat) (object : List Byte) : r.SameCounters (r.measure i kind object) := ⟨rfl, rfl, rfl, rfl, rfl⟩

@[simp] theorem Rot.measure_cfg (r : Rot) (i kind : Nat) (object : List Byte) : (r.measure i kind object).cfg = r.cfg := rfl

/-- Steps 1 and 2 measure what they read, and no more. -/
theorem Rot.accept_keeps (r : Rot) : r.SameCounters r.accept.1 ∧ r.accept.1.cfg = r.cfg := by
  unfold Rot.accept
  split
  · exact ⟨.refl r, rfl⟩
  · dsimp only
    split
    · exact ⟨r.measure_counters .., rfl⟩
    · exact ⟨(r.measure_counters ..).trans (Rot.measure_counters ..), rfl⟩

/-- Step 3 puts the blob in force and leaves the counters. -/
theorem Rot.apply_keeps (r : Rot) (bs : List Byte) : r.SameCounters (r.apply bs) ∧ (r.apply bs).cfg = Config.cfgOf bs := by
  unfold Rot.apply
  dsimp only
  split <;> exact ⟨⟨rfl, rfl, rfl, rfl, rfl⟩, rfl⟩

theorem Rot.enforce_keeps (r : Rot) (fw bs : List Byte) :
    r.SameCounters (r.enforce fw bs).1 ∧ (r.enforce fw bs).1.cfg = Config.cfgOf bs := by
  obtain ⟨hk, hc⟩ := r.apply_keeps bs
  unfold Rot.enforce
  dsimp only
  split
  · exact ⟨((hk.trans (Rot.measure_counters ..)).trans (Rot.measure_counters ..)).trans (Rot.measure_counters ..), hc⟩
  · exact ⟨hk, hc⟩

/-- Step 5 raises the counters. -/
theorem Rot.count_eq (r : Rot) (fw bs : List Byte) : ∃ ctr, r.count fw bs = { r with
    fwMin := max r.fwMin (Config.imageVersion fw), cfgMin := max r.cfgMin (Config.cfgOf bs).version, bootCount := r.bootCount + 1
    ctr := ctr, booted := true } := by
  have h : ¬(max r.fwMin (Config.imageVersion fw) < r.fwMin || max r.cfgMin (Config.cfgOf bs).version < r.cfgMin ||
      r.bootCount + 1 < r.bootCount) = true := by
    simp only [Bool.or_eq_true, decide_eq_true_eq]
    omega
  unfold Rot.count Rot.putCtr
  rw [if_neg h]
  exact ⟨_, rfl⟩

/-! ## Package reset -/

/-- The root of trust as a boot reads its regions has the counter region and the settings as they were, out of recovery mode. -/
theorem Rot.dark_load (r : Rot) : r.dark.load.ctr = r.ctr ∧ r.dark.load.cfg = r.cfg ∧ r.dark.load.recovery = false := ⟨rfl, rfl, rfl⟩

theorem State.resetAll_eq (s : State) : ∃ vaults hbm gen, s.resetAll = { s.dark with vaults := vaults, hbm := hbm, coreGen := gen } := by
  unfold State.resetAll
  dsimp only
  split
  · exact ⟨_, _, _, rfl⟩
  · exact ⟨_, _, _, rfl⟩

theorem State.erase_eq (s : State) (old new : Nat) : ∃ vaults hbm parked gen,
    s.erase old new = { s with vaults := vaults, hbm := hbm, parked := parked, coreGen := gen } := by
  unfold State.erase
  split
  · exact ⟨_, _, _, _, rfl⟩
  · exact ⟨_, _, _, _, rfl⟩

/-- SECURED to PROVISIONED finds every memory zeroed. -/
theorem State.erase_secured (s : State) : s.erase 2 1 = { s with vaults := Mem.empty 0, hbm := Mem.empty 0, parked := [], coreGen := 0 } := rfl

theorem resetAll_rot (s : State) : s.resetAll.rot = s.rot.dark := by
  obtain ⟨_, _, _, h⟩ := s.resetAll_eq
  rw [h]
  rfl

section
variable {s : State}

/-- Package reset that finds no usable firmware or no good blob. -/
theorem packageReset_refuses (h : s.rot.dark.load.accept.2 = none) :
    exec .packageReset s = .next ({ s.resetAll with rot := s.rot.dark.load.accept.1 } : State).recover := by
  show execPackageReset s = _
  unfold execPackageReset
  dsimp only
  rw [resetAll_rot, h]

variable {fw bs : List Byte} (h : s.rot.dark.load.accept.2 = some (fw, bs))
include h

/-- Package reset that finds a firmware image and a blob goes on to the settings and the agents' firmware. -/
theorem packageReset_enforces : exec .packageReset s =
    let u := s.resetAll.erase s.rot.cfg.secState (Config.cfgOf bs).secState
    let y := s.rot.dark.load.accept.1.enforce fw bs
    if y.2 then .next (({ u with rot := y.1 } : State).train fw bs) else .next ({ u with rot := y.1 } : State).recover := by
  show execPackageReset s = _
  unfold execPackageReset
  dsimp only
  rw [resetAll_rot, h]

end

/-- A package whose training succeeds. -/
theorem train_succeeds {s : State} (h : (Config.freeValue s.free).getLsbD 0 = true) (fw bs : List Byte) :
    s.train fw bs = { s with
      free := s.free + 1, rot := s.rot.count fw bs, fns := s.functionsOf (Config.cfgOf bs), sysSelf := (Config.cfgOf bs).sysSelf &&& 0x80000FFF
      ports := s.ports.map (fun p => { p with stage := .training }) } := by
  unfold State.train
  dsimp only
  rw [h]
  rfl

/-! ### The functions of a blob -/

@[simp] theorem Fn.over_no (f : Fn) (old : Option Fn) : (f.over old).no = f.no := by
  cases old <;> rfl

@[simp] theorem Fn.over_link (f : Fn) (old : Option Fn) : (f.over old).link = f.link := by
  cases old <;> rfl

theorem functionsOf_links (s : State) (c : Cfg) :
    (s.functionsOf c).map (fun g => (g.no, g.link)) = c.functions ++ (if c.split then [] else [(31, 1)]) := by
  have hlist : (c.functions.map (fun x =>
      (Fn.fresh x.1 x.2 (c.groupsOf x.1) (c.entry x.1).2.1 (c.entry x.1).2.2.1 (c.entry x.1).2.2.2.1 (c.entry x.1).2.2.2.2).over
        (s.fnAt x.1))).map (fun g => (g.no, g.link)) = c.functions := by
    rw [List.map_map]
    exact (List.map_congr_left (fun x _ => by simp [Fn.fresh])).trans (List.map_id _)
  unfold State.functionsOf
  rw [List.map_append, hlist]
  refine congrArg (c.functions ++ ·) ?_
  split
  · rfl
  · simp [Fn.fresh]

theorem recover_fns (s : State) : s.recover.fns.map Fn.no = [0] := by
  simp [State.recover, Fn.fresh]

/-- What a package reset finds: no tick, no core and no run, and the free values where they stood. -/
theorem resetAll_fresh (s : State) : s.resetAll.pcyc = 0 ∧ s.resetAll.cores = [] ∧ s.resetAll.runs = [] ∧ s.resetAll.free = s.free := by
  obtain ⟨_, _, _, hr⟩ := s.resetAll_eq
  rw [hr]
  exact ⟨rfl, rfl, rfl, rfl⟩

theorem erase_fresh (s : State) (old new : Nat) : (s.erase old new).pcyc = s.pcyc ∧ (s.erase old new).cores = s.cores ∧
    (s.erase old new).runs = s.runs ∧ (s.erase old new).free = s.free := by
  obtain ⟨_, _, _, _, he⟩ := s.erase_eq old new
  rw [he]
  exact ⟨rfl, rfl, rfl, rfl⟩

/-- Package reset that ends in recovery mode, with what the chain has measured. -/
theorem packageReset_recovers {s u : State} {y : Rot} (he : exec .packageReset s = .next ({ u with rot := y } : State).recover)
    (hu : u.pcyc = 0) (hc : y.ctr = s.rot.ctr) :
    ∃ t, exec .packageReset s = .next t ∧ t.rot.recovery = true ∧ t.fns.map Fn.no = [0] ∧ t.pcyc = 0 ∧ t.cores = [] ∧
      t.rot.ctr = s.rot.ctr ∧ t.rot.meas = y.meas ∧ t.rot.cfg = y.cfg :=
  ⟨_, he, rfl, recover_fns _, hu, rfl, hc, rfl, rfl⟩

/-- Package reset whose chain and training pass, as the state that the boot is left in. -/
theorem packageReset_boots {s : State} {fw bs : List Byte} (h : s.rot.dark.load.accept.2 = some (fw, bs))
    (hy : (s.rot.dark.load.accept.1.enforce fw bs).2 = true) (hf : (Config.freeValue s.free).getLsbD 0 = true) :
    let u := s.resetAll.erase s.rot.cfg.secState (Config.cfgOf bs).secState
    let y := (s.rot.dark.load.accept.1.enforce fw bs).1
    exec .packageReset s = .next { u with
      free := u.free + 1, rot := y.count fw bs, fns := ({ u with rot := y } : State).functionsOf (Config.cfgOf bs)
      sysSelf := (Config.cfgOf bs).sysSelf &&& 0x80000FFF, ports := u.ports.map (fun p => { p with stage := .training }) } := by
  have hfree : (s.resetAll.erase s.rot.cfg.secState (Config.cfgOf bs).secState).free = s.free :=
    (erase_fresh ..).2.2.2.trans (resetAll_fresh s).2.2.2
  dsimp only
  rw [packageReset_enforces h]
  dsimp only
  rw [if_pos hy, train_succeeds (hfree ▸ hf)]

end Sys2Proof.Machine

namespace Sys2Proof

open Machine

/-- Settles O58, the requests, the end of a transition, loss of power and the management controller, then package reset. -/
theorem powerAndReset : Obligations.PowerAndReset := by
  unfold Obligations.PowerAndReset
  intro s f k
  refine ⟨fun ha hgo hb hk => ?_, fun ha => congrArg Host.Outcome.next (pwrReq_link1 ha _ _ _), fun ha hgo => ?_, fun t n req hb hr hq => ?_,
    ?_, fun temps mw j h => mgmtSample_cuts s h mw j, fun temps mw j h hp => mgmtSample_asks s h hp j,
    fun temps mw j h hp => mgmtSample_withdraws s h hp j, ?_⟩
  · have begins (target : Nat) (t : PowerState) := pwrReq_begins ha hgo hb hk target t rfl
    exact ⟨congrArg Host.Outcome.next (begins 0 .p0), congrArg Host.Outcome.next (begins 1 .p1), congrArg Host.Outcome.next (begins 2 .p2),
      congrArg Host.Outcome.next (begins 3 .p3)⟩
  · exact ⟨congrArg Host.Outcome.next (pwrReq_busy ha hgo _ _ _), registerWrite_pwrReq_busy ha hgo⟩
  · have he : exec .powerTransitionEnd s = .next (s.arrivePower State.remeasure) := by
      show execPowerTransitionEnd s = _
      rw [execPowerTransitionEnd, hb]
      exact if_pos hr
    refine ⟨_, he, ?_⟩
    rw [arrivePower_power _ State.remeasure_power hb hq]
    cases req with
    | false => exact ⟨rfl, rfl, rfl, fun h => by cases h⟩
    | true => exact ⟨rfl, rfl, rfl, fun _ => ⟨by simp, rfl⟩⟩
  · exact ⟨_, rfl, rfl, rfl, rfl, rfl, rfl, rfl, rfl, rfl, rfl, rfl, rfl, rfl, rfl, rfl, rfl⟩
  · obtain ⟨hctr, hcfg, hrec⟩ := s.rot.dark_load
    obtain ⟨hacc, hacfg⟩ := s.rot.dark.load.accept_keeps
    obtain ⟨hpcyc, hcores, hruns, -⟩ := resetAll_fresh s
    refine ⟨fun h => ⟨packageReset_recovers (packageReset_refuses h) hpcyc (hacc.ctr.trans hctr), hacfg.trans hcfg⟩, fun fw bs h => ?_⟩
    obtain ⟨henf, hecfg⟩ := s.rot.dark.load.accept.1.enforce_keeps fw bs
    have hkept := hacc.trans henf
    obtain ⟨epcyc, ecores, eruns, -⟩ := erase_fresh s.resetAll s.rot.cfg.secState (Config.cfgOf bs).secState
    refine ⟨fun hy => packageReset_recovers ((packageReset_enforces h).trans (if_neg (by simp [hy]))) (epcyc.trans hpcyc)
        (hkept.ctr.trans hctr),
      fun hy hf => ⟨_, packageReset_boots h hy hf, ?_⟩⟩
    obtain ⟨ctr, hcount⟩ := (s.rot.dark.load.accept.1.enforce fw bs).1.count_eq fw bs
    dsimp only
    rw [hcount, functionsOf_links, hkept.fwMin, hkept.cfgMin, hkept.bootCount]
    refine ⟨hkept.recovery.trans hrec, rfl, rfl, rfl, hecfg, rfl, rfl, epcyc.trans hpcyc, ecores.trans hcores, eruns.trans hruns,
      fun p hp => ?_, fun hold hnew => ?_⟩
    · obtain ⟨q, -, rfl⟩ := List.mem_map.mp hp
      rfl
    · rw [hold, hnew, State.erase_secured]
      exact ⟨rfl, rfl, rfl, rfl⟩

end Sys2Proof
end

section
/-! PROOFS. A debug halt that finds a head read of two replay entries in flight. -/

namespace Sys2Proof.Machine

/-- Out of a halt that alone holds a core, its results in flight are the replay entries, those of one head read joined (R129, R356),
then what was in flight. -/
theorem Core.leaveHalt_pend {k : Core} (h : k.stops = [.halt]) :
    k.leaveHalt.pend = joinEntries (k.replay.map (fun p => { p with replay := true })) ++ k.pend := by
  simp [Core.leaveHalt, Core.resumed, h]

/-- A head read of 512 bytes whose record has arrived, due 20 cycles after its issue (R356). -/
def headRead512 : Pend :=
  { issue := 0, due := 20, slot := 4, kind := .head, dest := .bytes [(0, 512)], lock := [(0, 512)], val := 0
    data := List.replicate 512 0, flags := 0, absorb := 0, accView := none, accFlags := 0, accClear := false, poison := []
    source := some (0, 0), need := .ready, preCk := false, pc := 0, at_ := 0, replay := false }

/-- Core 0 with that read in flight. -/
def readingCore : Core :=
  { Core.start 0 1 0 (Arch.start 0 0 []) 1 0 [0, 0, 0, 0] [] with pend := [headRead512] }

/-- That core as a debug halt freezes it (R128). -/
def haltedReader : Core := { readingCore.capture with stops := [.halt] }

/-- The package with that core, in a HALT session of the physical function of link 0. -/
def haltedReaderState : State :=
  { State.reset with
    fns := [Fn.fresh 0 0 0xFFFF false 0 0 0], cores := [haltedReader], rot := { Rot.reset with session := some ⟨0, true, none⟩ } }

/-- The freeze takes one entry for each 256 bytes of the read (R128). -/
theorem haltedReader_entries : haltedReader.replay.length = 2 := by decide +kernel

/-- They go on as the one result they were: a head read lands whole, in one vc (R356). -/
theorem haltedReader_joins : (joinEntries (haltedReader.replay.map (fun p => { p with replay := true }))).length = 1 := by
  decide +kernel

/-- The debugger reaches the core in that state. -/
theorem haltedReaderState_reached :
    haltedReaderState.dbgRefusal (Fn.fresh 0 0 0xFFFF false 0 0 0) true none = none ∧ haltedReaderState.coreAt 0 = some haltedReader ∧
    haltedReader.stage ≠ .idle := by decide +kernel

end Sys2Proof.Machine

namespace Sys2Proof

open Machine

/-- Refutes O59: of a core that HALT alone holds, it has the replay entries go on one by one, where the entries of one head read are
joined into one result (R356, log 17). A halt in which a head read of 512 bytes is in flight leaves two entries, and one result. -/
theorem not_trustAndDebug : ¬ Obligations.TrustAndDebug := by
  unfold Obligations.TrustAndDebug
  intro h
  obtain ⟨hd, hk, hst⟩ := haltedReaderState_reached
  obtain ⟨-, -, -, -, onCore, -⟩ := h haltedReaderState 0 (Fn.fresh 0 0 0xFFFF false 0 0 0) rfl
  obtain ⟨-, -, leaves⟩ := onCore haltedReader 0 rfl hd rfl (by decide) hk hst
  obtain ⟨-, -, hp⟩ := leaves rfl
  have he := List.append_cancel_right ((Core.leaveHalt_pend rfl).symm.trans hp)
  have hl := haltedReader_joins
  rw [he, List.length_map, haltedReader_entries] at hl
  cases hl

end Sys2Proof
end

section
/-! PROOFS. Nodes and tasks: what the landing may dispatch, commits, and the cores that their tasks have ended on. -/

namespace Sys2Proof.Machine

/-! ## The node that is dispatched next -/

/-- The dispatch of node `node`, of this kind, by instruction `i`: the node's fault is its job's, and without one the package goes on
as `t` (R86, R87). -/
def Dispatches (s : State) (run node : Nat) (r : Run) (fn : Fn) (f : Flight) (n : Node) (i : Instr) (kind : NodeKind) (t : State) : Prop :=
  s.mayDispatch run node = some (r, fn, f, n) → n.kind = kind →
    (∀ c, s.nodeFault fn f n = some c → exec i s = .next (s.faultRun run c)) ∧ (s.nodeFault fn f n = none → exec i s = .next t)

section
variable {s : State} {run node : Nat} {r : Run} {fn : Fn} {f : Flight} {n : Node}

theorem dispatches_of_elim {i : Instr} {kind : NodeKind} {t : State} (he : s.mayDispatch run node = some (r, fn, f, n) → n.kind = kind →
    exec i s = .next ((s.nodeFault fn f n).elim t (s.faultRun run))) : Dispatches s run node r fn f n i kind t :=
  fun h hk => ⟨fun _ hf => by rw [he h hk, hf, Option.elim_some], fun hf => by rw [he h hk, hf, Option.elim_none]⟩

theorem kernelNodePlace_dispatches (pick : List Nat) {cores : List Nat} (hc : f.choose fn n (s.freeCores fn) = some cores) :
    Dispatches s run node r fn f n (.kernelNodePlace run node pick) .kernel (s.placeNode r fn f n node cores pick) :=
  dispatches_of_elim fun h hk => by
    show execKernelNodePlace run node pick s = _
    cases hf : s.nodeFault fn f n <;> simp [execKernelNodePlace, h, hk, hf, hc]

theorem transformNode_dispatches (hl : s.listBad fn f n = false) :
    Dispatches s run node r fn f n (.transformNodeDispatch run node) .transform
      (((s.beginNode run node []).withLanding run node (n.engine == 1)).issueBlocks run node fn f (n.engine == 1) (s.listBlocks r fn f n)) :=
  dispatches_of_elim fun h hk => by
    show execTransformNodeDispatch run node s = _
    cases hf : s.nodeFault fn f n <;> simp [execTransformNodeDispatch, h, hk, hf, hl]

theorem conditionalNode_dispatches :
    Dispatches s run node r fn f n (.conditionalNodeEval run node) .conditional
      (((s.beginNode run node []).commitNode run node (if r.test n then [0, 1, 2, 3] else [4, 5, 6, 7]) true).settle run) :=
  dispatches_of_elim fun h hk => by
    show execConditionalNodeEval run node s = _
    cases hf : s.nodeFault fn f n <;> simp [execConditionalNodeEval, h, hk, hf]

theorem whileNode_dispatches :
    Dispatches s run node r fn f n (.whileNodeEval run node) .while_
      (if r.test n then s.loopAgain r f n node
       else ((s.beginNode run node []).commitNode run node [4, 5, 6, 7] true).settle run) :=
  dispatches_of_elim fun h hk => by
    show execWhileNodeEval run node s = _
    cases hf : s.nodeFault fn f n
    · cases ht : r.test n <;> simp [execWhileNodeEval, h, hk, hf, ht]
    · simp [execWhileNodeEval, h, hk, hf]

theorem notifyNode_dispatches :
    Dispatches s run node r fn f n (.notifyNodeDispatch run node) .notify
      ((((s.beginNode run node []).post r.fn (s.runRec r 1 0 (BitVec.ofNat 16 node)
        (if n.fromCond then r.conds.getD n.condNo 0 else n.value))).commitNode run node (List.range 8) true).settle run) :=
  dispatches_of_elim fun h hk => by
    show execNotifyNodeDispatch run node s = _
    cases hf : s.nodeFault fn f n <;> simp [execNotifyNodeDispatch, h, hk, hf]

end

/-- The test of a node, in the words of R79. -/
theorem Run.test_iff (r : Run) (n : Node) : r.test n = true ↔ r.conds.getD n.condNo 0 &&& n.condMask ≠ 0 := bne_iff_ne

/-! ## Commits and counters -/

/-- A running node whose work is done commits and takes all its successors (R62, R77). -/
theorem nodeCommit_commits {s : State} {run node : Nat} {r : Run} {f : Flight} {n : Node} {ns : NodeState} (hr : s.runAt run = some r)
    (hf : s.flightOf r = some f) (hn : f.nodes[node]? = some n) (hs : r.nodes[node]? = some ns) (hrun : ns.stage = .running)
    (ha : r.stage = .active) (hc : r.cut = none) (hd : s.nodeDone r n ns node = true) :
    exec (.nodeCommit run node) s = .next ((s.commitNode run node (List.range 8) true).settle run) := by
  show execNodeCommit run node s = _
  unfold execNodeCommit
  simp [hr, hf, hn, hs, hrun, ha, hc, hd]

/-- What a change of one node leaves of the run's nodes. -/
theorem Run.mapNode_getElem? (r : Run) (i j : Nat) (g : NodeState → NodeState) :
    (r.mapNode i g).nodes[j]? = if j = i then (r.nodes[i]?).map g else r.nodes[j]? := by
  show (r.nodes.zipIdx.map (fun x => if x.2 == i then g x.1 else x.1))[j]? = _
  rw [List.getElem?_map, List.getElem?_zipIdx]
  by_cases hj : j = i
  · subst hj
    cases r.nodes[j]? <;> simp
  · cases r.nodes[j]? <;> simp [hj]

/-- A successor's counter falls by one; one already 0 answers none, by which the commit faults (R77). -/
theorem Run.decrement_eq {r : Run} {f : Flight} {tick node : Nat} {n : Node} {ns : NodeState} (hn : f.nodes[node]? = some n)
    (hs : r.nodes[node]? = some ns) : r.decrement f tick node =
      if ns.counter = 0 then none else some (r.mapNode node (fun x => x.count n (x.counter - 1) tick)) := by
  simp [Run.decrement, hn, hs]

/-! ## A core between two tasks (R82, R84) -/

section
variable {s : State} {core pick : Nat} {k : Core} (hk : s.coreAt core = some k) (hi : k.stage = .idle) (hw : s.awake = true)
  (hh : s.handsTiles k.run = true)
include hk hi hw hh

theorem nextTaskStart_frees (ht : s.tilesLeft k.run k.node = false) : exec (.nextTaskStart core pick) s =
    .next ((s.mapRun k.run (fun r => r.learn k.knows)).dropCore core) := by
  show execNextTaskStart core pick s = _
  unfold execNextTaskStart
  simp [hk, hi, hw, hh, ht]

theorem nextTaskStart_masked (ht : s.tilesLeft k.run k.node = true) (hm : s.nodeFeatures k.run k.node = false) :
    exec (.nextTaskStart core pick) s = .next s := by
  show execNextTaskStart core pick s = _
  unfold execNextTaskStart
  simp [hk, hi, hw, hh, ht, hm]

theorem nextTaskStart_starts (ht : s.tilesLeft k.run k.node = true) (hm : s.nodeFeatures k.run k.node = true) :
    exec (.nextTaskStart core pick) s = .next (({ s with lines := s.lines.map (fun l =>
      if l.run == k.run && l.node == k.node then { l with ended := l.ended.filter (fun c => c != core) } else l) } : State).nextTask
        k.run k.node core pick k.dom k.collSeq) := by
  show execNextTaskStart core pick s = _
  unfold execNextTaskStart
  simp [hk, hi, hw, hh, ht, hm]

end

/-- HALT's task ends once nothing of it is in flight (R294). -/
theorem taskEnd_ends {s : State} {core : Nat} {k : Core} {s1 : W64} (hk : s.coreAt core = some k) (hs : k.stage = .halting s1)
    (hp : k.pend = []) (hstop : k.stops = []) : exec (.taskEnd core) s = .next ((s.endTask k s1).passTurn core) := by
  show execTaskEnd core s = _
  unfold execTaskEnd
  simp [hk, hs, hstop, Core.toLand, hp]

/-- A ready node whose time has come ages by one step (R91). -/
theorem ageingTimer_ages {s : State} {run node : Nat} {r : Run} (hr : s.runAt run = some r) (ha : s.agesNow r node = true) :
    exec (.ageingTimer run node) s = .next (s.mapRun run (fun r => r.mapNode node (fun ns => { ns with aged := ns.aged + 1 }))) := by
  show execAgeingTimer run node s = _
  simp [execAgeingTimer, hr, ha]

end Sys2Proof.Machine

namespace Sys2Proof

open Machine

/-- Settles O52: the five kinds that the landing dispatches, a commit and its successors' counters, then a core's next task, its end,
and ageing. -/
theorem nodesAndTasks : Obligations.NodesAndTasks := by
  unfold Obligations.NodesAndTasks
  intro s run node r fn f n
  refine ⟨fun pick cores hc => kernelNodePlace_dispatches pick hc, transformNode_dispatches, ?_, ?_, notifyNode_dispatches,
    fun ns hr hf hn hs hrun ha hc hd => nodeCommit_commits hr hf hn hs hrun ha hc hd, fun ns tick hn hs => ⟨fun h0 => ?_, fun h0 => ?_⟩,
    fun core k pick hk hi hw hh => ⟨nextTaskStart_frees hk hi hw hh, nextTaskStart_masked hk hi hw hh, nextTaskStart_starts hk hi hw hh⟩,
    fun core k s1 hk hs hp hstop => taskEnd_ends hk hs hp hstop, ageingTimer_ages⟩
  · have h : Dispatches s run node r fn f n _ .conditional _ := conditionalNode_dispatches
    simp only [Run.test_iff] at h
    exact h
  · intro its h hk
    obtain ⟨hfault, hgo⟩ := whileNode_dispatches h hk
    refine ⟨hfault, fun hf => (hgo hf).trans ?_⟩
    by_cases ht : r.conds.getD n.condNo 0 &&& n.condMask = 0
    · rw [if_pos ht, if_neg (fun h => (r.test_iff n).mp h ht)]
    · rw [if_neg ht, if_pos ((r.test_iff n).mpr ht)]
      rfl
  · rw [Run.decrement_eq hn hs, if_pos h0]
  · refine ⟨_, (Run.decrement_eq hn hs).trans (if_neg h0), ?_, fun j hj => ?_⟩
    · rw [Run.mapNode_getElem?, if_pos rfl, hs]
      rfl
    · rw [Run.mapNode_getElem?, if_neg hj]

end Sys2Proof
end

section
/-! PROOFS. Traps and faults settled: held traps, records, handlers, repairs, page-table changes, soft errors, shares. -/

namespace Sys2Proof.Machine

/-! ## Lookups in a changed list -/

/-- A change of every element that keeps the key by which one is looked up. -/
theorem find?_map_of_key {α : Type} (key : α → Nat) (g : α → α) (hg : ∀ x, key (g x) = key x) (l : List α) (n : Nat) :
    (l.map g).find? (fun x => key x == n) = (l.find? (fun x => key x == n)).map g := by
  have hp : (fun x => key x == n) ∘ g = fun x => key x == n := funext (fun x => by simp [hg])
  rw [List.find?_map, hp]

theorem coreAt_mapCores {s t : State} {g : Core → Core} (h : t.cores = s.cores.map g) (hno : ∀ k, (g k).no = k.no) (c : Nat) :
    t.coreAt c = (s.coreAt c).map g := by
  unfold State.coreAt
  rw [h]
  exact find?_map_of_key Core.no g hno s.cores c

/-- Two changes of one function, in turn. -/
theorem State.mapFn_mapFn (s : State) (n : Nat) {g : Fn → Fn} (hg : ∀ x, (g x).no = x.no) (h : Fn → Fn) :
    (s.mapFn n g).mapFn n h = s.mapFn n (fun x => h (g x)) := by
  have hf : (fun x : Fn => if x.no == n then h x else x) ∘ (fun x => if x.no == n then g x else x) =
      fun x => if x.no == n then h (g x) else x := by
    funext x
    by_cases hx : x.no = n <;> simp [hx, hg]
  simp only [State.mapFn, List.map_map, hf]

/-! ## Job control (R109, R112) -/

section
variable {s : State} {fn : Nat} {no : BitVec 5} {g x : Fn} (ha : s.answering fn = some g) (ht : s.jcTarget fn no = some x)
include ha ht

section
variable {flight : BitVec 10}

/-- Only the PF of the target's link settles its held traps. -/
theorem settleHeld_denied (h : s.settles fn x = false) (op : Nat) (act : State → Run → HeldTrap → State) :
    s.settleHeld fn op no flight act = s.jcEnd fn (jcWord op no (fld g.jcCmd 10 8) flight) 0x43 := by
  simp [State.settleHeld, ha, ht, h, Fn.jcWordOf]

variable {r : Run} (hs : s.settles fn x = true) (hr : s.activeRun x.no flight.toNat = some r)
include hs hr

theorem settleHeld_none (h : ({ r with heldTraps := s.heldSaid r } : Run).oldestHeld = none) (op : Nat)
    (act : State → Run → HeldTrap → State) :
    s.settleHeld fn op no flight act = s.jcEnd fn (jcWord op no (fld g.jcCmd 10 8) flight) 0x41 := by
  simp [State.settleHeld, ha, ht, hs, hr, h, Fn.jcWordOf]

theorem settleHeld_oldest {t : HeldTrap} (h : ({ r with heldTraps := s.heldSaid r } : Run).oldestHeld = some t) (op : Nat)
    (act : State → Run → HeldTrap → State) :
    s.settleHeld fn op no flight act = act (s.jcEnd fn (jcWord op no (fld g.jcCmd 10 8) flight) 0) r t := by
  simp [State.settleHeld, ha, ht, hs, hr, h, Fn.jcWordOf]

end

theorem jcReadTrap_copies {index : BitVec 8} {t : TrapRec} (h : x.traps[index.toNat]? = some t) :
    exec (.jcReadTrap fn no index) s = .next (s.mapFn fn (fun f =>
      { f with jcCmd := jcWord 4 no index (fld g.jcCmd 0 10), jcStat := 0, trapBuf := t.bytes })) := by
  show execJcReadTrap fn no index s = _
  simp only [execJcReadTrap, ha, ht, Option.bind_some, h, State.jcEnd]
  refine congrArg Host.Outcome.next (s.mapFn_mapFn fn ?_ _)
  exact fun _ => rfl

theorem jcReadTrap_absent {index : BitVec 8} (h : x.traps[index.toNat]? = none) :
    exec (.jcReadTrap fn no index) s = .next (s.jcEnd fn (jcWord 4 no index (fld g.jcCmd 0 10)) 0x44) := by
  show execJcReadTrap fn no index s = _
  simp [execJcReadTrap, ha, ht, h, Fn.jcWordOf]

end

/-! ## A task on a free core (R83, R111) -/

/-- A free core holds no task. -/
theorem coreAt_of_freeCores {s : State} {fn : Fn} {c : Nat} (h : c ∈ s.freeCores fn) : s.coreAt c = none := by
  obtain ⟨-, hfree⟩ := List.mem_filter.mp h
  obtain ⟨hany, -⟩ := Bool.and_eq_true_iff.mp hfree
  rw [Bool.not_eq_true'] at hany
  exact List.find?_eq_none.mpr (List.any_eq_false.mp hany)

theorem find?_insertCore {k : Core} {l : List Core} (h : l.find? (fun x => x.no == k.no) = none) (n : Nat) :
    (insertCore k l).find? (fun x => x.no == n) = if n = k.no then some k else l.find? (fun x => x.no == n) := by
  have hne : ∀ x ∈ l, x.no ≠ k.no := fun x hx => by simpa using List.find?_eq_none.mp h x hx
  clear h
  induction l with
  | nil => by_cases hn : n = k.no <;> simp [insertCore, hn, Ne.symm]
  | cons x xs ih =>
    have hx : x.no ≠ k.no := hne x (List.mem_cons_self ..)
    have ih := ih (fun y hy => hne y (List.mem_cons_of_mem _ hy))
    by_cases hlt : k.no < x.no
    · by_cases hn : n = k.no
      · simp [insertCore, hlt, hn]
      · simp [insertCore, hlt, hn, Ne.symm hn]
    · rw [insertCore, if_neg hlt, if_neg (by simpa using Ne.symm hx), List.find?_cons, List.find?_cons, ih]
      by_cases hn : n = k.no
      · subst hn
        simp only [beq_false_of_ne hx, if_pos]
      · simp only [if_neg hn]

/-- A core that receives a task takes its place, and no other core changes. -/
theorem coreAt_addCore {s : State} {k : Core} (h : s.coreAt k.no = none) (n : Nat) :
    (s.addCore k).coreAt n = if n = k.no then some k else s.coreAt n :=
  find?_insertCore h n

/-- The core that a task starts on, and the others, which do not change. -/
theorem startTask_core {s : State} {c : Nat} (h : s.coreAt c = none) (r : Run) (fn : Fn) (i : Nat) (pc dict : W64)
    (regs : List (Nat × W64)) (dom : List W32) (coll : List Nat) (handler : Option Nat) :
    ∃ k, k.handlerOf = handler ∧ k.run = r.id ∧ k.arch = Arch.start pc dict regs ∧
      ∀ n, (s.startTask r fn i c pc dict regs dom coll handler).coreAt n = if n = c then some k else s.coreAt n :=
  ⟨_, by rfl, by rfl, by rfl, fun n => coreAt_addCore (s := s.unwalk c none) (by exact h) n⟩

/-- s1 of a handler task is the first word of the record. -/
theorem start_reg_one (pc dict : W64) (t : TrapRec) : (Arch.start pc dict t.regs).reg 1 = BitVec.ofNat 64 (leVal (t.bytes.take 8)) := rfl

/-- The handler task of the trap that has waited longest. -/
theorem handlerTaskStart_eq {s : State} {c : Nat} {k : Core} {r : Run} {x : Fn} {f : Flight} {t : TrapRec} {ls : List (BitVec 20 × Nat)}
    {free : Nat} {rest : List Nat} (hj : s.coreJob c = some (k, r, x, f)) (hk : k.stage = .trapped t ls) (hfree : s.freeCores x = free :: rest)
    (hh : x.handlers.head? = some c) (he : s.enginesRun = true) : exec (.handlerTaskStart c) s =
      .next ((s.mapFn x.no (fun f => { f with handlers := f.handlers.drop 1 })).startTask r x k.node free x.hndCode x.hndDict t.regs
        [0, 0, 0, 0] [0, 0, 0, 0] (some c)) := by
  show execHandlerTaskStart c s = _
  simp [execHandlerTaskStart, hj, hk, hfree, hh, he]

/-! ## The repair of poison (R149, R172) -/

/-- The registers of the core at `c`. -/
def State.archAt (s : State) (c : Nat) : Option Arch := (s.coreAt c).map Core.arch

theorem archAt_congr {s t : State} (h : t.cores = s.cores) (c : Nat) : t.archAt c = s.archAt c := by
  unfold State.archAt State.coreAt
  rw [h]

/-- A change of every core that keeps its number and its registers. -/
theorem archAt_mapCores {s t : State} {g : Core → Core} (h : t.cores = s.cores.map g) (hno : ∀ k, (g k).no = k.no)
    (harch : ∀ k, (g k).arch = k.arch) (c : Nat) : t.archAt c = s.archAt c := by
  unfold State.archAt
  rw [coreAt_mapCores h hno, Option.map_map]
  exact congrArg (fun e => (s.coreAt c).map e) (funext harch)

@[simp] theorem State.storeWrite_cores (s : State) (p : Place) (bs : List Byte) : (s.storeWrite p bs).cores = s.cores := by
  unfold State.storeWrite
  split <;> rfl

@[simp] theorem State.patchRecord_archAt (s : State) (r : Run) (fn : Fn) (f : Flight) (t : BitVec 20) (d : Dir) (gs : List Nat) (record c : Nat) :
    (s.patchRecord r fn f t d gs record).archAt c = s.archAt c := by
  unfold State.patchRecord
  split
  · refine (archAt_mapCores rfl (fun k => ?_) (fun k => ?_) c).trans (archAt_congr (by simp) c)
    · split <;> rfl
    · split <;> rfl
  · rfl

@[simp] theorem State.repairRecord_archAt (s : State) (r : Run) (fn : Fn) (f : Flight) (t : BitVec 20) (record c : Nat) :
    (s.repairRecord r fn f t record).archAt c = s.archAt c := by
  unfold State.repairRecord
  split
  · rfl
  · split
    · rfl
    · dsimp only
      split
      · rfl
      · exact List.foldlRecOn (motive := fun u : State => u.archAt c = s.archAt c) _ _ rfl (fun (u : State) hu x _ => (u.patchRecord_archAt r fn f t _ _ x c).trans hu)

/-- A core keeps its number and its registers while its lines are repaired. -/
theorem Core.repairLines_keeps (k : Core) (t : BitVec 20) (record : Nat) (good : List Byte) :
    (k.repairLines t record good).no = k.no ∧ (k.repairLines t record good).arch = k.arch := by
  unfold Core.repairLines
  exact List.foldlRecOn (motive := fun j : Core => j.no = k.no ∧ j.arch = k.arch) _ _ ⟨rfl, rfl⟩ (fun j hj g _ =>
    List.foldlRecOn (motive := fun i : Core => i.no = k.no ∧ i.arch = k.arch) _ _ hj (fun i hi x _ => hi))

theorem State.repairOne_archAt (s : State) (r : Run) (fn : Fn) (f : Flight) (c : Nat) (x : BitVec 20 × Nat) :
    (s.repairOne r fn f c x).archAt c = s.archAt c := by
  have hrec := s.repairRecord_archAt r fn f x.1 x.2 c
  unfold State.repairOne
  dsimp only
  split
  · exact hrec
  · split
    · exact hrec
    · rename_i good _
      refine (archAt_mapCores (State.mapCore_cores ..) (fun k => ?_) (fun k => ?_) c).trans hrec
      · split
        · exact (k.repairLines_keeps x.1 x.2 good).1
        · rfl
      · split
        · exact (k.repairLines_keeps x.1 x.2 good).2
        · rfl

/-- The core goes on after the repair, its registers as the rollback left them. -/
theorem poisonRepair_restarts {s : State} {c : Nat} {k : Core} {r : Run} {x : Fn} {f : Flight} {t : TrapRec} {ls : List (BitVec 20 × Nat)}
    (hj : s.coreJob c = some (k, r, x, f)) (hk : k.stage = .trapped t ls) (ht : t.code = 0x07) :
    ∃ u k', exec (.poisonRepairComplete c) s = .next u ∧ u.coreAt c = some k' ∧ k'.stage = .run ∧ k'.arch = k.arch := by
  obtain ⟨hc, -⟩ := coreJob_spec hj
  have hrep : (ls.foldl (fun s y => s.repairOne r x f c y) s).archAt c = some k.arch :=
    List.foldlRecOn (motive := fun u : State => u.archAt c = some k.arch) _ _ (by simp [State.archAt, hc])
      (fun u hu y _ => (u.repairOne_archAt r x f c y).trans hu)
  obtain ⟨k', hk', harch⟩ := Option.map_eq_some_iff.mp hrep
  have hno := coreAt_no hk'
  refine ⟨_, k'.restart, ?_, coreAt_mapCore hk' Core.restart hno, rfl, harch⟩
  show execPoisonRepairComplete c s = _
  simp [execPoisonRepairComplete, hj, hk, ht]

/-! ## Page-table changes (R180) -/

theorem flightAt_mapFlight {x : Fn} {id : Nat} {f : Flight} (h : x.flightAt id = some f) (g : Flight → Flight) (hg : ∀ y, (g y).id = y.id) :
    (x.mapFlight id g).flightAt id = some (g f) := by
  have hid : f.id = id := by simpa using List.find?_some h
  have hm := find?_map_of_key Flight.id (fun y => if y.id == id then g y else y) (fun y => by split <;> simp [hg]) x.flights id
  refine hm.trans ((congrArg _ h).trans ?_)
  simp [hid]

/-- The flight with a page's entry in place of the one it has (log 6). -/
def Flight.putPage (f : Flight) (page : PageEntry) : Flight := { f with pages := f.pages.filter (fun p => p.vpn != page.vpn) ++ [page] }

/-- The page's entry is replaced, and each core of the job forgets the page. -/
theorem translationShootdown_spec {s : State} {fn flight : Nat} {page : PageEntry} {x : Fn} {f : Flight} (hx : s.fnAt fn = some x)
    (hf : x.flightAt flight = some f) : ∃ u, exec (.translationShootdown fn flight page) s = .next u ∧
      ((u.fnAt fn).bind (fun x => x.flightAt flight)).map Flight.pages = some (f.pages.filter (fun p => p.vpn != page.vpn) ++ [page]) ∧
      ∀ c k r, s.coreAt c = some k → s.runAt k.run = some r → r.fn = fn → r.flight = flight → u.coreAt c = some (k.shoot page.vpn) := by
  refine ⟨_, rfl, ?_, fun c k r hc hr hfn hfl => ?_⟩
  · show (((s.mapFn fn (fun x => x.mapFlight flight (fun fl => fl.putPage page))).fnAt fn).bind (fun x => x.flightAt flight)).map Flight.pages = _
    rw [fnAt_mapFn hx (fun x => x.mapFlight flight (fun fl => fl.putPage page)) (fun _ => rfl), Option.bind_some,
      flightAt_mapFlight hf (fun fl => fl.putPage page) (fun _ => rfl)]
    rfl
  · refine (coreAt_mapCores (s := s) rfl (fun k => ?_) c).trans ?_
    · split <;> rfl
    · have hmine : s.runs.any (fun r => r.id == k.run && r.fn == fn && r.flight == flight) = true :=
        List.any_eq_true.mpr ⟨r, List.mem_of_find?_eq_some hr, by simp [runAt_id hr, hfn, hfl]⟩
      rw [hc]
      exact congrArg some (if_pos hmine)

/-- Nothing of the page is left in the core's caches. -/
theorem Core.shoot_forgets (k : Core) (vpn : Nat) : (∀ l ∈ (k.shoot vpn).icache, (l * Config.icacheLine) / 65536 ≠ vpn) ∧
    ∀ a ∈ (k.shoot vpn).dcache, a / 65536 ≠ vpn := by
  refine ⟨fun l hl => ?_, fun a ha => ?_⟩
  · simpa [inPage] using (List.mem_filter.mp hl).2
  · simpa [inPage] using (List.mem_filter.mp ha).2

/-! ## Job faults (R62, R87, R116) -/

theorem dropRun_runAt (s : State) (r : Run) : (s.dropRun r).runAt r.id = none := by
  refine List.find?_eq_none.mpr (fun x hx => ?_)
  simpa using (List.mem_filter.mp hx).2

/-- A run that faults is gone. -/
theorem faultRun_runAt (s : State) (run cause : Nat) : (s.faultRun run cause).runAt run = none := by
  unfold State.faultRun
  split
  · assumption
  · rename_i r hr
    obtain rfl := runAt_id hr
    exact dropRun_runAt _ _

theorem remoteJobFault_faults {s : State} {run : Nat} {r : Run} {f : Flight} (hr : s.runAt run = some r) (hf : s.flightOf r = some f)
    (hj : f.sysJob ≠ 0) : exec (.remoteJobFault run) s = .next (s.faultRun run 0x3A) := by
  show execRemoteJobFault run s = _
  simp only [execRemoteJobFault, hr, Option.bind_some, hf]
  exact if_pos (bne_iff_ne.mpr hj)

theorem softError_poisons (s : State) {far : Bool} {a : Nat} (h : a < if far then hbmSize else 4294967296) :
    exec (.softErrorDetected (.storage far a)) s = .next { s with poison := insertNat (granule (far, a)) s.poison } := by
  show execSoftErrorDetected (.storage far a) s = _
  simp only [execSoftErrorDetected, if_pos h]

/-! ## The shares of other packages (R86, R87) -/

section
variable {s : State} {run node dom before after : Nat} {r : Run} {x : Fn} {f : Flight} {n : Node} {ns : NodeState}
  (hr : s.runAt run = some r) (hx : s.fnAt r.fn = some x) (hf : s.flightOf r = some f) (hn : f.nodes[node]? = some n)
  (hs : r.nodes[node]? = some ns)
include hr hx hf hn hs

theorem domainShare_unplaced (hp : ns.placing = none) : exec (.domainShareExchange run node dom before after) s = .next s := by
  show execDomainShareExchange run node dom before after s = _
  simp [execDomainShareExchange, hr, hx, hf, hn, hs, hp]

variable {pick : List Nat} (hp : ns.placing = some pick) (huse : n.domUse.getLsbD dom = true)
  (hspan : f.spans (dom, f.dom.getD dom ⟨0, 0⟩) = true)
include hp huse hspan

/-- The exchange waits for the next tick while its node's tasks may not start (log 41). -/
theorem domainShare_waits (h : s.awake = false ∨ r.cut ≠ none ∨ s.hasFeatures x n.featReq = false) :
    exec (.domainShareExchange run node dom before after) s =
      .next { s with agenda := s.agenda ++ [(s.pcyc + 1, .domainShareExchange run node dom before after)] } := by
  have hw : (!s.awake || r.cut.isSome || !s.hasFeatures x n.featReq) = true := by
    simpa [Option.isSome_iff_ne_none, or_assoc] using h
  show execDomainShareExchange run node dom before after s = _
  simp only [execDomainShareExchange, hr, hx, hf, hn, hs, hp, huse, hspan, hw]
  rfl

theorem domainShare_comes (ha : s.awake = true) (hc : r.cut = none) (hfeat : s.hasFeatures x n.featReq = true) :
    exec (.domainShareExchange run node dom before after) s = .next (if (f.dom.getD dom ⟨0, 0⟩).members ≠ before + n.width x + after
      then s.faultRun run 0x34 else s.takeShare run f n node dom before after ns.cores pick) := by
  show execDomainShareExchange run node dom before after s = _
  simp only [execDomainShareExchange, hr, hx, hf, hn, hs, hp, huse, hspan, ha, hc, hfeat]
  by_cases hm : (f.dom.getD dom ⟨0, 0⟩).members = before + n.width x + after
  · rw [if_neg (not_not_intro hm), bne_eq_false_iff_eq.mpr hm]
    rfl
  · rw [if_pos hm, bne_iff_ne.mpr hm]
    rfl

end

end Sys2Proof.Machine

namespace Sys2Proof

open Machine

/-- Settles O54, an event at a time. -/
theorem trapsSettled : Obligations.TrapsSettled := by
  unfold Obligations.TrapsSettled
  intro s fn no flight g
  refine ⟨fun x ha ht => ⟨fun hd => ⟨?_, ?_⟩, fun r hs hr => ⟨fun ho => ⟨?_, ?_⟩, fun h ho => ⟨?_, ?_⟩⟩⟩,
    fun x index ha ht => ⟨fun t h => jcReadTrap_copies ha ht h, jcReadTrap_absent ha ht⟩,
    fun c k r x f t ls free rest hj hk hfree hh he => ?_, fun c k r x f t ls hj hk ht => poisonRepair_restarts hj hk ht,
    fun page x f hx hf => ?_, fun run r hr => ⟨_, rfl, rfl, faultRun_runAt s run 0x38⟩, fun far a h => softError_poisons s h,
    fun run r f hr hf hj => ⟨_, remoteJobFault_faults hr hf hj, rfl, faultRun_runAt s run 0x3A⟩,
    fun run node dom before after r x f n ns hr hx hf hn hs hj hpkg huse hlevel => ?_⟩
  · exact congrArg Host.Outcome.next (settleHeld_denied ha ht hd 2 _)
  · exact congrArg Host.Outcome.next (settleHeld_denied ha ht hd 3 _)
  · exact congrArg Host.Outcome.next (settleHeld_none ha ht hs hr ho 2 _)
  · exact congrArg Host.Outcome.next (settleHeld_none ha ht hs hr ho 3 _)
  · exact congrArg Host.Outcome.next (settleHeld_oldest ha ht hs hr ho 3 _)
  · exact congrArg Host.Outcome.next (settleHeld_oldest ha ht hs hr ho 2 _)
  · obtain ⟨hc, -⟩ := coreJob_spec hj
    have hnone : s.coreAt free = none := coreAt_of_freeCores (hfree ▸ List.mem_cons_self ..)
    have hne : c ≠ free := fun h => by rw [h, hnone] at hc; cases hc
    obtain ⟨k', hhandler, hrun, harch, hcore⟩ := startTask_core
      (s := s.mapFn x.no (fun f => { f with handlers := f.handlers.drop 1 })) (c := free) hnone r x k.node x.hndCode x.hndDict t.regs
      [0, 0, 0, 0] [0, 0, 0, 0] (some c)
    refine ⟨_, k', handlerTaskStart_eq hj hk hfree hh he, ?_, hhandler, hrun, ?_, ?_, ?_, ?_⟩
    · rw [hcore, if_pos rfl]
    · rw [harch]
      rfl
    · rw [harch]
      rfl
    · rw [harch, start_reg_one]
    · rw [hcore, if_neg hne]
      exact hc
  · obtain ⟨u, he, hpages, hcores⟩ := translationShootdown_spec hx hf
    exact ⟨u, he, hpages, fun c k r hc hr hfn hfl => ⟨_, hcores c k r hc hr hfn hfl, k.shoot_forgets page.vpn⟩⟩
  · have hspan : f.spans (dom, f.dom.getD dom ⟨0, 0⟩) = true := by
      simp only [Flight.spans, hlevel, bne_iff_ne.mpr hj, hpkg, decide_true]
      rfl
    exact ⟨domainShare_unplaced hr hx hf hn hs, fun pick hp => ⟨domainShare_waits hr hx hf hn hs hp huse hspan,
      domainShare_comes hr hx hf hn hs hp huse hspan⟩⟩

end Sys2Proof
end

section
/-! PROOFS. Arms and the tests of Table 3.4; flights installed, removed and staged. -/

namespace Sys2Proof.Machine

/-! ## The tests of Table 3.4 -/

/-- The second test: reserved fields are 0 and the others in range. -/
def ArmInRange (w : ArmWrite) : Prop := w.reserved = 0 ∧ w.nArg.toNat ≤ 12 ∧ w.flags.toNat < 16 ∧ w.flightId.toNat < 1024

/-- The fifth test: a resume arm names a kept commit image of flight `x`, another the whole flight or a wait node. -/
def Fn.armNames (f : Fn) (x : Flight) (w : ArmWrite) (node : W16) : Bool :=
  if resumeBit w then !f.faultWaits x.id && (x.kept.map (fun (k : Kept) => k.images.any (fun im => im.node == node.toNat))).getD false
  else node == 0xFFFF || (x.nodes[node.toNat]?).map Node.kind == some NodeKind.wait

theorem armNames_iff {f : Fn} {x : Flight} {w : ArmWrite} {node : W16} : f.armNames x w node = true ↔
    if resumeBit w = true then f.faultWaits x.id = false ∧ ∃ k, x.kept = some k ∧ ∃ im ∈ k.images, im.node = node.toNat
    else node = 0xFFFF ∨ ∃ n, x.nodes[node.toNat]? = some n ∧ n.kind = .wait := by
  unfold Fn.armNames
  cases resumeBit w
  · simp
  · cases x.kept <;> simp

/-- The second test as `Fn.refusal` makes it. -/
theorem armInRange_iff {w : ArmWrite} : ArmInRange w ↔
    (w.reserved != 0 || decide (12 < w.nArg.toNat) || decide (16 ≤ w.flags.toNat) || decide (1024 ≤ w.flightId.toNat)) = false := by
  simp [ArmInRange, and_assoc]

section
variable {f : Fn} {w : ArmWrite} {node : W16}

theorem refusal_notWhole (hw : w.whole = false) : f.refusal w node = some 1 := by simp [Fn.refusal, hw]

theorem refusal_outOfRange (hw : w.whole = true) (h : ¬ArmInRange w) : f.refusal w node = some 2 := by
  rw [armInRange_iff, Bool.not_eq_false] at h
  simp only [Fn.refusal, hw, h]
  rfl

variable (hw : w.whole = true) (h : ArmInRange w)
include hw h

theorem refusal_oldSeq (hs : w.hostSeq.toNat ≤ (f.seqOf w.slot).toNat) : f.refusal w node = some 3 := by
  simp only [Fn.refusal, hw, armInRange_iff.mp h, hs]
  rfl

variable (hs : (f.seqOf w.slot).toNat < w.hostSeq.toNat)
include hs

theorem refusal_noFlight (hx : f.flightAt w.flightId.toNat = none) : f.refusal w node = some 4 := by
  simp only [Fn.refusal, hw, armInRange_iff.mp h, Nat.not_le.mpr hs, hx]
  rfl

/-- The last two tests, of an arm whose flight is there. -/
theorem refusal_ofFlight {x : Flight} (hx : f.flightAt w.flightId.toNat = some x) : f.refusal w node =
    if !f.armNames x w node then some 5 else if 16 ≤ x.queue.length + x.heldWaits.length then some 6 else none := by
  simp only [Fn.refusal, hw, armInRange_iff.mp h, Nat.not_le.mpr hs, hx, Fn.armNames]
  rfl

end

/-! ## What an arm does -/

/-- Each arm instruction that carries this write to this node; a start arm carries none but 0xFFFF. -/
def ArmEach (w : ArmWrite) (node : W16) (p : Instr → Prop) : Prop :=
  (node = 0xFFFF → p (.armStart w)) ∧ p (.armWait w node) ∧ p (.armResume w node)

section
variable {s : State} {f : Fn} {w : ArmWrite} (ha : s.answering w.fn = some f) (hh : f.armsHeld = false)
include ha hh

theorem armHeld_false : s.armHeld w.fn = false := by
  obtain ⟨-, hf, -⟩ := answering_iff.mp ha
  simp [State.armHeld, hf, hh]

theorem exec_armStart : exec (.armStart w) s = .next (s.arm w 0xFFFF) := by
  show execArmStart w s = _
  simp [execArmStart, armHeld_false ha hh]

theorem exec_armWait (node : W16) : exec (.armWait w node) s = .next (s.arm w node) := by
  show execArmWait w node s = _
  simp [execArmWait, armHeld_false ha hh]

theorem exec_armResume (node : W16) : exec (.armResume w node) s = .next (s.arm w node) := by
  show execArmResume w node s = _
  simp [execArmResume, armHeld_false ha hh]

/-- While no refused arm's record waits, every arm instruction is tested and acts at once. -/
theorem armEach_acts {node : W16} {t : State} (ht : s.arm w node = t) : ArmEach w node (fun i => exec i s = .next t) :=
  ⟨fun hn => (exec_armStart ha hh).trans (by rw [← hn, ht]), (exec_armWait ha hh node).trans (by rw [ht]),
    (exec_armResume ha hh node).trans (by rw [ht])⟩

end

/-- An accepted arm sets last_seq of its slot and takes the next acceptance order (R55). -/
def State.armSeen (s : State) (w : ArmWrite) : State :=
  { s.mapFn w.fn (fun f => f.setSeq w.slot w.hostSeq) with nextOrder := s.nextOrder + 1 }

section
variable {s : State} {f : Fn} {w : ArmWrite} {node : W16} (ha : s.answering w.fn = some f) (hl : f.link = w.link)
include ha hl

theorem armFn_of_link : s.armFn w = some f := by simp [State.armFn, ha, hl]

theorem arm_refused {st : Nat} (hr : f.refusal w node = some st) (h6 : st ≠ 6) : s.arm w node = s.post w.fn (s.refusedRec w node st) := by
  simp [State.arm, armFn_of_link ha hl, hr, h6]

/-- A full queue refuses an arm whose host_seq has counted (Table 3.4). -/
theorem arm_queueFull (hr : f.refusal w node = some 6) :
    s.arm w node = (s.mapFn w.fn (fun f => f.setSeq w.slot w.hostSeq)).post w.fn (s.refusedRec w node 6) := by
  unfold State.arm
  rw [armFn_of_link ha hl]
  simp only [hr]
  rfl

/-- An accepted arm does what its kind does, once it has been seen (R56, R63). -/
theorem arm_accepted (hr : f.refusal w node = none) : s.arm w node =
    if resumeBit w then (s.armSeen w).armResumes w.fn w.flightId.toNat node
    else if node = 0xFFFF then (s.armSeen w).armStarts w.fn w s.nextOrder
    else (s.armSeen w).armWaits w.fn w node := by
  unfold State.arm
  rw [armFn_of_link ha hl]
  simp only [hr]
  rfl

end

/-! ## fl_cmd (R71) -/

/-- fl_cmd with go set. -/
def flWord (op : Nat) (id : BitVec 10) : W32 := BitVec.ofNat 32 (2 ^ 31 + op * 2 ^ 28 + id.toNat)

/-- The function as an operation's end leaves it: go is clear, the status set (R71). -/
def Fn.flDone (st : Nat) (f : Fn) : Fn := { f with flCmd := f.flCmd &&& 0x7FFFFFFF, flStat := st }

/-- The fields of fl_cmd while an operation runs, and the register once go has cleared. -/
theorem flWord_fields {op : Nat} (h : op ≤ 3) (id : BitVec 10) : (flWord op id).getLsbD 31 = true ∧ (fld (flWord op id) 28 3).toNat = op ∧
    (fld (flWord op id) 0 10).toNat = id.toNat ∧ flWord op id &&& 0x7FFFFFFF = BitVec.ofNat 32 (op * 2 ^ 28 + id.toNat) := by
  have hid := id.isLt
  have hv : (flWord op id).toNat = 2 ^ 31 + op * 2 ^ 28 + id.toNat := by
    rw [flWord, BitVec.toNat_ofNat, Nat.mod_eq_of_lt (by omega)]
  refine ⟨getLsbD_of_div (b := true) ?_, ?_, ?_, BitVec.eq_of_toNat_eq ?_⟩
  · rw [hv, Bool.toNat_true]
    omega
  · rw [fld_toNat, hv]
    omega
  · rw [fld_toNat, hv]
    omega
  · have hmask : (0x7FFFFFFF : W32).toNat = 2 ^ 31 - 1 := rfl
    rw [BitVec.toNat_and, hmask, Nat.and_two_pow_sub_one_eq_mod, hv, BitVec.toNat_ofNat]
    omega

section
variable {s : State} {fn : Nat} {f : Fn} (ha : s.answering fn = some f)
include ha

/-- A write of go sets go with the operation and the flight. -/
theorem flStart_eq (hgo : f.flCmd.getLsbD 31 = false) {op : Nat} (h : op ≤ 3) (id : BitVec 10) :
    s.flStart fn op id.toNat = s.mapFn fn (fun f => { f with flCmd := flWord op id }) := by
  have hop : op % 8 = op := Nat.mod_eq_of_lt (by omega)
  have hid : id.toNat % 1024 = id.toNat := Nat.mod_eq_of_lt id.isLt
  simp only [State.flStart, ha, hgo, hop, hid, flWord]
  rfl

theorem flightOperationEnd_install {id : BitVec 10} (hc : f.flCmd = flWord 1 id) :
    exec (.flightOperationEnd fn) s = .next ((s.install f id.toNat).1.mapFn fn (Fn.flDone (s.install f id.toNat).2)) := by
  obtain ⟨hgo, hop, hid, -⟩ := flWord_fields (op := 1) (by decide) id
  show execFlightOperationEnd fn s = _
  simp only [execFlightOperationEnd, ha, hc, hgo, hop, hid]
  rfl

theorem flightOperationEnd_remove {id : BitVec 10} (hc : f.flCmd = flWord 2 id) :
    exec (.flightOperationEnd fn) s = .next ((s.remove f id.toNat).1.mapFn fn (Fn.flDone (s.remove f id.toNat).2)) := by
  obtain ⟨hgo, hop, hid, -⟩ := flWord_fields (op := 2) (by decide) id
  show execFlightOperationEnd fn s = _
  simp only [execFlightOperationEnd, ha, hc, hgo, hop, hid]
  rfl

theorem flightOperationEnd_stage {id : BitVec 10} (hc : f.flCmd = flWord 3 id) :
    exec (.flightOperationEnd fn) s = .next ((s.stage f id.toNat).1.mapFn fn (Fn.flDone (s.stage f id.toNat).2)) := by
  obtain ⟨hgo, hop, hid, -⟩ := flWord_fields (op := 3) (by decide) id
  show execFlightOperationEnd fn s = _
  simp only [execFlightOperationEnd, ha, hc, hgo, hop, hid]
  rfl

end

/-! ## The end of an operation (R72) -/

/-- The operation of function `fn` ends with status `st`: `g` is what it does to the function, and nothing of the package beside its functions
changes. -/
def FlEnds (s : State) (fn : Nat) (f : Fn) (op : Nat) (id : BitVec 10) (g : Fn → Fn) (st : Nat) : Prop :=
  ∃ t h, exec (.flightOperationEnd fn) s = .next t ∧ t.fnAt fn = some h ∧
    h = { g f with flCmd := BitVec.ofNat 32 (op * 2 ^ 28 + id.toNat), flStat := st } ∧ { t with fns := s.fns } = s

section
variable {s : State} {fn : Nat} {f : Fn} {op : Nat} {id : BitVec 10} {x : State × Nat} {st : Nat} (ha : s.answering fn = some f)
  (hop : op ≤ 3) (hc : f.flCmd = flWord op id) (he : exec (.flightOperationEnd fn) s = .next (x.1.mapFn fn (Fn.flDone x.2)))
include ha hop hc he

/-- An operation that changes its function by `g`. -/
theorem flEnds_of_change {g : Fn → Fn} (hx : x = (s.mapFn fn g, st)) (hno : ∀ y, (g y).no = y.no) (hcmd : (g f).flCmd = f.flCmd) :
    FlEnds s fn f op id g st := by
  obtain ⟨-, hf, -⟩ := answering_iff.mp ha
  obtain ⟨-, -, -, hclear⟩ := flWord_fields hop id
  subst hx
  refine ⟨_, _, he, fnAt_mapFn (fnAt_mapFn hf g hno) _ (fun _ => rfl), ?_, rfl⟩
  rw [Fn.flDone, hcmd, hc, hclear]

/-- An operation that ends with a status alone. -/
theorem flEnds_of_none (hx : x = (s, st)) : FlEnds s fn f op id (fun f => f) st := by
  have hs : s.mapFn fn (fun f => f) = s := by simp [State.mapFn]
  exact flEnds_of_change ha hop hc he (hx.trans (congrArg (·, st) hs.symm)) (fun _ => rfl) rfl

end

section
variable {s : State} {f : Fn} {id : Nat}

theorem install_there (h : f.flightAt id ≠ none) : s.install f id = (s, 0x15) := by
  simp [State.install, Option.isSome_iff_ne_none, h]

theorem install_unread (h : f.flightAt id = none) (hb : f.readImage = none) : s.install f id = (s, 0x14) := by
  simp [State.install, h, hb]

section
variable {b : List Byte} (h : f.flightAt id = none) (hb : f.readImage = some b)
include h hb

theorem install_badImage (hx : flightOfImage id b = none) : s.install f id = (s, 0x10) := by
  simp [State.install, h, hb, hx]

variable {x : Flight} (hx : flightOfImage id b = some x)
include hx

theorem install_noRoom (hn : s.freeNodes < x.nodes.length) : s.install f id = (s, 0x11) := by
  simp [State.install, h, hb, hx, hn]

theorem install_resident (hn : x.nodes.length ≤ s.freeNodes) :
    s.install f id = (s.mapFn f.no (fun f => { f with flights := f.flights ++ [x] }), 0) := by
  simp [State.install, h, hb, hx, Nat.not_lt.mpr hn]

end

/-- A run, an arm or a kept commit image uses the flight (R72). -/
def State.flightUsed (s : State) (f : Fn) (id : Nat) (x : Flight) : Bool :=
  (s.activeRun f.no id).isSome || !x.queue.isEmpty || !x.heldWaits.isEmpty || (x.kept.map (fun (k : Kept) => !k.images.isEmpty)).getD false

theorem remove_absent (h : f.flightAt id = none) : s.remove f id = (s, 0x16) := by
  simp [State.remove, h]

theorem remove_there {x : Flight} (h : f.flightAt id = some x) : s.remove f id = if s.flightUsed f id x then (s, 0x12)
    else (s.mapFn f.no (fun f => { f with flights := f.flights.filter (fun y => y.id != id), staged := f.staged.filter (fun i => i != id) }), 0) := by
  simp only [State.remove, h]
  rfl

theorem stage_absent (h : f.flightAt id = none) : s.stage f id = (s, 0x16) := by
  simp [State.stage, h]

theorem stage_there {x : Flight} (h : f.flightAt id = some x) : s.stage f id =
    (s.mapFn f.no (fun f => { f with staged := f.fitStaged id (f.staged.filter (fun i => i != id)) ++ [id] }), 0) := by
  simp [State.stage, h]

end

end Sys2Proof.Machine

namespace Sys2Proof

open Machine

/-- Settles O60: an arm is refused by the first test of Table 3.4 that fails, in their order, or acts by its kind; an operation on a flight
starts, and ends by what it finds. -/
theorem armsAndFlights : Obligations.ArmsAndFlights := by
  unfold Obligations.ArmsAndFlights
  intro s f _
  refine ⟨fun w node ha hl hh => ?_, fun fn id ha hgo => ⟨?_, ?_, ?_⟩, fun fn op id ha _ hop hc => ?_⟩
  · have refused {st : Nat} (hr : f.refusal w node = some st) (h6 : st ≠ 6) :
        ArmEach w node (fun i => exec i s = .next (s.post w.fn (s.refusedRec w node st))) :=
      armEach_acts ha hh (arm_refused ha hl hr h6)
    refine ⟨fun hw => refused (refusal_notWhole hw) (by decide), fun hw => ⟨fun hbad => ?_, fun h0 hn hf hi => ?_⟩, fun hr hb => ?_,
      fun hr hb hn => ?_, fun hr hb hn => ?_⟩
    · exact refused (refusal_outOfRange hw (fun ⟨h0, hn, hf, hi⟩ => hbad.elim (fun h => h h0) (by omega))) (by decide)
    · have hin : ArmInRange w := ⟨h0, hn, hf, hi⟩
      refine ⟨fun hs => refused (refusal_oldSeq hw hin hs) (by decide), fun hs =>
        ⟨fun hx => refused (refusal_noFlight hw hin hs hx) (by decide), fun x hx => ?_⟩⟩
      have hr := refusal_ofFlight (node := node) hw hin hs hx
      refine ⟨fun hnot => refused ?_ (by decide), fun hnames => ?_⟩
      · rw [hr, Bool.eq_false_iff.mpr (fun h => hnot (armNames_iff.mp h))]
        rfl
      · rw [armNames_iff.mpr hnames] at hr
        exact ⟨fun hq => armEach_acts ha hh (arm_queueFull ha hl (hr.trans (if_pos hq))), fun hq => hr.trans (if_neg (Nat.not_le.mpr hq))⟩
    · exact armEach_acts ha hh ((arm_accepted ha hl hr).trans (if_pos hb))
    · subst hn
      rw [exec_armStart ha hh, arm_accepted ha hl hr, hb]
      rfl
    · rw [exec_armWait ha hh, arm_accepted ha hl hr, hb, if_neg hn]
      rfl
  · exact congrArg Host.Outcome.next (flStart_eq ha hgo (by decide) id)
  · exact congrArg Host.Outcome.next (flStart_eq ha hgo (by decide) id)
  · exact congrArg Host.Outcome.next (flStart_eq ha hgo (by decide) id)
  · obtain ⟨-, hf, -⟩ := answering_iff.mp ha
    obtain rfl := fnAt_no hf
    refine ⟨fun h1 => ?_, fun h2 => ?_, fun h3 => ?_⟩
    · subst h1
      have he := flightOperationEnd_install ha hc
      refine ⟨fun h => flEnds_of_none ha hop hc he (install_there h), fun h =>
        ⟨fun hb => flEnds_of_none ha hop hc he (install_unread h hb), fun b hb =>
          ⟨fun hx => flEnds_of_none ha hop hc he (install_badImage h hb hx), fun x hx =>
            ⟨fun hn => flEnds_of_none ha hop hc he (install_noRoom h hb hx hn), fun hn =>
              flEnds_of_change ha hop hc he (install_resident h hb hx hn) (fun _ => rfl) rfl⟩⟩⟩⟩
    · subst h2
      have he := flightOperationEnd_remove ha hc
      refine ⟨fun h => flEnds_of_none ha hop hc he (remove_absent h), fun x h =>
        ⟨fun hu => flEnds_of_none ha hop hc he ((remove_there h).trans (if_pos hu)), fun hu =>
          flEnds_of_change ha hop hc he ((remove_there h).trans (if_neg (Bool.eq_false_iff.mp hu))) (fun _ => rfl) rfl⟩⟩
    · subst h3
      have he := flightOperationEnd_stage ha hc
      exact ⟨fun h => flEnds_of_none ha hop hc he (stage_absent h), fun x h =>
        flEnds_of_change ha hop hc he (stage_there h) (fun _ => rfl) rfl⟩

end Sys2Proof
end

section
/-! SUPPORT. Runs and lines in a changed list, and the members of united sets of writes. -/

namespace Sys2Proof.Machine

/-! ## Lookups -/

/-- A change of the elements of one key that keeps their key. -/
theorem find?_map_at {α : Type} (key : α → Nat) (g : α → α) (hg : ∀ x, key (g x) = key x) (l : List α) (n : Nat) :
    (l.map (fun x => if key x == n then g x else x)).find? (fun x => key x == n) = (l.find? (fun x => key x == n)).map g := by
  rw [find?_map_of_key key (fun x => if key x == n then g x else x) (fun x => by split <;> simp [hg])]
  cases h : l.find? (fun x => key x == n) with
  | none => rfl
  | some x => simp only [Option.map_some, if_pos (List.find?_some h)]

theorem runAt_congr {s t : State} (h : t.runs = s.runs) (n : Nat) : t.runAt n = s.runAt n := by
  unfold State.runAt
  rw [h]

theorem runAt_mapRun {s : State} {n : Nat} {r : Run} (h : s.runAt n = some r) (g : Run → Run) (hg : ∀ x, (g x).id = x.id) :
    (s.mapRun n g).runAt n = some (g r) :=
  (find?_map_at Run.id g hg s.runs n).trans (congrArg (Option.map g) h)

theorem lineAt_no {s : State} {n : Nat} {l : Line} (h : s.lineAt n = some l) : l.no = n := by
  simpa using List.find?_some h

theorem lineAt_mapLine {s : State} {n : Nat} {l : Line} (h : s.lineAt n = some l) (g : Line → Line) (hg : ∀ x, (g x).no = x.no) :
    (s.mapLine n g).lineAt n = some (g l) :=
  (find?_map_at Line.no g hg s.lines n).trans (congrArg (Option.map g) h)

theorem coreAt_congr {s t : State} (h : t.cores = s.cores) (c : Nat) : t.coreAt c = s.coreAt c := by
  unfold State.coreAt
  rw [h]

/-! ## Sets of writes -/

theorem mem_insertNat {n x : Nat} {l : List Nat} : x ∈ insertNat n l ↔ x = n ∨ x ∈ l := by
  induction l with
  | nil => simp [insertNat]
  | cons y ys ih =>
    unfold insertNat
    split
    · exact List.mem_cons
    · split
      · rename_i h
        rw [beq_iff_eq.mp h, List.mem_cons, ← or_assoc, or_self]
      · rw [List.mem_cons, List.mem_cons, ih, or_left_comm]

theorem mem_unionNat {a b : List Nat} {x : Nat} : x ∈ unionNat a b ↔ x ∈ a ∨ x ∈ b := by
  unfold unionNat
  induction a generalizing b with
  | nil => simp
  | cons n ns ih => rw [List.foldl_cons, ih, mem_insertNat, List.mem_cons, or_assoc, or_left_comm]

/-- The union of the sets that a list holds beside a first one. -/
theorem mem_unions {α : Type} {g : α → List Nat} {l : List α} {b : List Nat} {x : Nat} :
    x ∈ l.foldl (fun u y => unionNat (g y) u) b ↔ x ∈ b ∨ ∃ y ∈ l, x ∈ g y := by
  induction l generalizing b with
  | nil => simp
  | cons y ys ih => simp only [List.foldl_cons, ih, mem_unionNat, List.mem_cons, exists_eq_or_imp, or_assoc, or_left_comm]

end Sys2Proof.Machine
end

section
/-! PROOFS. Phases, handrails, events, next tiles and what a commit carries. -/

namespace Sys2Proof.Machine

/-! ## The refill of a phase leaves what the phase began with (R167, R204) -/

/-- Two cores of one number in the same phase: what had reached them at its start, their published sets, and their releases without a
publication. -/
structure Core.SamePhase (k k' : Core) : Prop where
  no : k'.no = k.no
  phase : k'.phase = k.phase
  published : k'.published = k.published
  cellAdds : k'.cellAdds = k.cellAdds

theorem Core.SamePhase.refl (k : Core) : k.SamePhase k := ⟨rfl, rfl, rfl, rfl⟩

theorem Core.SamePhase.trans {k k1 k2 : Core} (h : k.SamePhase k1) (h1 : k1.SamePhase k2) : k.SamePhase k2 :=
  ⟨h1.no.trans h.no, h1.phase.trans h.phase, h1.published.trans h.published, h1.cellAdds.trans h.cellAdds⟩

section
variable {s : State} {r : Run} {fn : Fn} {f : Flight} {d : Dir} {k : Core} {n record : Nat} {sel : List Nat}

/-- A core, or the core in its place of a step that leaves its phase. -/
theorem Core.SamePhase.getD {o : Option Core} (h : ∀ k', o = some k' → k.SamePhase k') : k.SamePhase (o.getD k) := by
  cases o with
  | none => exact .refl k
  | some x => exact h x rfl

/-- A record that comes for the read that waits for it, if one does. -/
theorem feedRead_samePhase (o : Option (BitVec 20 × Nat × Option Nat × Nat × Option (List Nat))) :
    k.SamePhase ((o.bind (fun w => s.feedRead r fn f d k n record w sel)).getD k) := .getD fun k' h => by
  obtain ⟨w, -, hw⟩ := Option.bind_eq_some_iff.mp h
  unfold State.feedRead at hw
  dsimp only at hw
  split at hw
  · cases hw
  · obtain ⟨y, -, rfl⟩ := Option.map_eq_some_iff.mp hw
    split <;> exact ⟨rfl, rfl, rfl, rfl⟩

/-- A record that comes to a head's window, if it lies there. -/
theorem feedWindow_samePhase (h : Head) (b : Bool) :
    k.SamePhase ((if b then s.feedWindow r fn f d k n h record sel else none).getD k) := .getD fun k' hw => by
  split at hw
  · unfold State.feedWindow at hw
    dsimp only at hw
    split at hw
    · obtain ⟨x, -, rfl⟩ := Option.map_eq_some_iff.mp hw
      exact ⟨rfl, rfl, rfl, rfl⟩
    · split at hw
      · cases hw
      · obtain ⟨x, -, rfl⟩ := Option.map_eq_some_iff.mp hw
        exact ⟨rfl, rfl, rfl, rfl⟩
  · cases hw

@[simp] theorem State.startWalk_cores (s : State) (c run : Nat) (t : BitVec 20) (i : Nat) (w : Option (Nat × Nat)) :
    (s.startWalk c run t i w).cores = s.cores := by
  unfold State.startWalk
  dsimp only
  split <;> rfl

theorem recordArrives_samePhase (hk : s.coreAt k.no = some k) (again : Bool) :
    ∃ k', (s.recordArrives r fn f k n record sel again).1.coreAt k.no = some k' ∧ k.SamePhase k' := by
  have stays {t : State} (h : t.cores = s.cores) : ∃ k', t.coreAt k.no = some k' ∧ k.SamePhase k' :=
    ⟨k, (coreAt_congr h _).trans hk, .refl k⟩
  unfold State.recordArrives
  dsimp only
  split
  · exact stays rfl
  split
  · exact stays rfl
  split
  · exact stays (State.startWalk_cores ..)
  · have hcore (t : BitVec 20) (i : Nat) : (s.touchExtent k.no r.id t i).coreAt k.no = some k :=
      (coreAt_congr (State.touchExtent_cores ..) _).trans hk
    refine ⟨_, coreAt_setCore (hcore _ _) (Core.SamePhase.no (k := k) ?same), ?same⟩
    exact (feedRead_samePhase _).trans (feedWindow_samePhase _ _)

end

theorem refillOne_samePhase {s : State} {c : Nat} {k : Core} (hk : s.coreAt c = some k) (x : Nat × Nat) :
    ∃ k', (s.refillOne c x).1.coreAt c = some k' ∧ k.SamePhase k' := by
  have stays : ∃ k', s.coreAt c = some k' ∧ k.SamePhase k' := ⟨k, hk, .refl k⟩
  unfold State.refillOne
  split
  · exact stays
  rename_i k1 r fn f hj
  obtain rfl : k1 = k := Option.some.inj ((coreJob_spec hj).1.symm.trans hk)
  dsimp only
  split
  · exact stays
  split
  · exact stays
  · obtain rfl := coreAt_no hk
    exact recordArrives_samePhase (s := (s.freePicks _).1) hk true

theorem refill_samePhase {s : State} {c : Nat} {k : Core} (hk : s.coreAt c = some k) (want : List (Nat × Nat)) :
    ∃ k', (s.refill c want).1.coreAt c = some k' ∧ k.SamePhase k' := by
  induction want generalizing s k with
  | nil => exact ⟨k, hk, .refl k⟩
  | cons x rest ih =>
    obtain ⟨k1, hk1, h1⟩ := refillOne_samePhase hk x
    obtain ⟨k2, hk2, h2⟩ := ih hk1
    exact ⟨k2, hk2, h1.trans h2⟩

/-- The core goes on when its windows hold their records again, and stays in the phase that has begun. -/
theorem refillAll_samePhase {s : State} {c : Nat} {k : Core} (hk : s.coreAt c = some k) (want : List (Nat × Nat)) :
    ∃ k', (s.refillAll c want).coreAt c = some k' ∧ k.SamePhase k' ∧ (k'.stage = .run ∨ ∃ want, k'.stage = .refilling want) ∧
      (want = [] → k'.stage = .run) := by
  obtain ⟨k1, hk1, h1⟩ := refill_samePhase hk want
  have hno : k1.no = c := coreAt_no hk1
  refine ⟨_, coreAt_mapCore hk1 (fun k => { k with stage := if (s.refill c want).2.isEmpty then .run else .refilling (s.refill c want).2 })
    hno, ⟨h1.no, h1.phase, h1.published, h1.cellAdds⟩, ?_, fun h => ?_⟩
  · dsimp only
    split
    · exact .inl rfl
    · exact .inr ⟨_, rfl⟩
  · subst h
    rfl

/-! ## The end of a publication (R204, R207) -/

/-- A phase begins with all that has reached the core, but of what it acquires at the boundary only writes that reach it (R210). -/
theorem Run.mem_boundaryOf_phase (r : Run) (k : Core) (scope w : Nat) :
    w ∈ (r.boundaryOf k scope).phase ↔ w ∈ (k.boundary scope).reached ∧ (w ∉ r.foreign k.no ∨ w ∈ k.reached) := by
  simp [Run.boundaryOf, Core.without, Core.boundary]

theorem Run.boundaryOf_publishes (r : Run) (k : Core) (scope : Nat) :
    (⟨scope, (r.boundaryOf k scope).phase⟩ : Published) ∈ (r.boundaryOf k scope).published := by
  simp [Run.boundaryOf, Core.without, Core.boundary]

theorem phasePublicationEnd_begins {s : State} {core scope : Nat} {k : Core} {r : Run} {fn : Fn} {f : Flight}
    (hj : s.coreJob core = some (k, r, fn, f)) (hs : k.stage = .publishing scope) (hfly : r.reachedFlying k = false)
    (hadds : k.cellAdds = [] ∨ k.readsHeld = true) :
    ∃ t k', exec (.phasePublicationEnd core) s = .next t ∧ t.coreAt core = some k' ∧
      ({ r.boundaryOf k scope with cellAdds := [] } : Core).SamePhase k' ∧
      (k'.stage = .run ∨ ∃ want, k'.stage = .refilling want) ∧ (k.windowRecords = [] → k'.stage = .run) := by
  obtain ⟨hk, -⟩ := coreJob_spec hj
  have hno : k.no = core := coreAt_no hk
  have hgo : (r.reachedFlying k || !(k.cellAdds.isEmpty || k.readsHeld)) = false := by
    rcases hadds with h | h <;> simp [hfly, h]
  have hset (g : Run → Run) : ((s.mapRun r.id g).setCore
      { r.boundaryOf k scope with cellAdds := [], stage := .refilling k.windowRecords }).coreAt core =
        some { r.boundaryOf k scope with cellAdds := [], stage := .refilling k.windowRecords } :=
    coreAt_setCore (s := s.mapRun r.id g) hk hno
  obtain ⟨k', hk', hsame, hstage, hempty⟩ := refillAll_samePhase (hset _) k.windowRecords
  refine ⟨_, k', ?_, hk', ⟨hsame.no, hsame.phase, hsame.published, hsame.cellAdds⟩, hstage, hempty⟩
  show execPhasePublicationEnd core s = _
  unfold execPhasePublicationEnd
  simp only [hj, hs, hgo]
  rfl

/-! ## Handrails (R133) -/

section
variable {s : State} {n : Nat} {l : Line} (hl : s.lineAt n = some l)
include hl

theorem handrailLineTrue_notes (ha : l.all = true) (ht : l.trueTick = none) (h4 : l.level ≠ 4) :
    exec (.handrailLineTrue n) s = .next (s.mapLine n (fun l => { l with trueTick := some s.pcyc })) := by
  show execHandrailLineTrue n s = _
  simp [execHandrailLineTrue, hl, ha, ht, h4]

theorem handrailRestart_restarts {u : Nat} (h4 : l.level ≠ 4) (ht : l.trueTick = some u) (hu : u + 12 ≤ s.pcyc) :
    exec (.handrailRestart n) s = .next (s.restartLine l) := by
  have hdue : u + Config.handrail ≤ s.pcyc := hu
  show execHandrailRestart n s = _
  simp [execHandrailRestart, hl, ht, h4, hdue]

theorem level4LineCompletion_restarts {u : Nat} (h4 : l.level = 4) (ht : l.trueTick = some u) :
    exec (.level4LineCompletion n) s = .next (s.restartLine l) := by
  show execLevel4LineCompletion n s = _
  simp [execLevel4LineCompletion, hl, ht, h4]

theorem level4LineCompletion_notes (h4 : l.level = 4) (ht : l.trueTick = none) :
    exec (.level4LineCompletion n) s = .next (s.mapLine n (fun l => { l with remote := true })) := by
  show execLevel4LineCompletion n s = _
  simp [execLevel4LineCompletion, hl, ht, h4]

theorem restartLine_lineAt : (s.restartLine l).lineAt n =
    some { l with raised := [], carried := [], trueTick := none, remote := false } := by
  obtain rfl := lineAt_no hl
  exact lineAt_mapLine (s := { s with cores := _ }) hl _ (fun _ => rfl)

/-- A member that waits at the line issues its SYNC, and any other core stays as it is. -/
theorem restartLine_coreAt {core : Nat} {k : Core} (hk : s.coreAt core = some k) : (s.restartLine l).coreAt core =
    some (if k.stage = .waitLine n then ({ k with stage := .syncIssue } : Core).acquire l.carried else k) := by
  obtain rfl := lineAt_no hl
  refine (coreAt_mapCores (s := s) rfl (fun k => by split <;> rfl) core).trans ?_
  simp only [hk, Option.map_some, beq_iff_eq]

end

/-! ## Events (R134) -/

section
variable {s : State} {core : Nat} {k : Core}

theorem eventIn_no (k : Core) (tick : Nat) (c : Carried) : (k.eventIn tick c).no = k.no := by
  unfold Core.eventIn
  split <;> rfl

theorem eventArrival_oldest {e : Nat × Carried} (hk : s.coreAt core = some k) (he : s.events.find? (fun e => e.1 == core) = some e) :
    ∃ t, exec (.eventArrival core) s = .next t ∧ t.coreAt core = some (k.eventIn s.pcyc e.2) ∧ t.events = s.events.erase e := by
  refine ⟨_, ?_, coreAt_mapCore (s := { s with events := s.events.erase e }) hk (fun k => k.eventIn s.pcyc e.2)
    ((eventIn_no ..).trans (coreAt_no hk)), rfl⟩
  show execEventArrival core s = _
  simp only [execEventArrival, he]

theorem eventArrival_far (hk : s.coreAt core = some k) (he : s.events.find? (fun e => e.1 == core) = none)
    (hfar : s.farMember k = true) :
    ∃ t, exec (.eventArrival core) s = .next t ∧ t.coreAt core = some (k.eventIn s.pcyc farEvent) ∧ { t with cores := s.cores } = s := by
  refine ⟨s.mapCore core (fun k => if s.farMember k then k.eventIn s.pcyc farEvent else k), ?_, ?_, rfl⟩
  · show execEventArrival core s = _
    simp only [execEventArrival, he]
  · have hno : (if s.farMember k then k.eventIn s.pcyc farEvent else k).no = core := by
      rw [if_pos hfar, eventIn_no, coreAt_no hk]
    rw [coreAt_mapCore hk (fun k => if s.farMember k then k.eventIn s.pcyc farEvent else k) hno, if_pos hfar]

/-- A WFE that waits goes on, and leaves the bit clear. -/
theorem eventIn_waitEvent {ck : Bool} (hs : k.stage = .waitEvent ck) (tick : Nat) (c : Carried) :
    (k.eventIn tick c).stage = .run ∧ (k.eventIn tick c).arch.event = false ∧ (k.eventIn tick c).shadow.event = !ck := by
  unfold Core.eventIn
  rw [hs]
  exact ⟨rfl, rfl, rfl⟩

/-- So does one whose bundle's release has yet to end. -/
theorem eventIn_releasing (hs : k.stage = .releasing .event) (tick : Nat) (c : Carried) :
    (k.eventIn tick c).stage = .releasing .go ∧ (k.eventIn tick c).arch.event = false := by
  unfold Core.eventIn
  rw [hs]
  exact ⟨rfl, rfl⟩

/-- With no WFE to wake, the event sets the pending bit in the core and its shadow. -/
theorem eventIn_pends (hw : ∀ ck, k.stage ≠ .waitEvent ck) (hr : k.stage ≠ .releasing .event) (tick : Nat) (c : Carried) :
    (k.eventIn tick c).stage = k.stage ∧ (k.eventIn tick c).arch.event = true ∧ (k.eventIn tick c).shadow.event = true := by
  unfold Core.eventIn
  split
  · exact absurd ‹_› (hw _)
  · exact absurd ‹_› hr
  · exact ⟨rfl, rfl, rfl⟩

end

/-! ## Next tiles (R82, R88, R89) -/

/-- From a number `i` up to which the list lacks none: the walk passes a number that the list has, one at a time. -/
theorem nthMissing_spec {l : List Nat} (hl : l.Pairwise (· < ·)) {n i : Nat} (hn : ∀ x ∈ l, x < n) (hi : i + l.length < n) :
    i ≤ nthMissing l i ∧ nthMissing l i < n ∧ nthMissing l i ∉ l := by
  induction l generalizing i with
  | nil => exact ⟨Nat.le_refl i, hi, List.not_mem_nil⟩
  | cons x xs ih =>
    obtain ⟨hx, hxs⟩ := List.pairwise_cons.mp hl
    rw [List.length_cons] at hi
    unfold nthMissing
    split
    · rename_i hlt
      refine ⟨Nat.le_refl i, by omega, fun hmem => ?_⟩
      rcases List.mem_cons.mp hmem with rfl | h
      · exact Nat.lt_irrefl _ hlt
      · exact Nat.lt_asymm hlt (hx i h)
    · rename_i hge
      obtain ⟨hle, hlt, hmem⟩ := ih hxs (i := i + 1) (fun y hy => hn y (List.mem_cons_of_mem _ hy)) (by omega)
      refine ⟨by omega, hlt, fun h => ?_⟩
      rcases List.mem_cons.mp h with h | h
      · omega
      · exact hmem h

section
variable {s : State} {k : Core} {r : Run} {f : Flight} {nd : Node} {ns : NodeState}

@[simp] theorem State.handTile_cores (s : State) (rid node pick : Nat) : (s.handTile rid node pick).1.cores = s.cores := by
  unfold State.handTile
  split
  · rfl
  · dsimp only
    split <;> rfl

/-- While a node has tiles left, the one handed out is a number that its list lacks. -/
theorem handTile_hands (hr : s.runAt k.run = some r) (hf : s.flightOf r = some f) (hn : f.nodes[k.node]? = some nd)
    (hs : r.nodes[k.node]? = some ns) (hleft : ns.handed.length < nd.tileCount) (pick : Nat) :
    (s.handTile k.run k.node pick).2 = nd.tile (nthMissing ns.handed (pick % (nd.tileCount - ns.handed.length))) := by
  have hpos : nd.tileCount - ns.handed.length ≠ 0 := Nat.sub_ne_zero_of_lt hleft
  simp only [State.handTile, hr, hf, Option.bind_some, hn, hs, NodeState.hand, if_neg hpos]

theorem nexttRequestAccept_answers {core die : Nat} (hk : s.coreAt core = some k)
    (hask : s.cores.find? (fun k => dieOf (hallOf k.no) == die && k.asksTile) = some k) (pick : Nat) :
    ∃ t, exec (.nexttRequestAccept die pick) s = .next t ∧
      t.coreAt core = some { k with tileReq := answerFirst s.pcyc (s.handTile k.run k.node pick).2 k.tileReq } := by
  obtain rfl := coreAt_no hk
  refine ⟨_, ?_, coreAt_mapCore (s := (s.handTile k.run k.node pick).1) ((coreAt_congr (State.handTile_cores ..) _).trans hk)
    (fun j => { j with tileReq := answerFirst s.pcyc (s.handTile k.run k.node pick).2 j.tileReq }) rfl⟩
  show execNexttRequestAccept die pick s = _
  simp only [execNexttRequestAccept, hask]

/-- The core to which the answer of its oldest request has come. -/
def Core.takesReply (k : Core) (v : W64) (rest : List TileReq) : Core :=
  { k with
    tileReq := rest
    tileCount := k.tileCount + 1
    tiles := if v = nullTile || k.tileCount < k.tileBase then k.tiles else k.tiles ++ [(k.tileCount, v)]
    nullSeen := k.nullSeen || v == nullTile
    pend := k.pend.map (fun p => p.feedTile k.tileCount v) }

theorem nexttReplyArrive_takes {core q tick : Nat} {v : W64} {rest : List TileReq} (hk : s.coreAt core = some k)
    (hreq : k.tileReq = ⟨q, some (tick, v)⟩ :: rest) (hdue : tick ≤ s.pcyc) :
    exec (.nexttReplyArrive core) s = .next (s.setCore (k.takesReply v rest)) := by
  show execNexttReplyArrive core s = _
  simp only [execNexttReplyArrive, hk, hreq, if_neg (Nat.not_lt.mpr hdue), Core.takesReply]

/-- A tile of the core's span is one of its provisional tiles. -/
theorem Core.takesReply_tiles (rest : List TileReq) {v : W64} (hv : v ≠ nullTile) (hb : k.tileBase ≤ k.tileCount) :
    (k.tileCount, v) ∈ (k.takesReply v rest).tiles := by
  simp [Core.takesReply, hv, Nat.not_lt.mpr hb]

/-- The NEXTT that waits for this answer has it. -/
theorem Core.takesReply_feeds (v : W64) (rest : List TileReq) {p : Pend} (hp : p ∈ k.pend) (hneed : p.need = .tile k.tileCount) :
    { p with val := v, need := .ready } ∈ (k.takesReply v rest).pend :=
  List.mem_map.mpr ⟨p, hp, by simp [Pend.feedTile, hneed]⟩

end

/-! ## What a commit carries (R207, R396) -/

/-- The writes that the commit of a node carries: its own, and what had reached those of its tasks and commands that wrote. -/
def Run.carriedBy (r : Run) (node : Nat) : List Nat :=
  (r.gained.filter (fun x => x.1 == node)).foldl (fun l x => unionNat x.2 l) (r.nodeWrites node)

theorem Run.mem_carriedBy {r : Run} {node w : Nat} :
    w ∈ r.carriedBy node ↔ (w, node) ∈ r.widNodes ∨ ∃ ws, (node, ws) ∈ r.gained ∧ w ∈ ws := by
  rw [Run.carriedBy, mem_unions (g := Prod.snd)]
  refine or_congr ?_ ?_
  · simp only [Run.nodeWrites, List.mem_map, List.mem_filter, beq_iff_eq]
    exact ⟨fun ⟨_, ⟨h, hn⟩, hw⟩ => hn ▸ hw ▸ h, fun h => ⟨_, ⟨h, rfl⟩, rfl⟩⟩
  · simp only [List.mem_filter, beq_iff_eq]
    exact ⟨fun ⟨y, ⟨h, hn⟩, hw⟩ => ⟨y.2, hn ▸ h, hw⟩, fun ⟨ws, h, hw⟩ => ⟨(node, ws), ⟨h, rfl⟩, hw⟩⟩

section
variable {s : State} {run node : Nat} {r : Run} (hr : s.runAt run = some r) (settled : Bool)
include hr

/-- Of the runs, a commit changes its own, which has what the commit carries among its committed writes. -/
theorem closeNode_runs : ∃ g : Run → Run, (∀ x, (g x).id = x.id) ∧
    (∀ x, (g x).committedWrites = unionNat (r.carriedBy node) x.committedWrites) ∧
    (s.closeNode run node settled).runs = (s.mapRun run g).runs := by
  unfold State.closeNode
  simp only [hr]
  refine ⟨_, ?_, ?_, rfl⟩ <;> exact fun _ => rfl

theorem closeNode_committedWrites {r' : Run} (hr' : (s.closeNode run node settled).runAt run = some r') :
    r'.committedWrites = unionNat (r.carriedBy node) r.committedWrites := by
  obtain ⟨g, hid, hw, hruns⟩ := closeNode_runs hr settled (node := node)
  rw [runAt_congr hruns, runAt_mapRun hr g hid] at hr'
  rw [← Option.some.inj hr', hw]

theorem closeNode_reaches {q : Core} (hq : q ∈ (s.closeNode run node settled).cores) (hrun : q.run = run) {w : Nat}
    (hw : w ∈ r.carriedBy node) : w ∈ q.reached := by
  unfold State.closeNode at hq
  simp only [hr] at hq
  obtain ⟨x, -, rfl⟩ := List.mem_map.mp hq
  by_cases hx : x.run = run
  · simp only [hx, beq_self_eq_true, if_true]
    exact mem_unionNat.mpr (.inl hw)
  · simp [hx] at hrun

end

end Sys2Proof.Machine

namespace Sys2Proof

open Machine

/-- Settles O51: publications, handrail lines, events, next tiles, then what a commit carries. -/
theorem handoffs : Obligations.Handoffs := by
  unfold Obligations.Handoffs
  intro s core n k l hk
  refine ⟨fun r fn f scope hj hs hfly hadds => ?_, fun hl ha ht h4 => handrailLineTrue_notes hl ha ht h4, ?_, fun e he => ?_,
    fun he hfar => eventArrival_far hk he hfar, fun die pick r f nd ns hask hr hf hn hs hleft => ?_,
    fun run node settled r r' hr hr' => ⟨fun w => ?_, fun q hq hrun w hw => ?_⟩, fun m j i hm hin hij => ?_,
    fun q v tick rest hreq hdue => ⟨_, nexttReplyArrive_takes hk hreq hdue, rfl, rfl, rfl, Core.takesReply_tiles rest,
      fun p hp hneed => Core.takesReply_feeds v rest hp hneed⟩⟩
  · obtain ⟨t, k', he, hk', hsame, hstage, hempty⟩ := phasePublicationEnd_begins hj hs hfly hadds
    refine ⟨t, k', he, hk', hsame.cellAdds, hstage, hempty, fun w => ?_, ?_⟩
    · rw [hsame.phase, r.mem_boundaryOf_phase, coreAt_no hk]
    · rw [hsame.phase, hsame.published]
      exact r.boundaryOf_publishes k scope
  · intro restarts hl
    have restart {i : Instr} (h : exec i s = .next (s.restartLine l)) : restarts i := by
      refine ⟨_, h, restartLine_lineAt hl, fun hw => ⟨_, restartLine_coreAt hl hk, ?_⟩, fun hw => ?_⟩
      · rw [if_pos hw]
        rfl
      · rw [restartLine_coreAt hl hk, if_neg hw]
    exact ⟨fun u h4 ht hu => restart (handrailRestart_restarts hl h4 ht hu),
      fun u h4 ht => restart (level4LineCompletion_restarts hl h4 ht), level4LineCompletion_notes hl⟩
  · obtain ⟨t, hx, hk', hev⟩ := eventArrival_oldest hk he
    exact ⟨t, _, hx, hk', hev, fun ck h => eventIn_waitEvent h _ _, fun h => eventIn_releasing h _ _,
      fun hw h => eventIn_pends hw h _ _⟩
  · obtain ⟨t, hx, hk'⟩ := nexttRequestAccept_answers hk hask pick
    exact ⟨t, hx, handTile_hands hr hf hn hs hleft pick ▸ hk'⟩
  · rw [closeNode_committedWrites hr settled hr', mem_unionNat, Run.mem_carriedBy, or_comm]
  · exact closeNode_reaches hr settled hq hrun (Run.mem_carriedBy.mpr hw)
  · obtain ⟨-, hlt, hmem⟩ := nthMissing_spec hm hin (i := i) (by omega)
    exact ⟨hlt, hmem⟩

end Sys2Proof
end

section
/-! PROOFS. Cuts: their steps, timeout and retry, resumption, pre-emption and the basin. -/

namespace Sys2Proof.Machine

/-! ## The command (R97, R98) -/

section
variable {s : State} {fn : Nat} {no : BitVec 5} {flight : BitVec 10} {g : Fn} (ha : s.answering fn = some g)
include ha

theorem jcCut_cuts {x : Run} (hx : s.jcRun fn no flight = some x) : exec (.jcCut fn no flight) s =
    .next ((s.jcEnd fn (jcWord 1 no (fld g.jcCmd 10 8) flight) 0).startCut x.id .command 0) := by
  show execJcCut fn no flight s = _
  simp [execJcCut, ha, hx, Fn.jcWordOf]

theorem jcCut_noRun (hx : s.jcRun fn no flight = none) :
    exec (.jcCut fn no flight) s = .next (s.jcEnd fn (jcWord 1 no (fld g.jcCmd 10 8) flight) 0x40) := by
  show execJcCut fn no flight s = _
  simp [execJcCut, ha, hx, Fn.jcWordOf]

end

/-! ## The steps of Table 5.1 -/

theorem cutAt_of_cut {s : State} {run n : Nat} {r : Run} {c : Cut} (hr : s.runAt run = some r) (hc : r.cut = some c) (hn : c.step = n) :
    s.cutAt run n = some (r, c) := by
  simp [State.cutAt, hr, hc, hn]

/-- With no other package in the job its own parties settle M and S. -/
theorem remoteMax_alone {s : State} {r : Run} {f : Flight} (hf : s.flightOf r = some f) (hpkg : f.nPkg ≤ 1) (width v : Nat) :
    s.remoteMax r width v = (s, v) := by
  simp [State.remoteMax, hf, hpkg]

/-- The highest position that a core of the run has reached. -/
def State.cutM (s : State) (run : Nat) : Nat :=
  (s.cores.map (fun k => if k.takesPart run then k.arch.cpos.toNat else 0)).foldl max 0

/-- The run's cut with its M. -/
def State.withM (s : State) (run : Nat) (c : Cut) : State :=
  s.mapRun run (fun r => { r with cut := some { c with step := 4, m := BitVec.ofNat 64 (s.cutM run) } })

/-- A core of the run short of M. -/
def Core.shortOf (k : Core) (run m : Nat) : Bool := k.takesPart run && decide (k.arch.cpos.toNat < m)

/-- The records of stops change no run and no core. -/
theorem stopRecords_frame (s : State) (a : StopKind) (l : List Core) :
    (l.foldl (fun s k => s.stopRecord k a) s).runs = s.runs ∧ (l.foldl (fun s k => s.stopRecord k a) s).cores = s.cores :=
  List.foldlRecOn (motive := fun t : State => t.runs = s.runs ∧ t.cores = s.cores) l _ ⟨rfl, rfl⟩ fun t ht k _ => by
    unfold State.stopRecord State.record
    split <;> exact ht

@[simp] theorem Core.leaveCut_no (k : Core) : k.leaveCut.no = k.no := by
  unfold Core.leaveCut
  dsimp only
  split <;> rfl

section
variable {s : State} {run : Nat} {r : Run} {f : Flight} {c : Cut} (hr : s.runAt run = some r) (hc : r.cut = some c)
  (hst : s.allStopped run = true)
include hr hc hst

/-- The cut has its M, the cores that stand there have their records, and those short of it run on. -/
theorem cutMFormed_eq (hstep : c.step = 2) (hf : s.flightOf r = some f) (hpkg : f.nPkg ≤ 1) : ∃ there : List Core,
    let t := there.foldl (fun s k => s.stopRecord k .cut) (s.withM run c)
    exec (.cutMFormed run) s = .next { t with cores := t.cores.map (fun k => if k.shortOf run (s.cutM run) then k.leaveCut else k) } := by
  refine ⟨s.cores.filter (fun k => k.takesPart run && !decide (k.arch.cpos.toNat < s.cutM run)), ?_⟩
  show execCutMFormed run s = _
  simp only [execCutMFormed, cutAt_of_cut hr hc hstep, hst, remoteMax_alone hf hpkg]
  rfl

theorem cutMFormed_forms (hstep : c.step = 2) (hf : s.flightOf r = some f) (hpkg : f.nPkg ≤ 1) :
    ∃ t, exec (.cutMFormed run) s = .next t ∧
      (t.runAt run).bind Run.cut = some { c with step := 4, m := BitVec.ofNat 64 (s.cutM run) } ∧
      ∀ n k, s.coreAt n = some k → t.coreAt n = some (if k.shortOf run (s.cutM run) then k.leaveCut else k) := by
  obtain ⟨there, he⟩ := cutMFormed_eq hr hc hst hstep hf hpkg
  obtain ⟨hruns, hcores⟩ := stopRecords_frame (s.withM run c) .cut there
  have hat : (s.withM run c).runAt run = _ := runAt_mapRun hr _ (fun _ => rfl)
  refine ⟨_, he, congrArg (fun o => Option.bind o Run.cut) ((runAt_congr hruns run).trans hat), fun n k hk => ?_⟩
  have hno (k : Core) : (if k.shortOf run (s.cutM run) then k.leaveCut else k).no = k.no := by split <;> simp
  exact (coreAt_mapCores rfl hno n).trans (congrArg (Option.map _) ((coreAt_congr hcores n).trans hk))

theorem cutSFormed_forms (hstep : c.step = 4) (hf : s.flightOf r = some f) (hpkg : f.nPkg ≤ 1) :
    exec (.cutSFormed run) s = .next (s.mapRun run (fun r => { r with cut := some { c with
      step := 5, s := (s.contexts.map (fun x => if x.run == run then x.step.toNat else 0)).foldl max 0 } })) := by
  show execCutSFormed run s = _
  simp [execCutSFormed, cutAt_of_cut hr hc hstep, hst, remoteMax_alone hf hpkg]

end

/-! ## The images and the end of the cut (R103 to R107) -/

/-- The record of a function with a free place enters its device buffer, with the stamp its source has free (R60, R114). -/
theorem post_enters {s : State} {n : Nat} {g : Fn} (hg : s.fnAt n = some g) (hroom : g.roomFor = true) (x : Rec) :
    ((s.post n x).fnAt n).map (fun g => g.buffer) = some (g.buffer ++ [{ x with tick := (s.stamp n x.src x.tick).1 }]) := by
  have hno (y : Rec) (f : Fn) : (f.post y).no = f.no := by
    unfold Fn.post
    split <;> rfl
  have hat : (s.post n x).fnAt n = _ := fnAt_mapFn (s := (s.stamp n x.src x.tick).2) hg _ (hno _)
  rw [hat]
  simp [Fn.post, hroom]

section
variable (s : State) (r : Run) (c : Cut)

/-- Of the runs only the one cut out changes. -/
theorem cutOut_runs : ∃ g : Run → Run, (∀ x, (g x).id = x.id) ∧
    (∀ x, (g x).stage = .cutOut ∧ (g x).cut = none ∧ (g x).cutTick = s.pcyc) ∧ (s.cutOut r c).runs = (s.mapRun r.id g).runs := by
  refine ⟨_, ?_, ?_, rfl⟩
  · exact fun _ => rfl
  · exact fun _ => ⟨rfl, rfl, rfl⟩

/-- Its cores are free. -/
theorem cutOut_frees {k : Core} (hk : k ∈ (s.cutOut r c).cores) : k.run ≠ r.id := by
  obtain ⟨-, h⟩ := List.mem_filter.mp hk
  simpa using h

theorem cutOut_records {g : Fn} (hg : s.fnAt r.fn = some g) (hroom : g.roomFor = true) :
    ∃ w, ((s.cutOut r c).fnAt r.fn).map (fun g => g.buffer) = some (g.buffer ++ [w]) ∧ w.kind = 6 ∧ w.node = 0xFFFF :=
  ⟨_, post_enters (s := s.deliverEvents r.id) hg hroom ((s.deliverEvents r.id).runRec r 6 0 0xFFFF (fld c.m 0 32)), rfl, rfl⟩

end

section
variable {s : State} {run : Nat} {r : Run} {c : Cut} (hr : s.runAt run = some r) (hc : r.cut = some c)
include hr hc

omit hc in
/-- The cut is complete once its cores stand at M, no core of the run serves a trap and no context owes a command (Table 5.1 steps 4 and 5). -/
theorem cutComplete_of_stopped (hstep : c.step = 5) (hst : s.allStopped run = true)
    (hh : ∀ k ∈ s.cores, k.run = run → k.handlerOf = none) (hx : ∀ x ∈ s.contexts, x.run = run → s.owes x c.s = false) :
    s.cutComplete r c = true := by
  obtain rfl := runAt_id hr
  have hcores : s.cores.any (fun k => k.run == r.id && k.handlerOf.isSome) = false :=
    List.any_eq_false.mpr fun k hk => by
      by_cases hrun : k.run = r.id
      · simp [hh k hk hrun]
      · simp [hrun]
  have hctxs : s.contexts.all (fun x => x.run != r.id || !s.owes x c.s) = true :=
    List.all_eq_true.mpr fun x hm => by
      by_cases hrun : x.run = r.id
      · simp [hx x hm hrun]
      · simp [hrun]
  simp [State.cutComplete, hstep, hst, hcores, hctxs]

theorem cutImagesWritten_cutsOut {g : Fn} (hcomp : s.cutComplete r c = true) (hg : s.fnAt r.fn = some g) (hroom : g.roomFor = true)
    (hpast : s.stampsPast r = true) : exec (.cutImagesWritten run) s = .next (s.cutOut r c) := by
  have hstep : c.step = 5 := by
    simp only [State.cutComplete, Bool.and_eq_true, beq_iff_eq] at hcomp
    obtain ⟨⟨⟨h, -⟩, -⟩, -⟩ := hcomp
    exact h
  show execCutImagesWritten run s = _
  simp [execCutImagesWritten, cutAt_of_cut hr hc hstep, hcomp, hg, hroom, hpast]

/-! ## Timeout and retry (R100) -/

theorem cutTimeout_complete (hcomp : s.cutComplete r c = true) : exec (.cutTimeout run) s = .next s := by
  show execCutTimeout run s = _
  simp [execCutTimeout, hr, hc, State.cutShort, hcomp]

section
variable (hleft : c.left = 0) (hcomp : s.cutComplete r c = false)
include hleft hcomp

/-- A pre-emption cut that runs out of time is abandoned once. -/
theorem cutTimeout_abandons (hpre : c.reason = .preempt) (hab : c.abandoned = 0) :
    ∃ t, exec (.cutTimeout run) s = .next t ∧
      t.runAt run = some { r with cut := none, retryAt := some (s.pcyc + Config.cutRetry, 1) } := by
  have hat := runAt_mapRun hr (fun r => { r with cut := none, retryAt := some (s.pcyc + Config.cutRetry, 1) }) (fun _ => rfl)
  refine ⟨{ s.mapRun run _ with cores := s.cores.map (fun k => if k.run == run then k.leaveCut else k) }, ?_, hat⟩
  show execCutTimeout run s = _
  simp [execCutTimeout, hr, hc, State.cutShort, hcomp, hleft, hpre, hab]

theorem cutTimeout_faults (h : c.reason ≠ .preempt ∨ c.abandoned ≠ 0) : exec (.cutTimeout run) s = .next (s.faultRun run 0x36) := by
  have hnot : (c.reason == .preempt && c.abandoned == 0) = false := by
    rcases h with h | h <;> simp [h]
  show execCutTimeout run s = _
  simp [execCutTimeout, hr, hc, State.cutShort, hcomp, hleft, hnot]

end

end

section
variable {s : State} {run : Nat} {r : Run} {f : Flight} (hr : s.runAt run = some r)
include hr

section
variable {t n : Nat} (ht : r.retryAt = some (t, n)) (hdue : t ≤ s.pcyc)
include ht hdue

omit hdue in
theorem cutRetryTimer_waits (hp : s.preempting run = true) : exec (.cutRetryTimer run) s = .next s := by
  show execCutRetryTimer run s = _
  simp [execCutRetryTimer, hr, ht, hp]

theorem cutRetryTimer_retries (hp : s.preempting run = false) :
    exec (.cutRetryTimer run) s = .next ((s.mapRun run (fun r => { r with retryAt := none })).startCut run .preempt n) := by
  have hnot : ¬ s.pcyc < t := Nat.not_lt.mpr hdue
  show execCutRetryTimer run s = _
  simp [execCutRetryTimer, hr, ht, hp, hnot]

end

/-! ## Resumption (R92, R108) -/

theorem cutRunResume_takes {g : Fn} {css : List (List Nat)} (hf : s.flightOf r = some f) (hg : s.fnAt r.fn = some g)
    (hcan : s.canResume r = true) (hlead : s.leads r.fn (s.cutKey r) = true) (hfault : s.resumeFault g f r = false)
    (hcss : f.chooseAll g (r.cutRecords f) (s.freeCores g) = some css) :
    exec (.cutRunResume run) s = .next (((s.mapRun run (fun r => { r with stage := .active, retryAt := none })).moveRun r
      (r.cutNodes.zip css)).resumeNodes r g f (r.moves (r.cutNodes.zip css)) (r.cutNodes.zip css)) := by
  show execCutRunResume run s = _
  simp [execCutRunResume, hr, hf, hg, hcan, hlead, hfault, hcss]

/-! ## Pre-emption (R92) and the basin (R93, R99) -/

/-- A trigger cuts the victim, if there is one, and is used up for its node. -/
theorem preemptTimer_triggers {node : Nat} (htr : s.triggers r node = true) :
    let t := s.mapRun run (fun r => r.mapNode node (fun ns => { ns with triggered := true }))
    exec (.preemptTimer run node) s = .next ((t.victim r).elim t (fun v => t.startCut v.id .preempt 0)) := by
  intro t
  show execPreemptTimer run node s = _
  simp only [execPreemptTimer, hr, htr]
  cases hv : t.victim r <;> rfl

section
variable {g : Fn} (hf : s.flightOf r = some f) (hg : s.fnAt r.fn = some g) (hdue : s.basinDue r = true)
include hf hg hdue

theorem basinTimer_faults (hw : s.fullWindows r f = []) : exec (.basinTimer run) s = .next (s.faultRun run 0x33) := by
  show execBasinTimer run s = _
  simp [execBasinTimer, hr, hf, hg, hdue, hw]

theorem basinTimer_enlarges {w : BitVec 20 × Dir} {rest : List (BitVec 20 × Dir)} (hw : s.fullWindows r f = w :: rest) :
    exec (.basinTimer run) s = .next (s.enlarge r g (rest.foldl r.smaller w)) := by
  show execBasinTimer run s = _
  simp [execBasinTimer, hr, hf, hg, hdue, hw]

end

/-! ## Another package's cut (R87) -/

theorem remoteCutRequest_begins (hf : s.flightOf r = some f) (hsys : f.sysJob ≠ 0) :
    exec (.remoteCutRequest run) s = .next (s.beginCut run .command 0) := by
  show execRemoteCutRequest run s = _
  simp only [execRemoteCutRequest, hr, Option.bind_some, hf]
  exact if_pos (bne_iff_ne.mpr hsys)

end

end Sys2Proof.Machine

namespace Sys2Proof

open Machine

/-- Settles O53: the command, the steps of Table 5.1 in order, then the timers and what another package asks for. -/
theorem cutsAndTimers : Obligations.CutsAndTimers := by
  unfold Obligations.CutsAndTimers
  intro s run r f hr hf
  refine ⟨fun fn no flight g ha => ⟨fun x hx => jcCut_cuts ha hx, jcCut_noRun ha⟩,
    fun c hc hstep hst hpkg => cutMFormed_forms hr hc hst hstep hf hpkg,
    fun c hc hstep hst hpkg => cutSFormed_forms hr hc hst hstep hf hpkg,
    fun c g hc hstep hst hh hx hg hroom hpast => ?_, fun c hc _ hcomp => cutTimeout_complete hr hc hcomp,
    fun c hc hleft hcomp => ⟨cutTimeout_abandons hr hc hleft hcomp, cutTimeout_faults hr hc hleft hcomp⟩,
    fun t n ht hdue => ⟨cutRetryTimer_waits hr ht, cutRetryTimer_retries hr ht hdue⟩,
    fun g css hg hcan hlead hfault hcss => cutRunResume_takes hr hf hg hcan hlead hfault hcss,
    fun node v htr => ?_, fun g hg hdue => ⟨basinTimer_faults hr hf hg hdue, fun w rest hw => basinTimer_enlarges hr hf hg hdue hw⟩,
    remoteCutRequest_begins hr hf⟩
  · have hcomp := cutComplete_of_stopped hr hstep hst hh hx
    obtain ⟨u, hid, hu, hruns⟩ := cutOut_runs s r c
    obtain ⟨hstage, hcut, htick⟩ := hu r
    obtain rfl := runAt_id hr
    exact ⟨_, u r, cutImagesWritten_cutsOut hr hc hcomp hg hroom hpast, (runAt_congr hruns _).trans (runAt_mapRun hr u hid),
      hstage, hcut, htick, fun k hk => cutOut_frees s r c hk, cutOut_records s r c hg hroom⟩
  · intro t
    have he := preemptTimer_triggers hr htr
    exact ⟨fun hv => he.trans (congrArg (fun o => Host.Outcome.next (Option.elim o t _)) hv),
      fun hv => he.trans (congrArg (fun o => Host.Outcome.next (Option.elim o t _)) hv)⟩

end Sys2Proof
end

section
/-! SUPPORT. What the checks of a bundle of one slot end in (R113, R124, R127, R146, R150, R270). -/

namespace Sys2Proof.Machine

/-! ## A bundle of one slot before its issue -/

/-- An instruction that stands ready is a slot instruction in its own literal bundle, and its context is of that state. -/
theorem Ready.solo {s : State} {i : Instr} {c : Ctx} (h : Ready s i c) :
    ∃ ck, soloOf i = some (c.slot, ck) ∧ c.h = soloHdr c.slot ck ∧ c.st = s := by
  cases hs : soloOf i with
  | none => simp [Ready, hs] at h
  | some x =>
    obtain ⟨slot, ck⟩ := x
    simp only [Ready, hs] at h
    obtain ⟨hc, -⟩ := h
    obtain rfl := ctx_slot hc
    exact ⟨ck, rfl, ctx_h hc, ctx_st hc⟩

section
variable {c : Ctx} {p : Plan}

/-- The freeze for a token comes before every check. -/
theorem check_awaits {cause : Cause} (ht : c.k.tokenWait p = some cause) : c.check [(c.slot, p)] = some (.inr cause) := by
  simp [Ctx.check, Ctx.tokenFreeze, firstSlot, ht]

variable (ht : c.k.tokenWait p = none)
include ht

theorem check_featureless (hf : c.feats.getLsbD p.feature = false) :
    c.check [(c.slot, p)] = some (.inl (c.info 0x0D c.slot (BitVec.ofNat 64 p.feature) 0)) := by
  simp [Ctx.check, Ctx.tokenFreeze, firstSlot, ht, hf]

variable (hf : c.feats.getLsbD p.feature = true)
include hf

theorem check_unconfigured {v : Nat} (hv : p.views.find? (fun v => !c.k.arch.configured v) = some v) :
    c.check [(c.slot, p)] = some (.inl (c.info 0x06 c.slot (BitVec.ofNat 64 v) 0)) := by
  simp [Ctx.check, Ctx.tokenFreeze, firstSlot, ht, hf, hv]

theorem check_bad (hv : ∀ v ∈ p.views, c.k.arch.configured v = true) (hb : p.bad = true) :
    c.check [(c.slot, p)] = some (.inl (c.illegal c.h c.slot)) := by
  have hnone : p.views.find? (fun v => !c.k.arch.configured v) = none :=
    List.find?_eq_none.mpr fun v hm => by simp [hv v hm]
  simp [Ctx.check, Ctx.tokenFreeze, firstSlot, ht, hf, hnone, hb]

end

/-- On a core with nothing in flight a slot that fits is stopped by its last checks alone. -/
theorem check_late {c : Ctx} {p : Plan} {t : TrapInfo} (hq : c.k.quiet) (hf : p.fits c) (hs : hdrSl c.h = false)
    (hl : c.lateTrap c.slot p = some t) : c.check [(c.slot, p)] = some (.inl t) := by
  rw [quiet_check hq hf hs, hl]

/-- Outside a SOLEND window a trap begins its rollback at once (R127, R349). -/
theorem trap_begins_rollback {s : State} {k : Core} (h : ∀ n d u, k.stage ≠ .deciding n d u) (t : TrapInfo) :
    s.trap k t = (s.setCore { k with stage := .trapping t k.arch.dictBase s.pcyc }).passTurn k.no := by
  unfold State.trap
  split
  · exact absurd ‹_› (h _ _ _)
  · exact absurd ‹_› (h _ _ _)
  · rfl

end Sys2Proof.Machine

namespace Sys2Proof

open Machine

/-- Settles O36: each check of a bundle of one slot in the order of `Ctx.check`, and the rollback that a trap begins. -/
theorem checkTraps : Obligations.CheckTraps := by
  unfold Obligations.CheckTraps
  intro s i c p traps hr hy
  obtain ⟨ck, hs, hh, hst⟩ := hr.solo
  have hsl : hdrSl c.h = false := hh ▸ solo_sl (soloOf_slot hs) ck
  have stops {t : TrapInfo} (hk : c.check [(c.slot, p)] = some (.inl t)) : traps t := exec_trap hs hr hk hy
  refine ⟨fun cause ht => ?_, fun ht hf => stops (check_featureless ht hf), fun v ht hf hv => stops (check_unconfigured ht hf hv),
    fun ht hf hv hb => stops (check_bad ht hf hv hb), fun hq hp hb => stops (check_late hq hp hsl ?_),
    fun t hq hp hb hl => stops (check_late hq hp hsl ?_), fun t h => trap_begins_rollback h t⟩
  · have hfreeze : c.tokenFreeze [(c.slot, p)] = some cause := by simp [Ctx.tokenFreeze, firstSlot, ht]
    rw [exec_waits hs hr (check_awaits ht), Ctx.started_frozen hfreeze, hst]
  · simp [Ctx.lateTrap, hb]
  · simp [Ctx.lateTrap, hb, hl]

end Sys2Proof
end

section
/-! SUPPORT. The turn of a core that is free to fetch: what a step comes to then (R113, R119, R130, R133, R257, R288). -/

namespace Sys2Proof.Machine

/-! ## The fetch does not look at whose turn it is -/

@[simp] theorem fetchWords_cur (s : State) (c : Nat) (f : Flight) (k : Core) (n va : Nat) :
    ({ s with cur := c } : State).fetchWords f k n va = s.fetchWords f k n va := by
  induction n generalizing va with
  | zero => rfl
  | succ n ih => simp only [State.fetchWords, ih]

@[simp] theorem fetchBundle_cur (s : State) (c : Nat) (f : Flight) (k : Core) (va : Nat) :
    ({ s with cur := c } : State).fetchBundle f k va = s.fetchBundle f k va := by
  simp only [State.fetchBundle, fetchWords_cur]

/-- A core that holds its bundle decoded runs it. -/
theorem fetch_decoded {s : State} {f : Flight} {k : Core} {d : Decoded} (hd : k.decodedHere = some d) :
    s.fetch f k = .run (.literalBundle d.h d.words) := by
  simp only [State.fetch, hd]

/-- Words that decode are run. -/
theorem fetch_words {s : State} {f : Flight} {k : Core} {ws : List W32} {i : Instr} {n : Nat} (hd : k.decodedHere = none)
    (hw : s.fetchBundle f k k.arch.pc.toNat = .words ws) (hi : decodeWords ws = .ok (i, n)) : s.fetch f k = .run i := by
  simp only [State.fetch, hd, hw, hi]

/-! ## The turn -/

/-- A core between two bundles that no stop holds or awaits and no result of which is due fetches. -/
theorem act_fetches {s : State} {r : Run} {f : Flight} {k : Core} (hstops : k.stops = []) (hasks : k.asks = []) (hvc : k.stepVc = none)
    (hland : k.nextLanding = none) (hstuck : k.stuckLanding = none) (hst : k.stage = .run ∨ k.stage = .syncIssue) :
    s.act r f k = s.fetch f k := by
  have hgo : s.go f k = s.fetch f k := by simp only [State.go, hland, hstuck]
  rcases hst with hst | hst <;> simp [State.act, Core.stepped, Core.standsStill, hvc, hasks, hstops, hst, hgo]

/-- With nothing due on the agenda or at a fixed tick a step is the act of the core at the head of the turn. -/
theorem step_of_turnAct {s : State} {c : Nat} {rest : List Nat} {i : Instr} (hp : s.power.state ≠ .p4) (ha : s.pickAgenda s.agenda = none)
    (ht : s.timed = none) (hturn : s.turn = c :: rest) (hact : s.turnAct c = .run i) : step s = exec i { s with cur := c } := by
  have hn : s.nextAct = .run i { s with cur := c } := by
    unfold State.nextAct
    split
    · exact absurd ‹_› hp
    · simp only [State.poweredAct, ha, ht, hturn, State.coreTurn, hact]
  rw [step, hn]

/-- A core with a task acts in the flight of its run. -/
theorem turnAct_acts {s : State} {c : Nat} {k : Core} {r : Run} {f : Flight} (hk : s.coreAt c = some k) (hr : s.runAt k.run = some r)
    (hf : s.flightOf r = some f) : s.turnAct c = ({ s with cur := c } : State).act r f k := by
  have hk' : ({ s with cur := c } : State).coreAt c = some k := hk
  have hr' : ({ s with cur := c } : State).runAt k.run = some r := hr
  have hf' : ({ s with cur := c } : State).flightOf r = some f := hf
  simp only [State.turnAct, hk', hr', hf']

end Sys2Proof.Machine

namespace Sys2Proof

open Machine

/-- Settles O8: the turn comes to the core's fetch, and the fetch to what decodes or is held decoded. -/
theorem stepRunsFetched : Obligations.StepRunsFetched := by
  unfold Obligations.StepRunsFetched
  intro s c rest k r f hp ha ht hturn hk hr hf hstops hasks hvc hland hstuck
  have runs {i : Instr} (hst : k.stage = .run ∨ k.stage = .syncIssue) (hi : ({ s with cur := c } : State).fetch f k = .run i) :
      step s = exec i { s with cur := c } :=
    step_of_turnAct hp ha ht hturn
      ((turnAct_acts hk hr hf).trans ((act_fetches hstops hasks hvc hland hstuck hst).trans hi))
  exact ⟨fun n ws i hst hd hw hi => runs (.inl hst) (fetch_words hd ((fetchBundle_cur s c f k _).trans hw) hi),
    fun d hst hd => runs hst (fetch_decoded hd)⟩

end Sys2Proof
end

section
/-! SUPPORT. Landing events and the end of a release (R95, R121, R125, R133, R201, R204, R293, R294). -/

namespace Sys2Proof.Machine

/-! ## Landing events (R121, R201) -/

/-- A landing without a new enabled flag changes its core alone. -/
theorem landPend_quiet {k : Core} {p : Pend} (h : k.arch.raised p = 0) (s : State) : s.landPend k p = s.setCore (k.landed p) := by
  simp only [State.landPend, h, if_true]

/-- A landing that newly sets an enabled flag traps 0x0F, the flag kept in the checkpoint's %fstat (R201). -/
theorem landPend_raises {k : Core} {p : Pend} (h : k.arch.raised p ≠ 0) (s : State) :
    s.landPend k p = s.trap { k.landed p with shadow := { (k.landed p).shadow with
      fstat := fstatSet (k.landed p).shadow.fstat (k.arch.raised p) } }
      ⟨0x0F, p.slot, (k.landed p).arch.fstat.setWidth 64, 0, p.pc, []⟩ := by
  simp only [State.landPend, if_neg h]

/-- The landing event of the class of a core's next due result lands it. -/
theorem landNext_lands {s : State} {core : Nat} {k : Core} {p : Pend} (hk : s.coreAt core = some k) (hs : k.stops = [])
    (hl : k.stage.lands = true) (hp : k.nextLanding = some p) : s.landNext core p.landClass = s.landPend k p := by
  simp [State.landNext, hk, hs, hl, hp]

/-! ## The end of a release (R125) -/

theorem release_nothing {k : Core} (hh : k.held = []) (s : State) (after : After) : s.release k after = s.released k after := by
  have hself : ({ k with held := [] } : Core) = k := by rw [← hh]
  have hall : s.releaseAll k [] = (s, k, none) := congrArg (fun x => (s, x, none)) hself
  rw [State.release, hh, hall]
  exact if_pos (congrArg List.isEmpty hh)

/-- With nothing left held, the end of a release is the release's end. -/
theorem checkpointReleaseEnd_ends {s : State} {core : Nat} {k : Core} {after : After} (hk : s.coreAt core = some k)
    (hst : k.stage = .releasing after) (hh : k.held = []) :
    exec (.checkpointReleaseEnd core) s = .next ((s.released k after).passTurn core) := by
  show execCheckpointReleaseEnd core s = _
  simp only [execCheckpointReleaseEnd, hk, hst, release_nothing hh]

/-- The core behind its checkpoint at stage `st`, in the package whose streams have noted the checkpoint. -/
def State.checkpointed (s : State) (k : Core) (st : Stage) : State :=
  (s.mapRun k.run (fun r => r.streamCheckpoint k)).setCore { k.checkpoint with stage := st }

/-- A release that ends in a checkpoint, behind which a slack bundle has been passed or not (R95). -/
def State.passedSlack (s : State) (k : Core) (st : Stage) : State :=
  if k.arch.cpos = k.shadow.cpos then s.checkpointed k st else (s.checkpointed k st).slackPassed k.no

theorem released_go (s : State) (k : Core) : s.released k .go = s.passedSlack k .run := rfl
theorem released_phase (s : State) (k : Core) (scope : Nat) : s.released k (.phase scope) = s.passedSlack k (.publishing scope) := rfl
theorem released_event (s : State) (k : Core) : s.released k .event = s.passedSlack k (.waitEvent true) := rfl
theorem released_trap (s : State) (k : Core) (code : Nat) (info0 pc : W64) :
    s.released k (.trap code info0 pc) = s.passedSlack k (.trapping ⟨code, 7, info0, 0, pc, []⟩ k.arch.dictBase s.pcyc) := rfl
theorem released_halt (s : State) (k : Core) (v : W64) : s.released k (.halt v) = s.checkpointed k (.halting v) := rfl
theorem released_decide (s : State) (k : Core) (d : Decision) :
    s.released k (.decide d) = s.setCore { k with stage := .deciding (decisionLength k.arch.solve.depth - 1) d none } := rfl

theorem released_sync_waits {k : Core} (h : k.readsHeld = false) (s : State) (line : Nat) :
    s.released k (.sync line) = s.setCore { k with stage := .releasing (.sync line) } :=
  if_neg (by rw [h]; exact Bool.false_ne_true)

theorem released_sync_raises {k : Core} (h : k.readsHeld = true) (s : State) (line : Nat) :
    s.released k (.sync line) = s.raise k line :=
  if_pos h

theorem lineAt_congr {s t : State} (h : t.lines = s.lines) (n : Nat) : t.lineAt n = s.lineAt n := by
  unfold State.lineAt
  rw [h]

/-- A SYNC input raised: the core waits at its line, and the line holds what the core's release carries. -/
theorem raise_lineAt {s : State} {core line : Nat} {k : Core} {l : Line} (hk : s.coreAt core = some k) (hl : s.lineAt line = some l) :
    (s.raise k line).coreAt core = some { k with stage := .waitLine line } ∧
    (s.raise k line).lineAt line = some { l with
      raised := insertNat core l.raised
      carried := l.carried.filter (fun c => c.from_ != core) ++ [k.carries (levelScope l.level)] } := by
  obtain rfl := coreAt_no hk
  exact ⟨coreAt_setCore (k' := { k with stage := .waitLine line }) hk rfl,
    lineAt_mapLine (s := s.setCore { k with stage := .waitLine line }) hl _ (fun _ => rfl)⟩

section
variable {s : State} {core : Nat} {k : Core} {after : After} (hk : s.coreAt core = some k) (hst : k.stage = .releasing after)
  (hh : k.held = [])
include hk hst hh

/-- A release that ends in a checkpoint: a changed %cpos says that its bundle was a slack bundle. -/
theorem checkpointReleaseEnd_checkpoints {st : Stage} (h : s.released k after = s.passedSlack k st) :
    (k.arch.cpos = k.shadow.cpos → exec (.checkpointReleaseEnd core) s = .next ((s.checkpointed k st).passTurn core)) ∧
    (k.arch.cpos ≠ k.shadow.cpos →
      exec (.checkpointReleaseEnd core) s = .next (((s.checkpointed k st).slackPassed core).passTurn core)) := by
  obtain rfl := coreAt_no hk
  rw [checkpointReleaseEnd_ends hk hst hh, h, State.passedSlack]
  exact ⟨fun hc => by rw [if_pos hc], fun hc => by rw [if_neg hc]⟩

end

section
variable {s : State} {core line : Nat} {k : Core} (hk : s.coreAt core = some k) (hst : k.stage = .releasing (.sync line))
  (hh : k.held = [])
include hk hst hh

/-- A SYNC whose earlier head reads wait for records goes on releasing (R208). -/
theorem checkpointReleaseEnd_sync_waits (hr : k.readsHeld = false) : exec (.checkpointReleaseEnd core) s =
    .next ((s.setCore { k with stage := .releasing (.sync line) }).passTurn core) := by
  rw [checkpointReleaseEnd_ends hk hst hh, released_sync_waits hr]

theorem checkpointReleaseEnd_sync_raises (hr : k.readsHeld = true) {l : Line} (hl : s.lineAt line = some l) :
    ∃ t, exec (.checkpointReleaseEnd core) s = .next t ∧ t.coreAt core = some { k with stage := .waitLine line } ∧
      t.lineAt line = some { l with
        raised := insertNat core l.raised
        carried := l.carried.filter (fun c => c.from_ != core) ++ [k.carries (levelScope l.level)] } := by
  obtain ⟨hcore, hline⟩ := raise_lineAt hk hl
  refine ⟨(s.raise k line).passTurn core, ?_, ?_, ?_⟩
  · rw [checkpointReleaseEnd_ends hk hst hh, released_sync_raises hr]
  · exact (coreAt_congr (State.passTurn_cores _ _) core).trans hcore
  · exact (lineAt_congr (State.passTurn_lines _ _) line).trans hline

end

/-! ## A slack bundle passed (R95, R100) -/

section
variable {s : State} {core : Nat} {k : Core} (hk : s.coreAt core = some k)
include hk

theorem slackPassed_noCut (hc : (s.runAt k.run).bind Run.cut = none) : s.slackPassed core = s := by
  simp only [State.slackPassed, hk, hc]

variable {cut : Cut} (hc : (s.runAt k.run).bind Run.cut = some cut)
include hc

theorem slackPassed_handler (hh : k.handlerOf.isSome = true) : s.slackPassed core = s := by
  simp only [State.slackPassed, hk, hc, hh, if_true]

variable (hh : k.handlerOf = none)
include hh

theorem slackPassed_stops (hm : cut.step = 2 ∨ k.arch.cpos = cut.m) :
    s.slackPassed core = s.setCore { k with asks := k.asks ++ [.cut] } := by
  simp only [State.slackPassed, hk, hc, hh, Option.isSome_none, Bool.false_eq_true, if_false]
  rcases hm with h | h <;> simp [h]

theorem slackPassed_beyond (h2 : cut.step ≠ 2) (hm : cut.m.toNat < k.arch.cpos.toNat) : s.slackPassed core = s.faultRun k.run 0x35 := by
  have hne : k.arch.cpos ≠ cut.m := fun h => absurd (h ▸ hm) (Nat.lt_irrefl _)
  simp [State.slackPassed, hk, hc, hh, h2, hne, hm]

theorem slackPassed_before (h2 : cut.step ≠ 2) (hm : k.arch.cpos.toNat < cut.m.toNat) : s.slackPassed core = s := by
  have hne : k.arch.cpos ≠ cut.m := fun h => absurd (h ▸ hm) (Nat.lt_irrefl _)
  simp [State.slackPassed, hk, hc, hh, h2, hne, Nat.lt_asymm hm]

end

end Sys2Proof.Machine
end

section
/-! SUPPORT. The end of a SOLEND decision and of a remainder transfer (R338, R349, R350, R392). -/

namespace Sys2Proof.Machine

/-! ## A transfer of control (R285, R289) -/

/-- The loops that a transfer to `t` leaves, and those that it stays in. -/
def loopsLeft (body : Bodies) (t : Nat) (l : List LoopEntry) : List LoopEntry := l.takeWhile (fun e => !(body e).1.contains t)
def loopsKept (body : Bodies) (t : Nat) (l : List LoopEntry) : List LoopEntry := l.dropWhile (fun e => !(body e).1.contains t)

/-- A predicate register that has lost the stage predicates of the loops left (R238). -/
def stagesFallen (left : List LoopEntry) (p : BitVec 8) : BitVec 8 := if left.all (fun e => e.kind == .plain) then p else p &&& 0x0F

theorem loopsLeft_cons (body : Bodies) (t : Nat) (e : LoopEntry) (l : List LoopEntry) :
    loopsLeft body t (e :: l) = if (body e).1.contains t then [] else e :: loopsLeft body t l := by
  rw [loopsLeft, List.takeWhile_cons]
  cases (body e).1.contains t <;> rfl

theorem loopsKept_cons (body : Bodies) (t : Nat) (e : LoopEntry) (l : List LoopEntry) :
    loopsKept body t (e :: l) = if (body e).1.contains t then e :: l else loopsKept body t l := by
  rw [loopsKept, List.dropWhile_cons]
  cases (body e).1.contains t <;> rfl

theorem stagesFallen_cons (e : LoopEntry) (l : List LoopEntry) (a : Arch) :
    stagesFallen (e :: l) a.p = stagesFallen l (a.popped e).p := by
  cases hk : e.kind with
  | plain => simp [stagesFallen, Arch.popped, hk]
  | pipelined =>
    have hmask : a.p &&& 0x0F#8 &&& 0x0F#8 = a.p &&& 0x0F#8 := by rw [BitVec.and_assoc, BitVec.and_self]
    simp [stagesFallen, Arch.popped, Arch.noStages, hk, hmask]

/-- The entry that is popped leaves all but the predicates. -/
theorem popped_eq (a : Arch) (e : LoopEntry) : a.popped e = { a with p := (a.popped e).p } := by
  unfold Arch.popped
  split <;> rfl

/-- Leaving loops changes the loop stack and, where one of them is pipelined, p4 to p7. -/
theorem leave_eq (body : Bodies) (t : Nat) (l : List LoopEntry) (a : Arch) :
    leave body t l a = { a with p := stagesFallen (loopsLeft body t l) a.p, loops := loopsKept body t l } := by
  induction l generalizing a with
  | nil => rfl
  | cons e rest ih =>
    rw [leave, loopsLeft_cons, loopsKept_cons]
    split
    · rfl
    · rw [ih, stagesFallen_cons, popped_eq]

/-- What a transfer to `t` leaves of the registers. -/
theorem follow_jump (a : Arch) (body : Bodies) (pc len : Nat) (t : W64) :
    a.follow body pc len (.jump t) = { a with
      p := stagesFallen (loopsLeft body (t.toNat / 4 * 4) a.loops) a.p
      loops := loopsKept body (t.toNat / 4 * 4) a.loops
      pc := BitVec.ofNat 64 (t.toNat / 4 * 4)
      solve := { a.solve with loops := min a.solve.loops (loopsKept body (t.toNat / 4 * 4) a.loops).length } } := by
  simp only [Arch.follow, Arch.sequence, leave_eq]

/-! ## The decision's end (R349, R350) -/

/-- The bodies of core `k`'s loops. -/
def State.loopBodies (s : State) (k : Core) : Bodies := fun e =>
  match (s.runAt k.run).bind s.flightOf with
  | none => ([], 0)
  | some f => s.bundles f k.loopBuf (e.lenM1.toNat + 1) e.start.toNat

/-- The decision over what SOLEND read. -/
def Core.decision (k : Core) (x : Decision) : List Nat × Nat × Verdict :=
  decideStep k.arch.solve k.history (x.g.map BitVec.toNat) x.thr.toNat x.beta.toNat

/-- The history with the iteration's residual. -/
def Core.withResidual (k : Core) (x : Decision) : Mem :=
  k.history.write (57344 + 8192 * (k.arch.solve.iter % (k.arch.solve.depth + 1))) (accBytes (k.decision x).1)

/-- The solve control block with the iteration counted. -/
def Core.solveCounted (k : Core) (x : Decision) : Solve :=
  let v := k.arch.solve
  { v with iter := v.iter + 1, fill := min (v.fill + 1) (v.depth + 1), norm := BitVec.ofNat 32 (k.decision x).2.1 }

/-- p7 as a region leaves it: one with traps keeps it. -/
def Arch.outcome (a : Arch) (p7 : Option Bool) : Arch :=
  match p7 with
  | none => a
  | some b => a.setPred 7 b

/-- The core that leaves the region, its outcome in p7. -/
def State.leavesRegion (s : State) (k : Core) (x : Decision) (b : Bool) : Core :=
  let pc := k.arch.pc.toNat
  let a : Arch := Arch.outcome { k.arch with solve := { k.solveCounted x with active := false } }
    (if k.arch.solve.traps then none else some b)
  { k with history := k.withResidual x, arch := a.follow (s.loopBodies k) pc x.len (.jump (BitVec.ofNat 64 (pc + x.len))) }

/-- The core that goes on with the region's next iteration, from the tiles `y`. -/
def State.iterates (s : State) (k : Core) (x : Decision) (y : List Nat) : Core :=
  { k.land x.segs (accBytes y) with
    history := (k.withResidual x).write (8192 * ((k.arch.solve.iter + 1) % (k.arch.solve.depth + 1))) (accBytes y)
    arch := Arch.follow { k.arch with solve := k.solveCounted x } (s.loopBodies k) k.arch.pc.toNat x.len (.jump k.arch.solve.start) }

/-- The core behind a decision, before its checkpoint. -/
def State.decided (s : State) (k : Core) (x : Decision) : Core :=
  match (k.decision x).2.2 with
  | .converged => s.leavesRegion k x false
  | .exhausted => s.leavesRegion k x true
  | .mixed y => s.iterates k x y

/-- The region's own trap at its ceiling (R350). -/
def Core.ceilingTrap (k : Core) (x : Decision) : Option TrapInfo :=
  match (k.decision x).2.2 with
  | .exhausted => if k.arch.solve.traps then
      some ⟨0x0C, 7, BitVec.ofNat 64 (k.arch.solve.iter + 1), (BitVec.ofNat 32 (k.decision x).2.1).setWidth 64, k.arch.pc, []⟩ else none
  | _ => none

/-- A core that goes on, or rolls back for the trap that it holds. -/
def Stage.after (o : Option TrapInfo) (dict : W64) (tick : Nat) : Stage :=
  match o with
  | some u => .trapping u dict tick
  | none => .run

/-- The core behind a decision and its checkpoint: a trap held from the window comes first. -/
def State.decidedCore (s : State) (k : Core) (x : Decision) (held : Option TrapInfo) : Core :=
  { (s.decided k x).checkpoint with
    vc := k.vc + 1
    stage := Stage.after (held.orElse (fun _ => k.ceilingTrap x)) (s.decided k x).arch.dictBase (s.pcyc + 1) }

theorem decided_no (s : State) (k : Core) (x : Decision) : (s.decided k x).no = k.no := by
  unfold State.decided
  split <;> rfl

/-- A decision whose bundle is no slack bundle changes its core, its streams and the turn. -/
theorem solveEnd_eq (s : State) {k : Core} (hc : k.arch.cpos = k.shadow.cpos) (x : Decision) (held : Option TrapInfo) :
    s.solveEnd k x held =
      ((s.mapRun k.run (fun r => r.streamCheckpoint (s.decided k x))).setCore (s.decidedCore k x held)).endTurn := by
  refine (if_pos hc).trans ?_
  show (match held.orElse (fun _ => k.ceilingTrap x) with | some t => _ | none => _) = _
  rw [State.decidedCore]
  cases held.orElse (fun _ => k.ceilingTrap x) with
  | none => rfl
  | some u => rfl

/-! ## What a decision leaves -/

@[simp] theorem outcome_loops (a : Arch) (p7 : Option Bool) : (a.outcome p7).loops = a.loops := by cases p7 <;> rfl
@[simp] theorem outcome_solve (a : Arch) (p7 : Option Bool) : (a.outcome p7).solve = a.solve := by cases p7 <;> rfl
@[simp] theorem outcome_dictBase (a : Arch) (p7 : Option Bool) : (a.outcome p7).dictBase = a.dictBase := by cases p7 <;> rfl

/-- Loops left clear predicates and set none. -/
theorem stagesFallen_clears {left : List LoopEntry} {p : BitVec 8} {n : Nat} (h : p.getLsbD n = false) :
    (stagesFallen left p).getLsbD n = false := by
  unfold stagesFallen
  split <;> simp [h]

/-- Plain loops left keep every predicate. -/
theorem stagesFallen_plain {body : Bodies} {t : Nat} {l : List LoopEntry} (h : ∀ e ∈ l, e.kind = .plain) (p : BitVec 8) :
    stagesFallen (loopsLeft body t l) p = p := by
  have hall : (loopsLeft body t l).all (fun e => e.kind == .plain) = true :=
    List.all_eq_true.mpr fun e he => by simp [h e ((List.takeWhile_sublist _).mem he)]
  rw [stagesFallen, if_pos hall]

theorem pred_seven (a : Arch) : a.pred 7 = a.p.getLsbD 7 := rfl

theorem setPred_seven (a : Arch) (b : Bool) : (a.setPred 7 b).p.getLsbD 7 = b := by
  cases b <;> simp [Arch.setPred]

section
variable (s : State) (k : Core) (x : Decision)

theorem decided_of_converged (h : (k.decision x).2.2 = .converged) : s.decided k x = s.leavesRegion k x false := by
  simp only [State.decided, h]

theorem decided_of_exhausted (h : (k.decision x).2.2 = .exhausted) : s.decided k x = s.leavesRegion k x true := by
  simp only [State.decided, h]

theorem decided_of_mixed {y : List Nat} (h : (k.decision x).2.2 = .mixed y) : s.decided k x = s.iterates k x y := by
  simp only [State.decided, h]

/-- Every decision counts the iteration, sets the norm and keeps the dictionary base. -/
theorem decided_counts : (s.decided k x).arch.solve.iter = k.arch.solve.iter + 1 ∧
    (s.decided k x).arch.solve.norm = BitVec.ofNat 32 (k.decision x).2.1 ∧ (s.decided k x).arch.dictBase = k.arch.dictBase := by
  unfold State.decided
  split <;> simp [State.leavesRegion, State.iterates, follow_jump, Core.solveCounted]

/-- A core that leaves the region goes on at the bundle behind SOLEND, out of the loops that do not hold it. -/
theorem leavesRegion_goes (b : Bool) :
    let behind := (BitVec.ofNat 64 (k.arch.pc.toNat + x.len)).toNat / 4 * 4
    (s.leavesRegion k x b).arch.solve.active = false ∧ (s.leavesRegion k x b).arch.pc = BitVec.ofNat 64 behind ∧
    (s.leavesRegion k x b).arch.loops = loopsKept (s.loopBodies k) behind k.arch.loops ∧ (s.leavesRegion k x b).gallery = k.gallery := by
  simp only [State.leavesRegion, follow_jump, outcome_solve, outcome_loops, and_self]

/-- In a region without traps p7 shows the outcome, but for what the loops left clear. -/
theorem leavesRegion_p (b : Bool) (ht : k.arch.solve.traps = false) : ∃ p : BitVec 8, p.getLsbD 7 = b ∧ ∃ t,
    (s.leavesRegion k x b).arch.p = stagesFallen (loopsLeft (s.loopBodies k) t k.arch.loops) p := by
  refine ⟨_, setPred_seven { k.arch with solve := { k.solveCounted x with active := false } } b,
    (BitVec.ofNat 64 (k.arch.pc.toNat + x.len)).toNat / 4 * 4, ?_⟩
  simp only [State.leavesRegion, follow_jump, outcome_loops, ht]
  rfl

theorem leavesRegion_clears (ht : k.arch.solve.traps = false) : (s.leavesRegion k x false).arch.pred 7 = false := by
  obtain ⟨p, hp, t, h⟩ := leavesRegion_p s k x false ht
  rw [pred_seven, h]
  exact stagesFallen_clears hp

theorem leavesRegion_sets (ht : k.arch.solve.traps = false) (hl : ∀ e ∈ k.arch.loops, e.kind = .plain) :
    (s.leavesRegion k x true).arch.pred 7 = true := by
  obtain ⟨p, hp, t, h⟩ := leavesRegion_p s k x true ht
  rw [pred_seven, h, stagesFallen_plain hl]
  exact hp

/-- A core that iterates goes on at the region's start, with the tiles landed at the bytes captured at issue. -/
theorem iterates_goes (y : List Nat) :
    let start := k.arch.solve.start.toNat / 4 * 4
    (s.iterates k x y).arch.solve.active = k.arch.solve.active ∧ (s.iterates k x y).arch.pc = BitVec.ofNat 64 start ∧
    (s.iterates k x y).arch.loops = loopsKept (s.loopBodies k) start k.arch.loops ∧
    (s.iterates k x y).gallery = (k.land x.segs (accBytes y)).gallery := by
  simp only [State.iterates, follow_jump, Core.solveCounted, and_self]

end

/-- The region traps 0x0C at its ceiling, where it has traps (R350). -/
theorem ceilingTrap_none {k : Core} {x : Decision} (h : (k.decision x).2.2 ≠ .exhausted ∨ k.arch.solve.traps = false) :
    k.ceilingTrap x = none := by
  unfold Core.ceilingTrap
  split
  · rcases h with h | h
    · exact absurd ‹_› h
    · simp [h]
  · rfl

theorem ceilingTrap_raises {k : Core} {x : Decision} (h : (k.decision x).2.2 = .exhausted) (ht : k.arch.solve.traps = true) :
    ∃ u, k.ceilingTrap x = some u ∧ u.code = 0x0C := by
  simp [Core.ceilingTrap, h, ht]

/-- Core `k'` goes on at `t`, in the loops of `k` from the innermost whose body holds it. -/
def Core.goesTo (k' k : Core) (body : Bodies) (t : Nat) : Prop :=
  k'.arch.pc = BitVec.ofNat 64 t ∧ k'.arch.loops = loopsKept body t k.arch.loops

section
variable (s : State) (k : Core) (x : Decision) (held : Option TrapInfo)

/-- A trap held from the window comes before the region's own (log 36). -/
theorem decidedCore_stage {own : Option TrapInfo} (h : k.ceilingTrap x = own) :
    (s.decidedCore k x held).stage = Stage.after (held.orElse (fun _ => own)) k.arch.dictBase (s.pcyc + 1) := by
  obtain ⟨-, -, hdict⟩ := decided_counts s k x
  rw [← h, ← hdict]
  rfl

theorem decidedCore_leaves {b : Bool} (hd : s.decided k x = s.leavesRegion k x b) :
    (s.decidedCore k x held).arch.solve.active = false ∧
    (s.decidedCore k x held).goesTo k (s.loopBodies k) ((BitVec.ofNat 64 (k.arch.pc.toNat + x.len)).toNat / 4 * 4) ∧
    (s.decidedCore k x held).gallery = k.gallery := by
  obtain ⟨hact, hpc, hloops, hgal⟩ := leavesRegion_goes s k x b
  rw [← hd] at hact hpc hloops hgal
  exact ⟨hact, ⟨hpc, hloops⟩, hgal⟩

theorem decidedCore_pred {b : Bool} (hd : s.decided k x = s.leavesRegion k x b) (n : Nat) :
    (s.decidedCore k x held).arch.pred n = (s.leavesRegion k x b).arch.pred n := by
  rw [← hd]
  rfl

theorem decidedCore_iterates {y : List Nat} (hd : s.decided k x = s.iterates k x y) :
    (s.decidedCore k x held).arch.solve.active = k.arch.solve.active ∧
    (s.decidedCore k x held).goesTo k (s.loopBodies k) (k.arch.solve.start.toNat / 4 * 4) ∧
    (s.decidedCore k x held).gallery = (k.land x.segs (accBytes y)).gallery := by
  obtain ⟨hact, hpc, hloops, hgal⟩ := iterates_goes s k x y
  rw [← hd] at hact hpc hloops hgal
  exact ⟨hact, ⟨hpc, hloops⟩, hgal⟩

end

/-- SOLEND_DECISION_END at the last cycle of a decision whose bundle is no slack bundle (R349). -/
theorem solendDecisionEnd_decides {s : State} {core left : Nat} {k : Core} {x : Decision} {held : Option TrapInfo}
    (hk : s.coreAt core = some k) (hst : k.stage = .deciding left x held) (hl : left ≤ 1) (hc : k.arch.cpos = k.shadow.cpos) :
    ∃ t, exec (.solendDecisionEnd core) s = .next t ∧ t.coreAt core = some (s.decidedCore k x held) := by
  obtain rfl := coreAt_no hk
  refine ⟨((s.mapRun k.run (fun r => r.streamCheckpoint (s.decided k x))).setCore (s.decidedCore k x held)).endTurn.passTurn k.no,
    ?_, ?_⟩
  · show execSolendDecisionEnd k.no s = _
    simp only [execSolendDecisionEnd, hk, hst, if_pos hl, solveEnd_eq s hc]
  · refine (coreAt_congr ((State.passTurn_cores _ _).trans (State.endTurn_cores _)) _).trans ?_
    exact coreAt_setCore (s := s.mapRun k.run _) hk (decided_no s k x)

/-! ## The end of a remainder transfer (R338) -/

theorem remainderTransferEnd_ends {s : State} {core : Nat} {k : Core} (hk : s.coreAt core = some k) (hst : k.stage = .frozen .remainder) :
    ∃ t, exec (.remainderTransferEnd core) s = .next t ∧ { t with cores := s.cores } = s ∧
      t.coreAt core = some { k with stage := .transferred } := by
  refine ⟨_, rfl, rfl, (coreAt_mapCore hk _ ?_).trans ?_⟩ <;> simp only [hst]
  exact coreAt_no hk

end Sys2Proof.Machine

namespace Sys2Proof

open Machine

/-- Settles O49: landings, releases and decisions, each by the lemma of its event. -/
theorem landingsAndEnds : Obligations.LandingsAndEnds := by
  unfold Obligations.LandingsAndEnds
  intro s core k lands hk
  have landing {i : Instr} {cls : LandClass} (hi : exec i s = .next (s.landNext core cls)) : lands i cls := by
    intro p hs hl hp hcls
    rw [hi, ← hcls, landNext_lands hk hs hl hp]
    exact ⟨fun h => by rw [landPend_quiet h], fun h => by rw [landPend_raises h]⟩
  refine ⟨landing rfl, landing rfl, landing rfl, landing rfl, ⟨rfl, rfl, rfl, rfl, fun p hp => ?_⟩, fun after hst hh => ?_,
    slackPassed_noCut hk,
    fun cut hc => ⟨slackPassed_handler hk hc, slackPassed_stops hk hc, slackPassed_beyond hk hc, slackPassed_before hk hc⟩,
    fun left x held hst hl hc => ?_, remainderTransferEnd_ends hk⟩
  · obtain ⟨q, -, rfl⟩ := List.mem_map.mp hp
    rfl
  · have hend := checkpointReleaseEnd_ends hk hst hh
    cases after with
    | go => exact checkpointReleaseEnd_checkpoints hk hst hh (released_go s k)
    | phase scope => exact checkpointReleaseEnd_checkpoints hk hst hh (released_phase s k scope)
    | event => exact checkpointReleaseEnd_checkpoints hk hst hh (released_event s k)
    | trap code info0 pc => exact checkpointReleaseEnd_checkpoints hk hst hh (released_trap s k code info0 pc)
    | halt v => exact hend
    | decide d => exact hend
    | sync line =>
      exact ⟨checkpointReleaseEnd_sync_waits hk hst hh, fun hr l hl => checkpointReleaseEnd_sync_raises hk hst hh hr hl⟩
  · obtain ⟨t, ht, hcore⟩ := solendDecisionEnd_decides hk hst hl hc
    obtain ⟨hiter, hnorm, -⟩ := decided_counts s k x
    refine ⟨t, s.decidedCore k x held, ht, hcore, rfl, rfl, rfl, hiter, hnorm, fun (hv : (k.decision x).2.2 = .converged) => ?_,
      fun hv => ?_, fun y (hv : (k.decision x).2.2 = .mixed y) => ?_⟩
    · have hd := decided_of_converged s k x hv
      obtain ⟨hact, hgoes, hgal⟩ := decidedCore_leaves s k x held hd
      exact ⟨hact, decidedCore_stage s k x held (ceilingTrap_none (.inl (by rw [hv]; nofun))), hgoes, hgal,
        fun ht => (decidedCore_pred s k x held hd 7).trans (leavesRegion_clears s k x ht)⟩
    · have hd := decided_of_exhausted s k x hv
      obtain ⟨hact, hgoes, hgal⟩ := decidedCore_leaves s k x held hd
      refine ⟨hact, hgoes, hgal, fun ht => ⟨decidedCore_stage s k x held (ceilingTrap_none (.inr ht)), fun hl => ?_⟩, fun ht => ?_⟩
      · exact (decidedCore_pred s k x held hd 7).trans (leavesRegion_sets s k x ht hl)
      · obtain ⟨u, hu, hcode⟩ := ceilingTrap_raises hv ht
        exact ⟨u, hcode, decidedCore_stage s k x held hu⟩
    · obtain ⟨hact, hgoes, hgal⟩ := decidedCore_iterates s k x held (decided_of_mixed s k x hv)
      exact ⟨hact, decidedCore_stage s k x held (ceilingTrap_none (.inl (by rw [hv]; nofun))), hgoes, hgal⟩

end Sys2Proof
end

section
/-! SUPPORT. The order of traps whose records are still to be made, and the records that a rollback's end and a job fault make (R109, R113). -/

namespace Sys2Proof.Machine

/-! ## The order of open traps -/

/-- Of two traps the first is not stamped later. -/
def StampOrder (x y : Core × TrapInfo × W64 × Nat) : Prop := x.2.2.2 ≤ y.2.2.2

theorem insertTrap_sorted (x : Core × TrapInfo × W64 × Nat) {l : List (Core × TrapInfo × W64 × Nat)} (hl : l.Pairwise StampOrder) :
    (insertTrap x l).Pairwise StampOrder := by
  induction l with
  | nil => exact List.pairwise_singleton _ _
  | cons y rest ih =>
    obtain ⟨hy, hrest⟩ := List.pairwise_cons.mp hl
    rw [insertTrap]
    split
    · rename_i hxy
      refine List.pairwise_cons.mpr ⟨fun z hz => ?_, hl⟩
      exact (List.mem_cons.mp hz).elim (fun h => h ▸ hxy) (fun h => Nat.le_trans hxy (hy z h))
    · rename_i hxy
      refine List.pairwise_cons.mpr ⟨fun z hz => ?_, ih hrest⟩
      exact ((mem_insertTrap x z rest).mp hz).elim (fun h => h ▸ Nat.le_of_not_le hxy) (hy z)

theorem foldr_insertTrap_sorted (l : List (Core × TrapInfo × W64 × Nat)) : (l.foldr insertTrap []).Pairwise StampOrder := by
  induction l with
  | nil => exact .nil
  | cons x rest ih => exact insertTrap_sorted x ih

theorem insertTrap_first {x : Core × TrapInfo × W64 × Nat} {l : List (Core × TrapInfo × W64 × Nat)} (h : ∀ y ∈ l, StampOrder x y) :
    insertTrap x l = x :: l := by
  cases l with
  | nil => rfl
  | cons y rest => exact if_pos (h y List.mem_cons_self)

/-- Among sorted traps, those of one kind take a further one of it as they would alone. -/
theorem filter_insertTrap (p : Core × TrapInfo × W64 × Nat → Bool) (x : Core × TrapInfo × W64 × Nat) {l : List (Core × TrapInfo × W64 × Nat)}
    (hl : l.Pairwise StampOrder) : (insertTrap x l).filter p = if p x then insertTrap x (l.filter p) else l.filter p := by
  induction l with
  | nil => cases hx : p x <;> simp [insertTrap, hx]
  | cons y rest ih =>
    obtain ⟨hy, hrest⟩ := List.pairwise_cons.mp hl
    rw [insertTrap]
    split
    · rename_i hxy
      have hall : ∀ z ∈ (y :: rest).filter p, StampOrder x z := fun z hz =>
        (List.mem_cons.mp (List.mem_filter.mp hz).1).elim (fun h => h ▸ hxy) (fun h => Nat.le_trans hxy (hy z h))
      rw [insertTrap_first hall, List.filter_cons]
    · rename_i hxy
      rw [List.filter_cons, ih hrest, List.filter_cons]
      cases p y <;> cases p x <;> simp [insertTrap, hxy]

theorem filter_foldr_insertTrap (p : Core × TrapInfo × W64 × Nat → Bool) (l : List (Core × TrapInfo × W64 × Nat)) :
    (l.foldr insertTrap []).filter p = (l.filter p).foldr insertTrap [] := by
  induction l with
  | nil => rfl
  | cons x rest ih =>
    rw [List.foldr_cons, filter_insertTrap p x (foldr_insertTrap_sorted rest), ih, List.filter_cons]
    split <;> rfl

/-- The trap of a core of run `rid` whose record is still to be made. -/
def State.openTrapOf (s : State) (rid : Nat) (k : Core) : Option (Core × TrapInfo × W64 × Nat) :=
  if k.run != rid then none else match k.stage with
    | .trapping t dict tick => some (k, t, dict, tick)
    | .deciding _ _ (some t) => some (k, t, k.arch.dictBase, s.pcyc)
    | _ => none

theorem openTraps_eq (s : State) (rid : Nat) : s.openTraps rid = (s.cores.filterMap (s.openTrapOf rid)).foldr insertTrap [] := rfl

theorem openTrapOf_core {s : State} {rid : Nat} {k : Core} {y : Core × TrapInfo × W64 × Nat} (h : s.openTrapOf rid k = some y) : y.1 = k := by
  unfold State.openTrapOf at h
  repeat' split at h
  all_goals cases h
  all_goals rfl

/-- A core with its record made leaves the run's open traps as they were without it. -/
theorem openTraps_without {s t : State} {k : Core} {rec_ : TrapRec} {ls : List (BitVec 20 × Nat)} (hc : t.cores = (s.setCore k).cores)
    (hp : t.pcyc = s.pcyc) (hst : k.stage = .trapped rec_ ls) (rid : Nat) :
    t.openTraps rid = (s.openTraps rid).filter (fun y => y.1.no != k.no) := by
  have hof : t.openTrapOf rid = s.openTrapOf rid := by
    funext x
    simp only [State.openTrapOf, hp]
  have hk : s.openTrapOf rid k = none := by simp [State.openTrapOf, hst]
  rw [openTraps_eq, openTraps_eq, filter_foldr_insertTrap, hof, hc, State.setCore_cores, List.filterMap_map, List.filter_filterMap]
  congr 2
  funext x
  cases hx : s.openTrapOf rid x with
  | none => by_cases hno : x.no = k.no <;> simp [hno, hk, hx]
  | some y =>
    obtain rfl := openTrapOf_core hx
    by_cases hno : y.1.no = k.no <;> simp [hno, hk, hx, Option.filter]

/-! ## Kept trap records -/

/-- The trap records that the landing keeps of function `n`. -/
def State.trapsOf (s : State) (n : Nat) : Option (List TrapRec) := (s.fnAt n).map Fn.traps

theorem trapsOf_congr {s t : State} (h : t.fns = s.fns) (n : Nat) : t.trapsOf n = s.trapsOf n := by
  unfold State.trapsOf State.fnAt
  rw [h]

/-- Functions that change in neither number nor trap records keep the trap records. -/
theorem trapsOf_map {s t : State} {g : Fn → Fn} (h : t.fns = s.fns.map g) (hno : ∀ x, (g x).no = x.no) (htr : ∀ x, (g x).traps = x.traps)
    (n : Nat) : t.trapsOf n = s.trapsOf n := by
  unfold State.trapsOf State.fnAt
  rw [h, find?_map_of_key Fn.no g hno, Option.map_map]
  exact congrArg (fun q => Option.map q _) (funext htr)

theorem trapsOf_mapFn (s : State) (m : Nat) {g : Fn → Fn} (hno : ∀ x, (g x).no = x.no) (htr : ∀ x, (g x).traps = x.traps) (n : Nat) :
    (s.mapFn m g).trapsOf n = s.trapsOf n := by
  refine trapsOf_map (State.mapFn_fns s m g) (fun x => ?_) (fun x => ?_) n
  · split
    · exact hno x
    · rfl
  · split
    · exact htr x
    · rfl

@[simp] theorem trapsOf_mapFlight (s : State) (m id : Nat) (g : Flight → Flight) (n : Nat) :
    (s.mapFn m (fun f => f.mapFlight id g)).trapsOf n = s.trapsOf n :=
  trapsOf_mapFn s m (g := fun f => f.mapFlight id g) (fun _ => rfl) (fun _ => rfl) n

@[simp] theorem trapsOf_post (s : State) (m : Nat) (r : Rec) (n : Nat) : (s.post m r).trapsOf n = s.trapsOf n := by
  refine (trapsOf_mapFn _ m (fun x => ?_) (fun x => ?_) n).trans (trapsOf_congr (State.stamp_fns _ _ _ _) n) <;>
    (unfold Fn.post; split <;> rfl)

/-- The record of a trap is the newest that its function keeps. -/
theorem recordTrap_traps (s : State) (fn : Fn) (f : Flight) (k : Core) (t : TrapInfo) (dict : W64) (tick : Nat) {l : List TrapRec}
    (h : s.trapsOf fn.no = some l) :
    (s.recordTrap fn f k t dict tick).1.trapsOf fn.no = some (((s.recordTrap fn f k t dict tick).2 :: l).take 256) := by
  obtain ⟨g, hg, rfl⟩ := Option.map_eq_some_iff.mp h
  exact congrArg (Option.map Fn.traps) (fnAt_mapFn (s := (s.stamp fn.no _ _).2) hg
    (fun f => f.keepTrap (s.recordTrap fn _ k t dict tick).2) (fun _ => rfl))

/-- Records made one after another stand newest first, the oldest lost past 256. -/
theorem recordTraps_traps (fn : Fn) (f : Flight) (xs : List (Core × TrapInfo × W64 × Nat)) {s : State} {l : List TrapRec}
    (h : s.trapsOf fn.no = some (l.take 256)) : ∃ more : List TrapRec,
    (xs.foldl (fun s x => (s.recordTrap fn f x.1 x.2.1 x.2.2.1 x.2.2.2).1) s).trapsOf fn.no = some ((more ++ l).take 256) ∧
    more.reverse.map TrapRec.code = xs.map (fun y => y.2.1.code) := by
  induction xs generalizing s l with
  | nil => exact ⟨[], h, rfl⟩
  | cons x rest ih =>
    have hx := recordTrap_traps s fn f x.1 x.2.1 x.2.2.1 x.2.2.2 h
    obtain ⟨more, hm, hcodes⟩ := ih (s := (s.recordTrap fn f x.1 x.2.1 x.2.2.1 x.2.2.2).1)
      (l := (s.recordTrap fn f x.1 x.2.1 x.2.2.1 x.2.2.2).2 :: l) (by rw [hx]; simp [List.take_take])
    refine ⟨more ++ [(s.recordTrap fn f x.1 x.2.1 x.2.2.1 x.2.2.2).2], ?_, ?_⟩
    · rw [List.foldl_cons, hm, List.append_assoc]
      rfl
    · rw [List.reverse_append, List.map_append, hcodes]
      rfl

/-- A job fault makes the records of the run's open traps in the order of their stamps (R109, R113). -/
theorem recordOpen_traps {s : State} {r : Run} {g : Fn} {f : Flight} {l : List TrapRec} (hg : s.fnAt r.fn = some g)
    (hf : s.flightOf r = some f) (hl : g.traps = l.take 256) : ∃ more : List TrapRec,
    (s.recordOpen r).trapsOf r.fn = some ((more ++ l).take 256) ∧
    more.reverse.map TrapRec.code = (s.openTraps r.id).map (fun y => y.2.1.code) := by
  have hno := fnAt_no hg
  have h : s.trapsOf g.no = some (l.take 256) := by rw [State.trapsOf, hno, hg, ← hl]; rfl
  have hopen : s.recordOpen r = (s.openTraps r.id).foldl (fun s x => (s.recordTrap g f x.1 x.2.1 x.2.2.1 x.2.2.2).1) s := by
    simp only [State.recordOpen, hg, hf]
  rw [hopen, ← hno]
  exact recordTraps_traps g f _ h

end Sys2Proof.Machine
end

section
/-! SUPPORT. What a job fault leaves of the functions (R62, R87, R109). -/

namespace Sys2Proof.Machine

/-- A fold whose steps keep a quantity keeps it. -/
theorem foldl_keeps {α β γ : Type} (m : β → γ) {step : β → α → β} (h : ∀ b a, m (step b a) = m b) (l : List α) (b : β) :
    m (l.foldl step b) = m b := by
  induction l generalizing b with
  | nil => rfl
  | cons a rest ih => exact (ih _).trans (h b a)

@[simp] theorem State.spoil_fns (s : State) (p : Place) (n : Nat) : (s.spoil p n).fns = s.fns := State.storeWrite_fns _ _ _

@[simp] theorem State.spoilRecord_fns (s : State) (r : Run) (t : BitVec 20) (record : Nat) : (s.spoilRecord r t record).fns = s.fns := by
  unfold State.spoilRecord
  repeat' split
  all_goals simp

theorem State.inject_fns {s t : State} {d lane : Nat} {owner : Option Nat} (h : s.inject d lane owner = some t) : t.fns = s.fns := by
  unfold State.inject State.injectTo at h
  split at h
  · cases h
  · obtain ⟨p, -, rfl⟩ := Option.map_eq_some_iff.mp h
    rfl

theorem State.tellEach_fns (lane : Nat) (owner : Option Nat) (ds : List (Option Nat)) (x : State × Bool) :
    (State.tellEach lane owner ds x).1.fns = x.1.fns := by
  induction ds generalizing x with
  | nil => rfl
  | cons d rest ih =>
    rw [State.tellEach, ih]
    split
    · rename_i h
      obtain ⟨d, -, h⟩ := Option.bind_eq_some_iff.mp h
      exact State.inject_fns h
    · rfl

@[simp] theorem State.tell_fns (s : State) (r : Run) (lane : Nat) : (s.tell r lane).1.fns = s.fns := by
  unfold State.tell
  split
  · rfl
  · exact State.tellEach_fns _ _ _ _

@[simp] theorem State.leaveCells_fns (s : State) (fn : Fn) (a : CellArray) : (s.leaveCells fn a).fns = s.fns := by
  unfold State.leaveCells
  split
  · rfl
  · refine foldl_keeps State.fns (fun s c => ?_) _ _
    split
    · rfl
    · exact State.storeWrite_fns _ _ _

@[simp] theorem State.leaveArrays_fns (s : State) (r : Run) : (s.leaveArrays r).fns = s.fns := by
  unfold State.leaveArrays
  split
  · rfl
  · exact foldl_keeps State.fns (fun s a => State.leaveCells_fns s _ a) _ _

theorem trapsOf_dropRun (s : State) (r : Run) (n : Nat) : (s.dropRun r).trapsOf n = s.trapsOf n := by
  refine (trapsOf_map (s := s.leaveArrays r) rfl (fun x => ?_) (fun x => ?_) n).trans (trapsOf_congr (State.leaveArrays_fns s r) n) <;>
    (dsimp only; split <;> rfl)

/-- Of the trap records a job fault makes those of the run's open traps, and none beside. -/
theorem faultRun_traps {s : State} {rid : Nat} {r : Run} (hr : s.runAt rid = some r) (cause n : Nat) :
    (s.faultRun rid cause).trapsOf n = (s.recordOpen r).trapsOf n := by
  simp only [State.faultRun, hr]
  rw [trapsOf_dropRun, trapsOf_post]
  have hspoil : State.fns (r.unsettled.foldl (fun s x => s.spoilRecord r x.1 x.2) (s.recordOpen r)) = (s.recordOpen r).fns :=
    foldl_keeps State.fns (fun s (x : BitVec 20 × Nat) => State.spoilRecord_fns s r x.1 x.2) _ _
  split
  · rw [trapsOf_mapFlight]
    exact trapsOf_congr hspoil n
  · rw [trapsOf_congr (State.tell_fns _ _ _), trapsOf_mapFlight]
    exact trapsOf_congr hspoil n

end Sys2Proof.Machine
end

section
/-! SUPPORT. A core through its rollback keeps its number and its node (R127). -/

namespace Sys2Proof.Machine

/-- The core's number and its task's node. -/
def Core.seat (k : Core) : Nat × Nat := (k.no, k.node)

theorem poisonFrom_seat (k : Core) (src : Option (BitVec 20 × Nat)) (by_ : Nat × Nat) (bad segs : List (Nat × Nat)) (at_ : Nat) :
    (k.poisonFrom src by_ bad segs at_).seat = k.seat := by
  refine foldl_keeps Core.seat (fun k l => ?_) _ _
  rfl

theorem landBytes_seat (k : Core) (p : Pend) : (k.landBytes p).seat = k.seat := by
  unfold Core.landBytes
  split
  · rfl
  · exact poisonFrom_seat _ _ _ _ _ _

theorem landed_seat (k : Core) (p : Pend) : (k.landed p).seat = k.seat := by
  unfold Core.landed Core.landInto
  dsimp only
  split
  · rfl
  · split <;> exact landBytes_seat _ p

theorem applyUndo_seat (k : Core) (u : Undo) : (k.applyUndo u).seat = k.seat := by
  unfold Core.applyUndo
  split <;> rfl

theorem settle_seat (k : Core) : k.settle.1.seat = k.seat :=
  foldl_keeps (fun x : Core × Bool => x.1.seat) (fun x p => landed_seat x.1 p) _ _

theorem rollback_seat (k : Core) : k.rollback.1.seat = k.seat :=
  (foldl_keeps Core.seat applyUndo_seat _ _).trans (settle_seat k)

theorem rollback_no (k : Core) : k.rollback.1.no = k.no := congrArg Prod.fst (rollback_seat k)
theorem rollback_node (k : Core) : k.rollback.1.node = k.node := congrArg Prod.snd (rollback_seat k)

end Sys2Proof.Machine
end

section
/-! PROOFS. The end of a trap's rollback and what its policy does (R109 to R113, R127). -/

namespace Sys2Proof.Machine

/-- When the outcome of a policy is a job fault. -/
theorem endsWith_iff {r : Run} {p : Policy} : r.endsWith p = true ↔
    p = .fault ∨ (p = .hypervisor ∧ (r.cut.map Cut.reason) = some .power) ∨ (p = .debug ∧ r.cut ≠ none) := by
  simp [Run.endsWith, Option.isSome_iff_ne_none, or_assoc]

section
variable (s : State) (r : Run) (fn : Fn) (f : Flight) (k : Core) (x : TrapInfo) (dict : W64) (tick : Nat)

/-- The record that the end of a trap's rollback makes. -/
def State.trapRecord : TrapRec := (s.recordTrap fn f k x dict tick).2

/-- The core rolled back, waiting behind its trap. -/
def State.trappedCore : Core := { k.rollback.1 with stage := .trapped (s.trapRecord fn f k x dict tick) (x.records k) }

/-- The package as the policy finds it: the record is made and the core stands behind its trap. -/
def State.rolledBack : State :=
  ((s.recordTrap fn f k x dict tick).1.setCore (s.trappedCore fn f k x dict tick)).keepWalks f (s.trappedCore fn f k x dict tick)

theorem trapTaken_eq : s.trapTaken r fn f k x dict tick =
    (s.rolledBack fn f k x dict tick).applyPolicy r fn (s.trappedCore fn f k x dict tick) (s.trapRecord fn f k x dict tick)
      (s.policyOf fn f k x) := rfl

theorem rolledBack_runs : (s.rolledBack fn f k x dict tick).runs = s.runs := rfl
theorem rolledBack_pcyc : (s.rolledBack fn f k x dict tick).pcyc = s.pcyc := rfl
theorem rolledBack_cores : (s.rolledBack fn f k x dict tick).cores = (s.setCore (s.trappedCore fn f k x dict tick)).cores := rfl

theorem trappedCore_no : (s.trappedCore fn f k x dict tick).no = k.no := rollback_no k

theorem rolledBack_fnAt {n : Nat} (h : s.fnAt n = some fn) :
    (s.rolledBack fn f k x dict tick).fnAt n = some (fn.keepTrap (s.trapRecord fn f k x dict tick)) := by
  obtain rfl := fnAt_no h
  exact fnAt_mapFn (s := (s.stamp fn.no _ _).2) h (fun g => g.keepTrap (s.trapRecord fn f k x dict tick)) (fun _ => rfl)

end

/-- A policy whose outcome is no job fault makes no further record. -/
theorem applyPolicy_traps {u : State} {r : Run} {p : Policy} (h : r.endsWith p = false) (fn : Fn) (k : Core) (t : TrapRec) (n : Nat) :
    (u.applyPolicy r fn k t p).trapsOf n = u.trapsOf n := by
  cases p with
  | resume => rfl
  | fault => simp [Run.endsWith] at h
  | handler => exact trapsOf_mapFn u _ (g := fun f => { f with handlers := f.handlers ++ [k.no] }) (fun _ => rfl) (fun _ => rfl) n
  | hypervisor =>
    have hc : ¬((r.cut.map Cut.reason) == some .power) = true := by simpa [Run.endsWith] using h
    rw [State.applyPolicy, if_neg hc]
    exact trapsOf_post _ _ _ n
  | debug =>
    have hc : ¬r.cut.isSome = true := by simpa [Run.endsWith] using h
    rw [State.applyPolicy, if_neg hc]
    rfl

/-- A policy whose outcome is a job fault faults the run. -/
theorem applyPolicy_faults {r : Run} {p : Policy} (h : r.endsWith p = true) (u : State) (fn : Fn) (k : Core) (t : TrapRec) :
    ∃ cause, u.applyPolicy r fn k t p = u.faultRun r.id cause := by
  rcases endsWith_iff.mp h with rfl | ⟨rfl, hc⟩ | ⟨rfl, hc⟩
  · exact ⟨_, rfl⟩
  · exact ⟨_, if_pos (by rw [hc]; rfl)⟩
  · exact ⟨_, if_pos (Option.isSome_iff_ne_none.mpr hc)⟩

/-- Behind resume, handler and a held trap the cores stand as the rollback left them. -/
theorem applyPolicy_waits {r : Run} {p : Policy}
    (h : p = .resume ∨ p = .handler ∨ (p = .hypervisor ∧ (r.cut.map Cut.reason) ≠ some .power)) (u : State) (fn : Fn) (k : Core) (t : TrapRec) :
    (u.applyPolicy r fn k t p).cores = u.cores := by
  rcases h with rfl | rfl | ⟨rfl, hc⟩
  · rfl
  · rfl
  · rw [State.applyPolicy, if_neg (by simpa using hc)]
    rfl

section
variable {s : State} {core : Nat} {k : Core} {r : Run} {fn : Fn} {f : Flight} {x : TrapInfo} {dict : W64} {tick : Nat}
  (hj : s.coreJob core = some (k, r, fn, f))
include hj

theorem trapRollbackComplete_takes (hst : k.stage = .trapping x dict tick) (hset : k.settled = true) (he : s.earlierTrap k tick = false) :
    exec (.trapRollbackComplete core) s = .next ((s.trapTaken r fn f k x dict tick).passTurn core) := by
  show execTrapRollbackComplete core s = _
  simp only [execTrapRollbackComplete, hj, hst, hset, he]
  rfl

/-- The records that the end of a rollback makes: the trap's own, and behind a job fault those of the run's other open traps. -/
theorem trapTaken_traps : ∃ more : List TrapRec,
    (s.trapTaken r fn f k x dict tick).trapsOf r.fn = some ((more ++ s.trapRecord fn f k x dict tick :: fn.traps).take 256) ∧
    more.reverse.map TrapRec.code = if r.endsWith (s.policyOf fn f k x) then
      ((s.openTraps r.id).filter (fun y => y.1.no != core)).map (fun y => y.2.1.code) else [] := by
  obtain ⟨hk, hr, hfn, hf⟩ := coreJob_spec hj
  obtain rfl := coreAt_no hk
  have hg := rolledBack_fnAt s fn f k x dict tick hfn
  rw [trapTaken_eq]
  cases hp : r.endsWith (s.policyOf fn f k x) with
  | false =>
    refine ⟨[], ?_, rfl⟩
    rw [applyPolicy_traps hp, State.trapsOf, hg]
    rfl
  | true =>
    obtain ⟨cause, hcause⟩ := applyPolicy_faults hp (s.rolledBack fn f k x dict tick) fn (s.trappedCore fn f k x dict tick)
      (s.trapRecord fn f k x dict tick)
    have hrun : (s.rolledBack fn f k x dict tick).runAt r.id = some r :=
      (runAt_congr (rolledBack_runs s fn f k x dict tick) _).trans (runAt_id hr ▸ hr)
    have hflight : (s.rolledBack fn f k x dict tick).flightOf r = some f := by
      rw [State.flightOf, hg]
      rw [State.flightOf, hfn] at hf
      exact hf
    obtain ⟨more, hmore, hcodes⟩ := recordOpen_traps hg hflight rfl
    refine ⟨more, ?_, ?_⟩
    · rw [hcause, faultRun_traps hrun]
      exact hmore
    · rw [hcodes, openTraps_without (rolledBack_cores s fn f k x dict tick) (rolledBack_pcyc s fn f k x dict tick) rfl,
        trappedCore_no]
      rfl

end

end Sys2Proof.Machine

namespace Sys2Proof

open Machine

/-- Settles O39: the record of the rollback's end, the records behind it, and the policy's outcome. -/
theorem trapRollback : Obligations.TrapRollback := by
  unfold Obligations.TrapRollback
  intro s core k r fn f x dict tick p hj hst hset he
  obtain ⟨hk, -, -, -⟩ := coreJob_spec hj
  have hnode : (s.trapRecord fn f k x dict tick).node = BitVec.ofNat 16 k.node := congrArg (BitVec.ofNat 16) (rollback_node k)
  obtain ⟨more, hmore, hcodes⟩ := trapTaken_traps (x := x) (dict := dict) (tick := tick) hj
  refine ⟨_, s.trapRecord fn f k x dict tick, trapRollbackComplete_takes hj hst hset he, rfl, rfl, rfl, rfl, rfl, rfl, rfl, hnode,
    ⟨more, (trapsOf_congr (State.passTurn_fns _ _) r.fn).trans hmore, hcodes⟩, fun hf => ?_, fun hw => ?_⟩
  · obtain ⟨cause, hcause⟩ := applyPolicy_faults (endsWith_iff.mpr hf) (s.rolledBack fn f k x dict tick) fn
      (s.trappedCore fn f k x dict tick) (s.trapRecord fn f k x dict tick)
    rw [runAt_congr (State.passTurn_runs _ _), trapTaken_eq, hcause]
    exact faultRun_runAt _ _ _
  · rw [coreAt_congr (State.passTurn_cores _ _), trapTaken_eq, coreAt_congr (applyPolicy_waits hw _ _ _ _),
      coreAt_congr (rolledBack_cores s fn f k x dict tick)]
    exact coreAt_setCore hk ((rollback_no k).trans (coreAt_no hk))

end Sys2Proof
end

section
/-! SUPPORT. A command's bytes that go to their destination change no engine context (R222, R228). -/

namespace Sys2Proof.Machine

@[simp] theorem State.storeWrite_contexts (s : State) (p : Place) (bs : List Byte) : (s.storeWrite p bs).contexts = s.contexts := by
  unfold State.storeWrite
  split <;> rfl

@[simp] theorem State.cleanGranules_contexts (s : State) (p : Place) (n : Nat) : (s.cleanGranules p n).contexts = s.contexts := rfl

@[simp] theorem State.perform_contexts (s : State) (rid : Nat) (w : TapeWrite) : (s.perform rid w).contexts = s.contexts := by
  unfold State.perform
  dsimp only
  repeat' split
  all_goals simp

@[simp] theorem State.arriveHome_contexts (s : State) (rid : Nat) (w : TapeWrite) : (s.arriveHome rid w).contexts = s.contexts := by
  unfold State.arriveHome
  split <;> simp

theorem engineRecord_contexts (r : Run) (fn : Fn) (f : Flight) (x : Context) (c : Command) (t : BitVec 20) (d : Dir) (s0 : State × List Nat)
    (p : Nat × List (Nat × List Byte)) : (State.engineRecord r fn f x c t d s0 p).1.contexts = s0.1.contexts := by
  unfold State.engineRecord
  split <;> simp

@[simp] theorem State.engineWrite_contexts (s : State) (r : Run) (fn : Fn) (f : Flight) (x : Context) (c : Command) :
    (s.engineWrite r fn f x c).1.contexts = s.contexts := by
  unfold State.engineWrite
  split
  · rfl
  · rfl
  · rename_i t d _
    have hrecords : ((outRecords d c.out).foldl (State.engineRecord r fn f x c t d) (s, [])).1.contexts = s.contexts :=
      foldl_keeps (fun (y : State × List Nat) => y.1.contexts) (engineRecord_contexts r fn f x c t d) _ _
    dsimp only
    split
    · exact hrecords
    · refine (foldl_keeps State.contexts (fun s i => ?_) _ _).trans hrecords
      cases s.place fn f d i <;> rfl

end Sys2Proof.Machine
end

section
/-! SUPPORT. The engines' events by case (R216, R217, R224), and what the completion of a core's command leaves in its context and at
its core. -/

namespace Sys2Proof.Machine

/-! ## Start and match (R216, R224) -/

section
variable {s : State} {x : Context} {r : Run} {fn : Fn} {f : Flight} {c : Command} {rest : List Command} (hq : x.queue = c :: rest)
include hq

theorem startCommand_coll (h : 16 ≤ blkOp c.block) (sel : List Nat) : s.startCommand r fn f x sel = s.collStart r fn f x c sel := by
  simp only [State.startCommand, hq, if_pos h]

theorem startCommand_copy_error {sel : List Nat} {e : Nat} (h : blkOp c.block < 16) (he : s.copyRead r fn f c sel = .error e) :
    s.startCommand r fn f x sel = s.faultRun r.id e := by
  simp only [State.startCommand, hq, if_neg (Nat.not_le.mpr h), he]

theorem startCommand_copy_ok {sel : List Nat} {u : State} {c' : Command} (h : blkOp c.block < 16)
    (hu : s.copyRead r fn f c sel = .ok (u, c')) : s.startCommand r fn f x sel = u.mapContext x.id (fun x => x.setHead c') := by
  simp only [State.startCommand, hq, if_neg (Nat.not_le.mpr h), hu]

end

section
variable {s : State} {r : Run} {fn : Fn} {f : Flight} (hfn : s.fnAt r.fn = some fn) (hf : s.flightOf r = some f)
include hfn hf

/-- The engine's rotation moves past the context that it serves. -/
theorem engineCommandStart_serves {x : Context} {hall : Nat} {coll : Bool} (hr : s.runAt x.run = some r)
    (hfree : coll = true ∨ s.copyBusy hall = false) (hnext : s.nextContextOf hall coll = some x) (sel : List Nat) :
    exec (.engineCommandStart hall coll sel) s = .next ((s.setHall (if coll then { s.hallAt hall with collNext := x.place + 1 }
      else { s.hallAt hall with copyNext := x.place + 1 })).startCommand r fn f x sel) := by
  have hgo : (!coll && s.copyBusy hall) = false := by
    cases hfree with
    | inl h => rw [h]; rfl
    | inr h => rw [h, Bool.and_false]
  show execEngineCommandStart hall coll sel s = _
  simp only [execEngineCommandStart, hgo, hnext, hr, hfn, hf, Bool.false_eq_true, if_false]

/-- Vectors of other packages join at a line of level 4 of a job of several packages alone. -/
theorem collectiveMatch_meets {dom : Nat} {l : Line} {ms : List (Context × Command)} (hr : s.runAt r.id = some r)
    (hl : (s.lines.filter (fun l => l.run == r.id && l.dom == dom)).findSome? (fun l => (s.lineMatch l).map (fun ms => (l, ms))) =
      some (l, ms)) (remote : List (List W32)) :
    exec (.collectiveMatch r.id dom remote) s =
      .next (s.matchColl r fn f ms (if l.level = 4 ∧ 1 < f.nPkg then remote else [])) := by
  have hfar : (if l.level == 4 then (if f.nPkg ≤ 1 then [] else remote) else []) = if l.level = 4 ∧ 1 < f.nPkg then remote else [] := by
    simp only [beq_iff_eq, ← Nat.not_lt]
    by_cases hp : 1 < f.nPkg <;> simp [hp]
  show execCollectiveMatch r.id dom remote s = _
  simp only [execCollectiveMatch, hr, hfn, hf, hl, hfar]

theorem engineCommandComplete_completes {x : Context} {c : Command} {rest : List Command} (hr : s.runAt x.run = some r)
    (hx : s.contextAt x.id = some x) (hq : x.queue = c :: rest) (hc : c.ready = true) :
    exec (.engineCommandComplete x.id) s = .next (s.completeCommand r fn f x c) := by
  show execEngineCommandComplete x.id s = _
  simp only [execEngineCommandComplete, hx, hr, hq, hc, hfn, hf, Bool.not_true, Bool.false_eq_true, if_false]

end

/-! ## Completion (R217, R222) -/

/-- Bytes that come from no stream record are written as they were read (R222). -/
theorem freshOut_of_no_sources {c : Command} (h : c.sources = []) (s : State) (r : Run) : s.freshOut r c = c := by
  cases c
  cases h
  simp only [State.freshOut, List.any_nil, Bool.false_eq_true, if_false, List.map_id']

/-- The one token that a core waits for reaches its register, in the shadow too. -/
theorem tokenArrives_only {k : Core} {reg tl num : Nat} (h : k.tokens = [(reg, tl, some num)]) (v : W64) (writes : List Nat) :
    (k.tokenArrives tl num v writes).tokens = [] ∧ (k.tokenArrives tl num v writes).arch = k.arch.setPlace reg v ∧
      (k.tokenArrives tl num v writes).shadow = k.shadow.setPlace reg v := by
  have hfind : k.tokens.find? (fun t => t.2.1 == tl && t.2.2 == some num) = some (reg, tl, some num) := by
    simp [h]
  simp only [Core.tokenArrives, hfind]
  exact ⟨by rw [h, List.erase_cons_head], trivial, trivial⟩

@[simp] theorem tokenArrives_no (k : Core) (tl num : Nat) (v : W64) (writes : List Nat) : (k.tokenArrives tl num v writes).no = k.no := by
  unfold Core.tokenArrives
  split <;> rfl

/-- The context once its oldest command, `c`, has completed and carries the writes `carried` to an acquirer. -/
def Context.completes (x : Context) (c : Command) (carried : List Nat) : Context :=
  { x with
    queue := x.queue.drop 1, counter := BitVec.ofNat 64 c.num, step := BitVec.ofNat 16 (blkStep c.block)
    done := x.done ++ [(c.num, carried)] }

theorem contextAt_mapContext {s : State} {n : Nat} {x : Context} (h : s.contextAt n = some x) (g : Context → Context)
    (hg : ∀ x, (g x).id = x.id) : (s.mapContext n g).contextAt n = some (g x) :=
  (find?_map_at Context.id g hg s.contexts n).trans (congrArg (Option.map g) h)

/-- What a filter keeps of the elements it would be found among is found as before. -/
theorem find?_filter_of_find? {α : Type} {p q : α → Bool} {l : List α} {x : α} (h : l.find? q = some x) (hp : p x = true) :
    (l.filter p).find? q = some x := by
  obtain ⟨hq, as, bs, rfl, has⟩ := List.find?_eq_some_iff_append.mp h
  rw [List.filter_append, List.filter_cons_of_pos hp]
  exact List.find?_eq_some_iff_append.mpr ⟨hq, _, _, rfl, fun a ha => has a (List.mem_filter.mp ha).1⟩

section
variable {s : State} {r : Run} {fn : Fn} {f : Flight} {x : Context} {c : Command} {k : Nat} (hk : x.core = some k) (he : x.ended = false)
include hk he

/-- The context of a task that goes on stays, without its oldest command. -/
theorem completeCommand_contextAt (hx : s.contextAt x.id = some x) : (s.completeCommand r fn f x c).contextAt x.id =
    some (x.completes c (unionNat (({ s with gens := s.gens + 1 } : State).engineWrite r fn f x (s.freshOut r c)).2 c.reached)) := by
  have hx' := (congrArg (List.find? (fun y : Context => y.id == x.id))
    (State.engineWrite_contexts { s with gens := s.gens + 1 } r fn f x (s.freshOut r c))).trans hx
  simp only [State.completeCommand, hk, he, Bool.false_eq_true, if_false]
  refine find?_filter_of_find? ?_ (by simp [Context.completes, he])
  split <;> exact contextAt_mapContext hx' _ (fun _ => rfl)

/-- The token word of a task's command goes to its core, when that still runs the task's job. -/
theorem completeCommand_coreAt {q : Core}
    (hq : (({ s with gens := s.gens + 1 } : State).engineWrite r fn f x (s.freshOut r c)).1.coreAt k = some q) (hrun : q.run = x.run) :
    (s.completeCommand r fn f x c).coreAt k = some (q.tokenArrives x.tl c.num (s.freshOut r c).token_
      (unionNat (({ s with gens := s.gens + 1 } : State).engineWrite r fn f x (s.freshOut r c)).2 c.reached)) := by
  have hno : q.no = k := coreAt_no hq
  simp only [State.completeCommand, hk, he, Bool.false_eq_true, if_false]
  refine (coreAt_mapCore (s := ite _ _ _) (k := q) ?_ _ ?_).trans ?_
  · split <;> exact hq
  · rw [if_pos (beq_iff_eq.mpr hrun), tokenArrives_no, hno]
  · rw [if_pos (beq_iff_eq.mpr hrun)]
    rfl

end

end Sys2Proof.Machine

namespace Sys2Proof

open Machine

/-- Settles O55: each event of an engine by its case, and the context and the core that a completed command leaves. -/
theorem engines : Obligations.Engines := by
  unfold Obligations.Engines
  intro s x r fn f c rest hr hfn hf hq
  refine ⟨fun hall coll sel hfree hnext => ?start, fun run dom remote l ms hrun hr hl => ?meet, fun hx hc => ?complete⟩
  case start =>
    have hserves := engineCommandStart_serves hfn hf hr hfree hnext sel
    refine ⟨fun h e he => ?_, fun h u c' hu => ?_, fun h => ?_⟩
    · rw [hserves, startCommand_copy_error hq h he]
    · rw [hserves, startCommand_copy_ok hq h hu]
      rfl
    · rw [hserves, startCommand_coll hq h]
  case meet =>
    subst hrun
    exact collectiveMatch_meets hfn hf hr hl remote
  case complete =>
    have hexec := engineCommandComplete_completes hfn hf hr hx hq hc
    refine ⟨hexec, fun he k hk => ⟨_, _, hexec, completeCommand_contextAt hk he hx, ?_, rfl, rfl, rfl, fun q reg hqk hrun htok => ?_⟩,
      fun h => freshOut_of_no_sources h s r⟩
    · rw [Context.completes, hq, List.drop_one, List.tail_cons]
    · exact ⟨_, completeCommand_coreAt hk he hqk hrun, tokenArrives_only htok _ _⟩

end Sys2Proof
end

section
/-! SUPPORT. A word that is joined of fields, told by what stands in each: the two directions of every round trip between a slot
word and its instruction (R3, R262, R271). -/

namespace Sys2Proof

/-- A field is its upper part joined with its lower part. -/
theorem fld_join {n : Nat} (w : BitVec n) (lo a m : Nat) : fld w lo (a + m) = fld w (lo + m) a ++ fld w lo m := by
  apply BitVec.eq_of_getLsbD_eq
  intro i hi
  rw [BitVec.getLsbD_append]
  by_cases h : i < m
  · simp [fld, h, hi]
  · simp [fld, h, hi, show lo + m + (i - m) = lo + i by omega, show i - m < a by omega]

/-- A field holds two parts joined exactly when each part stands in its place. -/
theorem fld_eq_append_iff {n a m : Nat} {x : BitVec a} {y : BitVec m} {w : BitVec n} {lo : Nat} :
    fld w lo (a + m) = x ++ y ↔ fld w (lo + m) a = x ∧ fld w lo m = y := by
  constructor
  · intro h
    have hx : fld (x ++ y) m a = x := by rw [fld_append_left x y m a (Nat.le_refl m), Nat.sub_self, fld_self]
    have hy : fld (x ++ y) 0 m = y := by rw [fld_append_right x y 0 m (by omega), fld_self]
    rw [← h, fld_fld _ _ _ _ _ (by omega)] at hx hy
    exact ⟨hx, hy⟩
  · rintro ⟨rfl, rfl⟩
    exact fld_join w lo a m

/-- A word of two parts, said of the field that is the whole: `fld_eq_append_iff` takes it from there. -/
theorem append_eq_iff_fld {a m : Nat} {x : BitVec a} {y : BitVec m} {w : BitVec (a + m)} :
    x ++ y = w ↔ fld w 0 (a + m) = x ++ y := by
  rw [fld_self, eq_comm]

/-- A part of a known field. -/
theorem fld_within {n a l : Nat} {w : BitVec n} {v : BitVec l} (h : fld w a l = v) (b k : Nat) (hk : b + k ≤ l) :
    fld w (a + b) k = fld v b k := by
  rw [← h, fld_fld _ _ _ _ _ hk]

end Sys2Proof
end

section
/-! SUPPORT. Each class's decoder reads every instruction of the class back from its word (Tables 14.10 to 14.15). The word is taken
apart into its fields; the opcode field selects the decoder's row, and the fields that the row does not use hold zero. -/

namespace Sys2Proof

open Machine

/-- The condition codes of a compare (Table 14.6). -/
theorem cc_cases {c : BitVec 4} (h : c.toNat ≤ 9) :
    c = 0 ∨ c = 1 ∨ c = 2 ∨ c = 3 ∨ c = 4 ∨ c = 5 ∨ c = 6 ∨ c = 7 ∨ c = 8 ∨ c = 9 := by
  revert c; decide

theorem cc_of_cmpiCc {c : BitVec 4} {d : BitVec 3} {a : BitVec 6} {b : BitVec 12} (h : wellFormed (.cmpiCc c d a b) = true) :
    c.toNat ≤ 9 :=
  of_decide_eq_true (Bool.and_eq_true_iff.1 h).2

theorem cc_of_vcmpCc {c : BitVec 4} {e q : BitVec 2} {a b : BitVec 5} {g : ModeFmt} (h : wellFormed (.vcmpCc c e a b q g) = true) :
    c.toNat ≤ 9 := by
  obtain ⟨h, -⟩ := Bool.and_eq_true_iff.1 h
  obtain ⟨h, -⟩ := Bool.and_eq_true_iff.1 h
  obtain ⟨h, -⟩ := Bool.and_eq_true_iff.1 h
  exact of_decide_eq_true h

section
variable {i : Instr} {w : W32} {ck : Bool}

/-- The decoder of SA and SB reads an instruction back from its word. -/
theorem decodeScalar_encode {slot : Nat} (hslot : slot < 2) (hs : soloOf i = some (slot, ck)) (hw : wellFormed i = true)
    (he : encode i = [w]) : decodeScalar w = .ok i := by
  cases i with
  | addi | andi | ori | xori | bfx | bfi | movi | movhi | ldB | ldH | ldW | ldD | stB | stH | stW | stD | rdsr | wrsr =>
    have hf := append_eq_iff_fld.1 (List.singleton_inj.1 he)
    simp only [↓fld_eq_append_iff, Nat.reduceAdd] at hf
    unfold decodeScalar
    conv in (fld w 24 8) => simp only [hf]
    exact congrArg Except.ok (by simp only [hf])
  | add | sub | mul | mulh | mulhu | divu | remu | and | or | xor | shl | shr | sar | min | max | minu | maxu | clz | popc
  | sel | shli | shri | sari | cmpCc | pand | por | pxor | pnot | faddS | fmulS | ffmaS | fminS | fmaxS | fcmpCc | icvt | fcvt
  | view | ftset | rngk | revon | revoff | rstag =>
    have hf := append_eq_iff_fld.1 (List.singleton_inj.1 he)
    simp only [↓fld_eq_append_iff, Nat.reduceAdd] at hf
    unfold decodeScalar
    conv in (fld w 24 8) => simp only [hf]
    exact (if_pos (by simp [hf])).trans (congrArg Except.ok (by simp only [hf]))
  | cmpiCc c d a b =>
    have hf := append_eq_iff_fld.1 (List.singleton_inj.1 he)
    simp only [↓fld_eq_append_iff, Nat.reduceAdd] at hf
    have hop : fld w 24 8 = 3#4 ++ c := (fld_join w 24 4 4).trans (by simp only [Nat.reduceAdd, hf])
    unfold decodeScalar
    rw [hop]
    obtain rfl | rfl | rfl | rfl | rfl | rfl | rfl | rfl | rfl | rfl := cc_cases (cc_of_cmpiCc hw) <;>
      exact (if_pos (by simp [hf])).trans (congrArg Except.ok (by simp only [hf]))
  | _ => cases hs <;> exact absurd hslot (by decide)

/-- The decoder of VX reads an instruction back from its word. -/
theorem decodeVector_encode (hs : soloOf i = some (2, ck)) (hw : wellFormed i = true) (he : encode i = [w]) :
    decodeVector w = .ok i := by
  cases i with
  | vadd | vsub | vmul | vfma | vfms | vmin | vmax | vaddSr | vshl | vshr | vsar | vcvt | rmulq | unmulq =>
    have hf := append_eq_iff_fld.1 (List.singleton_inj.1 he)
    simp only [↓fld_eq_append_iff, Nat.reduceAdd] at hf
    unfold decodeVector
    conv in (fld w 24 8) => simp only [hf]
    exact congrArg Except.ok (by simp only [hf])
  | vabs | vneg | vsel | vand | vor | vxor | vqnt | vdqnt | vrsqrta | vrcpa | vexp2a | vlog2a | vredsum | vredmax | vbcast
  | vextr | vperm | vrot | vmov | viota | vld | vst | trowLd | trowSt | tcolLd | tcolSt | qmovToMask | qops | radd | rsub
  | rxor | rshr | unshr | rleak | unleak | rnarw | unnarw =>
    have hf := append_eq_iff_fld.1 (List.singleton_inj.1 he)
    simp only [↓fld_eq_append_iff, Nat.reduceAdd] at hf
    unfold decodeVector
    conv in (fld w 24 8) => simp only [hf]
    exact (if_pos (by simp [hf])).trans (congrArg Except.ok (by simp only [hf]))
  | qmovFromMask =>
    have hf := append_eq_iff_fld.1 (List.singleton_inj.1 he)
    simp only [↓fld_eq_append_iff, Nat.reduceAdd] at hf
    unfold decodeVector
    conv in (fld w 24 8) => simp only [hf]
    exact (if_neg (by simp [hf])).trans ((if_pos (by simp [hf])).trans (congrArg Except.ok (by simp only [hf])))
  | vcmpCc c e a b q g =>
    have hf := append_eq_iff_fld.1 (List.singleton_inj.1 he)
    simp only [↓fld_eq_append_iff, Nat.reduceAdd] at hf
    have hop : fld w 24 8 = 1#4 ++ c := (fld_join w 24 4 4).trans (by simp only [Nat.reduceAdd, hf])
    unfold decodeVector
    rw [hop]
    obtain rfl | rfl | rfl | rfl | rfl | rfl | rfl | rfl | rfl | rfl := cc_cases (cc_of_vcmpCc hw) <;>
      exact (if_pos (by simp [hf])).trans (congrArg Except.ok (by simp only [hf]))
  | _ => cases hs

/-- The decoder of MX reads an instruction back from its word. -/
theorem decodeMatrix_encode (hs : soloOf i = some (3, ck)) (he : encode i = [w]) : decodeMatrix w = .ok i := by
  cases i with
  | mmaTile | mmas | mzero | mload | mdrain | mswap | mstat | maddt | mscl | mxpose =>
    have hf := append_eq_iff_fld.1 (List.singleton_inj.1 he)
    simp only [↓fld_eq_append_iff, Nat.reduceAdd] at hf
    unfold decodeMatrix
    conv in (fld w 24 8) => simp only [hf]
    exact (if_pos (by simp [hf])).trans (congrArg Except.ok (by simp only [hf]))
  | mmaStream =>
    have hf := append_eq_iff_fld.1 (List.singleton_inj.1 he)
    simp only [↓fld_eq_append_iff, Nat.reduceAdd] at hf
    unfold decodeMatrix
    conv in (fld w 24 8) => simp only [hf]
    exact (if_neg (by simp [hf])).trans ((if_pos (by simp [hf])).trans (congrArg Except.ok (by simp only [hf])))
  | _ => cases hs

/-- The decoder of HA and HB reads an instruction back from its word. -/
theorem decodeHead_encode (hs : soloOf i = some (4, ck)) (he : encode i = [w]) : decodeHead w = .ok i := by
  cases i with
  | hatt | hdet | hrd | hrds | hwr | happ | hstep | hstepr | hmark | hrew | hpos | hdist | hlen | hstat | cadd | crd | cclr
  | ccfg =>
    have hf := append_eq_iff_fld.1 (List.singleton_inj.1 he)
    simp only [↓fld_eq_append_iff, Nat.reduceAdd] at hf
    unfold decodeHead
    conv in (fld w 24 8) => simp only [hf]
    exact (if_pos (by simp [hf])).trans (congrArg Except.ok (by simp only [hf]))
  | crdStat =>
    have hf := append_eq_iff_fld.1 (List.singleton_inj.1 he)
    simp only [↓fld_eq_append_iff, Nat.reduceAdd] at hf
    have hmid : fld w 6 4 = 1#4 := by simp only [hf]
    have hset : fld w 6 1 = 1#1 := fld_within hmid 0 1 (by decide)
    have hlow : fld w 0 7 ≠ 0#7 := fun h => absurd (hset.symm.trans (fld_within h 6 1 (by decide))) (by decide)
    unfold decodeHead
    conv in (fld w 24 8) => simp only [hf]
    exact (if_neg (by simp [hlow])).trans ((if_pos (by simp [hf])).trans (congrArg Except.ok (by simp only [hf])))
  | _ => cases hs

/-- The decoder of EN reads an instruction back from its word. -/
theorem decodeEngine_encode (hs : soloOf i = some (6, ck)) (he : encode i = [w]) : decodeEngine w = .ok i := by
  cases i with
  | cpy | cpyh | collAllred | collRdscat | collAllgth | tlwait | tlrd | nextt | flsig | erep =>
    have hf := append_eq_iff_fld.1 (List.singleton_inj.1 he)
    simp only [↓fld_eq_append_iff, Nat.reduceAdd] at hf
    unfold decodeEngine
    conv in (fld w 24 8) => simp only [hf]
    exact (if_pos (by simp [hf])).trans (congrArg Except.ok (by simp only [hf]))
  | _ => cases hs

/-- The decoder of BR reads an instruction back from its word. -/
theorem decodeBranch_encode (hs : soloOf i = some (7, ck)) (he : encode i = [w]) : decodeBranch w = .ok i := by
  cases i with
  | btree =>
    have hf := append_eq_iff_fld.1 (List.singleton_inj.1 he)
    simp only [↓fld_eq_append_iff, Nat.reduceAdd] at hf
    unfold decodeBranch
    conv in (fld w 24 8) => simp only [hf]
    exact congrArg Except.ok (by simp only [hf])
  | nop | jmpRel | callRel | ret | loop | loopSp | lbrk | sync | phase | wfe | sev | trap | bkpt | halt | dset | dfence | solve
  | solend | solq | solrd =>
    have hf := append_eq_iff_fld.1 (List.singleton_inj.1 he)
    simp only [↓fld_eq_append_iff, Nat.reduceAdd] at hf
    unfold decodeBranch
    conv in (fld w 24 8) => simp only [hf]
    exact (if_pos (by simp [hf])).trans (congrArg Except.ok (by simp only [hf]))
  | jmpReg | callReg =>
    have hf := append_eq_iff_fld.1 (List.singleton_inj.1 he)
    simp only [↓fld_eq_append_iff, Nat.reduceAdd] at hf
    have hmid : fld w 6 18 = 65536#18 := by simp only [hf]
    have hset : fld w 22 2 = 1#2 := fld_within hmid 16 2 (by decide)
    unfold decodeBranch
    conv in (fld w 24 8) => simp only [hf]
    exact (if_neg (by simp [hset])).trans ((if_pos (by simp [hf])).trans (congrArg Except.ok (by simp only [hf])))
  | _ => cases hs

end

end Sys2Proof
end

section
/-! SUPPORT. What a class's decoder accepts encodes to the same word: the opcode and the unused fields are those of the row, and the rest
of the word is the instruction's own fields (R263). -/

namespace Sys2Proof

open Machine

/-- The group of an opcode whose low four bits are a condition code. -/
theorem opcode_high (w : W32) : (fld w 28 4).toNat = (fld w 24 8).toNat / 2 ^ 4 := by
  rw [fld_toNat, fld_toNat]
  omega

section
variable {i : Instr} {w : W32} {slot : Nat}

/-- The decoders that a slot's word may go to (Table 6.1). -/
theorem decodeClass_cases (h : decodeClass slot w = .ok i) :
    decodeScalar w = .ok i ∨ decodeVector w = .ok i ∨ decodeMatrix w = .ok i ∨ decodeHead w = .ok i ∨ decodeEngine w = .ok i ∨ decodeBranch w = .ok i := by
  unfold decodeClass at h
  split at h <;> simp only [h, true_or, or_true]

/-- No bit of a word that decodes is dropped: each is in the opcode, in a field that the row requires to be zero, or in an operand. -/
theorem encode_of_decodeClass (h : decodeClass slot w = .ok i) : encode i = [w] := by
  rcases decodeClass_cases h with h | h | h | h | h | h
  case' inl => unfold decodeScalar at h
  case' inr.inl => unfold decodeVector at h
  case' inr.inr.inl => unfold decodeMatrix at h
  case' inr.inr.inr.inl => unfold decodeHead at h
  case' inr.inr.inr.inr.inl => unfold decodeEngine at h
  case' inr.inr.inr.inr.inr => unfold decodeBranch at h
  all_goals repeat' split at h
  all_goals cases h
  all_goals
    refine List.singleton_inj.2 (append_eq_iff_fld.2 ?_)
    simp_all only [↓fld_eq_append_iff, Nat.reduceAdd, Bool.and_eq_true, beq_iff_eq, BitVec.toNat_eq, BitVec.ofNat_eq_ofNat,
      BitVec.toNat_ofNat, Nat.reducePow, Nat.reduceMod, opcode_high, Nat.reduceDiv, and_self]

/-- A slot accepts a word when its class decodes it, the opcode may stand there and the fields are in range (R263). -/
theorem decodeSlot_eq_ok_iff :
    decodeSlot slot w = .ok i ↔ decodeClass slot w = .ok i ∧ placed slot w = true ∧ wellFormed i = true := by
  unfold decodeSlot
  cases decodeClass slot w with
  | error e => simp only [reduceCtorEq, false_and]
  | ok j =>
    cases placed slot w with
    | false => simp
    | true => cases hj : wellFormed j <;> simp [hj] <;> (rintro rfl; exact hj)

end

/-- Settles O5: what the slot's class decodes is encoded as the same word. -/
theorem wordRoundTrip : Obligations.WordRoundTrip := by
  unfold Obligations.WordRoundTrip
  intro slot w i _ h
  obtain ⟨hd, -, hw⟩ := decodeSlot_eq_ok_iff.1 h
  exact ⟨hw, encode_of_decodeClass hd⟩

end Sys2Proof
end

section
/-! SUPPORT. A slot instruction's one word, and the slots that accept it (Table 14.10). -/

namespace Sys2Proof

open Machine

section
variable {i : Instr} {w : W32} {slot : Nat} {ck : Bool}

/-- A slot instruction is encoded as one word. -/
theorem encode_of_solo (hs : soloOf i = some (slot, ck)) : ∃ w : W32, encode i = [w] := by
  cases i <;> cases hs <;> exact ⟨_, rfl⟩

/-- The lowest slot that carries an instruction decodes its word. -/
theorem decodeClass_encode (hs : soloOf i = some (slot, ck)) (hw : wellFormed i = true) (he : encode i = [w]) :
    decodeClass slot w = .ok i := by
  have hslot := soloOf_slot hs
  simp only [soloSlots, List.mem_cons, List.not_mem_nil, or_false] at hslot
  rcases hslot with rfl | rfl | rfl | rfl | rfl | rfl | rfl
  · exact decodeScalar_encode (by decide) hs hw he
  · exact decodeScalar_encode (by decide) hs hw he
  · exact decodeVector_encode hs hw he
  · exact decodeMatrix_encode hs he
  · exact decodeHead_encode hs he
  · exact decodeEngine_encode hs he
  · exact decodeBranch_encode hs he

/-- The opcode of a scalar instruction may stand in the slot that carries the instruction (Table 14.10). -/
theorem placed_of_decodeScalar (hs : soloOf i = some (slot, ck)) (h : decodeScalar w = .ok i) : placed slot w = true := by
  unfold decodeScalar at h
  repeat' split at h
  all_goals cases h
  all_goals
    cases hs
    simp only [placed, *]
    rfl

theorem placed_of_solo (hs : soloOf i = some (slot, ck)) (h : decodeClass slot w = .ok i) : placed slot w = true :=
  match slot with
  | 0 | 1 => placed_of_decodeScalar hs h
  | _ + 2 => rfl

end

/-- Settles O4: the word's fields select the row of the decoder that the instruction stands for, in each slot of its class. -/
theorem slotRoundTrip : Obligations.SlotRoundTrip := by
  unfold Obligations.SlotRoundTrip
  intro i slot ck hw hs
  obtain ⟨w, he⟩ := encode_of_solo hs
  have hd := decodeClass_encode hs hw he
  refine ⟨w, he, decodeSlot_eq_ok_iff.2 ⟨hd, placed_of_solo hs hd, hw⟩, ?_, ?_⟩
  · rintro rfl
    exact decodeSlot_eq_ok_iff.2 ⟨hd, rfl, hw⟩
  · rintro rfl hb
    exact decodeSlot_eq_ok_iff.2 ⟨hd, hb, hw⟩

/-- Settles O7, a word at a time. -/
theorem decodedWords : Obligations.DecodedWords := by
  unfold Obligations.DecodedWords
  exact ⟨rfl, rfl, rfl, rfl, rfl, rfl, rfl, rfl⟩

end Sys2Proof
end

section
/-! SUPPORT. Stream words and their bytes: a bundle is read back from its words (R257, R258), and words from their bytes (R4). -/

namespace Sys2Proof

open Machine

/-- The four bytes of a word are its word again. -/
theorem wordOfBytes_fld (w : W32) : wordOfBytes (fld w 0 8) (fld w 8 8) (fld w 16 8) (fld w 24 8) = w := by
  refine append_eq_iff_fld.2 ?_
  simp only [fld_eq_append_iff, and_self]

/-- A list of words is read back from its bytes, before whatever the bytes behind it hold. -/
theorem wordsOfBytes_flatMap (ws : List W32) (more : List Byte) :
    wordsOfBytes (ws.flatMap bytesOfWord ++ more) = ws ++ wordsOfBytes more := by
  induction ws with
  | nil => rfl
  | cons w ws ih =>
    rw [List.flatMap_cons, List.append_assoc, List.cons_append, ← ih]
    exact congrArg (· :: _) (wordOfBytes_fld w)

theorem length_flatMap_bytesOfWord (ws : List W32) : (ws.flatMap bytesOfWord).length = 4 * ws.length := by
  induction ws with
  | nil => rfl
  | cons w ws ih => rw [List.flatMap_cons, List.length_append, ih, List.length_cons, Nat.mul_succ, Nat.add_comm]; rfl

/-- What decodes from its words, whatever words follow, decodes from its bytes, whatever bytes follow. -/
theorem decode_of_decodeWords {i : Instr} {ws : List W32} (h : ∀ rest, decodeWords (ws ++ rest) = .ok (i, ws.length)) (more : List Byte) :
    decode (ws.flatMap bytesOfWord ++ more) = .ok (i, more) := by
  unfold decode
  rw [wordsOfBytes_flatMap, h]
  exact congrArg (fun l => Except.ok (i, l)) (List.drop_left' (length_flatMap_bytesOfWord ws))

/-! ## The three kinds of bundle -/

/-- The header is what its three words hold (R259). -/
theorem hdrOfWords_hdrWord (h : BitVec 94) : hdrOfWords (hdrWord h 0) (hdrWord h 1) (hdrWord h 2) = h := by
  refine append_eq_iff_fld.2 ?_
  simp only [fld_eq_append_iff]
  exact ⟨⟨((fld_append_right _ _ 0 30 (by decide)).trans (fld_self _)).symm, rfl⟩, rfl⟩

theorem decodeWords_literalBundle {h : BitVec 94} {ws : List W32} (hw : wellFormed (.literalBundle h ws) = true) (rest : List W32) :
    decodeWords (encode (.literalBundle h ws) ++ rest) = .ok (.literalBundle h ws, (encode (.literalBundle h ws)).length) := by
  have hn : ws.length = WellFormed.presentCount h := beq_iff_eq.1 hw
  have hk : wordKind (hdrWord h 0) = 2 := by
    simp (disch := decide) only [wordKind, hdrWord, fld_append_left]
    rfl
  have hlen : (encode (.literalBundle h ws)).length = 3 + ws.length := Nat.add_comm _ 3
  rw [hlen]
  show decodeWords (hdrWord h 0 :: hdrWord h 1 :: hdrWord h 2 :: (ws ++ rest)) = _
  simp only [decodeWords, hk, hdrOfWords_hdrWord, ← hn]
  rw [if_neg (by simp), List.take_left]

theorem decodeWords_shortCall (n : BitVec 12) (f : BitVec 18) (rest : List W32) :
    decodeWords (encode (.shortCall n f) ++ rest) = .ok (.shortCall n f, 1) := by
  show decodeWords ((0b00#2 ++ n ++ f : W32) :: rest) = _
  simp (disch := decide) only [decodeWords, wordKind, fld_append_left, fld_append_right, fld_self, Nat.reduceSub]
  rfl

theorem decodeWords_longCall (n : BitVec 12) (f : BitVec 50) (rest : List W32) :
    decodeWords (encode (.longCall n f) ++ rest) = .ok (.longCall n f, 2) := by
  have hf : (fld f 18 32 ++ fld f 0 18 : BitVec 50) = f := append_eq_iff_fld.2 (fld_join f 0 32 18)
  show decodeWords ((0b01#2 ++ n ++ fld f 0 18 : W32) :: fld f 18 32 :: rest) = _
  simp (disch := decide) only [decodeWords, wordKind, fld_append_left, fld_append_right, fld_self, Nat.reduceSub]
  exact congrArg (fun g => Except.ok (Instr.longCall n g, 2)) hf

/-- Settles O6: each bundle from its words, and so from their bytes. -/
theorem bundleRoundTrip : Obligations.BundleRoundTrip := by
  unfold Obligations.BundleRoundTrip
  intro rest more back
  have reads {i : Instr} (h : ∀ rest, decodeWords (encode i ++ rest) = .ok (i, (encode i).length)) : back i :=
    ⟨h rest, decode_of_decodeWords h more⟩
  exact ⟨fun h ws hw => ⟨reads (decodeWords_literalBundle hw), Nat.add_comm _ 3⟩,
    fun n f => ⟨reads (decodeWords_shortCall n f), rfl⟩,
    fun n f => ⟨reads (decodeWords_longCall n f), rfl⟩⟩

end Sys2Proof
end

section
/-! SUPPORT. The literal bundle of one slot word (R257, R259, R260). -/

namespace Sys2Proof.Machine

/-- The header of one slot presents it alone. -/
theorem solo_slots {slot : Nat} (h : slot ∈ soloSlots) (ck : Bool) : hdrSlots (soloHdr slot ck) = [slot] := by
  revert ck; revert slot; decide

theorem solo_legal {slot : Nat} (h : slot ∈ soloSlots) (ck : Bool) : headerLegal (soloHdr slot ck) = true := by
  revert ck; revert slot; decide

/-- No instruction works on the remainder stack from both SB and VX. -/
theorem isTag_and_usesStack (i : Instr) : (isTag i && usesStack i) = false := by
  cases i <;> rfl

/-- One slot's writes meet no earlier slot's. -/
theorem dupFixed_single (a : Arch) (h : BitVec 94) (x : Nat × Instr) : dupFixed a h [x] = none := by
  unfold dupFixed
  cases hc : commits (hdrTag h x.1) (leafOf a h) <;> simp [hc, dupWrites]

/-- What a bundle's earlier slots do to a later one's plan does not depend on the slot that the context names. -/
theorem Ctx.besides_slot (c : Ctx) (slot : Nat) (ps : List (Nat × Plan)) (seen : List Plan) :
    ({ c with slot := slot } : Ctx).besides seen ps = c.besides seen ps := by
  induction ps generalizing seen with
  | nil => simp only [Ctx.besides]
  | cons p ps ih =>
    cases seen with
    | nil => simp only [Ctx.besides, ih]
    | cons q seen =>
      simp only [Ctx.besides, ih]
      rfl

/-- The issue of a bundle does not depend on the slot that its context names: each plan is read in its own. -/
theorem Ctx.issue_slot (c : Ctx) (slot : Nat) (b : Bundle) : ({ c with slot := slot } : Ctx).issue b = c.issue b := by
  have hp : ({ c with slot := slot } : Ctx).plans b = c.plans b := Ctx.besides_slot c slot _ _
  unfold Ctx.issue
  rw [hp]
  rfl

/-- A bundle of one slot word that decodes passes the checks of Table 14.9 orders 5 to 7 and comes to its issue. -/
theorem bundle_solo {c : Ctx} {i : Instr} {slot : Nat} {ck : Bool} {w : W32} (hs : soloOf i = some (slot, ck))
    (hd : decodeSlot slot w = .ok i) (hh : c.h = soloHdr slot ck) (hw : c.words = [w]) :
    c.bundle = c.issue { h := c.h, len := c.len, slots := [(slot, planOf i)], words := c.words } := by
  have hm := soloOf_slot hs
  have hsl : slotWords (soloHdr slot ck) [w] = [(slot, w)] := by rw [slotWords, solo_slots hm, List.zip_cons_cons, List.zip_nil_left]
  unfold Ctx.bundle
  simp [hh, hw, solo_legal hm, solo_slots hm, hsl, decodeSlots, hd, dupFixed_single, isTag_and_usesStack]

/-- What the core reads at an issue, but for the slot that it is said of. -/
theorem ctx_of_slot (s : State) (h : BitVec 94) (ws : List W32) (len slot slot' : Nat) :
    s.ctx h ws len slot' = (s.ctx h ws len slot).map (fun c => { c with slot := slot' }) := by
  unfold State.ctx
  repeat' split
  all_goals rfl

theorem ctx_words {s : State} {h : BitVec 94} {ws : List W32} {len slot : Nat} {c : Ctx} (hc : s.ctx h ws len slot = some c) :
    c.words = ws := by
  unfold State.ctx at hc
  repeat' split at hc
  all_goals cases hc
  rfl

/-- Settles O9: the bundle's header, slot words and decoded slots pass the checks of a bundle, and what is left is the issue of the
instruction's plan alone. -/
theorem soloBundle : Obligations.SoloBundle := by
  unfold Obligations.SoloBundle
  intro s i slot ck w hs hd
  obtain ⟨hc, -, -⟩ := decodeSlot_eq_ok_iff.1 hd
  rw [exec_solo hs, encode_of_decodeClass hc]
  show s.withCtx (soloHdr slot ck) [w] (s.lenHere 16) Ctx.bundle = issueAlone slot ck [w] (planOf i) s
  rw [State.withCtx, ctx_of_slot s _ _ _ slot 8, issueAlone]
  cases hx : s.ctx (soloHdr slot ck) [w] (s.lenHere 16) slot with
  | none => rfl
  | some c =>
    have hh : c.h = soloHdr slot ck := ctx_h hx
    have hw : c.words = [w] := ctx_words hx
    have hb := bundle_solo (c := { c with slot := 8 }) hs hd hh hw
    simp only [Option.map_some, hb, Ctx.issue_slot]

end Sys2Proof.Machine
end

section
/-! PROOFS. The scalar instructions of one virtual cycle, of a late result and of FP32 (R273, R275, R276, R278). -/

namespace Sys2Proof.Machine

variable {s : State} {c : Ctx}

/-! ## Bit fields (R275) -/

/-- The low `n` bits set, of a word that holds them. -/
theorem lowOnes_toNat {n : Nat} (hn : n ≤ 64) : (((1#65 <<< n) - 1).setWidth 64 : W64).toNat = 2 ^ n - 1 := by
  have hpow : 2 ^ n ≤ 2 ^ 64 := Nat.pow_le_pow_right (by decide) hn
  have hpos : 0 < 2 ^ n := Nat.two_pow_pos n
  have hshift : (1#65 <<< n).toNat = 2 ^ n := by
    rw [BitVec.toNat_shiftLeft, BitVec.toNat_ofNat, Nat.shiftLeft_eq]
    omega
  rw [BitVec.toNat_setWidth, BitVec.toNat_sub, hshift, show BitVec.toNat (1 : BitVec 65) = 1 from rfl]
  omega

theorem lowOnes_getLsbD {n : Nat} (hn : n ≤ 64) (i : Nat) : (((1#65 <<< n) - 1).setWidth 64 : W64).getLsbD i = decide (i < n) := by
  rw [BitVec.getLsbD, lowOnes_toNat hn, Nat.testBit_two_pow_sub_one]

/-- BFX extracts a field of the number. -/
theorem bfx64_eq (x : W64) (pos : Nat) {n : Nat} (hn : n ≤ 64) : bfx64 x pos n = BitVec.ofNat 64 (x.toNat / 2 ^ pos % 2 ^ n) := by
  apply BitVec.eq_of_toNat_eq
  have hlt : x.toNat / 2 ^ pos % 2 ^ n < 2 ^ 64 :=
    Nat.lt_of_le_of_lt (Nat.mod_le _ _) (Nat.lt_of_le_of_lt (Nat.div_le_self _ _) x.isLt)
  rw [bfx64, BitVec.toNat_and, lowOnes_toNat hn, Nat.and_two_pow_sub_one_eq_mod, BitVec.toNat_ushiftRight, Nat.shiftRight_eq_div_pow,
    BitVec.toNat_ofNat, Nat.mod_eq_of_lt hlt]

/-- BFI takes the bits of the field from its source and the others from the destination. -/
theorem bfi64_getLsbD (d x : W64) (pos : Nat) {n : Nat} (hn : n ≤ 64) {i : Nat} (hi : i < 64) :
    (bfi64 d x pos n).getLsbD i = if pos ≤ i ∧ i < pos + n then x.getLsbD (i - pos) else d.getLsbD i := by
  have hmask : ((((1#65 <<< n) - 1).setWidth 64 : W64) <<< pos).getLsbD i = decide (pos ≤ i ∧ i < pos + n) := by
    rw [BitVec.getLsbD_shiftLeft, lowOnes_getLsbD hn, decide_eq_true hi, Bool.true_and, ← decide_not, ← Bool.decide_and]
    exact decide_eq_decide.mpr (by omega)
  simp only [bfi64, BitVec.getLsbD_or, BitVec.getLsbD_and, BitVec.getLsbD_not, BitVec.getLsbD_shiftLeft x, hmask, hi]
  by_cases h : pos ≤ i ∧ i < pos + n
  · simp [h, Nat.not_lt.mpr h.1]
  · simp [h]

/-! ## Predicates (R273, R276) -/

/-- A predicate that is no p0 is written alone. -/
theorem setPred_pred (a : Arch) {n m : Nat} (v : Bool) (hn : 0 < n) (hm : m < 8) :
    (a.setPred n v).pred m = if m = n then v else a.pred m := by
  have hbit : (1#8 <<< n).getLsbD m = decide (m = n) := by
    rw [BitVec.getLsbD_shiftLeft, BitVec.getLsbD_one]
    simp only [decide_eq_true hm, Bool.true_and]
    by_cases h : m = n
    · simp [h]
    · simp [h]; omega
  have hp : (a.setPred n v).p.getLsbD m = if m = n then v else a.p.getLsbD m := by
    rw [Arch.setPred, if_neg (Nat.ne_of_gt hn)]
    cases v
    · simp only [Bool.false_eq_true, if_false, BitVec.getLsbD_and, BitVec.getLsbD_not, hbit, hm]
      by_cases h : m = n <;> simp [h]
    · simp only [if_true, BitVec.getLsbD_or, hbit]
      by_cases h : m = n <;> simp [h]
  rw [Arch.pred, hp, Arch.pred]
  by_cases h : m = n
  · simp [h, Nat.ne_of_gt hn]
  · simp only [if_neg h]

/-! ## Shapes -/

/-- A register result at issue of a plan that reads more than registers. -/
theorem exec_alu_reads {i : Instr} {slot d : Nat} {rs : List Nat} {ls : List Loc} {v : W64} (hs : soloOf i = some (slot, false))
    (h : Issues s i c) (hp : planOf i c = { aluPlan rs d v with reads := ls }) (hr : locRegs ls = rs) :
    exec i s = .next (c.regNow rs d v) := by
  have e := exec_core hs h hp rfl rfl rfl rfl rfl rfl rfl rfl (rs := rs) (ws := [d]) hr rfl
  exact e

/-- A store writes its bytes at issue (R277, R178). -/
theorem exec_store {i : Instr} {slot n d a : Nat} {j : BitVec 12} (hs : soloOf i = some (slot, false)) (h : Issues s i c)
    (hp : planOf i c = storePlan c n d a j) :
    exec i s = .next (c.coreNow [a, d] [] (fun k =>
      { k with scratch := k.scratch.put (scratchAt (c.x a + j.signExtend 64) n) n ((c.x d).toNat % 2 ^ (8 * n)) })) := by
  have e := exec_core hs h hp rfl rfl rfl rfl rfl rfl rfl rfl (rs := [a, d]) (ws := []) rfl rfl
  exact e

end Sys2Proof.Machine

namespace Sys2Proof

open Machine

/-- Settles O11: each plan is a register result at issue, whose value is the operation's own; the fields of BFX and BFI bit by bit. -/
theorem integerResults : Obligations.IntegerResults := by
  unfold Obligations.IntegerResults
  intro s c
  have field (l : BitVec 6) : l.toNat + 1 ≤ 64 := l.isLt
  refine ⟨fun d a b h => exec_alu rfl h rfl, fun d a b h => exec_alu rfl h rfl, fun d a b h => exec_alu rfl h rfl,
    fun d a b h => exec_alu rfl h rfl, fun d a b h => exec_alu rfl h rfl, fun d a b h => exec_alu rfl h rfl,
    fun d a b h => exec_alu rfl h rfl, fun d a b h => exec_alu rfl h rfl, fun d a b h => exec_alu rfl h rfl,
    fun d a b h => exec_alu rfl h rfl, fun d a b h => exec_alu rfl h rfl, fun d a b h => exec_alu rfl h rfl,
    fun d a h => exec_alu rfl h rfl, fun d a h => exec_alu rfl h rfl,
    fun d a b p n h => exec_alu_reads rfl h rfl rfl,
    fun d a i h => exec_alu rfl h rfl, fun d a i h => exec_alu rfl h rfl, fun d a i h => exec_alu rfl h rfl,
    fun d a i h => exec_alu rfl h rfl, fun d a n h => exec_alu rfl h rfl, fun d a n h => exec_alu rfl h rfl,
    fun d a n h => exec_alu rfl h rfl,
    fun d a p l h => exec_alu rfl h (congrArg (aluPlan _ _) (bfx64_eq _ _ (field l))),
    fun d a p l h => ⟨_, fun n hn => bfi64_getLsbD _ _ _ (field l) hn, exec_alu rfl h rfl⟩,
    fun d i h => exec_alu rfl h rfl, fun d i h => exec_alu rfl h rfl⟩

/-- Settles O12: each plan is a register result in flight. -/
theorem integerLateResults : Obligations.IntegerLateResults := by
  unfold Obligations.IntegerLateResults
  intro s c
  exact ⟨fun d a b h => exec_late rfl h rfl, fun d a b h => exec_late rfl h rfl, fun d a b h => exec_late rfl h rfl,
    fun d a b h => exec_late rfl h rfl, fun d a b h => exec_late rfl h rfl⟩

/-- Settles O13: predicates at issue, FCMP's in flight, then what a write of a predicate leaves. -/
theorem predicateResults : Obligations.PredicateResults := by
  unfold Obligations.PredicateResults
  intro s c
  exact ⟨fun d a b cc h => exec_pred rfl h rfl rfl, fun cc d a i h => exec_pred rfl h rfl rfl, fun d a b h => exec_pred rfl h rfl rfl,
    fun d a b h => exec_pred rfl h rfl rfl, fun d a b h => exec_pred rfl h rfl rfl, fun d a h => exec_pred rfl h rfl rfl,
    fun d a b cc h => exec_lands (p := planFcmpCc d a b cc c) (rs := [a.toNat, b.toNat]) (ws := []) rfl h rfl rfl rfl rfl rfl rfl rfl rfl rfl rfl,
    fun a => ⟨fun v => rfl, fun n m v hn hn8 hm => setPred_pred a v hn hm⟩⟩

/-- Settles O14: the rounded results, then FMIN.S and FMAX.S, which set no flag, and FCVT with its own. -/
theorem floatResults : Obligations.FloatResults := by
  unfold Obligations.FloatResults
  intro s c
  refine ⟨fun d a b m h => exec_fp rfl h rfl, fun d a b m h => exec_fp rfl h rfl, fun d a b m h => exec_fp rfl h rfl,
    fun d a u m h => exec_fp rfl h ?_, fun d a b h => exec_late rfl h rfl, fun d a b h => exec_late rfl h rfl,
    fun d a u m h => exec_late_sr rfl h rfl⟩
  have hu : (u == 1) = decide (u = 1) := rfl
  simp only [planOf, planIcvt, hu, decide_eq_true_eq, Ctx.x]

/-- Settles O15: loads as late results, stores as effects on the core alone. -/
theorem scratchAccess : Obligations.ScratchAccess := by
  unfold Obligations.ScratchAccess
  intro s c d a i at_ load store
  exact ⟨fun h => exec_late rfl h rfl, fun h => exec_late rfl h rfl, fun h => exec_late rfl h rfl, fun h => exec_late rfl h rfl,
    fun h => exec_store rfl h rfl, fun h => exec_store rfl h rfl, fun h => exec_store rfl h rfl, fun h => exec_store rfl h rfl⟩

end Sys2Proof
end

section
/-! PROOFS. The sequencer: what the end of a kernel iteration, a loop that begins and one that is left make of the registers (R238,
R285, R288 to R290). -/

namespace Sys2Proof.Machine

variable {a : Arch} {body : Bodies} {pc : Nat}

/-! ## Stage predicates (R238) -/

/-- Whether stage `k` of a pipelined loop runs in the kernel iteration that its entry stands at. -/
def LoopEntry.runs (e : LoopEntry) (k : Nat) : Bool :=
  k ≤ e.stagesM1.toNat && k ≤ e.index.toNat && e.index.toNat < e.count.toNat + k

/-- Setting a predicate changes the predicates alone. -/
theorem setPred_eq (a : Arch) (n : Nat) (v : Bool) : a.setPred n v = { a with p := (a.setPred n v).p } := by
  unfold Arch.setPred
  split <;> rfl

theorem stage_unfold (a : Arch) (e : LoopEntry) :
    a.stage e = (((a.setPred 4 (e.runs 0)).setPred 5 (e.runs 1)).setPred 6 (e.runs 2)).setPred 7 (e.runs 3) := rfl

/-- A kernel iteration sets p4 to p7 and nothing else. -/
theorem stage_eq (a : Arch) (e : LoopEntry) : a.stage e = { a with p := (a.stage e).p } := by
  rw [stage_unfold, setPred_eq _ 7, setPred_eq _ 6, setPred_eq _ 5, setPred_eq a 4]

theorem stage_pred (a : Arch) (e : LoopEntry) {k : Nat} (hk : k < 4) : (a.stage e).pred (4 + k) = e.runs k := by
  rw [stage_unfold, setPred_pred _ _ (by decide) (by omega), setPred_pred _ _ (by decide) (by omega),
    setPred_pred _ _ (by decide) (by omega), setPred_pred _ _ (by decide) (by omega)]
  match k, hk with
  | 0, _ | 1, _ | 2, _ | 3, _ => rfl

@[simp] theorem stage_x (a : Arch) (e : LoopEntry) : (a.stage e).x = a.x := by rw [stage_eq]
@[simp] theorem stage_rot (a : Arch) (e : LoopEntry) : (a.stage e).rot = a.rot := by rw [stage_eq]
@[simp] theorem stage_views (a : Arch) (e : LoopEntry) : (a.stage e).views = a.views := by rw [stage_eq]
@[simp] theorem stage_loops (a : Arch) (e : LoopEntry) : (a.stage e).loops = a.loops := by rw [stage_eq]

/-- p4 to p7 are false once the stages have fallen. -/
theorem noStages_pred (a : Arch) {k : Nat} (hk : k < 4) : a.noStages.pred (4 + k) = false := by
  have hbit : (0x0F : BitVec 8).getLsbD (4 + k) = false := by
    match k, hk with
    | 0, _ | 1, _ | 2, _ | 3, _ => rfl
  have hne : (4 + k == 0) = false := by rw [Nat.add_comm]; rfl
  rw [Arch.pred, hne, Bool.false_or]
  exact BitVec.getLsbD_and.trans (by rw [hbit, Bool.and_false])

/-! ## The end of a kernel iteration (R289) -/

/-- A kernel iteration's end rotates s40 to s63 in a pipelined loop (R238). -/
def Arch.turned (a : Arch) (e : LoopEntry) : Arch := if e.kind = .pipelined then { a with rot := (a.rot + 1) % 24 } else a

theorem popped_if (a : Arch) (e : LoopEntry) : a.popped e = if e.kind = .pipelined then { a with p := a.p &&& 0x0F } else a := by
  cases hk : e.kind <;> simp [Arch.popped, hk, Arch.noStages]

/-- Only the last bundle of the innermost body ends an iteration. -/
theorem iterEnd_inside {e : LoopEntry} (h : (body e).1.getLast? ≠ some pc) (rest : List LoopEntry) (a : Arch) (next : Nat) :
    iterEnd body pc (e :: rest) a next = ({ a with loops := e :: rest }, next) := by
  rw [iterEnd, if_neg (by simpa using h)]

/-- An iteration that is not the last goes back to the body's start. -/
theorem iterEnd_again {e : LoopEntry} (h : (body e).1.getLast? = some pc) (hi : (e.index + 1).toNat < e.limit) (rest : List LoopEntry)
    (a : Arch) (next : Nat) :
    iterEnd body pc (e :: rest) a next =
      ((if e.kind = .pipelined then
          Arch.stage { a.turned e with loops := { e with index := e.index + 1 } :: rest } { e with index := e.index + 1 }
        else { a with loops := { e with index := e.index + 1 } :: rest }), e.start.toNat) := by
  rw [iterEnd, if_pos (by simpa using h)]
  simp only [if_pos hi]
  cases hk : e.kind <;> simp [Arch.turned, hk]

/-- The last iteration takes the entry away, and the enclosing loop ends one there too where the body ends its own. -/
theorem iterEnd_last {e : LoopEntry} (h : (body e).1.getLast? = some pc) (hi : e.limit ≤ (e.index + 1).toNat) (rest : List LoopEntry)
    (a : Arch) (next : Nat) :
    iterEnd body pc (e :: rest) a next = iterEnd body pc rest ((a.turned e).popped e) (body e).2 := by
  rw [iterEnd, if_pos (by simpa using h)]
  simp only [if_neg (Nat.not_lt.mpr hi)]
  cases hk : e.kind <;> simp [Arch.turned, hk]

/-- The end of an iteration writes the loop stack and does not read the register's. -/
theorem iterEnd_loops (body : Bodies) (pc : Nat) (l m : List LoopEntry) (a : Arch) (next : Nat) :
    iterEnd body pc l { a with loops := m } next = iterEnd body pc l a next := by
  induction l generalizing a next with
  | nil => rfl
  | cons e rest ih =>
    by_cases h : (body e).1.getLast? = some pc
    · rcases Nat.lt_or_ge (e.index + 1).toNat e.limit with hi | hi
      · rw [iterEnd_again h hi, iterEnd_again h hi]
        simp only [Arch.turned]
        split <;> rfl
      · rw [iterEnd_last h hi, iterEnd_last h hi, ← ih ((a.turned e).popped e)]
        congr 1
        simp only [popped_if, Arch.turned]
        split <;> rfl
    · rw [iterEnd_inside h, iterEnd_inside h]

/-! ## The next pc and loop stack -/

/-- The registers that control leaves, at their next pc. -/
def goOn (r : Arch × Nat) : Arch := { r.1 with pc := BitVec.ofNat 64 r.2 }

theorem sequence_fall (a : Arch) (body : Bodies) (pc len : Nat) :
    a.sequence body pc len .fall = goOn (iterEnd body pc a.loops a (pc + len)) := rfl

/-- Outside every loop control goes on at the next address. -/
theorem iterEnd_outside (h : a.loops = []) (next : Nat) : iterEnd body pc a.loops a next = (a, next) := by
  have he : iterEnd body pc [] a next = (a, next) := by rw [iterEnd, ← h]
  exact (congrArg (iterEnd body pc · a next) h).trans he

/-- Behind a body that ends where `rest`'s innermost may, control falls through as from the body's last bundle. -/
theorem goOn_iterEnd (b : Arch) (body : Bodies) (pc n : Nat) (rest : List LoopEntry) :
    goOn (iterEnd body pc rest b (pc + n)) = ({ b with loops := rest } : Arch).sequence body pc n .fall :=
  congrArg goOn (iterEnd_loops body pc rest rest b (pc + n)).symm

theorem sequence_skip {e : LoopEntry} (len : Nat) :
    a.sequence body pc len (.skip e) = goOn (iterEnd body ((body e).1.getLast?.getD pc) a.loops (a.popped e) (body e).2) := rfl

theorem sequence_lbrk {e : LoopEntry} {rest : List LoopEntry} (h : a.loops = e :: rest) (len : Nat) :
    a.sequence body pc len .lbrk = goOn (iterEnd body ((body e).1.getLast?.getD pc) rest (a.popped e) (body e).2) := by
  simp only [Arch.sequence, h, goOn]

/-- A plain loop that begins stands on the stack. -/
theorem sequence_push_plain {e : LoopEntry} (hk : e.kind = .plain) (len : Nat) :
    a.sequence body pc len (.push e) = { a with loops := e :: a.loops, pc := BitVec.ofNat 64 (pc + len) } := by
  simp only [Arch.sequence, hk]

/-- A pipelined one is in its first kernel iteration beside. -/
theorem sequence_push_pipelined {e : LoopEntry} (hk : e.kind = .pipelined) (len : Nat) :
    a.sequence body pc len (.push e) = { Arch.stage { a with loops := e :: a.loops } e with pc := BitVec.ofNat 64 (pc + len) } := by
  simp only [Arch.sequence, hk]

/-- A transfer keeps the loops from the first on whose body holds its target. -/
theorem sequence_jump (a : Arch) (body : Bodies) (pc len : Nat) (t : W64) :
    a.sequence body pc len (.jump t) = { a with
      p := stagesFallen (loopsLeft body (t.toNat / 4 * 4) a.loops) a.p
      loops := loopsKept body (t.toNat / 4 * 4) a.loops
      pc := BitVec.ofNat 64 (t.toNat / 4 * 4) } := by
  simp only [Arch.sequence, leave_eq]

/-- An index below the loop's last iteration counts on without wrapping. -/
theorem next_index_lt {e : LoopEntry} (h : e.index.toNat + 1 < e.limit) :
    (e.index + 1).toNat = e.index.toNat + 1 := by
  have hlimit : e.limit < 2 ^ 32 + 4 := by
    have hc := e.count.isLt
    have hs := e.stagesM1.isLt
    unfold LoopEntry.limit
    split <;> omega
  rw [BitVec.toNat_add]
  exact Nat.mod_eq_of_lt (by simp; omega)

theorem limit_plain {e : LoopEntry} (h : e.kind = .plain) : e.limit = e.count.toNat := by simp [LoopEntry.limit, h]
theorem limit_pipelined {e : LoopEntry} (h : e.kind = .pipelined) : e.limit = e.count.toNat + e.stagesM1.toNat := by simp [LoopEntry.limit, h]

section
variable {e : LoopEntry} {rest : List LoopEntry} (hl : a.loops = e :: rest) (hlast : (body e).1.getLast? = some pc)
include hl hlast

/-- The innermost loop goes on with its next iteration. -/
theorem fall_again (hi : e.index.toNat + 1 < e.limit) (len : Nat) :
    a.sequence body pc len .fall =
      { (if e.kind = .pipelined then
          Arch.stage { a.turned e with loops := { e with index := e.index + 1 } :: rest } { e with index := e.index + 1 }
        else { a with loops := { e with index := e.index + 1 } :: rest } : Arch) with pc := e.start } := by
  rw [sequence_fall, hl, iterEnd_again hlast (by rw [next_index_lt hi]; exact hi), goOn, BitVec.ofNat_toNat, BitVec.setWidth_eq]

/-- The innermost loop is over, and control goes on behind its body, in the loops around it. -/
theorem fall_last (hi : e.limit ≤ (e.index + 1).toNat) (len : Nat) :
    a.sequence body pc len .fall = goOn (iterEnd body pc rest ((a.turned e).popped e) (body e).2) := by
  rw [sequence_fall, hl, iterEnd_last hlast hi]

end

end Sys2Proof.Machine

namespace Sys2Proof

open Machine

/-- Settles O19, a transfer of control at a time. -/
theorem sequencerRules : Obligations.SequencerRules := by
  unfold Obligations.SequencerRules
  intro a body pc len turned gone
  have hgone (e : LoopEntry) (a : Arch) : a.popped e = gone e a := popped_if a e
  have hloops (e : LoopEntry) (a : Arch) : (gone e a).loops = a.loops := by
    simp only [gone]
    split <;> rfl
  refine ⟨fun h => ?_, fun t => ?_, fun e rest h hlast => ?_, fun e rest h hlast hk hi => ?_, fun e h hlast hk hi => ?_,
    fun e rest h hlast hk hi => ?_, fun e h hlast hk hi => ?_, fun e rest n h hlast hi hn => ?_, fun e => ?_, fun e h => ?_,
    fun e last n hlast hn => ?_, fun e h => ?_, fun e rest last n h hlast hn => ?_, rfl⟩
  · rw [sequence_fall, iterEnd_outside h]
    rfl
  · rw [sequence_jump]
    exact ⟨rfl, rfl⟩
  · rw [sequence_fall, h, iterEnd_inside hlast, ← h, goOn]
  · rw [fall_again h hlast (by rwa [limit_plain hk]), if_neg (by simp [hk])]
  · rw [fall_last h hlast (by rwa [limit_plain hk])]
    simp [Arch.popped, Arch.turned, hk, iterEnd, goOn]
  · have hi' : e.index.toNat + 1 < e.limit := by rwa [limit_pipelined hk]
    intro b
    have hb : b = { Arch.stage { a.turned e with loops := { e with index := e.index + 1 } :: rest } { e with index := e.index + 1 } with
        pc := e.start } := by
      simp only [b, fall_again h hlast hi', if_pos hk]
    rw [hb]
    refine ⟨rfl, by simp, by simp [Arch.turned, hk], by simp [Arch.turned, hk], fun k hk4 => ?_⟩
    refine (stage_pred _ _ hk4).trans ?_
    simp only [LoopEntry.runs, next_index_lt hi']
  · have hb := fall_last h hlast (by rwa [limit_pipelined hk]) len
    intro b
    rw [show b = _ from hb]
    refine ⟨rfl, rfl, fun k hk4 => ?_⟩
    have hp : (a.turned e).popped e = (a.turned e).noStages := by simp [Arch.popped, hk]
    exact (congrArg (Arch.pred · (4 + k)) hp).trans (noStages_pred _ hk4)
  · rw [fall_last h hlast hi, hn, goOn_iterEnd, hgone]
    rfl
  · cases hk : e.kind with
    | plain =>
      rw [sequence_push_plain hk]
      exact ⟨rfl, rfl, rfl, rfl, fun _ => rfl, nofun⟩
    | pipelined =>
      rw [sequence_push_pipelined hk]
      exact ⟨rfl, stage_loops _ e, stage_x _ e, stage_rot _ e, nofun, fun _ k hk4 => stage_pred _ e hk4⟩
  · rw [sequence_skip, hgone, ← hloops e a, iterEnd_outside ((hloops e a).trans h)]
    rfl
  · rw [sequence_skip, hlast, hn, hgone, ← hloops e a]
    rfl
  · rw [sequence_lbrk h, hgone]
    rfl
  · rw [sequence_lbrk h, hlast, hn, hgone]
    exact goOn_iterEnd ..

end Sys2Proof
end

section
/-! PROOFS. The system registers (R7, R136, R279, R280). -/

namespace Sys2Proof.Machine

variable {s : State} {c : Ctx}

/-- No register is among the locations that WRSR writes. -/
theorem planWrsr_writes (a : BitVec 6) (r : BitVec 18) (c : Ctx) : locRegs (planWrsr a r c).writes = [] := by
  refine locRegs_none _ fun l hl n => ?_
  simp only [planWrsr] at hl
  split at hl
  · obtain ⟨v, -, rfl⟩ := List.mem_map.mp hl
    nofun
  · split at hl
    · cases hl
    · cases List.mem_singleton.mp hl
      nofun

/-- WRSR that issues writes the fields of its register and nothing else. -/
theorem exec_wrsr {a : BitVec 6} {r : BitVec 18} (h : Issues s (.wrsr a r) c) :
    exec (.wrsr a r) s = .next (c.coreNow [a.toNat] [] (·.withArch (fun x => x.writeSys r.toNat (c.x a.toNat)))) :=
  exec_core (p := planWrsr a r c) rfl h rfl rfl rfl rfl rfl rfl rfl rfl rfl rfl (planWrsr_writes a r c)

/-! ## A write of a read-only register -/

/-- Where no result is in flight and no token due, nothing is locked (R121, R124). -/
theorem lockHits_none {k : Core} (hp : k.pend = []) (ht : k.tokens = []) (ch : Option Nat) (w : Bool) (l : Loc) : k.lockHits ch w l = [] := by
  cases l <;> simp [Core.lockHits, hp, Core.tokenOn, ht]

theorem lockHits_flatMap_none {k : Core} (hp : k.pend = []) (ht : k.tokens = []) (ch : Option Nat) (w : Bool) (ls : List Loc) :
    ls.flatMap (k.lockHits ch w) = [] :=
  List.flatMap_eq_nil_iff.mpr fun l _ => lockHits_none hp ht ch w l

/-- An access to no byte meets no poison. -/
theorem poisonInfo_nil (k : Core) : k.poisonInfo [] = none := by
  have hlines : k.poisonLines [] = [] := List.filter_eq_nil_iff.mpr fun _ _ => by simp
  simp [Core.poisonInfo, hlines]

/-- A read-only register's number is the trap's info0 (Table 15.4). -/
theorem wrsr_lateTrap {a : BitVec 6} {r : BitVec 18} (hr : sysReadOnly r.toNat = true) (hpc : c.pc = c.k.arch.pc.toNat) :
    c.lateTrap 1 (planWrsr a r c) = some ⟨0x13, 1, r.setWidth 64, 0, c.k.arch.pc, []⟩ := by
  simp [Ctx.lateTrap, planWrsr, hr, Ctx.info, hpc]

/-- Where no result is in flight and no token due, nothing but the trap of the read-only register stops its WRSR (R270, R279). -/
theorem check_wrsr_readOnly {a : BitVec 6} {r : BitVec 18} (hro : sysReadOnly r.toNat = true) (hvt : (r == 0x020) = false)
    (hp : c.k.pend = []) (ht : c.k.tokens = []) (hf : c.feats.getLsbD 0 = true) (hpc : c.pc = c.k.arch.pc.toNat) :
    c.check [(1, planWrsr a r c)] = some (.inl ⟨0x13, 1, r.setWidth 64, 0, c.k.arch.pc, []⟩) := by
  have hlate := wrsr_lateTrap (a := a) hro hpc
  have hwrites : (planWrsr a r c).writes = [] := by simp only [planWrsr, hvt, hro, Bool.false_eq_true, if_false, if_true]
  have hwait : c.k.tokenWait (planWrsr a r c) = none := by
    simp only [Core.tokenWait, Core.tokenOn, ht, List.find?_nil, List.findSome?_eq_none_iff]
    intro l _
    cases l <;> rfl
  have htree (ns : List Nat) : ns.flatMap (fun n => c.k.lockHits none false (.pred n)) = [] :=
    List.flatMap_eq_nil_iff.mpr fun n _ => lockHits_none hp ht _ _ _
  have hhits : c.k.planHits 1 (planWrsr a r c) (heldBays [(1, planWrsr a r c)]) [] = [] := by
    rw [Core.planHits, lockHits_flatMap_none hp ht, lockHits_flatMap_none hp ht]
    rfl
  have hlock : lockSlot c.k (heldBays [(1, planWrsr a r c)]) [(1, planWrsr a r c)] [] = none := by
    rw [lockSlot, hhits]
    rfl
  have hpoison : c.k.poisonInfo (planWrsr a r c).poison = none := poisonInfo_nil c.k
  have hfeature : c.feats.getLsbD (planWrsr a r c).feature = true := hf
  have hdup : dupSlot [(1, planWrsr a r c)] = none := by simp [dupSlot, dupWrites, hwrites]
  unfold Ctx.check
  simp only [Ctx.tokenFreeze, firstSlot, List.findSome?_cons, List.findSome?_nil, hwait, hfeature, hdup, htree, firstHit, hlock, hpoison, hlate]
  rfl

end Sys2Proof.Machine

namespace Sys2Proof

open Machine

/-- Settles O16: each register as RDSR reads it and as WRSR leaves it, then the trap of a read-only one. -/
theorem systemRegisters : Obligations.SystemRegisters := by
  unfold Obligations.SystemRegisters
  intro s c
  refine ⟨fun d r v hm h => ?_, fun a => ⟨exec_wrsr, exec_wrsr, exec_wrsr, exec_wrsr, exec_wrsr, exec_wrsr, exec_wrsr, exec_wrsr, exec_wrsr⟩,
    fun a r hm hr hst hf hp ht => ?_⟩
  · have hv : readSys c r.toNat = v := by
      simp only [List.mem_cons, Prod.mk.injEq, List.not_mem_nil, or_false] at hm
      rcases hm with ⟨rfl, rfl⟩ | ⟨rfl, rfl⟩ | ⟨rfl, rfl⟩ | ⟨rfl, rfl⟩ | ⟨rfl, rfl⟩ | ⟨rfl, rfl⟩ | ⟨rfl, rfl⟩ | ⟨rfl, rfl⟩ | ⟨rfl, rfl⟩ |
        ⟨rfl, rfl⟩ | ⟨rfl, rfl⟩ | ⟨rfl, rfl⟩ | ⟨rfl, rfl⟩ | ⟨rfl, rfl⟩ | ⟨rfl, rfl⟩ | ⟨rfl, rfl⟩ | ⟨rfl, rfl⟩ | ⟨rfl, rfl⟩ <;> rfl
    exact exec_alu rfl h (congrArg (aluPlan [] d.toNat) hv)
  · have table : ∀ r ∈ [0x000#18, 0x001#18, 0x002#18, 0x003#18, 0x008#18, 0x009#18, 0x00A#18, 0x00B#18, 0x028#18],
        sysReadOnly r.toNat = true ∧ (r == 0x020) = false := by simp [sysReadOnly]
    obtain ⟨hro, hvt⟩ := table r hm
    have ⟨hc, _⟩ := hr
    refine exec_trap rfl hr ?_ hst
    rw [ctx_slot hc]
    exact check_wrsr_readOnly hro hvt hp ht hf (ctx_pc hc)

end Sys2Proof
end

section
/-! PROOFS. Checkpoint bundles, WFE and SEV (R133, R134, R204, R292 to R294, R349), NOP and the bundle of no slot (R257, R260, R296). -/

namespace Sys2Proof.Machine

variable {s : State} {c : Ctx}

/-! ## A SYNC bundle that has yet to raise its input (R133) -/

/-- A bundle of one SYNC at its first issue begins the release that comes before its input. -/
theorem exec_sync_first {n : BitVec 2} (h : Issues s (.sync n) c) (hst : c.k.stage ≠ .syncIssue) :
    exec (.sync n) s = .next (s.release (c.syncing { h := c.h, len := c.len, slots := [], words := c.words })
      (.sync (domLine c.k n.toNat))).endTurn := by
  obtain ⟨hr, hk⟩ := h
  have ⟨hc, hstops⟩ := hr
  rw [ctx_slot hc] at hk
  have hsync : syncOf c.k.stage [(7, planSync n c)] = some (domLine c.k n.toNat) := by
    unfold syncOf
    split
    · exact absurd ‹_› hst
    · next ha _ =>
      cases ha
      rfl
    · next ha => exact (ha _ rfl).elim
  rw [exec_solo (slot := 7) (ck := true) rfl, issueAlone, hc]
  simp only [hstops, List.isEmpty_nil, if_true, Ctx.issue, plans_solo (i := .sync n) (by decide) hc, stops_of_check hk]
  rw [show syncOf c.k.stage [(7, planOf (.sync n) c)] = _ from hsync, ctx_st hc]
  rfl

/-! ## HALT, TRAP and BKPT (R111, R293, R294) -/

/-- HALT reads s1 in a handler task alone. -/
theorem planHalt_reads (c : Ctx) : locRegs (planHalt c).reads = if c.k.handlerOf.isSome then [1] else [] := by
  show locRegs (ite _ _ _) = _
  split <;> rfl

/-- TRAP and BKPT take their checkpoint, behind which their trap follows where the test passes. -/
theorem exec_trapPlan {i : Instr} {t : BitVec 4} {code : Nat} {info0 : W64} (hs : soloOf i = some (7, true)) (h : Issues s i c)
    (hp : planOf i c = trapPlan c t code info0) :
    exec i s = .next (c.checkpointed .fall (if c.k.arch.test t then .trap code info0 c.k.arch.pc else .go) (c.begin [] [])) := by
  have hpc : BitVec.ofNat 64 c.pc = c.k.arch.pc := by
    have hr := h.1
    simp only [Ready, hs] at hr
    rw [ctx_pc hr.1, BitVec.ofNat_toNat, BitVec.setWidth_eq]
  have ha : (planOf i c).after = if c.k.arch.test t then .trap code info0 c.k.arch.pc else .go := by rw [hp, ← hpc]; rfl
  have hsync : ∀ l, (planOf i c).after ≠ .sync l := by
    rw [ha]
    split <;> nofun
  have hgo : afterIssue (planOf i c).after = (planOf i c).after := by
    rw [ha]
    split <;> rfl
  rw [exec_checkpoint hs h (syncOf_none _ _ _ hsync) (by rw [hp]; rfl) (by rw [hp]; rfl) (by rw [hp]; rfl) (by rw [hp]; rfl)
    (by rw [hp]; rfl), hgo, ha, hp]
  rfl

/-! ## SOLEND (R349) -/

/-- SOLEND outside a region breaks a rule of its own. -/
theorem planSolend_inactive (h : c.k.arch.solve.active = false) : planSolend c = { feature := 2, badLast := true } := by
  simp [planSolend, solendPlan, h]

/-- SOLEND issues inside a region alone. -/
theorem solend_active (h : Issues s .solend c) : c.k.arch.solve.active = true := by
  obtain ⟨-, -, hlast, -⟩ := issues_facts h
  cases ha : c.k.arch.solve.active with
  | true => rfl
  | false =>
    rw [show planOf .solend c = _ from planSolend_inactive ha] at hlast
    cases hlast

/-- What SOLEND's decision reads at its issue. -/
def Ctx.solendReads (c : Ctx) : Decision :=
  let v := c.k.arch.solve
  ⟨(wordsOf (c.k.bytes (carriedSegs c.k.arch v.tiles))).map (BitVec.ofNat 32), (c.x v.thr.toNat).setWidth 32, (c.x v.beta.toNat).setWidth 32,
    c.len, carriedSegs c.k.arch v.tiles⟩

/-- Inside a region SOLEND reads the carried tiles, the threshold and beta, and leaves control to its decision. -/
theorem planSolend_active (h : c.k.arch.solve.active = true) :
    (planSolend c).after = .decide c.solendReads ∧ (planSolend c).ctl = .stay ∧
    locRegs (planSolend c).reads = [c.k.arch.solve.thr.toNat, c.k.arch.solve.beta.toNat] ∧ locRegs (planSolend c).writes = [] := by
  simp only [planSolend, solendPlan, h, Bool.not_true, Bool.false_eq_true, if_false, locRegs_append, locRegs_bytes, List.nil_append]
  exact ⟨rfl, trivial, rfl, rfl⟩

/-- A SOLEND does nothing at its issue but begin its checkpoint. -/
theorem planSolend_idle (c : Ctx) : (planSolend c).lands = [] ∧ (planSolend c).held = [] ∧ (planSolend c).imm = id ∧
    (planSolend c).glob = id ∧ (planSolend c).beats = 0 := by
  cases h : c.k.arch.solve.active with
  | false => rw [planSolend_inactive h]; exact ⟨rfl, rfl, rfl, rfl, rfl⟩
  | true => simp [planSolend, solendPlan, h]

/-- SOLEND begins its checkpoint, and the decision follows. -/
theorem exec_solend (h : Issues s .solend c) : exec .solend s =
    .next (c.checkpointed .stay (.decide c.solendReads) (c.begin [c.k.arch.solve.thr.toNat, c.k.arch.solve.beta.toNat] [])) := by
  obtain ⟨ha, hctl, hr, hw⟩ := planSolend_active (solend_active h)
  obtain ⟨hlands, hheld, himm, hglob, hbeats⟩ := planSolend_idle c
  rw [exec_checkpoint rfl h (syncOf_none _ _ _ (by rw [show (planOf .solend c).after = _ from ha]; nofun)) hlands hheld himm hglob hbeats]
  show Host.Outcome.next (c.checkpointed (planSolend c).ctl (afterIssue (planSolend c).after)
    (c.begin (locRegs (planSolend c).reads) (locRegs (planSolend c).writes))) = _
  rw [ha, hctl, hr, hw]
  rfl

/-! ## WFE (R134, R206) -/

/-- An event that a WFE of this tick leaves pending: it arrived in the tick, after the bit had risen (R134). -/
theorem takeEvent_eventFrom (k : Core) (tick : Nat) (e : Nat × Carried) :
    e ∈ (k.takeEvent tick).eventFrom ↔ e ∈ k.eventFrom ∧ e.1 = tick ∧ k.eventSince < tick := by
  simp [Core.takeEvent, and_comm]

/-- The bit stays where an event does. -/
theorem takeEvent_event (k : Core) (tick : Nat) : (k.takeEvent tick).arch.event = true ↔ ∃ e, e ∈ (k.takeEvent tick).eventFrom := by
  show (!(k.takeEvent tick).eventFrom.isEmpty) = true ↔ _
  rw [Bool.not_eq_true', List.isEmpty_eq_false_iff_exists_mem]

/-- Every event that is taken is acquired from (R206). -/
theorem takeEvent_acquired {k : Core} {tick : Nat} {e : Nat × Carried} (he : e ∈ k.eventFrom) (ht : e ∉ (k.takeEvent tick).eventFrom)
    (hfrom : e.2.from_ ≠ k.no) {x : Acquired} (hx : x ∈ e.2.taken k.no) : x ∈ (k.takeEvent tick).acquired := by
  rw [takeEvent_eventFrom] at ht
  refine List.mem_append_right _ (List.mem_flatMap.mpr ⟨e.2, List.mem_map.mpr ⟨e, List.mem_filter.mpr ⟨he, ?_⟩, rfl⟩, ?_⟩)
  · by_cases h1 : e.1 = tick
    · by_cases h2 : k.eventSince < tick
      · exact absurd ⟨he, h1, h2⟩ ht
      · simp [h2]
    · simp [h1]
  · rw [if_neg hfrom]
    exact hx

/-- A WFE that finds its bit set takes the event; one that does not waits for one after its bundle. -/
theorem exec_wfe (h : Issues s .wfe c) : exec .wfe s = .next (c.coreNow [] []
    (if c.k.arch.event then (·.takeEvent c.st.pcyc) else fun k => { k with stage := .waitEvent false })) := by
  cases he : c.k.arch.event with
  | true =>
    have hp : planOf .wfe c = { imm := fun k => k.takeEvent c.st.pcyc } := if_pos he
    exact exec_core rfl h hp rfl rfl rfl rfl rfl rfl rfl rfl rfl rfl
  | false =>
    have hp : planOf .wfe c = { after := .event, imm := fun k => { k with stage := .waitEvent false } } := if_neg (by simp [he])
    rw [exec_done rfl h (by rw [hp]; exact syncOf_none _ _ _ nofun) (by rw [hp]), hp, onCore_eq _ _ _ rfl rfl, later_nil, hold_nil]
    rfl

/-! ## Bundles that do nothing (R260, R296) -/

/-- The word of NOP is the one that BR decodes as NOP. -/
theorem decodeSlot_nop_iff (w : W32) : decodeSlot 7 w = .ok .nop ↔ w = 0x01000000 := by
  constructor
  · intro h
    obtain ⟨hc, -, -⟩ := decodeSlot_eq_ok_iff.1 h
    have he := encode_of_decodeClass hc
    exact (List.cons.inj he).1.symm
  · rintro rfl
    rfl

/-- A bundle of no slot reads no token and writes over none. -/
theorem readTokens_nil (k : Core) : k.readTokens [] = k := by
  have hread : k.tokensIn.filter (fun _ => false) = [] := List.filter_eq_nil_iff.mpr fun _ _ => Bool.false_ne_true
  have hkept : k.tokensIn.filter (fun _ => true) = k.tokensIn := List.filter_eq_self.mpr fun _ _ => rfl
  show ({ k with
    acquired := k.acquired ++ (k.tokensIn.filter (fun _ => false)).map (fun t => ⟨k.no, t.2⟩)
    tokensIn := k.tokensIn.filter (fun _ => true) } : Core) = k
  rw [hread, hkept, List.map_nil, List.append_nil]

/-- A core that begins a bundle which reads and writes no register. -/
theorem begin_nil (c : Ctx) : c.begin [] [] = { c.k with stage := .run } :=
  congrArg (fun k : Core => { k with stage := .run }) (readTokens_nil c.k)

/-- The tests of a header that has none are of p0, which nothing locks. -/
theorem tree_free {h : BitVec 94} (ht : ∀ i < 4, hdrTest h i = 0) (k : Core) :
    ((List.range 4).map (fun i => (hdrTest h i).toNat % 8)).flatMap (fun n => k.lockHits none false (.pred n)) = [] := by
  refine List.flatMap_eq_nil_iff.mpr fun n hn => ?_
  obtain ⟨i, hi, rfl⟩ := List.mem_map.mp hn
  simp [ht i (List.mem_range.mp hi), Core.lockHits]

/-- Nothing stops a NOP of a core that is within its undo log and its withhold buffer. -/
theorem nop_issues (hr : Ready s .nop c) (hf : c.feats.getLsbD 0 = true) (hu : c.k.undo.length ≤ 256) (hh : c.k.held.length ≤ 128) :
    Issues s .nop c := by
  refine ⟨hr, ?_⟩
  have ⟨hc, _⟩ := hr
  have hs : 7 ∈ soloSlots := by decide
  have hhdr := ctx_h hc
  have htree := tree_free (fun i hi => hhdr ▸ solo_test hs false i hi) c.k
  have hsl : hdrSl c.h = false := hhdr ▸ solo_sl hs false
  rw [ctx_slot hc]
  show c.check [(7, {})] = none
  simp only [Ctx.check, htree]
  simp [Ctx.tokenFreeze, firstSlot, Core.tokenWait, hf, dupSlot, dupWrites, bayClash, lockSlot, Core.planHits, firstHit, poisonInfo_nil,
    hsl, spanSlot, Core.linesNeeded, Core.blocksNeeded, segLines, unionNat, Config.undoLines, Config.withhold, Ctx.waits,
    Nat.not_lt.mpr hu, Nat.not_lt.mpr hh]

/-- A bundle of no slot passes its checks. -/
theorem check_nil (hh : c.h = 0) : c.check [] = none := by
  have htree := tree_free (h := c.h) (by rw [hh]; decide) c.k
  have hsl : hdrSl c.h = false := by rw [hh]; decide
  simp only [Ctx.check, htree]
  simp [Ctx.tokenFreeze, firstSlot, dupSlot, dupWrites, bayClash, lockSlot, firstHit, hsl, spanSlot, Ctx.waits]

/-- A bundle of no slot issues: the sequencer's step and one virtual cycle. -/
theorem bundle_nil (hh : c.h = 0) (hw : c.words = []) : c.bundle = ((c.st.setCore
    (c.issued { h := 0, len := c.len, slots := [] } [])).endTurn) := by
  have hplans : c.plans { h := 0, len := c.len, slots := [] } = [] := rfl
  have hsync : syncOf c.k.stage [] = none := by
    unfold syncOf
    split
    · rfl
    · next ha _ => cases ha
    · rfl
  have hbundle : c.bundle = c.issue { h := 0, len := c.len, slots := [] } := by
    unfold Ctx.bundle
    rw [hh, hw]
    rfl
  have hck : hdrCk 0 = false := by decide
  rw [hbundle, Ctx.issue]
  simp only [hplans, stops_of_check (check_nil hh), hsync, List.foldl_nil, hck, Bool.false_eq_true, if_false]
  split <;> rfl

end Sys2Proof.Machine

namespace Sys2Proof

open Machine

/-- Settles O20: SYNC before its release and behind it, the other checkpoint bundles by what follows their release, then WFE and SEV. -/
theorem checkpointInstructions : Obligations.CheckpointInstructions := by
  unfold Obligations.CheckpointInstructions
  intro s c
  refine ⟨fun n h hst => exec_sync_first h hst, fun n h hst => ?_, fun n h => ?_, fun h => ?_, fun t i h => ?_, fun t h => ?_,
    fun h => ⟨solend_active h, ?_⟩, fun h he => ?_, fun k tick => ?_, fun h he => ?_, fun n h => ?_⟩
  · exact exec_checkpoint rfl h (by rw [show c.k.stage = .syncIssue from hst]; rfl) rfl rfl rfl rfl rfl
  · exact exec_checkpoint rfl h (syncOf_none _ _ _ nofun) rfl rfl rfl rfl rfl
  · rw [exec_checkpoint rfl h (syncOf_none _ _ _ nofun) rfl rfl rfl rfl rfl, show locRegs (planOf .halt c).reads = _ from planHalt_reads c]
    rfl
  · exact exec_trapPlan rfl h rfl
  · exact exec_trapPlan rfl h rfl
  · exact exec_solend h
  · rw [exec_wfe h, if_pos he]
  · refine ⟨takeEvent_eventFrom k tick, ?_, fun e he ht hf x hx => takeEvent_acquired he ht hf hx, rfl, rfl, rfl, rfl⟩
    simp only [takeEvent_event, takeEvent_eventFrom]
  · rw [exec_wfe h, if_neg (by simp [he])]
  · exact exec_held (p := planSev n c) rfl h rfl rfl rfl rfl rfl rfl rfl rfl rfl rfl

/-- Settles O41: the word, then a NOP and a bundle of no slot, which nothing stops. -/
theorem nopRule : Obligations.NopRule := by
  unfold Obligations.NopRule
  refine ⟨decodeSlot_nop_iff, fun s c => ⟨fun hr hf hu hh => ?_, fun hc hstops => ⟨fun hd => ?_, ?_⟩⟩⟩
  · rw [← begin_nil]
    exact exec_goes (p := {}) rfl (nop_issues hr hf hu hh) rfl rfl rfl rfl rfl rfl rfl rfl rfl rfl rfl
  · rw [ctx_len hc, State.lenHere, ctx_core hc]
    simp [hd]
  · show s.withCtx 0 [] (s.lenHere 12) Ctx.bundle = _
    rw [State.withCtx, hc]
    have hgo : c.k.stops.isEmpty = true := List.isEmpty_iff.mpr hstops
    simp only [hgo, if_true, bundle_nil (ctx_h hc) (ctx_words hc), ctx_st hc]
    have hck : hdrCk 0 = false := by decide
    have hsl : hdrSl 0 = false := by decide
    simp only [Ctx.issued, readTokens_nil, List.foldl_nil, hck, hsl, Bool.false_eq_true, if_false]
    rfl

end Sys2Proof
end

section
/-! PROOFS. Two states in which an instruction issues and its statement fails: a VIEW of a descriptor with a reserved bit, and a BTREE on
a core at the stage of a SYNC bundle. -/

namespace Sys2Proof.Machine

variable {s : State} {c : Ctx}

/-! ## Witnesses -/

/-- An instruction's bundle issues where its context, as the state evaluates, has no stop and passes its checks. -/
theorem exists_issues {i : Instr} {slot : Nat} {ck : Bool} {p : Ctx → Bool} (hs : soloOf i = some (slot, ck))
    (h : (s.ctx (soloHdr slot ck) (encode i) (s.lenHere 16) slot).any
      (fun c => c.k.stops.isEmpty && (c.check [(c.slot, planOf i c)]).isNone && p c) = true) : ∃ c, Issues s i c ∧ p c = true := by
  obtain ⟨c, hc, hp⟩ := (Option.any_eq_true _ _).mp h
  simp only [Bool.and_eq_true, List.isEmpty_iff, Option.isNone_iff_eq_none] at hp
  obtain ⟨⟨hstops, hcheck⟩, hp⟩ := hp
  refine ⟨c, ⟨?_, hcheck⟩, hp⟩
  simp only [Ready, hs]
  exact ⟨hc, hstops⟩

/-- Core 0 about to issue its first bundle, with one change. -/
def firstCore (f : Core → Core) : State := (State.reset.firstTask []).mapCore 0 f

/-! ## A descriptor with a reserved bit (R7, R281) -/

/-- The end of an iteration keeps the views. -/
theorem iterEnd_views (body : Bodies) (pc : Nat) (l : List LoopEntry) (a : Arch) (next : Nat) : (iterEnd body pc l a next).1.views = a.views := by
  induction l generalizing a next with
  | nil => rfl
  | cons e rest ih =>
    by_cases h : (body e).1.getLast? = some pc
    · rcases Nat.lt_or_ge (e.index + 1).toNat e.limit with hi | hi
      · rw [iterEnd_again h hi]
        simp only [Arch.turned]
        split <;> simp
      · rw [iterEnd_last h hi, ih, popped_eq]
        simp only [Arch.turned]
        split <;> rfl
    · rw [iterEnd_inside h]

/-- What an effect on the core's registers makes of its views stands in the state after the bundle. -/
theorem coreNow_views {k : Core} (hc : c.st.coreAt c.k.no = some k) (rs ws : List Nat) (f : Arch → Arch) :
    ((c.coreNow rs ws (·.withArch f)).coreAt c.k.no).map (fun k => k.arch.views) = some (f c.k.arch).views := by
  have hat := coreAt_setCore (k' := c.advance .fall ((c.begin rs ws).withArch f)) hc rfl
  have hcores (t : State) (n : Nat) : t.endTurn.coreAt n = t.coreAt n := by
    unfold State.endTurn State.passTurn
    split <;> rfl
  show ((c.st.setCore (c.advance .fall ((c.begin rs ws).withArch f))).endTurn.coreAt c.k.no).map _ = _
  rw [hcores, hat]
  exact congrArg some (iterEnd_views ..)

/-- VIEW that issues writes the descriptor with its reserved bits clear. -/
theorem exec_view {v a b : BitVec 6} (h : Issues s (.view v a b) c) : exec (.view v a b) s = .next (c.coreNow [a.toNat, b.toNat] []
    (·.withArch (fun x => { x with views := x.views.set v.toNat (viewDesc v.toNat (c.x a.toNat) (c.x b.toNat)) }))) :=
  exec_core (p := planView v a b c) rfl h rfl rfl rfl rfl rfl rfl rfl rfl rfl rfl
    (show locRegs (ite _ _ _) = [] by split <;> rfl)

/-- Core 0 with 0x400 in s1: bit 10, reserved in a vector descriptor (Table 7.2). -/
def reservedState : State := firstCore (·.putReg 1 0x400)

theorem reservedState_issues : ∃ c, Issues reservedState (.view 0 1 0) c ∧
    (c.x 1 == 0x400 && !(viewDesc 0 (c.x 1) (c.x 0)).getLsbD 10 && decide (0 < c.k.arch.views.length)) = true :=
  exists_issues rfl (by decide +kernel)

/-! ## BTREE at the stage of a SYNC bundle (R133, R286) -/

/-- Core 0 at the issue of a SYNC bundle that has restarted, with its target table mapped and in no cache. -/
def uncachedState : State :=
  firstCore (fun k => { k with stage := .syncIssue, arch := { k.arch with dictBase := 0x18000 } })

theorem uncachedState_issues : ∃ c, Issues uncachedState (.btree 0 0 0 1) c ∧
    (decide (btreeIndex (leafOf c.k.arch c.h) (0 : BitVec 6).toNat (0 : BitVec 6).toNat (0 : BitVec 6).toNat (1 : BitVec 6).toNat = 1) && (c.k.arch.dictBase == 0x18000) && (c.k.dcache == [65536])) = true :=
  exists_issues rfl (by decide +kernel)

end Sys2Proof.Machine

namespace Sys2Proof

open Machine

/-- Refutes O17: it has VIEW keep every bit of its registers, where the reserved bits of the descriptor's kind are not kept (R7). With
bit 10 set in the low register, the vector view v0 holds a descriptor whose bit 10 is clear. -/
theorem not_viewsAndTables : ¬ Obligations.ViewsAndTables := by
  unfold Obligations.ViewsAndTables
  intro h
  obtain ⟨c, hi, hc⟩ := reservedState_issues
  simp only [Bool.and_eq_true, beq_iff_eq, Bool.not_eq_true', decide_eq_true_eq] at hc
  obtain ⟨⟨hx, hkept⟩, hlen⟩ := hc
  obtain ⟨views, -⟩ := h reservedState c
  obtain ⟨d, -, hbits, -, hd⟩ := views 0 1 0 hi
  have hbit : d.getLsbD 10 = true := by
    rw [hbits 10 (by decide) (by decide)]
    exact congrArg (BitVec.getLsbD · 10) hx
  have ⟨hctx, _⟩ := hi.1
  have hcore : c.st.coreAt c.k.no = some c.k := by
    rw [ctx_st hctx, coreAt_no (ctx_core hctx)]
    exact ctx_core hctx
  have hset : (c.k.arch.views.set 0 (viewDesc 0 (c.x 1) (c.x 0)))[0]? = (c.k.arch.views.set 0 d)[0]? := by
    have hsame := Host.Outcome.next.inj ((exec_view hi).symm.trans hd)
    have hviews := congrArg (fun t : State => (t.coreAt c.k.no).map (fun k => k.arch.views)) hsame
    simp only [coreNow_views hcore] at hviews
    exact congrArg (·[0]?) (Option.some.inj hviews)
  rw [List.getElem?_set_self hlen, List.getElem?_set_self hlen] at hset
  rw [← Option.some.inj hset, hkept] at hbit
  cases hbit

/-- Refutes O18: it has every BTREE that jumps read a target line that the dictionary cache holds. A core at the stage of a SYNC bundle that
has restarted makes its checks no second time (R133), and a BTREE there jumps through a line in no cache. -/
theorem not_controlTransfers : ¬ Obligations.ControlTransfers := by
  unfold Obligations.ControlTransfers
  intro h
  obtain ⟨c, hi, hc⟩ := uncachedState_issues
  simp only [Bool.and_eq_true, beq_iff_eq, decide_eq_true_eq] at hc
  obtain ⟨⟨hn, hbase⟩, hcache⟩ := hc
  obtain ⟨-, -, -, -, -, -, -, -, -, btree⟩ := h uncachedState c
  obtain ⟨-, jumps⟩ := btree 0 0 0 1 hi
  obtain ⟨p, -, hmem, -⟩ := jumps (fun h0 => absurd (hn.symm.trans h0) (by decide))
  rw [hn, hbase, hcache] at hmem
  revert hmem
  decide

end Sys2Proof
end

section
/-! PROOFS. The vector slot (R300 to R322): plans that are legal, what each shared shape leaves, then the instructions by their shapes. -/

namespace Sys2Proof.Machine

variable {s : State} {i : Instr} {c : Ctx} {slot : Nat}

/-! ## Legal plans -/

/-- An instruction that issues has a legal plan: where it has one for operands that are illegal and one for others, it is the others'. -/
theorem planOf_legal {b : Prop} {inst : Decidable b} {p q : Plan} (h : Issues s i c) (hp : planOf i c = if b then p else q)
    (hb : p.bad = true) : planOf i c = q := by
  obtain ⟨hgood, -⟩ := issues_facts h
  by_cases hc : b
  · rw [hp, if_pos hc, hb] at hgood
    cases hgood
  · rw [hp, if_neg hc]

/-- An instruction that issues has a zero in the mode field that its table marks so (R301). -/
theorem planOf_zeroMode {p : Plan} {m : BitVec 3} (h : Issues s i c) (hp : planOf i c = p.zeroMode m) : planOf i c = p := by
  obtain ⟨hgood, -⟩ := issues_facts h
  by_cases hm : m = 0
  · rw [hp, Plan.zeroMode, if_pos hm]
  · rw [hp, Plan.zeroMode, if_neg hm] at hgood
    cases hgood

/-! ## Lane words (R298, R300) -/

/-- The lanes of a view, one by one. -/
theorem lanes_eq (c : Ctx) (v : Nat) : c.k.lanes v = (List.range 64).map (c.lane v) := by
  have hlen : (c.k.lanes v).length = 64 := by simp [Core.lanes]
  refine List.ext_getElem (by simp [hlen]) fun n h1 h2 => ?_
  simp [Ctx.lane, h1]

/-- One word in every lane. -/
theorem replicate_eq_map (w : Nat) : List.replicate 64 w = (List.range 64).map (fun _ => w) := by
  rw [List.map_const', List.length_range]

/-! ## A mask from a condition on each lane (R308) -/

theorem sumBits_lt (hit : Nat → Bool) (n : Nat) :
    (List.range n).foldl (fun a i => if hit i then a + 2 ^ i else a) 0 < 2 ^ n := by
  induction n with
  | zero => exact Nat.one_pos
  | succ n ih =>
    rw [List.range_succ, List.foldl_append, List.foldl_cons, List.foldl_nil, Nat.pow_succ]
    split <;> omega

/-- The powers of two at the places that a condition picks, summed, have their bits set there. -/
theorem sumBits_testBit (hit : Nat → Bool) {n i : Nat} (hi : i < n) :
    ((List.range n).foldl (fun a i => if hit i then a + 2 ^ i else a) 0).testBit i = hit i := by
  induction n with
  | zero => exact absurd hi (Nat.not_lt_zero i)
  | succ n ih =>
    rw [List.range_succ, List.foldl_append, List.foldl_cons, List.foldl_nil]
    have hlow := Nat.testBit_lt_two_pow (sumBits_lt hit n)
    obtain h | rfl := Nat.lt_succ_iff_lt_or_eq.mp hi
    · split
      · rw [Nat.add_comm, Nat.testBit_two_pow_add_gt h, ih h]
      · exact ih h
    · split
      next hb => rw [Nat.add_comm, Nat.testBit_two_pow_add_eq, hlow, hb]; rfl
      next hb => rw [hlow]; exact (Bool.not_eq_true _ ▸ hb).symm

theorem sumBits_getLsbD (hit : Nat → Bool) {i : Nat} (hi : i < 64) :
    (BitVec.ofNat 64 ((List.range 64).foldl (fun a i => if hit i then a + 2 ^ i else a) 0)).getLsbD i = hit i := by
  rw [BitVec.getLsbD_ofNat, sumBits_testBit hit hi, decide_eq_true hi, Bool.true_and]

/-! ## Vector results -/

/-- A vector result in flight, of an instruction with a feature of its own or of its operands. -/
theorem exec_vec_feats {l n : Nat} {srcs regs masks fs : List Nat} {d : Nat} {m : W64} {ws : List Nat} {fl : Flags}
    (hs : soloOf i = some (slot, false)) (h : Issues s i c)
    (hp : planOf i c = { vecPlan c l srcs regs masks d m ws fl with feature := n, feats := fs }) :
    exec i s = .next (c.done .fall ((c.begin regs []).later [vecPend c l .vector d m ws fl])) :=
  exec_lands (p := { vecPlan c l srcs regs masks d m ws fl with feature := n, feats := fs }) hs h hp rfl rfl rfl rfl rfl rfl rfl
    (vecPlan_reads c l srcs regs masks d m ws fl) (vecPlan_writes c l srcs regs masks d m ws fl)

/-- Results in flight in place of a rounded vector result, of an instruction with a feature of its own or of its operands. -/
theorem exec_vec_sr_lands {l n : Nat} {srcs regs masks fs : List Nat} {d : Nat} {m : W64} {ws : List Nat} {fl : Flags} {sr : Bool}
    {ps : List Pend} (hs : soloOf i = some (slot, false)) (h : Issues s i c)
    (hp : planOf i c = { (vecPlan c l srcs regs masks d m ws fl).rounding sr with feature := n, feats := fs, lands := ps }) :
    exec i s = .next (c.done .fall (((c.begin regs []).later ps).rounded sr)) := by
  have hreads : locRegs ((vecPlan c l srcs regs masks d m ws fl).rounding sr).reads = regs :=
    vecPlan_reads c l srcs regs masks d m ws fl
  have hwrites : locRegs ((vecPlan c l srcs regs masks d m ws fl).rounding sr).writes = [] := by
    simp only [Plan.rounding, locRegs_append, vecPlan_writes, locRegs_sr, List.nil_append]
  have hheld : ((vecPlan c l srcs regs masks d m ws fl).rounding sr).held = [] := rfl
  rw [exec_as hs h hp rfl rfl rfl rfl, hreads, hwrites, hheld, hold_nil]
  split <;> rfl

/-- An arithmetic instruction of two sources (R305). -/
theorem exec_arith2 {l d x y q m f : Nat} {zeroOnly : Bool} {fv : Val → Val → Bool → XRes} {fi : Int → Int → Int}
    (hs : soloOf i = some (slot, false)) (h : Issues s i c) (hp : planOf i c = arith2 c l d x y q m f zeroOnly fv fi) :
    exec i s = .next (c.vecLater l [] d (c.k.arch.mask q) (isFloatCode (c.k.arch.fmt f) && (c.k.arch.modeField m).isSr)
      (fun n => arithLane c.k.arch (c.k.arch.fmt f) m zeroOnly fv fi n (c.lane x n) (c.lane y n))) :=
  exec_vec_sr hs h (planOf_legal h hp rfl)

/-- VABS and VNEG (R305). -/
theorem exec_arith1 {d x q m f : Nat} {fv : Val → Val} {fi : Int → Int}
    (hs : soloOf i = some (slot, false)) (h : Issues s i c) (hp : planOf i c = arith1 c d x q m f fv fi) :
    exec i s = .next (c.vecLater 3 [] d (c.k.arch.mask q) (isFloatCode (c.k.arch.fmt f) && (c.k.arch.modeField m).isSr)
      (fun n => signLane c.k.arch (c.k.arch.fmt f) m fv fi n (c.lane x n))) :=
  exec_vec_sr hs h (planOf_legal h hp rfl)

/-- VFMA and VFMS (R306). -/
theorem exec_fma {d x y z f : Nat} {negate : Bool}
    (hs : soloOf i = some (slot, false)) (h : Issues s i c) (hp : planOf i c = fmaPlan c d x y z f negate) :
    exec i s = .next (c.vecLater 5 [] d (BitVec.allOnes 64) (isFloatCode (c.k.arch.fmt f) && c.k.arch.rm.isSr)
      (fun n => fmaLane c.k.arch (c.k.arch.fmt f) negate n (c.lane x n) (c.lane y n) (c.lane z n))) :=
  exec_vec_sr hs h (planOf_legal h hp rfl)

/-- A vector result of no rounding in SR leaves %rngstep as it is. -/
theorem vecLater_exact (c : Ctx) (l : Nat) (rs : List Nat) (d : Nat) (m : W64) (f : Nat → FRes) :
    c.vecLater l rs d m false f =
      c.done .fall ((c.begin rs []).later [vecPend c l .vector d m (mapLanes m f).1 (mapLanes m f).2]) := by
  rw [Ctx.vecLater, rounded_false]

/-- An approximate function (R316). -/
theorem exec_approx {d x q : Nat} {f : Nat → FRes}
    (hs : soloOf i = some (slot, false)) (h : Issues s i c) (hp : planOf i c = approxPlan c d x q f) :
    exec i s = .next (c.vecLater 7 [] d (c.k.arch.mask q) false (fun n => f (c.lane x n))) := by
  rw [vecLater_exact]
  exact exec_vec hs h hp

/-- A reduction (R317). -/
theorem exec_reduce {d x q w : Nat} {fl : Flags}
    (hs : soloOf i = some (slot, false)) (h : Issues s i c) (hp : planOf i c = reducePlan c d x q w fl) :
    exec i s = .next (c.done .fall ((c.begin [] []).later
      [vecPend c 9 .vector d (BitVec.allOnes 64) (w :: List.replicate 63 0) fl])) :=
  exec_vec hs h hp

/-! ## Raw words -/

/-- Whole lane words without flags. -/
theorem exec_words {l : Nat} {srcs regs masks : List Nat} {d : Nat} {m : W64} {ws : List Nat}
    (hs : soloOf i = some (slot, false)) (h : Issues s i c) (hp : planOf i c = vecPlan c l srcs regs masks d m ws 0) :
    exec i s = .next (c.wordsLater l .vector regs d m ws) :=
  exec_vec hs h hp

/-- A shift of elements (R312), whose mode field is zero. -/
theorem exec_shift {d x y q f : Nat} {m : BitVec 3} {op : Nat → Nat → Nat → Nat}
    (hs : soloOf i = some (slot, false)) (h : Issues s i c) (hp : planOf i c = (shiftPlan c d x y q f op).zeroMode m) :
    exec i s = .next (c.wordsLater 3 .vector [] d (c.k.arch.mask q) ((List.range 64).map (fun n =>
      laneWord (c.k.arch.fmt f) (op (c.k.arch.fmt f) (c.lane x n % 2 ^ fmtWidth (c.k.arch.fmt f))
        (c.lane y n % fmtWidth (c.k.arch.fmt f)))))) :=
  exec_words hs h (planOf_legal h (planOf_zeroMode h hp) rfl)

/-- RADD, RSUB and RXOR (R342). -/
theorem exec_revPlain {d x y q f : Nat} {op : Int → Int → Int}
    (hs : soloOf i = some (slot, false)) (h : Issues s i c) (hp : planOf i c = revPlain c d x y q f op) :
    exec i s = .next (c.wordsLater 4 .vector [] d (c.k.arch.mask q) ((List.range 64).map (fun n =>
      laneWord (c.k.arch.fmt f) (bitsOf (fmtWidth (c.k.arch.fmt f))
        (op (intOf (c.k.arch.fmt f) (c.lane x n)) (intOf (c.k.arch.fmt f) (c.lane y n))))))) :=
  exec_vec_feats hs h (planOf_legal h hp rfl)

/-! ## Mask and scalar results -/

theorem maskPlan_reads (c : Ctx) (srcs regs masks : List Nat) (e : Nat) (v : W64) :
    locRegs (maskPlan c srcs regs masks e v).reads = regs := by
  simp only [maskPlan, locRegs_append, locRegs_views, locRegs_reg, locRegs_masks, List.nil_append, List.append_nil]

/-- A mask result in flight. -/
theorem exec_mask {srcs regs masks : List Nat} {e : Nat} {v : W64} (hs : soloOf i = some (slot, false)) (h : Issues s i c)
    (hp : planOf i c = maskPlan c srcs regs masks e v) : exec i s = .next (c.maskLater regs e v) :=
  exec_lands (p := maskPlan c srcs regs masks e v) hs h hp rfl rfl rfl rfl rfl rfl rfl (maskPlan_reads ..) rfl

/-- A scalar result of the vector slot in flight. -/
theorem exec_vxScalar {srcs regs masks : List Nat} {d : Nat} {v : W64} (hs : soloOf i = some (slot, false)) (h : Issues s i c)
    (hp : planOf i c = vxScalar c srcs regs masks d v) : exec i s = .next (c.regLater 3 .vector regs d v 0 false) :=
  exec_lands (p := vxScalar c srcs regs masks d v) hs h hp rfl rfl rfl rfl rfl rfl rfl (maskPlan_reads c srcs regs masks 0 0) rfl

/-- VST names scratch bytes alone as what it writes (R319). -/
theorem locRegs_scratch (o : Nat) (ls : List Nat) : locRegs (ls.map (fun n => Loc.scratch (o + 4 * n) 4)) = [] :=
  locRegs_none _ (by simp only [List.mem_map]; rintro l ⟨x, -, rfl⟩; nofun)

/-- VST by what it writes at issue (R319). -/
theorem exec_vst {v r : BitVec 5} {q : BitVec 2} (h : Issues s (.vst v r q) c) :
    exec (.vst v r q) s = .next (c.coreNow [r.toNat] [] (fun k =>
      { k with scratch := (enabled (c.k.arch.mask q.toNat)).foldl (fun g n =>
          g.put (scratchAt (c.x r.toNat) 256 + 4 * n) 4 (c.lane v.toNat n)) k.scratch })) :=
  exec_core (p := planVst v r q c) rfl h rfl rfl rfl rfl rfl rfl rfl rfl rfl
    (maskPlan_reads c [v.toNat] [r.toNat] [q.toNat] 0 0) (locRegs_scratch _ _)

/-! ## Tile slices (R320 to R322) -/

/-- What a slice move reads of the registers: the slice's number. -/
theorem locRegs_slice (segs : List (Nat × Nat)) (b q : Nat) :
    locRegs (segs.map (fun x => Loc.bytes x.1 x.2) ++ [.reg b, .mask q]) = [b] := by
  rw [locRegs_append, locRegs_bytes]
  rfl

/-- The lane words of row or column `k` of a tile: elements with the metadata that the slice carries, and zeros behind it. -/
def sliceWords (c : Ctx) (t : Tile) (col : Bool) (k code : Nat) : List Nat :=
  (List.range 64).map (fun i =>
    if i < sliceLen t col then
      laneWord code (t.get c.k.gallery (sliceElem col k i).1 (sliceElem col k i).2) +
        (match (sliceMeta c.k.arch t col k code).find? (fun m => m.1 == i) with
         | some m => t.metaWord c.k.gallery m.2 * 65536
         | none => 0)
    else 0)

/-- TROW.LD and TCOL.LD, whose mode field is zero. -/
theorem exec_sliceLoad {d t b q f : Nat} {m : BitVec 3} {col : Bool} (hs : soloOf i = some (slot, false)) (h : Issues s i c)
    (hp : planOf i c = (sliceLoad c d t b q f col).zeroMode m) :
    exec i s = .next (c.wordsLater 3 .slice [b] d (c.k.arch.mask q)
      (sliceWords c (tileOf (c.k.arch.view (32 + t))) col ((c.x b).toNat % 64) (c.k.arch.fmt f))) := by
  have hlegal := planOf_legal h (planOf_zeroMode h hp) rfl
  have e := exec_lands hs h hlegal rfl rfl rfl rfl rfl rfl rfl (locRegs_slice _ b q) (locRegs_viewLocs c.k.arch d)
  exact e

/-- The bytes that a slice store lands: elements of enabled lanes, then the metadata words that enabled lanes carry. -/
def sliceParts (c : Ctx) (t : Tile) (col : Bool) (k v : Nat) (mask : W64) (ms : List (Nat × Nat)) : List (Nat × List Byte) :=
  sliceBytes c t col k mask (c.k.lanes v) ++ ms.map (fun m => (t.metaAt + 2 * m.2, leBytes 2 (c.lane v m.1 / 65536)))

/-- A slice store in flight, with the whole slice locked. -/
def Ctx.sliceLater (c : Ctx) (col : Bool) (v : Nat) (t : Tile) (b q code : Nat) : State :=
  let k := (c.x b).toNat % 64
  let ms := (sliceMeta c.k.arch t col k code).filter (fun m => (c.k.arch.mask q).getLsbD m.1)
  let parts := sliceParts c t col k v (c.k.arch.mask q) ms
  c.done .fall ((c.begin [b] []).later
    [{ c.pend 3 .slice (.bytes (parts.map (fun p => (p.1, p.2.length)))) 0 (parts.flatMap Prod.snd) 0 with
       lock := sliceSegs t col k ++ metaSegs t ms }])

/-- TROW.ST and TCOL.ST, whose mode field is zero. -/
theorem exec_sliceStore {v t b q f : Nat} {m : BitVec 3} {col : Bool} (hs : soloOf i = some (slot, false)) (h : Issues s i c)
    (hp : planOf i c = (sliceStore c v t b q f col).zeroMode m) :
    exec i s = .next (c.sliceLater col v (tileOf (c.k.arch.view (32 + t))) b q (c.k.arch.fmt f)) := by
  have hlegal := planOf_legal h (planOf_zeroMode h hp) rfl
  have e := exec_lands hs h hlegal rfl rfl rfl rfl rfl rfl rfl (locRegs_append _ _ |>.trans (congrArg (· ++ _) (locRegs_viewLocs _ v))) (locRegs_bytes _)
  exact e

end Sys2Proof.Machine

namespace Sys2Proof

open Machine

/-- Settles O26: VCMP bit by bit, the other masks and scalars by their shapes, then VST's effect on the core alone. -/
theorem maskResults : Obligations.MaskResults := by
  unfold Obligations.MaskResults
  intro s c a scalar
  exact ⟨fun cc e x y q g f h => ⟨_, fun i hi => sumBits_getLsbD _ hi, exec_mask rfl h (planOf_legal h rfl rfl)⟩,
    fun e r h => exec_mask rfl h rfl, fun d e h => exec_vxScalar rfl h rfl, fun d x y o h => exec_mask rfl h rfl,
    fun d x r g f h => exec_vxScalar rfl h (planOf_legal h rfl rfl), fun v r q h => exec_vst h⟩

/-- Settles O23: the shapes of two sources, of one and of three, then VADD.SR with its absorbed lanes. -/
theorem vectorArithmetic : Obligations.VectorArithmetic := by
  unfold Obligations.VectorArithmetic
  intro s c a two fma
  exact ⟨fun d x y q m f h => exec_arith2 rfl h rfl, fun d x y q m f h => exec_arith2 rfl h rfl,
    fun d x y q m f h => exec_arith2 rfl h rfl, fun d x y q m f h => exec_arith2 rfl h rfl,
    fun d x y q m f h => exec_arith2 rfl h rfl, fun d x q m f h => exec_arith1 rfl h rfl, fun d x q m f h => exec_arith1 rfl h rfl,
    fun d x y z f h => exec_fma rfl h rfl, fun d x y z f h => exec_fma rfl h rfl,
    fun d x y q g f h => exec_vec_sr_lands rfl h (planOf_legal h rfl rfl)⟩

/-- Settles O24: whole lane words by their shape, the lanes of VMOV and VBCAST one by one. -/
theorem vectorMoves : Obligations.VectorMoves := by
  unfold Obligations.VectorMoves
  intro s c a words shift plain
  exact ⟨fun d x y q h => exec_words rfl h rfl, fun d x y q h => exec_words rfl h rfl, fun d x y q h => exec_words rfl h rfl,
    fun d x y q h => exec_words rfl h rfl,
    fun d x q h => exec_words rfl h (congrArg (vecPlan c 3 [x.toNat] [] [q.toNat] d.toNat (a.mask q.toNat) · 0) (lanes_eq c x.toNat)),
    fun d r q h => exec_words rfl h (congrArg (vecPlan c 3 [] [r.toNat] [q.toNat] d.toNat (a.mask q.toNat) · 0) (replicate_eq_map _)),
    fun d r q h => exec_words rfl h rfl, fun d x y q h => exec_words rfl h rfl, fun d x r q h => exec_words rfl h rfl,
    fun d r q h => exec_words rfl h rfl,
    fun d x y q g f h => exec_shift (op := fun _ u n => u * 2 ^ n) rfl h rfl,
    fun d x y q g f h => exec_shift (op := fun _ u n => u / 2 ^ n) rfl h rfl,
    fun d x y q g f h =>
      exec_shift (op := fun code u n => bitsOf (fmtWidth code) (intOf code u / (2 ^ n : Nat))) rfl h rfl,
    fun d x y q f h => exec_revPlain (op := (· + ·)) rfl h rfl, fun d x y q f h => exec_revPlain (op := (· - ·)) rfl h rfl,
    fun d x y q f h => exec_revPlain (op := xorInt) rfl h rfl⟩

/-- Settles O25: the conversions, the quantised blocks, the approximations by their shape, then the reductions. -/
theorem vectorConversions : Obligations.VectorConversions := by
  unfold Obligations.VectorConversions
  intro s c a approx reduced
  refine ⟨fun d x t st q m f h => exec_vec_sr rfl h (planOf_legal h rfl rfl), fun d x m f h => ?_, fun d x g f h => ?_,
    fun d x q h => exec_approx rfl h rfl, fun d x q h => exec_approx rfl h rfl, fun d x q h => exec_approx rfl h rfl,
    fun d x q h => exec_approx rfl h rfl,
    fun d x q g f h => exec_reduce rfl h (planOf_legal h rfl rfl), fun d x q g f h => exec_reduce rfl h (planOf_legal h rfl rfl)⟩
  · intro block
    simp only [block, Nat.zero_add]
    exact exec_vec_sr_lands rfl h (planOf_legal h rfl rfl)
  · rw [vecLater_exact]
    exact exec_vec_feats rfl h (planOf_legal h rfl rfl)

/-- Settles O27: a load and a store of a slice, for a row and for a column. -/
theorem tileSlices : Obligations.TileSlices := by
  unfold Obligations.TileSlices
  intro s c a tile load store
  exact ⟨fun d t b q g f h => exec_sliceLoad rfl h rfl, fun d t b q g f h => exec_sliceLoad rfl h rfl,
    fun v t b q g f h => exec_sliceStore rfl h rfl, fun v t b q g f h => exec_sliceStore rfl h rfl⟩

end Sys2Proof
end

section
/-! PROOFS. SOLVE, SOLQ and SOLRD (R346, R348, R352), and the engine slot (R88, R210, R371 to R376): what of a plan stops its bundle, and
the instructions by their plans. -/

namespace Sys2Proof.Machine

variable {s : State} {i : Instr} {c : Ctx} {slot : Nat}

/-! ## Plans that stop nothing -/

/-- Something of the plan's own stops its bundle: an illegal operand, a trap or a freeze. -/
def Plan.stopped (p : Plan) : Bool := p.bad || p.late.isSome || p.wait.isSome

theorem Plan.stopped_iff {p : Plan} : p.stopped = false ↔ p.bad = false ∧ p.late = none ∧ p.wait = none := by
  simp [Plan.stopped, and_assoc]

/-- The plan of an instruction that issues stops nothing. -/
theorem planOf_goes (h : Issues s i c) : (planOf i c).stopped = false := by
  obtain ⟨hbad, hlate, -, hwait⟩ := issues_facts h
  exact Plan.stopped_iff.mpr ⟨hbad, hlate, hwait⟩

/-- A plan that stops nothing, of a definition that has a stop where `b` holds: it is the other one, and `b` does not hold. -/
theorem Plan.of_else {p q r : Plan} {b : Prop} {inst : Decidable b} (h : p.stopped = false) (hp : p = if b then q else r)
    (hq : q.stopped = true) : ¬ b ∧ p = r := by
  by_cases hb : b
  · rw [hp, if_pos hb, hq] at h
    cases h
  · exact ⟨hb, hp.trans (if_neg hb)⟩

/-! ## Solve regions -/

/-- SOLVE that issues finds no region active, and sets one up. -/
theorem exec_solve {r : BitVec 6} (h : Issues s (.solve r) c) :
    let w := c.x r.toNat
    let n := (fld w 16 2).toNat + 1
    let ts := (List.range n).map (fun i => (fld w (4 * i) 4).toNat)
    let views := ts.map (fun t => 32 + t)
    let v : Solve :=
      { active := true, start := BitVec.ofNat 64 (c.pc + c.len), carried := ts.map (BitVec.ofNat 8) ++ List.replicate (4 - n) 0xFF
        thr := fld w 18 6, beta := fld w 24 6, ceiling := (fld w 30 6).toNat + 1, depth := (fld w 36 3).toNat, traps := w.getLsbD 39
        iter := 0, fill := 0, norm := 0x7F800000, shape := carriedShape c.k.arch views, loops := c.k.arch.loops.length }
    c.k.arch.solve.active = false ∧ exec (.solve r) s = .next (c.coreNow [r.toNat] [] (fun k =>
      { k with history := k.history.write 0 (k.bytes (carriedSegs c.k.arch views)), arch := { k.arch with solve := v } })) := by
  intro w n ts views v
  obtain ⟨-, hp⟩ := Plan.of_else (planOf_goes h) rfl rfl
  obtain ⟨-, -, hlast, -⟩ := issues_facts h
  rw [hp] at hlast
  exact ⟨hlast, exec_core rfl h hp rfl rfl rfl rfl rfl rfl rfl rfl (congrArg (r.toNat :: ·) (locRegs_bytes _)) rfl⟩

/-- SOLQ leaves the region where its test passes. -/
theorem exec_solq {t : BitVec 4} (h : Issues s (.solq t) c) : exec (.solq t) s = .next (c.coreNow [] [] (·.withArch (fun a =>
    if c.k.arch.test t then { a with solve := { a.solve with active := false } } else a))) := by
  refine exec_core (p := planSolq t c) rfl h rfl rfl rfl ?_ rfl rfl rfl rfl rfl rfl rfl
  unfold planSolq
  cases c.k.arch.test t <;> rfl

/-- A register result at issue of an instruction with a feature of its own. -/
theorem exec_alu_feature {n d : Nat} {rs : List Nat} {v : W64} (hs : soloOf i = some (slot, false)) (h : Issues s i c)
    (hp : planOf i c = { aluPlan rs d v with feature := n }) : exec i s = .next (c.regNow rs d v) := by
  have e := exec_core hs h hp rfl rfl rfl rfl rfl rfl rfl rfl (locRegs_reg rs) (ws := [d]) rfl
  exact e

/-- SOLRD writes what it reads of the region. -/
theorem exec_solrd {d : BitVec 6} {st : BitVec 2} (h : Issues s (.solrd d st) c) : exec (.solrd d st) s =
    .next (c.regNow [] d.toNat (match st.toNat with
      | 0 => BitVec.ofNat 64 c.k.arch.solve.iter
      | 1 => c.k.arch.solve.norm.setWidth 64
      | 2 => BitVec.ofNat 64 c.k.arch.solve.fill
      | _ => if c.k.arch.solve.active then 1 else 0)) :=
  exec_alu_feature rfl h rfl

/-! ## Engine commands (R371, R372) -/

/-- A command's token register is reserved until its command completes. -/
def Ctx.reserve (c : Ctx) (t tl : Nat) (k : Core) : Core :=
  if t = 0 then k else { k with tokens := k.tokens ++ [(physReg c.k.arch.rot t, tl, none)] }

/-- A command that issues: its block is held as scratch has it, its token register reserved. -/
theorem exec_command {op t b tl : Nat} (hs : soloOf i = some (slot, false)) (h : Issues s i c) (hp : planOf i c = commandPlan c op t b tl) :
    exec i s = .next (c.done .fall (c.reserve t tl ((c.begin [b] [t]).hold
      [.command tl (c.k.scratch.bytes ((c.x b).toNat % 65536 / 128 * 128) 128)
        (if t = 0 then none else some (physReg c.k.arch.rot t))]))) := by
  rw [exec_as hs h hp rfl rfl rfl rfl, show (commandPlan c op t b tl).lands = [] from rfl, later_nil]
  split <;> rfl

/-! ## TLWAIT (R373) -/

/-- A TLWAIT for a number other than 0 issues once its context has counted so far. -/
theorem tlwait_goes {tl reg : Nat} (hv : c.x reg ≠ 0) (h : (tlwaitPlan c tl reg).stopped = false) :
    ∃ x, c.st.contextOf c.run.id c.k.no tl = some x ∧ (c.x reg).toNat ≤ x.counter.toNat ∧
      tlwaitPlan c tl reg = { reads := [.reg reg], imm := fun k => { k with acquired := k.acquired ++ x.taken k.no (c.x reg).toNat } } := by
  have hp : tlwaitPlan c tl reg = _ := if_neg hv
  cases hx : c.st.contextOf c.run.id c.k.no tl with
  | none =>
    simp only [hx] at hp
    rw [hp] at h
    cases h
  | some x =>
    simp only [hx] at hp
    obtain ⟨-, hp⟩ := Plan.of_else h hp rfl
    obtain ⟨hc, hp⟩ := Plan.of_else h hp rfl
    exact ⟨x, rfl, Nat.not_lt.mp (of_decide_eq_false (Bool.not_eq_true _ ▸ hc)), hp⟩

/-! ## NEXTT (R374) -/

/-- A NEXTT's tile in flight, due in 16 virtual cycles: its value, or the tile that it waits for. -/
def Ctx.tilePend (c : Ctx) (d : Nat) (v : W64) (need : Need) : Pend :=
  { c.pend 16 .tile (.reg (physReg c.k.arch.rot d)) v [] 0 with need := need }

/-- A NEXTT that issues puts a tile in flight and counts. -/
theorem exec_nextt {d : BitVec 6} {v : W64} {need : Need} {f : Core → Core} (h : Issues s (.nextt d) c)
    (hp : planOf (.nextt d) c = { writes := [.reg d.toNat], lands := [c.tilePend d.toNat v need], imm := f }) :
    exec (.nextt d) s = .next (c.done .fall (f ((c.begin [] [d.toNat]).later [c.tilePend d.toNat v need]))) := by
  rw [exec_as rfl h hp rfl rfl rfl rfl, hold_nil]
  rfl

section
variable {d : BitVec 6} (h : Issues s (.nextt d) c)
include h

/-- The tile of its number has come. -/
theorem exec_nextt_here {t : Nat × W64} (ht : c.k.tiles.find? (fun t => t.1 == c.k.tileBase + c.k.tilesTaken) = some t) :
    exec (.nextt d) s = .next (c.done .fall ((fun k : Core => { k with nextts := k.nextts + 1, tilesTaken := k.tilesTaken + 1 })
      ((c.begin [] [d.toNat]).later [c.tilePend d.toNat t.2 .ready]))) := by
  obtain ⟨-, hp⟩ := Plan.of_else (planOf_goes h) rfl rfl
  simp only [ht] at hp
  have e := exec_nextt (v := t.2) (need := .ready) h hp
  exact e

/-- No tile is left, or the task is a handler's: the null value. -/
theorem exec_nextt_null (ht : c.k.tiles.find? (fun t => t.1 == c.k.tileBase + c.k.tilesTaken) = none)
    (hn : (c.k.nullSeen || c.k.handlerOf.isSome) = true) :
    exec (.nextt d) s = .next (c.done .fall ((fun k : Core => { k with nextts := k.nextts + 1 })
      ((c.begin [] [d.toNat]).later [c.tilePend d.toNat 0x8000000000000000 .ready]))) := by
  obtain ⟨-, hp⟩ := Plan.of_else (planOf_goes h) rfl rfl
  simp only [ht, hn, if_true] at hp
  have e := exec_nextt (v := nullTile) (need := .ready) h hp
  exact e

/-- Otherwise a request is sent, unless one for this tile is on its way. -/
theorem exec_nextt_asks (ht : c.k.tiles.find? (fun t => t.1 == c.k.tileBase + c.k.tilesTaken) = none)
    (hn : (c.k.nullSeen || c.k.handlerOf.isSome) = false) :
    exec (.nextt d) s = .next (c.done .fall ((fun k : Core => { k with
        nextts := k.nextts + 1, tilesTaken := k.tilesTaken + 1
        tileReq := if c.k.tileBase + c.k.tilesTaken < c.k.tileCount + c.k.tileReq.length then k.tileReq else k.tileReq ++ [⟨k.vc, none⟩] })
      ((c.begin [] [d.toNat]).later [c.tilePend d.toNat 0 (.tile (c.k.tileBase + c.k.tilesTaken))]))) := by
  obtain ⟨-, hp⟩ := Plan.of_else (planOf_goes h) rfl rfl
  simp only [ht, hn, Bool.false_eq_true, if_false, decide_eq_true_eq] at hp
  have e := exec_nextt (v := 0) (need := .tile (c.k.tileBase + c.k.tilesTaken)) h hp
  exact e

end

end Sys2Proof.Machine

namespace Sys2Proof

open Machine

/-- Settles O22, an instruction at a time. -/
theorem solveInstructions : Obligations.SolveInstructions := by
  unfold Obligations.SolveInstructions
  intro s c
  exact ⟨fun r h => exec_solve h, fun t h => exec_solq h, fun d st h => exec_solrd h⟩

/-- Settles O21: the commands by their shape, the reports, TLWAIT by its context, then NEXTT by the tile that it finds. -/
theorem engineInstructions : Obligations.EngineInstructions := by
  unfold Obligations.EngineInstructions
  intro s c reserve command
  refine ⟨fun t b l h => exec_command rfl h rfl, fun t b l h => exec_command rfl h rfl, fun t b l h => exec_command rfl h rfl,
    fun t b l h => exec_command rfl h rfl, fun t b l h => exec_command rfl h rfl,
    fun v o w h => exec_held (p := planFlsig v o w c) rfl h rfl rfl rfl rfl rfl rfl rfl rfl rfl rfl,
    fun v e h => exec_held (p := planErep v e c) rfl h rfl rfl rfl rfl rfl rfl rfl rfl rfl rfl,
    fun a l h hv => ?_, fun a l h hv => ?_, fun d l h => exec_alu rfl h rfl,
    fun d h => ⟨fun t ht => exec_nextt_here h ht, exec_nextt_null h, exec_nextt_asks h⟩⟩
  · have hp : planOf (.tlwait a l) c = { reads := [.reg a.toNat] } := if_pos hv
    exact exec_core rfl h hp rfl rfl rfl rfl rfl rfl rfl rfl rfl rfl
  · obtain ⟨x, hx, hcount, hp⟩ := tlwait_goes hv (planOf_goes h)
    exact ⟨x, hx, hcount, exec_core rfl h hp rfl rfl rfl rfl rfl rfl rfl rfl rfl rfl⟩

end Sys2Proof
end

section
/-! PROOFS. Heads (R355 to R364): what a move, an attachment and a transfer that stop nothing come to, and the instructions of HA and HB
by their plans. -/

namespace Sys2Proof.Machine

variable {s : State} {i : Instr} {c : Ctx} {slot : Nat}

/-! ## Plans one behind the other -/

/-- Two plans of which neither stops anything: the second, with the package's changes of both. -/
theorem Plan.and_goes {p q : Plan} (h : (p.and q).stopped = false) :
    p.stopped = false ∧ q.stopped = false ∧ p.and q = { q with glob := fun s => q.glob (p.glob s) } := by
  obtain ⟨hp, he⟩ : p.stopped = false ∧ p.and q = { q with glob := fun s => q.glob (p.glob s) } := by
    cases hp : p.stopped with
    | true =>
      rw [show p.and q = p from if_pos hp, hp] at h
      cases h
    | false => exact ⟨rfl, if_neg (Bool.eq_false_iff.mp hp)⟩
  rw [he] at h
  exact ⟨hp, h, he⟩

/-! ## Extents entered (R158) -/

/-- A position that enters record `p`'s extent without a stop uses the extent's place in the hall's cache. -/
theorem Ctx.enter_goes {t : BitVec 20} {d : Dir} {p : Nat} (h : (c.enter t d p).stopped = false) :
    c.enter t d p = { glob := c.touched (if p < d.length then some (t, d.extentOf p) else none) } := by
  by_cases hp : d.length ≤ p
  · rw [if_neg (Nat.not_lt.mpr hp)]
    exact if_pos hp
  · have he : c.enter t d p = _ := if_neg hp
    obtain ⟨-, he⟩ := Plan.of_else h he rfl
    rw [if_pos (Nat.not_le.mp hp)]
    by_cases hx : c.extHere t (d.extentOf p) = true
    · exact he.trans (if_pos hx)
    · rw [he.trans (if_neg hx)] at h
      cases h

/-- A move that stops nothing ends within the tape, and enters the extent that it comes to. -/
theorem Ctx.move_goes {n : Nat} {d : Dir} {p : Int} (h : (c.move n d p).stopped = false) : 0 ≤ p ∧ p ≤ d.length ∧
    c.move n d p = { imm := fun k => k.moveHead n d p.toNat, glob := c.touched (c.enters (c.head n) d p.toNat) } := by
  obtain ⟨hr, he⟩ := Plan.of_else h rfl rfl
  simp only [Bool.or_eq_true, decide_eq_true_eq, not_or, Int.not_lt] at hr
  obtain ⟨⟨h0, hl⟩, -⟩ := hr
  refine ⟨h0, hl, ?_⟩
  unfold Ctx.enters
  by_cases hs : p.toNat = (c.head n).pos.toNat
  · rw [if_pos (.inl hs)]
    exact he.trans (if_pos hs)
  · replace he := he.trans (if_neg hs)
    by_cases hx : p.toNat < d.length ∧ (c.head n).pos.toNat < d.length ∧ d.extentOf p.toNat = d.extentOf (c.head n).pos.toNat
    · rw [if_pos (.inr (.inr hx.2))]
      exact he.trans (if_pos (by simpa [and_assoc] using hx))
    · replace he := he.trans (if_neg (by simpa [and_assoc] using hx))
      rw [he] at h
      obtain ⟨hp, -, hand⟩ := Plan.and_goes h
      rw [he, hand, Ctx.enter_goes hp]
      by_cases hlen : p.toNat < d.length
      · rw [if_pos hlen, if_neg]
        · rfl
        · rintro (h | h | h)
          · exact hs h
          · exact Nat.not_le.mpr hlen h
          · exact hx ⟨hlen, h⟩
      · rw [if_neg hlen, if_pos (.inr (.inl (Nat.not_lt.mp hlen)))]
        rfl

/-! ## Shapes of head instructions -/

/-- Results, held work and an effect on the core, with the extent that a head enters. -/
theorem exec_headed {p : Plan} {rs ws : List Nat} {e : Option (BitVec 20 × Nat)} (hs : soloOf i = some (slot, false)) (h : Issues s i c)
    (hp : planOf i c = p) (hg : p.glob = c.touched e) (hc : p.ctl = .fall) (ha : p.after = .go) (hb : p.beats = 0) (hr : p.blocks = [])
    (h1 : locRegs p.reads = rs) (h2 : locRegs p.writes = ws) :
    exec i s = .next (c.headed rs ws e p.lands p.held p.imm) := by
  subst h1 h2 hp
  rw [exec_issues hs h (syncOf_none _ _ _ (by rw [ha]; nofun)), hg, onCore_eq _ _ _ hb hr, ctlOf_solo, hc, ite_self]
  rfl

/-- A walk that is no longer one of a head's window passes no turn. -/
theorem endTurn_unwalk (s : State) (n : Nat) (x : Option Nat) : (s.unwalk n x).endTurn = s.endTurn.unwalk n x := by
  unfold State.endTurn State.passTurn
  show (if s.turn.head? = some s.cur then _ else _) = _
  split <;> rfl

/-- An attachment: the head's earlier window has no walks any more. -/
theorem exec_attaches {p : Plan} {rs ws : List Nat} {e : Option (BitVec 20 × Nat)} {n : Nat} (hs : soloOf i = some (slot, false))
    (h : Issues s i c) (hp : planOf i c = p) (hg : p.glob = fun s => (c.touched e s).unwalk c.k.no (some n)) (hc : p.ctl = .fall)
    (ha : p.after = .go) (hb : p.beats = 0) (hr : p.blocks = []) (h1 : locRegs p.reads = rs) (h2 : locRegs p.writes = ws) :
    exec i s = .next ((c.headed rs ws e p.lands p.held p.imm).unwalk c.k.no (some n)) := by
  subst h1 h2 hp
  rw [exec_issues hs h (syncOf_none _ _ _ (by rw [ha]; nofun)), hg, onCore_eq _ _ _ hb hr, ctlOf_solo, hc, ite_self, endTurn_unwalk]
  rfl

/-! ## Plans on an attached head -/

/-- A plan on a head that stops nothing: the head's tape is there, and what `f` makes of it stops nothing. -/
theorem onHead_goes {n : Nat} {base : Plan} {f : Head → Dir → Plan} (h : (onHead c n base f).stopped = false) :
    ∃ d, c.dir (c.head n).tape = some d ∧ (f (c.head n) d).stopped = false ∧
      onHead c n base f = { f (c.head n) d with
        views := base.views, reads := base.reads ++ (f (c.head n) d).reads, writes := base.writes ++ (f (c.head n) d).writes
        touch := base.touch ++ (f (c.head n) d).touch } := by
  obtain ⟨-, he⟩ := Plan.of_else h rfl (by simp [Plan.stopped])
  cases hd : c.dir (c.head n).tape with
  | none =>
    simp only [hd] at he
    rw [he] at h
    simp [Plan.stopped, tapeTrap] at h
  | some d =>
    simp only [hd] at he
    rw [he] at h
    exact ⟨d, rfl, h, he⟩

/-- No register is among what a head instruction writes of its head. -/
theorem locRegs_headWrites (n : Nat) (moves : Bool) : locRegs (headWrites n moves) = [] := by cases moves <;> rfl

/-- A query that issues writes its value. -/
theorem exec_query {n d : Nat} {f : Head → Dir → Option W64} (hs : soloOf i = some (slot, false)) (h : Issues s i c)
    (hp : planOf i c = queryPlan c n d f) : ∃ e v, c.dir (c.head n).tape = some e ∧ f (c.head n) e = some v ∧
      exec i s = .next (c.regNow [] d v) := by
  obtain ⟨e, he, hgo, hq⟩ := onHead_goes (hp ▸ planOf_goes h)
  replace hq := hp.trans hq
  cases hv : f (c.head n) e with
  | none =>
    simp only [hv] at hgo
    cases hgo
  | some v =>
    simp only [hv] at hq
    have hx := exec_core hs h hq rfl rfl rfl rfl rfl rfl rfl rfl (rs := []) (ws := [d]) rfl rfl
    exact ⟨e, v, he, hv, hx⟩

/-! ## Moves (R355, R362, R363) -/

/-- The plan of a move of head `n` to `p`, of an instruction that reads the registers `rs`. -/
def Ctx.movePlan (c : Ctx) (n : Nat) (d : Dir) (p : Int) (rs : List Nat) : Plan :=
  { reads := rs.map Loc.reg, writes := headWrites n true
    imm := fun k => k.moveHead n d p.toNat, glob := c.touched (c.enters (c.head n) d p.toNat) }

theorem exec_movePlan {n : Nat} {d : Dir} {p : Int} {rs : List Nat} (hs : soloOf i = some (slot, false)) (h : Issues s i c)
    (hp : planOf i c = c.movePlan n d p rs) :
    exec i s = .next (c.headed rs [] (c.enters (c.head n) d p.toNat) [] [] (fun k => k.moveHead n d p.toNat)) := by
  have hx := exec_headed hs h hp rfl rfl rfl rfl rfl (locRegs_reg rs) rfl
  exact hx

section
variable {n : Nat} {f : Head → Dir → Plan} (h : (onHead c n { writes := headWrites n true } f).stopped = false)
include h

/-- A plan on a head that does nothing to it. -/
theorem onHead_stays (hf : ∀ d, f (c.head n) d = {}) : onHead c n { writes := headWrites n true } f = { writes := headWrites n true } := by
  obtain ⟨d, -, -, he⟩ := onHead_goes h
  rw [he, hf]
  rfl

/-- A plan on a head that moves it. -/
theorem onHead_moves {p : Int} (hf : ∀ d, (f (c.head n) d).stopped = false → f (c.head n) d = c.move n d p) :
    ∃ d, c.dir (c.head n).tape = some d ∧ 0 ≤ p ∧ p ≤ d.length ∧
      onHead c n { writes := headWrites n true } f = c.movePlan n d p [] := by
  obtain ⟨d, hd, hgo, he⟩ := onHead_goes h
  have hf := hf d hgo
  rw [hf] at hgo he
  obtain ⟨h0, hl, hm⟩ := Ctx.move_goes hgo
  rw [hm] at he
  exact ⟨d, hd, h0, hl, he⟩

end

/-- A step by an amount that stops nothing moves the head by it. -/
theorem stepPlan_moves {n : Nat} {amount : Int} (h : (stepPlan c n amount).stopped = false) (h0 : amount ≠ 0) :
    ∃ d, c.dir (c.head n).tape = some d ∧ 0 ≤ (c.head n).target amount ∧ (c.head n).target amount ≤ d.length ∧
      stepPlan c n amount = c.movePlan n d ((c.head n).target amount) [] := by
  refine onHead_moves h fun d hgo => ?_
  obtain ⟨-, he⟩ := Plan.of_else hgo (if_neg h0) rfl
  exact he

/-- A step by 0 leaves the head where it is. -/
theorem stepPlan_stays {n : Nat} {amount : Int} (h : (stepPlan c n amount).stopped = false) (h0 : amount = 0) :
    stepPlan c n amount = { writes := headWrites n true } :=
  onHead_stays h fun _ => if_pos h0

/-- A rewind that stops nothing has its mark, and moves the head to it. -/
theorem planHrew_goes {h : BitVec 3} {m : BitVec 2} (hgo : (planHrew h m c).stopped = false) :
    ∃ p, (c.head h.toNat).marks.getD m.toNat none = some p ∧
      (p = (c.head h.toNat).pos → planHrew h m c = { writes := headWrites h.toNat true }) ∧
      (p ≠ (c.head h.toNat).pos → ∃ d, c.dir (c.head h.toNat).tape = some d ∧ 0 ≤ (p.toNat : Int) ∧ (p.toNat : Int) ≤ d.length ∧
        planHrew h m c = c.movePlan h.toNat d p.toNat []) := by
  obtain ⟨d, -, hf, -⟩ := onHead_goes hgo
  cases hm : (c.head h.toNat).marks.getD m.toNat none with
  | none =>
    simp only [hm] at hf
    cases hf
  | some p =>
    refine ⟨p, rfl, fun hp => onHead_stays hgo fun d => ?_, fun hp => onHead_moves hgo fun d hf => ?_⟩
    · simp only [hm, beq_iff_eq, if_pos hp]
    · simp only [hm, beq_iff_eq, if_neg hp] at hf ⊢
      exact (Plan.of_else hf rfl rfl).2

/-! ## Attachment (R357) -/

/-- A head attached to record `p` of a tape, without marks. -/
def Head.attachedAt (t : BitVec 20) (d : Dir) (p : Nat) (writer backward : Bool) : Head :=
  ⟨true, t, headMode d writer backward, BitVec.ofNat 40 p, [none, none, none, none], BitVec.ofNat 40 p⟩

/-- A head takes the place of head `n`, with an empty window. -/
def Core.attach (k : Core) (n : Nat) (h : Head) : Core :=
  { k with arch := { k.arch with heads := k.arch.heads.set n h }, windows := k.windows.set n [] }

/-- The record that HATT's operand names: a stream consumer begins at the first record not freed (R169). -/
def Ctx.attachRecord (c : Ctx) (d : Dir) (v : W64) (writer : Bool) : Nat :=
  if d.attr = attrStream ∧ writer = false then (c.run.tapeAt (v.setWidth 20)).freed else (fld v 20 40).toNat

/-- An attachment that stops nothing finds the head detached and its record within the tape. -/
theorem hattPlan_goes {n : Nat} {v : W64} {writer backward : Bool} (h : (hattPlan c n v writer backward).stopped = false) :
    (c.head n).attached = false ∧ ∃ d, c.dir (v.setWidth 20) = some d ∧ c.attachRecord d v writer ≤ d.length ∧
      ∃ a, hattPlan c n v writer backward =
        { glob := fun s => (c.touched (if c.attachRecord d v writer < d.length
              then some (v.setWidth 20, d.extentOf (c.attachRecord d v writer)) else none) s).unwalk c.k.no (some n)
          imm := fun k => k.attach n (Head.attachedAt (v.setWidth 20) d (c.attachRecord d v writer) writer backward)
          attaches := a } := by
  obtain ⟨-, he⟩ := Plan.of_else h rfl rfl
  obtain ⟨-, he⟩ := Plan.of_else h he rfl
  obtain ⟨hatt, he⟩ := Plan.of_else h he rfl
  refine ⟨Bool.eq_false_iff.mpr hatt, ?_⟩
  cases hd : c.dir (v.setWidth 20) with
  | none =>
    simp only [hd] at he
    rw [he] at h
    cases h
  | some d =>
    simp only [hd] at he
    obtain ⟨-, he⟩ := Plan.of_else h he rfl
    have hp : (if d.attr == attrStream && !writer then (c.run.tapeAt (v.setWidth 20)).freed else (fld v 20 40).toNat) =
        c.attachRecord d v writer := by simp [Ctx.attachRecord]
    rw [hp] at he
    obtain ⟨hl, he⟩ := Plan.of_else h he rfl
    rw [he] at h
    obtain ⟨hgo, -, hand⟩ := Plan.and_goes h
    rw [hand, Ctx.enter_goes hgo] at he
    exact ⟨d, rfl, Nat.not_lt.mp hl, _, he⟩

/-- HATT that issues attaches its head. -/
theorem exec_hatt {h : BitVec 3} {r : BitVec 6} {w b : BitVec 1} (hi : Issues s (.hatt h r w b) c) :
    (c.head h.toNat).attached = false ∧ ∃ d, c.dir ((c.x r.toNat).setWidth 20) = some d ∧
      c.attachRecord d (c.x r.toNat) (w == 1) ≤ d.length ∧
      exec (.hatt h r w b) s = .next ((c.headed [r.toNat] []
        (if c.attachRecord d (c.x r.toNat) (w == 1) < d.length
          then some ((c.x r.toNat).setWidth 20, d.extentOf (c.attachRecord d (c.x r.toNat) (w == 1))) else none) [] []
        (fun k => k.attach h.toNat
          (Head.attachedAt ((c.x r.toNat).setWidth 20) d (c.attachRecord d (c.x r.toNat) (w == 1)) (w == 1) (b == 1)))).unwalk
            c.k.no (some h.toNat)) := by
  obtain ⟨hatt, d, hd, hl, a, he⟩ := hattPlan_goes (planOf_goes hi)
  have hp := congrArg (fun p : Plan => { p with reads := [.reg r.toNat], writes := headWrites h.toNat true }) he
  have hx := exec_attaches rfl hi hp rfl rfl rfl rfl rfl (rs := [r.toNat]) rfl (ws := []) rfl
  exact ⟨hatt, d, hd, hl, hx⟩

end Sys2Proof.Machine

namespace Sys2Proof

open Machine

/-- Settles O33: HATT and HDET, the moves by the record they name, HMARK, then the queries. -/
theorem headMoves : Obligations.HeadMoves := by
  unfold Obligations.HeadMoves
  intro s c hd goesTo
  refine ⟨fun h r w b hi => ?hatt, fun h hi => ?hdet, fun h n hi h0 => ?_, fun h n hi h0 => ?_, fun h r hi h0 => ?_, fun h r hi h0 => ?_,
    fun h m hi => ?hmark, fun h m hi => ?hrew, fun h d hi => ?hpos, fun h d m hi => ?hdist, fun h d f hi => ?hlen, fun h d hi => ?hstat⟩
  case hatt =>
    obtain ⟨hatt, d, hd, hl, hx⟩ := exec_hatt hi
    have hp : c.attachRecord d (c.x r.toNat) (w == 1) =
        if d.attr = attrStream ∧ w = 0 then (c.run.tapeAt ((c.x r.toNat).setWidth 20)).freed else (fld (c.x r.toNat) 20 40).toNat := by
      have hw : (w == 1) = false ↔ w = 0 := by clear hx hl hi; revert w; decide
      simp only [Ctx.attachRecord, hw]
    rw [hp] at hl hx
    exact ⟨hatt, d, hd, hl, hx⟩
  case hdet =>
    obtain ⟨d, -, -, hp⟩ := onHead_goes (planOf_goes hi)
    have hx := exec_core rfl hi hp rfl rfl rfl rfl rfl rfl rfl rfl (rs := []) rfl (ws := []) rfl
    exact hx
  · have hn : n.toInt = 0 := by rw [h0]; rfl
    exact exec_core rfl hi (stepPlan_stays (planOf_goes hi) hn) rfl rfl rfl rfl rfl rfl rfl rfl rfl rfl
  · obtain ⟨d, hd, hmin, hmax, hp⟩ := stepPlan_moves (planOf_goes hi) (fun h => h0 (BitVec.toInt_inj.mp h))
    exact ⟨d, hd, hmin, hmax, exec_movePlan rfl hi hp⟩
  · have hn : (c.x r.toNat).toInt = 0 := by rw [h0]; rfl
    have hp := congrArg (fun p : Plan => { p with reads := [.reg r.toNat] }) (stepPlan_stays (planOf_goes hi) hn)
    exact exec_core rfl hi hp rfl rfl rfl rfl rfl rfl rfl rfl rfl rfl
  · obtain ⟨d, hd, hmin, hmax, hp⟩ := stepPlan_moves (planOf_goes hi) (fun h => h0 (BitVec.toInt_inj.mp h))
    exact ⟨d, hd, hmin, hmax, exec_movePlan rfl hi (congrArg (fun p : Plan => { p with reads := [.reg r.toNat] }) hp)⟩
  case hmark =>
    obtain ⟨d, -, -, hp⟩ := onHead_goes (planOf_goes hi)
    have hx := exec_core rfl hi hp rfl rfl rfl rfl rfl rfl rfl rfl (rs := []) rfl (ws := []) rfl
    exact hx
  case hrew =>
    obtain ⟨p, hm, hstays, hmoves⟩ := planHrew_goes (planOf_goes hi)
    refine ⟨p, hm, fun hp => exec_core rfl hi (hstays hp) rfl rfl rfl rfl rfl rfl rfl rfl rfl rfl, fun hp => ?_⟩
    obtain ⟨d, hd, hmin, hmax, hp⟩ := hmoves hp
    exact ⟨d, hd, hmin, hmax, exec_movePlan rfl hi hp⟩
  case hpos =>
    obtain ⟨e, v, -, hv, hx⟩ := exec_query rfl hi (show planHpos h d c = queryPlan .. from rfl)
    rw [hx, ← Option.some.inj hv]
  case hdist =>
    obtain ⟨e, v, -, hv, hx⟩ := exec_query rfl hi (show planHdist h d m c = queryPlan .. from rfl)
    obtain ⟨p, hm, rfl⟩ := Option.map_eq_some_iff.mp hv
    exact ⟨p, hm, hx⟩
  case hlen =>
    obtain ⟨e, v, he, hv, hx⟩ := exec_query rfl hi (show planHlen h d f c = queryPlan .. from rfl)
    refine ⟨e, he, ?_⟩
    rw [hx, ← Option.some.inj hv]
    simp only [hd, Bool.and_eq_true, beq_iff_eq, Bool.or_eq_true]
  case hstat =>
    obtain ⟨-, hp⟩ := Plan.of_else (planOf_goes hi) rfl (by rfl)
    have hx := exec_core rfl hi hp rfl rfl rfl rfl rfl rfl rfl rfl (rs := []) rfl (ws := [d.toNat]) rfl
    exact hx

end Sys2Proof
end

section
/-! PROOFS. Transfers between heads and views (R356, R359 to R361), and the cell instructions (R365 to R369). -/

namespace Sys2Proof.Machine

variable {s : State} {i : Instr} {c : Ctx} {slot : Nat}

/-- A plan that stops nothing, of what `g` adds to a definition that has a stop where `b` holds. -/
theorem Plan.of_else_in (g : Plan → Plan) (hg : ∀ q, (g q).stopped = q.stopped) {p q r : Plan} {b : Prop} {inst : Decidable b}
    (h : p.stopped = false) (hp : p = g (if b then q else r)) (hq : q.stopped = true) : ¬ b ∧ p = g r := by
  by_cases hb : b
  · rw [hp, if_pos hb, hg, hq] at h
    cases h
  · exact ⟨hb, hp.trans (by rw [if_neg hb])⟩

/-! ## Reads (R359, R165) -/

/-- A plan that lands `ps` where it lands nothing of its own. -/
def Plan.landing (ps : List Pend) (q : Plan) : Plan := if q.lands.isEmpty then { q with lands := ps } else q

theorem Plan.landing_stopped (ps : List Pend) (q : Plan) : (q.landing ps).stopped = q.stopped := by
  unfold Plan.landing
  split <;> rfl

/-- A head read in flight to view `v`. -/
def Ctx.readPend (c : Ctx) (n v : Nat) (data : List Byte) (bad : List Nat) (need : Need) : Pend :=
  { c.pend 20 .head (.bytes (viewSegs v (c.k.arch.view v))) 0 (data.take (viewSize v (c.k.arch.view v))) 0 with
    poison := granuleRanges bad, source := some ((c.head n).tape, (c.head n).pos.toNat), need := need }

/-- What a read that finds its record does to its core. -/
def Ctx.readDone (c : Ctx) (n : Nat) (carried : Option Carried) (k : Core) : Core :=
  c.noteRead n (c.head n) (c.head n).pos.toNat (match carried with
    | some x => k.acquire [x]
    | none => k)

/-- What a read that does not find its record waits for. -/
def Ctx.readNeed (c : Ctx) (n v : Nat) : Need :=
  .record n (c.head n).tape (c.head n).pos.toNat (viewSize v (c.k.arch.view v)) c.run.nextWid none
    (c.k.floor (c.head n).tape (c.head n).pos.toNat) none

/-- The part of a read's plan that takes the record. -/
def Ctx.readBody (c : Ctx) (n v : Nat) : Plan :=
  match c.take n (c.head n) (c.head n).pos.toNat with
  | .here data bad carried => { lands := [c.readPend n v data bad .ready], imm := c.readDone n carried }
  | .absent => { lands := [c.readPend n v [] [] (c.readNeed n v)] }
  | .unreleased => { wait := some (.streamEmpty (c.head n).tape) }

/-- The part that moves the head: HRDS steps it. -/
def Ctx.readMove (c : Ctx) (n : Nat) (d : Dir) (step : Bool) : Plan := if step then c.move n d ((c.head n).target 1) else {}

/-- The head behind a read. -/
def Ctx.readMoved (c : Ctx) (n : Nat) (d : Dir) (step : Bool) (k : Core) : Core :=
  if step then k.moveHead n d ((c.head n).target 1).toNat else k

/-- The extent that a read's step enters. -/
def Ctx.readEnters (c : Ctx) (n : Nat) (d : Dir) (step : Bool) : Option (BitVec 20 × Nat) :=
  if step then c.enters (c.head n) d ((c.head n).target 1).toNat else none

theorem Ctx.readMove_goes {n : Nat} {d : Dir} {step : Bool} (h : (c.readMove n d step).stopped = false) :
    c.readMove n d step = { imm := c.readMoved n d step, glob := c.touched (c.readEnters n d step) } := by
  cases step with
  | false => rfl
  | true =>
    obtain ⟨-, -, he⟩ := Ctx.move_goes (c := c) (n := n) (d := d) (p := (c.head n).target 1) h
    exact he

/-- The storage of a record read is there. -/
theorem Ctx.present_goes {t : BitVec 20} {d : Dir} {p : Nat} (h : (c.present t d p).stopped = false) : c.present t d p = {} :=
  (Plan.of_else h rfl rfl).2

/-- A read's plan without what its checks need: the record taken, behind the head's step. -/
def Ctx.readWhole (c : Ctx) (n v : Nat) (d : Dir) (step : Bool) : Plan :=
  Plan.landing [c.readPend n v [] [] .ready]
    { c.readBody n v with
      imm := fun k => (c.readBody n v).imm (c.readMoved n d step k)
      glob := fun s => (c.readBody n v).glob (c.touched (c.readEnters n d step) s) }

/-- A read that stops nothing: the view fits the record, the head is not at the end, and the plan is that of its parts. -/
theorem readPlan_goes {n v : Nat} {step : Bool} (h : (readPlan c n v step).stopped = false) :
    ∃ d, c.dir (c.head n).tape = some d ∧ viewSize v (c.k.arch.view v) ≤ d.recSize ∧ (c.head n).pos.toNat ≠ d.length ∧
      (c.readBody n v).stopped = false ∧
      readPlan c n v step = { c.readWhole n v d step with
        views := [v]
        reads := (c.readWhole n v d step).reads
        writes := (headWrites n step ++ (viewSegs v (c.k.arch.view v)).map (fun s => Loc.bytes s.1 s.2)) ++ (c.readWhole n v d step).writes
        touch := [viewBay v (c.k.arch.view v)] ++ (c.readWhole n v d step).touch } := by
  obtain ⟨d, hd, hgo, hp⟩ := onHead_goes h
  obtain ⟨hsize, hf⟩ := Plan.of_else hgo rfl rfl
  obtain ⟨hend, hf⟩ := Plan.of_else_in (Plan.landing _) (Plan.landing_stopped _) hgo hf rfl
  obtain ⟨-, hf⟩ := Plan.of_else_in (Plan.landing _) (Plan.landing_stopped _) hgo hf rfl
  replace hf : _ = Plan.landing [c.readPend n v [] [] .ready]
    { (c.readMove n d step).and ((c.present (c.head n).tape d (c.head n).pos.toNat).and (c.readBody n v)) with
      imm := fun k => ((c.readMove n d step).and
        ((c.present (c.head n).tape d (c.head n).pos.toNat).and (c.readBody n v))).imm ((c.readMove n d step).imm k) } := hf
  have hall : ((c.readMove n d step).and
      ((c.present (c.head n).tape d (c.head n).pos.toNat).and (c.readBody n v))).stopped = false := by
    rw [hf, Plan.landing_stopped] at hgo
    exact hgo
  obtain ⟨hmove, hrest, he⟩ := Plan.and_goes hall
  obtain ⟨hpresent, hbody, he'⟩ := Plan.and_goes hrest
  rw [he, he', Ctx.present_goes hpresent, Ctx.readMove_goes hmove] at hf
  rw [hf] at hp
  have hne : ¬ (c.head n).pos.toNat = d.length := fun h => hend (by simp [h])
  exact ⟨d, hd, Nat.not_lt.mp hsize, hne, hbody, hp⟩

theorem locRegs_readWrites (n v : Nat) (step : Bool) :
    locRegs (headWrites n step ++ (viewSegs v (c.k.arch.view v)).map (fun s => Loc.bytes s.1 s.2)) = [] := by
  rw [locRegs_append, locRegs_headWrites, locRegs_bytes, List.append_nil]

section
variable {n v : Nat} {d : Dir} {step : Bool}

theorem readWhole_here {data : List Byte} {bad : List Nat} {carried : Option Carried}
    (ht : c.take n (c.head n) (c.head n).pos.toNat = .here data bad carried) :
    c.readWhole n v d step = { lands := [c.readPend n v data bad .ready], imm := fun k => c.readDone n carried (c.readMoved n d step k)
                               glob := c.touched (c.readEnters n d step) } := by
  simp only [Ctx.readWhole, Ctx.readBody, ht]
  rfl

theorem readWhole_absent (ht : c.take n (c.head n) (c.head n).pos.toNat = .absent) :
    c.readWhole n v d step = { lands := [c.readPend n v [] [] (c.readNeed n v)], imm := c.readMoved n d step
                               glob := c.touched (c.readEnters n d step) } := by
  simp only [Ctx.readWhole, Ctx.readBody, ht]
  rfl

theorem readBody_unreleased (ht : c.take n (c.head n) (c.head n).pos.toNat = .unreleased) : (c.readBody n v).stopped = true := by
  simp only [Ctx.readBody, ht]
  rfl

end

/-- A read that issues has its record at hand, or waits in flight for it. -/
theorem exec_read {n v : Nat} {step : Bool} (hs : soloOf i = some (slot, false)) (h : Issues s i c) (hp : planOf i c = readPlan c n v step) :
    ∃ d, c.dir (c.head n).tape = some d ∧ viewSize v (c.k.arch.view v) ≤ d.recSize ∧ (c.head n).pos.toNat ≠ d.length ∧
      (∀ data bad carried, c.take n (c.head n) (c.head n).pos.toNat = .here data bad carried →
        exec i s = .next (c.headed [] [] (c.readEnters n d step) [c.readPend n v data bad .ready] []
          (fun k => c.readDone n carried (c.readMoved n d step k)))) ∧
      (c.take n (c.head n) (c.head n).pos.toNat = .absent →
        exec i s = .next (c.headed [] [] (c.readEnters n d step) [c.readPend n v [] [] (c.readNeed n v)] [] (c.readMoved n d step))) ∧
      c.take n (c.head n) (c.head n).pos.toNat ≠ .unreleased := by
  obtain ⟨d, hd, hsize, hend, hbody, he⟩ := readPlan_goes (hp ▸ planOf_goes h)
  have hw := locRegs_readWrites (c := c) n v step
  refine ⟨d, hd, hsize, hend, fun data bad carried ht => ?_, fun ht => ?_, fun ht => ?_⟩
  · rw [readWhole_here ht] at he
    have hx := exec_headed hs h (hp.trans he) rfl rfl rfl rfl rfl (rs := []) rfl ((congrArg locRegs (List.append_nil _)).trans hw)
    exact hx
  · rw [readWhole_absent ht] at he
    have hx := exec_headed hs h (hp.trans he) rfl rfl rfl rfl rfl (rs := []) rfl ((congrArg locRegs (List.append_nil _)).trans hw)
    exact hx
  · rw [readBody_unreleased ht] at hbody
    cases hbody

/-! ## Writes (R360, R361) -/

/-- A plan that reads view `v` whole. -/
def Ctx.readsView (c : Ctx) (v : Nat) (q : Plan) : Plan :=
  { q with access := [(v, viewBay v (c.k.arch.view v))], ports := 1, poison := viewSegs v (c.k.arch.view v) }

/-- A rewrite that issues holds the view's bytes as the record's. -/
theorem exec_rewrite {n v : Nat} (hs : soloOf i = some (slot, false)) (h : Issues s i c) (hp : planOf i c = writePlan c n v false) :
    ∃ d, c.dir (c.head n).tape = some d ∧ (c.head n).writer = true ∧ (c.head n).isUpdate = true ∧
      exec i s = .next (c.holds [] [] [.rewrite (c.head n).tape (c.head n).pos.toNat (padTo d.recSize (c.k.viewBytes v))]) := by
  obtain ⟨d, hd, hgo, he⟩ := onHead_goes (hp ▸ planOf_goes h)
  obtain ⟨-, hf⟩ := Plan.of_else hgo rfl rfl
  simp only [Bool.false_eq_true, if_false] at hf
  obtain ⟨hw, hf⟩ := Plan.of_else_in (c.readsView v) (fun _ => rfl) hgo hf rfl
  obtain ⟨-, hf⟩ := Plan.of_else_in (c.readsView v) (fun _ => rfl) hgo hf rfl
  rw [hf] at he
  obtain ⟨hwriter, hupdate⟩ : (c.head n).writer = true ∧ (c.head n).isUpdate = true := by simpa using hw
  have hx := exec_held hs h (hp.trans he) rfl rfl rfl rfl rfl rfl rfl (rs := []) ((congrArg locRegs (List.append_nil _)).trans (locRegs_bytes _))
    (ws := []) rfl
  exact ⟨d, hd, hwriter, hupdate, hx⟩

/-- An append that issues stands at the fill count, holds the view's bytes and moves its head to the new fill count (R168). -/
theorem exec_append {n v : Nat} (hs : soloOf i = some (slot, false)) (h : Issues s i c) (hp : planOf i c = writePlan c n v true) :
    ∃ d, c.dir (c.head n).tape = some d ∧ (c.head n).writer = true ∧ (c.head n).pos.toNat = c.k.fillWith c.run (c.head n).tape ∧
      (c.head n).pos.toNat ≠ d.length ∧
      exec i s = .next (c.headed [] [] (c.enters (c.head n) d ((c.head n).pos.toNat + 1)) []
        [if (c.head n).isStream then .streamAppend (c.head n).tape (padTo d.recSize (c.k.viewBytes v))
          else .append (c.head n).tape n (padTo d.recSize (c.k.viewBytes v))]
        (fun k => k.moveHead n d ((c.head n).pos.toNat + 1))) := by
  obtain ⟨d, hd, hgo, he⟩ := onHead_goes (hp ▸ planOf_goes h)
  obtain ⟨-, hf⟩ := Plan.of_else hgo rfl rfl
  simp only [if_true] at hf
  obtain ⟨hw, hf⟩ := Plan.of_else_in (c.readsView v) (fun _ => rfl) hgo hf rfl
  obtain ⟨hfill, hf⟩ := Plan.of_else_in (c.readsView v) (fun _ => rfl) hgo hf rfl
  obtain ⟨-, hf⟩ := Plan.of_else_in (c.readsView v) (fun _ => rfl) hgo hf rfl
  rw [hf] at hgo
  obtain ⟨hmove, -, hand⟩ := Plan.and_goes (p := c.move n d ((c.head n).pos.toNat + 1)) hgo
  obtain ⟨-, -, hm⟩ := Ctx.move_goes hmove
  have hto : ((c.head n).pos.toNat + 1 : Int).toNat = (c.head n).pos.toNat + 1 := rfl
  rw [hto] at hm
  replace hf := hf.trans (congrArg (c.readsView v) hand)
  rw [hm] at hf
  rw [hf] at he
  obtain ⟨hwriter, -⟩ : (c.head n).writer = true ∧ ((c.head n).isAppend = false → (c.head n).isStream = true) := by simpa using hw
  obtain ⟨hat, hend⟩ : (c.head n).pos.toNat = c.k.fillWith c.run (c.head n).tape ∧ ¬ (c.head n).pos.toNat = d.length := by simpa using hfill
  have hx := exec_headed hs h (hp.trans he) rfl rfl rfl rfl rfl (rs := []) ((congrArg locRegs (List.append_nil _)).trans (locRegs_bytes _))
    (ws := []) rfl
  exact ⟨d, hd, hwriter, hat, hend, hx⟩

/-! ## Cells (R365 to R369) -/

/-- The array and the cell that the address word in a register names (Table 18.2). -/
def Ctx.cellArray (c : Ctx) (reg : Nat) : Nat := (fld (c.x reg) 0 12).toNat
def Ctx.cellIndex (c : Ctx) (reg : Nat) : Nat := (fld (c.x reg) 12 20).toNat

/-- A plan on cells that stops nothing finds its array configured, and is what `f` makes of it. -/
theorem onCells_goes {reg : Nat} {base : Plan} {offs : List Nat} {f : Nat → Nat → W64 → Plan} (h : (onCells c reg base offs f).stopped = false) :
    ∃ d, c.cellDesc (c.cellArray reg) = some d ∧ onCells c reg base offs f =
      { base with
        feature := 6
        reads := .reg reg :: base.reads
        bad := (f (c.cellArray reg) (c.cellIndex reg) d).bad
        late := (f (c.cellArray reg) (c.cellIndex reg) d).late
        lands := (f (c.cellArray reg) (c.cellIndex reg) d).lands
        held := (f (c.cellArray reg) (c.cellIndex reg) d).held
        imm := (f (c.cellArray reg) (c.cellIndex reg) d).imm
        writes := base.writes ++ (f (c.cellArray reg) (c.cellIndex reg) d).writes } := by
  obtain ⟨-, he⟩ := Plan.of_else h rfl (by simp [Plan.stopped])
  cases hd : c.cellDesc (c.cellArray reg) with
  | none =>
    rw [show c.cellDesc (fld (c.k.arch.reg reg) 0 12).toNat = none from hd] at he
    rw [he] at h
    simp [Plan.stopped, cellTrap] at h
  | some d =>
    rw [show c.cellDesc (fld (c.k.arch.reg reg) 0 12).toNat = some d from hd] at he
    simp only [Option.getD_some] at he
    split at he
    · rw [he] at h
      simp [Plan.stopped, cellTrap] at h
    · exact ⟨d, rfl, he⟩

/-- CADD holds its contributions. -/
theorem exec_cadd {v : BitVec 5} {r : BitVec 6} {m : BitVec 2} {b : BitVec 1} (h : Issues s (.cadd v r m b) c) :
    exec (.cadd v r m b) s = .next (c.holds [r.toNat] [] [.cellAdd (c.cellArray r.toNat) (c.cellIndex r.toNat) (b == 1)
      ((enabled (c.k.arch.mask m.toNat)).map (fun l => (l, BitVec.ofNat 32 (c.lane v.toNat l))))]) := by
  obtain ⟨d, -, hp⟩ := onCells_goes (planOf_goes h)
  have hx := exec_held rfl h hp rfl rfl rfl rfl rfl rfl rfl (congrArg (r.toNat :: ·) (locRegs_viewLocs _ _)) (ws := []) rfl
  exact hx

/-- CRD puts its cells in flight. -/
theorem exec_crd {v : BitVec 5} {r : BitVec 6} {m : BitVec 2} {b : BitVec 1} (h : Issues s (.crd v r m b) c) :
    ∃ d, c.cellDesc (c.cellArray r.toNat) = some d ∧
      exec (.crd v r m b) s = .next (c.done .fall ((c.begin [r.toNat] []).later
        [{ c.pend 20 .head (.bytes (laneSegs (c.k.arch.view v.toNat) (c.k.arch.mask m.toNat))) 0 [] 0 with
           lock := [vecSeg (c.k.arch.view v.toNat)]
           need := .cells (c.cellArray r.toNat) c.run.nextWid (if c.heldConfig (c.cellArray r.toNat) then some (descFrac d) else none) (b == 1)
             ((enabled (c.k.arch.mask m.toNat)).map (fun l =>
               ownCell c.k.held (c.cellArray r.toNat) (c.cellIndex r.toNat + l) l)) }])) := by
  obtain ⟨d, hd, hp⟩ := onCells_goes (planOf_goes h)
  have hx := exec_lands rfl h hp rfl rfl rfl rfl rfl rfl rfl (rs := [r.toNat]) rfl
    ((congrArg locRegs (List.append_nil _)).trans (locRegs_viewLocs _ _))
  exact ⟨d, hd, hx⟩

/-- CRD.stat puts the array's descriptor in flight. -/
theorem exec_crdStat {r d : BitVec 6} (h : Issues s (.crdStat r d) c) :
    ∃ e, c.cellDesc (c.cellArray r.toNat) = some e ∧
      exec (.crdStat r d) s = .next (c.done .fall ((c.begin [r.toNat] [d.toNat]).later
        [{ c.pend 20 .head (.reg (physReg c.k.arch.rot d.toNat)) e [] 0 with
           need := if c.heldConfig (c.cellArray r.toNat) then .ready else .status (c.cellArray r.toNat) }])) := by
  obtain ⟨e, he, hp⟩ := onCells_goes (planOf_goes h)
  have hx := exec_lands rfl h hp rfl rfl rfl rfl rfl rfl rfl (rs := [r.toNat]) rfl (ws := [d.toNat]) rfl
  exact ⟨e, he, hx⟩

section
variable {r n : BitVec 6} (h : Issues s (.cclr r n) c)
include h

/-- CCLR of some cells holds their clearing. -/
theorem exec_cclr (hn : fld (c.x n.toNat) 0 21 ≠ 0) : exec (.cclr r n) s = .next (c.holds [r.toNat, n.toNat] []
    [.cellClear (c.cellArray r.toNat) (c.cellIndex r.toNat) (fld (c.x n.toNat) 0 21).toNat]) := by
  obtain ⟨-, hp⟩ := Plan.of_else (planOf_goes h) rfl rfl
  replace hp := hp.trans (if_neg fun h0 => hn (BitVec.eq_of_toNat_eq h0))
  obtain ⟨d, -, he⟩ := onCells_goes (hp ▸ planOf_goes h)
  have hx := exec_held rfl h (hp.trans he) rfl rfl rfl rfl rfl rfl rfl (rs := [r.toNat, n.toNat]) rfl (ws := []) rfl
  exact hx

/-- CCLR of no cells does nothing. -/
theorem exec_cclr_none (hn : fld (c.x n.toNat) 0 21 = 0) : exec (.cclr r n) s = .next (c.coreNow [r.toNat, n.toNat] [] id) := by
  obtain ⟨-, hp⟩ := Plan.of_else (planOf_goes h) rfl rfl
  replace hp := hp.trans (if_pos (congrArg BitVec.toNat hn))
  have hx := exec_core rfl h hp rfl rfl rfl rfl rfl rfl rfl rfl (rs := [r.toNat, n.toNat]) rfl (ws := []) rfl
  exact hx

end

/-- CCFG holds the array's descriptor. -/
theorem exec_ccfg {r d : BitVec 6} (h : Issues s (.ccfg r d) c) :
    exec (.ccfg r d) s = .next (c.holds [r.toNat, d.toNat] [] [.cellConfig (c.cellArray r.toNat) (c.x d.toNat)]) := by
  obtain ⟨-, hp⟩ := Plan.of_else (planOf_goes h) rfl rfl
  obtain ⟨-, hp⟩ := Plan.of_else (planOf_goes h) hp rfl
  have hx := exec_held rfl h hp rfl rfl rfl rfl rfl rfl rfl (rs := [r.toNat, d.toNat]) rfl (ws := []) rfl
  exact hx

end Sys2Proof.Machine

namespace Sys2Proof

open Machine

/-- Settles O34: reads by the record that the head has or waits for, then HWR and HAPP. -/
theorem headTransfers : Obligations.HeadTransfers := by
  unfold Obligations.HeadTransfers
  intro s c hd view segs size read
  have hview (v : BitVec 5) (k : BitVec 1) : headView v k = view v k := by simp [headView, view]
  have reads {i : Instr} {h : BitVec 3} {v : Nat} {step : Bool} (hs : soloOf i = some (4, false)) (hi : Issues s i c)
      (hp : planOf i c = readPlan c h.toNat v step) : read i h v step := by
    obtain ⟨d, hd, hsize, hend, hhere, habsent, hun⟩ := exec_read hs hi hp
    refine ⟨d, hd, hsize, hend, ?_⟩
    intro e moved result
    split
    · exact hhere _ _ _ ‹_›
    · exact habsent ‹_›
    · exact hun ‹_›
  refine ⟨fun h v k hi => reads rfl hi (hview v k ▸ rfl), fun h v k hi => reads rfl hi (hview v k ▸ rfl), fun h v k hi => ?_, fun h v k hi => ?_⟩
  · rw [← hview]
    exact exec_rewrite rfl hi rfl
  · obtain ⟨d, hd, hw, hfill, hend, hx⟩ := exec_append rfl hi rfl
    simp only [← hview]
    exact ⟨d, hd, hw, hfill, hend, hx⟩

/-- Settles O35, an instruction at a time. -/
theorem cellInstructions : Obligations.CellInstructions := by
  unfold Obligations.CellInstructions
  intro s c array cell
  exact ⟨fun v r m b h => exec_cadd h, fun v r m b h => exec_crd h, fun r d h => exec_crdStat h, fun r n h hn => exec_cclr h hn,
    fun r n h hn => exec_cclr_none h hn, fun r d h => exec_ccfg h⟩

end Sys2Proof
end

section
/-! PROOFS. The remainder stack: REVON and REVOFF (R339, R340), pushes and pops (R337, R338, R341 to R344, R388). -/

namespace Sys2Proof.Machine

variable {s : State} {i : Instr} {c : Ctx} {slot : Nat}

/-! ## REVON (R339) -/

/-- A plan that breaks no rule behind those of R146, of a definition that does where `b` holds. -/
theorem Plan.of_else_last {p q r : Plan} {b : Prop} {inst : Decidable b} (h : p.badLast = false) (hp : p = if b then q else r)
    (hq : q.badLast = true) : ¬ b ∧ p = r := by
  by_cases hb : b
  · rw [hp, if_pos hb, hq] at h
    cases h
  · exact ⟨hb, hp.trans (if_neg hb)⟩

/-- h7 takes up the remainder tape `t` at record `p`, with nothing spilled. -/
def Core.takeTape (k : Core) (t : BitVec 20) (d : Dir) (p : Nat) : Core :=
  { k with
    arch := { k.arch with
      heads := k.arch.heads.set 7 (Head.attachedAt t d p true false), revOn := true, revBase := BitVec.ofNat 40 p, rsSp := 0 }
    windows := k.windows.set 7 [] }

/-- A REVON that stops nothing finds none in force and h7 detached, and names a record of an update tape of 256-byte records. -/
theorem revonPlan_goes {v : W64} (h : (revonPlan c v).stopped = false) (hlast : (revonPlan c v).badLast = false) :
    c.k.arch.revOn = false ∧ (c.head 7).attached = false ∧ ∃ d, c.dir (v.setWidth 20) = some d ∧ d.attr = attrUpdate ∧ d.recLog = 8 ∧
      (fld v 20 40).toNat ≤ d.length ∧ revonPlan c v =
        { glob := fun s => (c.touched (if (fld v 20 40).toNat < d.length
              then some (v.setWidth 20, d.extentOf (fld v 20 40).toNat) else none) s).unwalk c.k.no (some 7)
          imm := fun k => k.takeTape (v.setWidth 20) d (fld v 20 40).toNat } := by
  obtain ⟨hfree, he⟩ := Plan.of_else_last hlast rfl rfl
  obtain ⟨hoff, hatt⟩ : c.k.arch.revOn = false ∧ (c.head 7).attached = false := by simpa using hfree
  obtain ⟨-, he⟩ := Plan.of_else h he rfl
  refine ⟨hoff, hatt, ?_⟩
  cases hd : c.dir (v.setWidth 20) with
  | none =>
    simp only [hd] at he
    rw [he] at h
    cases h
  | some d =>
    simp only [hd] at he
    obtain ⟨hkind, he⟩ := Plan.of_else h he rfl
    obtain ⟨hattr, hlog⟩ : d.attr = attrUpdate ∧ d.recLog = 8 := by simpa using hkind
    obtain ⟨hl, he⟩ := Plan.of_else h he rfl
    rw [he] at h
    obtain ⟨hgo, -, hand⟩ := Plan.and_goes h
    rw [hand, Ctx.enter_goes hgo] at he
    exact ⟨d, rfl, hattr, hlog, Nat.not_lt.mp hl, he⟩

/-- REVON that issues attaches h7 to the tape. -/
theorem exec_revon {r : BitVec 6} (h : Issues s (.revon r) c) :
    c.k.arch.revOn = false ∧ (c.head 7).attached = false ∧ ∃ d, c.dir ((c.x r.toNat).setWidth 20) = some d ∧ d.attr = attrUpdate ∧
      d.recLog = 8 ∧ (fld (c.x r.toNat) 20 40).toNat ≤ d.length ∧
      exec (.revon r) s = .next ((c.headed [r.toNat] [] (if (fld (c.x r.toNat) 20 40).toNat < d.length
          then some ((c.x r.toNat).setWidth 20, d.extentOf (fld (c.x r.toNat) 20 40).toNat) else none) [] []
        (fun k => k.takeTape ((c.x r.toNat).setWidth 20) d (fld (c.x r.toNat) 20 40).toNat)).unwalk c.k.no (some 7)) := by
  obtain ⟨-, -, hlast, -⟩ := issues_facts h
  obtain ⟨hoff, hatt, d, hd, hattr, hlog, hl, he⟩ := revonPlan_goes (v := c.x r.toNat) (planOf_goes h) hlast
  have hp := congrArg (fun p : Plan => { p with feature := 1, reads := [.reg r.toNat], writes := [.head 7, .sys 0x28] }) he
  have hx := exec_attaches rfl h hp rfl rfl rfl rfl rfl (rs := [r.toNat]) rfl (ws := []) rfl
  exact ⟨hoff, hatt, d, hd, hattr, hlog, hl, hx⟩

/-! ## REVOFF (R340) -/

/-- REVOFF ends REVON on an empty stack. -/
def Core.dropTape (k : Core) : Core :=
  { k with arch := { k.arch with heads := k.arch.heads.set 7 Head.detached, revOn := false }, windows := k.windows.set 7 [] }

/-- What REVOFF's plan is but for what its bundle finds: a rule broken, a trap, or its effect. -/
def revoffShape (last : Bool) (late : Option (Nat × W64 × W64)) (f : Core → Core) : Plan :=
  { feature := 1, writes := [.head 7, .sys 0x28], badLast := last, late := late, imm := f }

theorem planRevoff_off (hon : c.k.arch.revOn = false) : planRevoff c = revoffShape true none id := by
  simp [planRevoff, revoffPlan, hon, revoffShape]

theorem planRevoff_deep (hon : c.k.arch.revOn = true) (hd : c.k.arch.rsDepth.toNat ≠ 0) : planRevoff c =
    revoffShape false (some (0x0A, 0, BitVec.ofNat 64 (leVal (c.rsBytes (c.k.arch.rsDepth.toNat - 4) 1)))) id := by
  have hd' : (c.k.arch.rsDepth.toNat != 0) = true := by simpa using hd
  simp only [planRevoff, revoffPlan, hon, hd', Bool.not_true, Bool.false_eq_true, if_false, if_true]
  rfl

theorem planRevoff_empty (hon : c.k.arch.revOn = true) (hd : c.k.arch.rsDepth.toNat = 0) : planRevoff c =
    revoffShape false none Core.dropTape := by
  have hd' : (c.k.arch.rsDepth.toNat != 0) = false := by simp [hd]
  simp only [planRevoff, revoffPlan, hon, hd', Bool.not_true, Bool.false_eq_true, if_false]
  rfl

/-- A REVOFF that issues finds REVON in force and the stack empty. -/
theorem revoff_facts (h : Issues s .revoff c) : c.k.arch.revOn = true ∧ c.k.arch.rsDepth.toNat = 0 := by
  obtain ⟨-, hlate, hlast, -⟩ := issues_facts h
  cases hon : c.k.arch.revOn with
  | false =>
    rw [show planOf .revoff c = _ from planRevoff_off hon] at hlast
    cases hlast
  | true =>
    refine ⟨rfl, ?_⟩
    by_contra hd
    rw [show planOf .revoff c = _ from planRevoff_deep hon hd] at hlate
    cases hlate

theorem exec_revoff (h : Issues s .revoff c) : exec .revoff s = .next (c.coreNow [] [] Core.dropTape) := by
  obtain ⟨hon, hd⟩ := revoff_facts h
  exact exec_core rfl h (planRevoff_empty hon hd) rfl rfl rfl rfl rfl rfl rfl rfl rfl rfl

/-- The word of REVOFF is the one that SB decodes as REVOFF. -/
theorem decodeSlot_revoff_iff (w : W32) : decodeSlot 1 w = .ok .revoff ↔ w = 0x69000000 := by
  constructor
  · intro h
    obtain ⟨hc, -, -⟩ := decodeSlot_eq_ok_iff.1 h
    exact (List.cons.inj (encode_of_decodeClass hc)).1.symm
  · rintro rfl
    rfl

/-! ## REVOFF's checks (R270): nothing locks what it writes -/

section
variable (hh : c.h = soloHdr 1 false) (hf : c.feats.getLsbD 1 = true) {last : Bool} {late : Option (Nat × W64 × W64)} {f : Core → Core}
include hh hf

/-- Nothing before its own rules stops a REVOFF (R270). -/
theorem check_revoffShape : c.check [(1, revoffShape last late f)] = match c.lateTrap 1 (revoffShape last late f) with
    | some t => some (.inl t)
    | none => if 256 < c.k.undo.length ∨ 128 < c.k.held.length
        then some (.inl (c.info 0x0E 1 (BitVec.ofNat 64 c.k.undo.length) (BitVec.ofNat 64 c.k.nextts))) else none := by
  have htree := tree_free (fun i hi => hh ▸ solo_test (slot := 1) (by decide) false i hi) c.k
  have hsl : hdrSl c.h = false := hh ▸ solo_sl (by decide) false
  simp only [Ctx.check, htree]
  unfold revoffShape
  cases ht : c.lateTrap 1 { feature := 1, writes := [.head 7, .sys 0x28], badLast := last, late := late, imm := f } with
  | some t =>
    simp [Ctx.tokenFreeze, firstSlot, Core.tokenWait, hf, dupSlot, dupWrites, bayClash, lockSlot, Core.planHits, Core.lockHits, firstHit,
      poisonInfo_nil, ht]
  | none =>
    simp [Ctx.tokenFreeze, firstSlot, Core.tokenWait, hf, dupSlot, dupWrites, bayClash, lockSlot, Core.planHits, Core.lockHits, firstHit,
      poisonInfo_nil, ht, hsl, spanSlot, Core.linesNeeded, Core.blocksNeeded, segLines, unionNat, Config.undoLines, Config.withhold, Ctx.waits]
    by_cases hover : 256 < c.k.undo.length ∨ 128 < c.k.held.length
    · simp only [if_pos hover]
    · simp only [if_neg hover]

end

/-- A rule of its own that REVOFF breaks begins the rollback of its trap. -/
theorem exec_revoff_trap (hr : Ready s .revoff c) (hf : c.feats.getLsbD 1 = true) {last : Bool} {late : Option (Nat × W64 × W64)}
    (hp : planRevoff c = revoffShape last late id) {t : TrapInfo} (ht : c.lateTrap 1 (revoffShape last late id) = some t)
    (hd : ∀ n d u, c.k.stage ≠ .deciding n d u) (hy : c.k.stage ≠ .syncIssue) :
    exec .revoff s = .next ((s.setCore { c.k with stage := .trapping t c.k.arch.dictBase s.pcyc }).passTurn c.k.no) := by
  have hslot : c.slot = 1 := ctx_slot hr.1
  have hk : c.check [(c.slot, planOf .revoff c)] = some (.inl t) := by
    rw [hslot, show planOf .revoff c = _ from hp, check_revoffShape (ctx_h hr.1) hf, ht]
  rw [exec_trap rfl hr hk hy]
  unfold State.trap
  split
  · exact absurd ‹_› (hd _ _ _)
  · exact absurd ‹_› (hd _ _ _)
  · rfl

/-- Nothing stops a REVOFF on an empty stack, of a core that is within its undo log and its withhold buffer. -/
theorem revoff_issues (hr : Ready s .revoff c) (hf : c.feats.getLsbD 1 = true) (hon : c.k.arch.revOn = true)
    (hd : c.k.arch.rsDepth.toNat = 0) (hu : c.k.undo.length ≤ 256) (hh : c.k.held.length ≤ 128) : Issues s .revoff c := by
  have hslot : c.slot = 1 := ctx_slot hr.1
  refine ⟨hr, ?_⟩
  rw [hslot, show planOf .revoff c = _ from planRevoff_empty hon hd, check_revoffShape (ctx_h hr.1) hf]
  exact if_neg (not_or.mpr ⟨Nat.not_lt.mpr hu, Nat.not_lt.mpr hh⟩)

end Sys2Proof.Machine

namespace Sys2Proof

open Machine

/-- Settles O30, by what REVON and REVOFF find when they issue. -/
theorem remainderTape : Obligations.RemainderTape := by
  unfold Obligations.RemainderTape
  intro s c
  refine ⟨fun r h => exec_revon h, fun h => ?_⟩
  obtain ⟨hon, hd⟩ := revoff_facts h
  exact ⟨hon, BitVec.eq_of_toNat_eq hd, exec_revoff h⟩

/-- Settles O40: the word, then REVOFF where it issues, at a depth other than 0, without REVON, and where nothing stops it. -/
theorem revoffRule : Obligations.RevoffRule := by
  unfold Obligations.RevoffRule
  refine ⟨decodeSlot_revoff_iff, rfl, fun s c => ⟨exec_revoff, fun hr hf hon hd hrun => ?_, fun hr hf hon hrun => ?_, ?_⟩⟩
  · exact exec_revoff_trap hr hf (planRevoff_deep hon hd) rfl hrun.1 hrun.2
  · exact exec_revoff_trap hr hf (planRevoff_off hon) rfl hrun.1 hrun.2
  · exact fun hr hf hon hd hu hh => revoff_issues hr hf hon hd hu hh

end Sys2Proof
end

section
/-! PROOFS. The remainder stack's pushes and pops (R337, R338, R341 to R344, R388): what a push and a pop that stop nothing come to, and
the instructions by their plans. -/

namespace Sys2Proof.Machine

variable {s : State} {i : Instr} {c : Ctx} {slot : Nat}

/-! ## The issue of a stack operation -/

/-- A plan that overwrites ring blocks and keeps no pipe occupied. -/
theorem onCore_stacked (p : Plan) (slot : Nat) (k : Core) (hb : p.beats = 0) :
    p.onCore slot k = p.imm ((k.stacked p.lands p.blocks).hold p.held) := by
  simp only [Plan.onCore, Core.issueSlot, hb, Nat.lt_irrefl, if_false, Bool.false_eq_true]
  rfl

/-- A stack operation: results in flight, ring blocks logged, its effect on the core, and the records that it moves. -/
theorem exec_stacked {p : Plan} {ws : List Nat} (hs : soloOf i = some (slot, false)) (h : Issues s i c) (hp : planOf i c = p)
    (hc : p.ctl = .fall) (ha : p.after = .go) (hb : p.beats = 0) (hh : p.held = []) (h1 : locRegs p.reads = [])
    (h2 : locRegs p.writes = ws) :
    exec i s = .next (p.glob (c.st.setCore (c.advance .fall (p.imm ((c.begin [] ws).stacked p.lands p.blocks))))).endTurn := by
  subst h2 hp
  rw [exec_issues hs h (syncOf_none _ _ _ (by rw [ha]; nofun)), onCore_stacked _ _ _ hb, ctlOf_solo, hc, ite_self, hh, hold_nil, h1]

/-- A transfer that stalls nothing: what the core itself sent to the blocks' records has arrived before it. -/
theorem transfer_goes {blocks : List Nat} (h : (c.transfer blocks).stopped = false) : c.transfer blocks = { glob := c.landFirst blocks } := by
  unfold Ctx.transfer at h ⊢
  dsimp only at h ⊢
  split at h
  · exact if_pos ‹_›
  · cases h

theorem transfer_bad (blocks : List Nat) : (c.transfer blocks).bad = false := by
  unfold Ctx.transfer
  dsimp only
  split <;> rfl

theorem Plan.and_bad {p q : Plan} (hp : p.bad = false) (hq : q.bad = false) : (p.and q).bad = false := by
  unfold Plan.and
  split
  · exact hp
  · exact hq

/-! ## Pushes (R337, R338, R388) -/

/-- An entry: the payload and its trailer. -/
def entryBytes (payload : List Byte) (tag : Nat) : List Byte := payload ++ leBytes 4 (256 * payload.length + tag)

/-- How many blocks the push of an entry with `len` payload bytes spills. -/
def Arch.spills (a : Arch) (len : Nat) : Nat := (a.rsDepth.toNat + len + 4 - a.rsSp - a.rsCapacity + 255) / 256

/-- The blocks that the push spills. -/
def Arch.spilled (a : Arch) (len : Nat) : List Nat := (List.range (a.spills len)).map (fun i => a.rsSp / 256 + i)

/-- Stack byte `x` behind the push. -/
def Core.pushedByte (k : Core) (data : List Byte) (x : Nat) : Byte :=
  if k.arch.rsDepth.toNat ≤ x then data.getD (x - k.arch.rsDepth.toNat) 0 else k.ring.read (x % 32768)

/-- The push on the core: the entry enters the ring at the depth, the depth and sp rise. -/
def Ctx.pushedCore (c : Ctx) (payload : List Byte) (tag : Nat) (k : Core) : Core :=
  { k with
    ring := ringPut k.ring c.k.arch.rsDepth.toNat (entryBytes payload tag)
    arch := { k.arch.withSp (c.k.arch.rsSp + 256 * c.k.arch.spills payload.length) with
      rsDepth := BitVec.ofNat 32 (c.k.arch.rsDepth.toNat + payload.length + 4) } }

/-- The push beyond the core: the spilled blocks go to their records, behind what the core itself sent there before. -/
def Ctx.spillAll (c : Ctx) (payload : List Byte) (tag : Nat) (s : State) : State :=
  (c.k.arch.spilled payload.length).foldl (fun s b => s.spill c.k.no b
      ((List.range 256).map (fun i => c.k.pushedByte (entryBytes payload tag) (256 * b + i))))
    (c.landFirst (c.k.arch.spilled payload.length) s)

/-- The plan of a push that stops nothing. -/
def Ctx.pushes (c : Ctx) (payload : List Byte) (tag : Nat) : Plan :=
  { writes := [.sys 0x28]
    blocks := c.k.rsBlocks c.k.arch.rsDepth.toNat (payload.length + 4)
    imm := c.pushedCore payload tag
    glob := c.spillAll payload tag }

/-- A push by its parts. -/
theorem pushed_parts (ws : List Nat) (ps : List Pend) (payload : List Byte) (tag : Nat) (f : Core → Core) :
    c.pushed ws ps payload tag f = (c.spillAll payload tag (c.st.setCore (c.advance .fall (f (c.pushedCore payload tag
      ((c.begin [] ws).stacked ps (c.pushes payload tag).blocks)))))).endTurn := rfl

theorem pushPlan_goes {payload : List Byte} {tag : Nat} (h : (pushPlan c payload tag).stopped = false) :
    pushPlan c payload tag = c.pushes payload tag := by
  obtain ⟨-, he⟩ := Plan.of_else h rfl rfl
  rw [he] at h
  obtain ⟨hgo, -, hand⟩ := Plan.and_goes h
  rw [hand, transfer_goes hgo] at he
  rw [he]
  unfold Ctx.pushes
  congr 1
  funext s
  exact List.foldl_map

theorem pushPlan_bad (payload : List Byte) (tag : Nat) : (pushPlan c payload tag).bad = false := by
  show (ite _ _ _ : Plan).bad = false
  split
  · rfl
  · exact Plan.and_bad (transfer_bad _) rfl

/-! ## Pops (R338, R344) -/

theorem fillTo_inl {x : Nat} {p : Plan} (h : c.fillTo x = .inl p) : p.bad = false ∧ p.late.isSome = true := by
  unfold Ctx.fillTo at h
  dsimp only at h
  split at h
  · cases h
  · split at h
    · cases h
    · split at h
      · cases h
        exact ⟨rfl, rfl⟩
      · cases h
        exact ⟨rfl, rfl⟩

theorem fillTo_inr {x sp : Nat} (h : c.fillTo x = .inr sp) :
    sp = if c.k.arch.rsSp ≤ x then c.k.arch.rsSp else c.k.arch.rsSp - 256 * ((c.k.arch.rsSp - x + 255) / 256) := by
  unfold Ctx.fillTo at h
  dsimp only at h
  split at h
  · exact (Sum.inr.inj h).symm.trans (if_pos ‹_›).symm
  · rw [if_neg ‹_›]
    split at h
    · exact (Sum.inr.inj h).symm
    · split at h
      · cases h
      · cases h

/-- A fill that stops stops the pop that needs it. -/
theorem fillTo_stops {x : Nat} {p : Plan} (h : c.fillTo x = .inl p) (ws : List Loc) : ({ p with writes := ws } : Plan).stopped = true := by
  obtain ⟨-, hl⟩ := fillTo_inl h
  simp [Plan.stopped, hl]

/-- The top entry's trailer. -/
def Ctx.topTrailer (c : Ctx) : Nat := leVal (c.rsBytes (c.k.arch.rsDepth.toNat - 4) 4)

/-- sp behind the pop of `len` payload bytes. -/
def Arch.poppedSp (a : Arch) (len : Nat) : Nat :=
  if a.rsSp ≤ a.rsDepth.toNat - 4 - len then a.rsSp else a.rsSp - 256 * ((a.rsSp - (a.rsDepth.toNat - 4 - len) + 255) / 256)

/-- The blocks that the pop fills. -/
def Arch.filled (a : Arch) (len : Nat) : List Nat :=
  (List.range ((a.rsSp - a.poppedSp len) / 256)).map (fun i => a.poppedSp len / 256 + i)

/-- The pop on the core: filled bytes enter the ring, the depth and sp fall. -/
def Ctx.poppedCore (c : Ctx) (len : Nat) (k : Core) : Core :=
  { k with
    ring := ringPut k.ring (c.k.arch.poppedSp len) (c.rsBytes (c.k.arch.poppedSp len) (c.k.arch.rsSp - c.k.arch.poppedSp len))
    arch := { k.arch.withSp (c.k.arch.poppedSp len) with rsDepth := BitVec.ofNat 32 (c.k.arch.rsDepth.toNat - 4 - len) } }

/-- The plan of a pop that stops nothing, ahead of `p`. -/
def Ctx.pops (c : Ctx) (len : Nat) (p : Plan) : Plan :=
  { p with
    writes := [.sys 0x28] ++ p.writes
    blocks := c.k.rsBlocks (c.k.arch.poppedSp len) (c.k.arch.rsSp - c.k.arch.poppedSp len)
    imm := fun k => p.imm (c.poppedCore len k)
    glob := fun s => p.glob (c.landFirst (c.k.arch.filled len) s) }

/-- A pop by its parts. -/
theorem popped_parts (ws : List Nat) (ps : List Pend) (len : Nat) (f : Core → Core) :
    c.popped ws ps len f = (c.landFirst (c.k.arch.filled len) (c.st.setCore (c.advance .fall (f (c.poppedCore len
      ((c.begin [] ws).stacked ps (c.pops len {}).blocks)))))).endTurn := rfl

/-- A pop that stops nothing finds an entry with its tag and its length. -/
theorem popPlan_goes {len tag : Nat} {f : List Byte → Plan} (h : (popPlan c len tag f).stopped = false) :
    0 < c.k.arch.rsDepth.toNat ∧ c.topTrailer % 256 = tag ∧ c.topTrailer / 256 % 65536 = len ∧
      popPlan c len tag f = c.pops len (f (c.rsBytes (c.k.arch.rsDepth.toNat - 4 - len) len)) := by
  obtain ⟨hd, he⟩ := Plan.of_else h rfl rfl
  cases hf : c.fillTo (c.k.arch.rsDepth.toNat - 4) with
  | inl p =>
    simp only [hf] at he
    rw [he, fillTo_stops hf] at h
    cases h
  | inr _ =>
    simp only [hf] at he
    obtain ⟨hm, he⟩ := Plan.of_else h he rfl
    obtain ⟨htag, hlen⟩ : c.topTrailer % 256 = tag ∧ c.topTrailer / 256 % 65536 = len := by simpa [Ctx.topTrailer] using hm
    refine ⟨Nat.pos_of_ne_zero hd, htag, hlen, ?_⟩
    cases hg : c.fillTo (c.k.arch.rsDepth.toNat - 4 - len) with
    | inl p =>
      simp only [hg] at he
      rw [he, fillTo_stops hg] at h
      cases h
    | inr sp =>
      simp only [hg] at he
      obtain rfl : sp = c.k.arch.poppedSp len := fillTo_inr hg
      rw [he] at h
      obtain ⟨hgo, -, hand⟩ := Plan.and_goes
        (p := c.transfer (c.k.arch.filled len)) (q := f (c.rsBytes (c.k.arch.rsDepth.toNat - 4 - len) len)) h
      rw [transfer_goes hgo] at hand
      rw [he, show (List.range _).map _ = c.k.arch.filled len from rfl, transfer_goes hgo, hand]
      rfl

theorem popPlan_bad {len tag : Nat} {f : List Byte → Plan} (hf : ∀ bs, (f bs).bad = false) : (popPlan c len tag f).bad = false := by
  unfold popPlan
  dsimp only
  split
  · rfl
  split
  · next hx => exact (fillTo_inl hx).1
  split
  · rfl
  split
  · next hx => exact (fillTo_inl hx).1
  · exact Plan.and_bad (transfer_bad _) (hf _)

/-! ## The vector instructions (R342 to R344) -/

/-- A view written, and the depth: no register. -/
theorem locRegs_stackWrites (a : Arch) (d : Nat) : locRegs (viewLocs a d ++ [.sys 0x28]) = [] := by
  rw [locRegs_append, locRegs_viewLocs]
  rfl

/-- A push instruction that issues: the lanes' results in flight, the remainders and their trailer pushed. -/
theorem exec_revPush {opcode l d f sh nb : Nat} {srcs : List Nat} {bad : Bool} {res : Nat → Int × Nat}
    (hs : soloOf i = some (slot, false)) (h : Issues s i c) (hp : planOf i c = revPush c opcode l d srcs f sh nb bad res) :
    exec i s = .next (c.pushed [] [vecPend c l .vector d (BitVec.allOnes 64)
        (((List.range 64).map res).map (fun r => laneWord (c.k.arch.fmt f) (bitsOf (fmtWidth (c.k.arch.fmt f)) r.1)))
        (flagIf (((List.range 64).map res).any (fun r => outside (c.k.arch.fmt f) r.1)) fOvf)]
      (packRems nb (((List.range 64).map res).map Prod.snd)) (pushTag opcode (c.k.arch.fmt f) sh) id) := by
  have hgo := planOf_goes h
  rw [hp] at hgo
  obtain ⟨-, he⟩ := Plan.of_else hgo rfl rfl
  obtain ⟨-, hlate, hwait⟩ := Plan.stopped_iff.mp (he ▸ hgo)
  have hpush := pushPlan_goes (Plan.stopped_iff.mpr ⟨pushPlan_bad _ _, hlate, hwait⟩)
  rw [hpush] at he
  have hx := exec_stacked hs h (hp.trans he) rfl rfl rfl rfl (vecPlan_reads c l srcs [] [] d (BitVec.allOnes 64) [] 0) (locRegs_stackWrites _ _)
  rw [pushed_parts]
  exact hx

/-- An undo instruction that issues pops the entry of its push and puts the restored lanes in flight. -/
theorem exec_revPop {opcode l d f sh nb out : Nat} {srcs : List Nat} {bad flags : Bool} {res : Nat → Nat → Int}
    (hs : soloOf i = some (slot, false)) (h : Issues s i c) (hp : planOf i c = revPop c (opcode + 1) l d srcs f sh nb bad out flags res) :
    let rems := unpackRems nb (c.rsBytes (c.k.arch.rsDepth.toNat - 4 - 8 * nb) (8 * nb))
    let rs := (List.range 64).map (fun n => res n (rems.getD n 0))
    0 < c.k.arch.rsDepth.toNat ∧ c.topTrailer % 256 = pushTag opcode (c.k.arch.fmt f) sh ∧ c.topTrailer / 256 % 65536 = 8 * nb ∧
      exec i s = .next (c.popped [] [vecPend c l .vector d (BitVec.allOnes 64)
        (rs.map (fun r => laneWord out (bitsOf (fmtWidth out) r))) (flagIf (flags && rs.any (outside out)) fOvf)] (8 * nb) id) := by
  have hgo := planOf_goes h
  rw [hp] at hgo
  obtain ⟨-, he⟩ := Plan.of_else hgo rfl rfl
  obtain ⟨-, hlate, hwait⟩ := Plan.stopped_iff.mp (he ▸ hgo)
  obtain ⟨hd, htag, hlen, hpop⟩ := popPlan_goes (Plan.stopped_iff.mpr ⟨popPlan_bad fun _ => rfl, hlate, hwait⟩)
  rw [hpop] at he
  have hx := exec_stacked hs h (hp.trans he) rfl rfl rfl rfl (vecPlan_reads c l srcs [] [] d (BitVec.allOnes 64) [] 0) (locRegs_stackWrites _ _)
  refine ⟨hd, htag, hlen, ?_⟩
  rw [popped_parts]
  exact hx

/-! ## RSTAG (R341) -/

/-- A push or pop of RSTAG, which writes `v` to its register. -/
def Plan.tagged (p : Plan) (d : Nat) (v : W64) : Plan :=
  { p with feature := 1, writes := [.sys 0x28, .reg d], imm := fun k => (p.imm k).putReg d v }

theorem Plan.tagged_stopped (p : Plan) (d : Nat) (v : W64) : (p.tagged d v).stopped = p.stopped := rfl

section
variable {d : BitVec 6} {m : BitVec 4}

theorem planRstag_push : planOf (.rstag d 0 m) c =
    (pushPlan c [] (0xF0 + m.toNat)).tagged d.toNat (BitVec.ofNat 64 (c.k.arch.rsDepth.toNat + 4)) := rfl

theorem planRstag_pop : planOf (.rstag d 1 m) c =
    (popPlan c 0 (0xF0 + m.toNat) (fun _ => {})).tagged d.toNat (BitVec.ofNat 64 (c.k.arch.rsDepth.toNat - 4)) := rfl

/-- RSTAG's push that issues adds an empty entry and writes the new depth. -/
theorem exec_rstag_push (h : Issues s (.rstag d 0 m) c) : exec (.rstag d 0 m) s = .next (c.pushed [d.toNat] [] [] (0xF0 + m.toNat)
    (fun k => k.putReg d.toNat (BitVec.ofNat 64 (c.k.arch.rsDepth.toNat + 4)))) := by
  have hgo := planOf_goes h
  rw [planRstag_push, Plan.tagged_stopped] at hgo
  have hp := planRstag_push (c := c) (d := d) (m := m)
  rw [pushPlan_goes hgo] at hp
  have hx := exec_stacked rfl h hp rfl rfl rfl rfl rfl (ws := [d.toNat]) rfl
  rw [pushed_parts]
  exact hx

/-- RSTAG's pop that issues finds an empty entry with its tag and writes the new depth. -/
theorem exec_rstag_pop (h : Issues s (.rstag d 1 m) c) :
    0 < c.k.arch.rsDepth.toNat ∧ c.topTrailer % 256 = 0xF0 + m.toNat ∧ c.topTrailer / 256 % 65536 = 0 ∧
      exec (.rstag d 1 m) s = .next (c.popped [d.toNat] [] 0
        (fun k => k.putReg d.toNat (BitVec.ofNat 64 (c.k.arch.rsDepth.toNat - 4)))) := by
  have hgo := planOf_goes h
  rw [planRstag_pop, Plan.tagged_stopped] at hgo
  obtain ⟨hd, htag, hlen, hpop⟩ := popPlan_goes hgo
  have hp := planRstag_pop (c := c) (d := d) (m := m)
  rw [hpop] at hp
  have hx := exec_stacked rfl h hp rfl rfl rfl rfl rfl (ws := [d.toNat]) rfl
  refine ⟨hd, htag, hlen, ?_⟩
  rw [popped_parts]
  exact hx

end

end Sys2Proof.Machine

namespace Sys2Proof

open Machine

/-- Settles O28: the four push instructions by their shape, then RSTAG's push. -/
theorem stackPushes : Obligations.StackPushes := by
  unfold Obligations.StackPushes
  intro s c fmt ints push
  refine ⟨fun d x y sh f h => ?_, fun d x sh f h => ?_, fun d x sh f h => ?_, fun d x sh f h => ?_, fun d m h => exec_rstag_push h⟩
  · exact exec_revPush rfl h (show planRmulq d x y sh f c = _ by unfold planRmulq; rfl)
  · exact exec_revPush rfl h (show planRshr d x sh f c = _ by unfold planRshr; rfl)
  · exact exec_revPush rfl h (show planRleak d x sh f c = _ by unfold planRleak; rfl)
  · exact exec_revPush rfl h (show planRnarw d x sh f c = _ by unfold planRnarw; rfl)

/-- Settles O29: the four undo instructions by their shape, then RSTAG's pop. -/
theorem stackPops : Obligations.StackPops := by
  unfold Obligations.StackPops
  intro s c fmt ints depth top pops
  refine ⟨fun d x y sh f h => ?_, fun d x sh f h => ?_, fun d x sh f h => ?_, fun d x sh f h => ?_, fun d m h => exec_rstag_pop h⟩
  · have hp := exec_revPop (opcode := 0x84) rfl h (show planUnmulq d x y sh f c = _ by unfold planUnmulq; rfl)
    exact hp
  · have hp := exec_revPop (opcode := 0x86) rfl h (show planUnshr d x sh f c = _ by unfold planUnshr; rfl)
    exact hp
  · have hp := exec_revPop (opcode := 0x88) rfl h (show planUnleak d x sh f c = _ by unfold planUnleak; rfl)
    exact hp
  · have hp := exec_revPop (opcode := 0x8A) rfl h (show planUnnarw d x sh f c = _ by unfold planUnnarw; rfl)
    exact hp

end Sys2Proof
end

section
/-! PROOFS. The matrix array (R324 to R335): what its instructions put in flight and the bays they hold. -/

namespace Sys2Proof.Machine

variable {s : State} {i : Instr} {c : Ctx} {slot : Nat}

/-! ## Beats, bays and locations -/

/-- An instruction of the array takes 8 beats at least (R262). -/
theorem beatsOf_pos (n : BitVec 5) : 0 < beatsOf n := by
  unfold beatsOf
  split
  · decide
  · next hn =>
    have hpos : n.toNat ≠ 0 := fun h => hn (BitVec.eq_of_toNat_eq h)
    omega

theorem eraseDups_pair_same (x : Nat) : [x, x].eraseDups = [x] := by simp [List.eraseDups_cons]

theorem eraseDups_pair {x y : Nat} (h : x ≠ y) : [x, y].eraseDups = [x, y] := by simp [List.eraseDups_cons, h.symm]

theorem eraseDups_eraseDups_pair (x y : Nat) : [x, y].eraseDups.eraseDups = [x, y].eraseDups := by
  by_cases h : x = y
  · subst h
    rw [eraseDups_pair_same]
    rfl
  · rw [eraseDups_pair h, eraseDups_pair h]

theorem locRegs_tileLocs (a : Arch) (t : Nat) : locRegs (tileLocs a t) = [] := locRegs_bytes _

theorem locRegs_accLocs (a : Arch) (vs : List Nat) : locRegs (vs.flatMap (accLocs a)) = [] := by
  induction vs with
  | nil => rfl
  | cons v vs ih => exact ih

/-! ## The issue of a matrix instruction -/

/-- Results of the array, with an effect on the core. -/
theorem exec_array {p : Plan} {n : BitVec 5} {rs ws : List Nat} (hs : soloOf i = some (3, false)) (h : Issues s i c) (hp : planOf i c = p)
    (hb : p.beats = beatsOf n) (hg : p.glob = id) (ha : p.after = .go) (hr : p.blocks = []) (hh : p.held = []) (h1 : locRegs p.reads = rs)
    (h2 : locRegs p.writes = ws) :
    exec i s = .next (c.done .fall (p.imm (((c.begin rs ws).later p.lands).occupy 3 (beatsOf n) p.holds))) := by
  subst h1 h2 hp
  rw [exec_done hs h (syncOf_none _ _ _ (by rw [ha]; nofun)) hg, onCore_busy _ _ _ (hb ▸ beatsOf_pos n) hr, ctlOf_solo,
    if_neg (by decide), hh, hold_nil, hb]

/-- Results of the array alone. -/
theorem exec_matrix {p : Plan} {n : BitVec 5} {rs ws bays : List Nat} (hs : soloOf i = some (3, false)) (h : Issues s i c)
    (hp : planOf i c = p) (hb : p.beats = beatsOf n) (hi : p.imm = id) (hg : p.glob = id) (ha : p.after = .go) (hr : p.blocks = [])
    (hh : p.held = []) (h1 : locRegs p.reads = rs) (h2 : locRegs p.writes = ws) (h3 : p.holds = bays) :
    exec i s = .next (c.matrixLater (beatsOf n) bays rs ws p.lands) := by
  subst h3
  rw [exec_array hs h hp hb hg ha hr hh h1 h2, hi]
  rfl

/-! ## The instructions (R332 to R335) -/

/-- A whole accumulator, `b` + 13 virtual cycles later. -/
def Ctx.wholePend (c : Ctx) (v : Nat) (n : BitVec 5) (ws : List Nat) (st : W32) (clear : Bool) : Pend :=
  accPend c .matrix v (beatsOf n) [accSeg c.k.arch v] (accBytes ws) st clear

theorem exec_mzero {v : BitVec 3} {n : BitVec 5} {z : BitVec 1} (h : Issues s (.mzero v n z) c) : exec (.mzero v n z) s =
    .next (c.matrixLater (beatsOf n) [accBay (c.k.arch.view (48 + v.toNat))] [] []
      [c.wholePend (48 + v.toNat) n (List.replicate 4096 0) 0 (z == 1)]) := by
  have hw : locRegs (planMzero v n z c).writes = [] := by
    show locRegs (ite _ _ _) = _
    split <;> rfl
  have hx := exec_matrix rfl h (p := planMzero v n z c) rfl rfl rfl rfl rfl rfl rfl rfl hw rfl
  exact hx

/-- A plan that stops nothing, of a definition that stops at an illegal operand: it is the other one. -/
theorem Plan.of_legal {p q r : Plan} (h : p.stopped = false) (hp : p = if q.bad then q else r) : p = r := by
  by_cases hb : q.bad = true
  · rw [hp, if_pos hb] at h
    obtain ⟨hbad, -, -⟩ := Plan.stopped_iff.mp h
    rw [hb] at hbad
    cases hbad
  · exact hp.trans (if_neg hb)

section
variable {v w : BitVec 3} {t f : BitVec 4} {n : BitVec 5} {x : BitVec 1}

theorem exec_mload (h : Issues s (.mload v t n f x) c) :
    let tv := 32 + t.toNat
    let ws := tileF32 c.k.gallery (tileOf (c.k.arch.view tv)) (c.k.arch.fmt f.toNat) (x == 1)
    exec (.mload v t n f x) s = .next (c.matrixLater (beatsOf n)
      ([viewBay tv (c.k.arch.view tv)] ++ [accBay (c.k.arch.view (48 + v.toNat))]).eraseDups [] []
      [c.wholePend (48 + v.toNat) n ((List.range 4096).map (fun e => (ws.getD (e / 64) []).getD (e % 64) 0)) 0 false]) := by
  have hp := Plan.of_legal (planOf_goes h) rfl
  have hx := exec_matrix rfl h hp rfl rfl rfl rfl rfl rfl (rs := [])
    ((congrArg locRegs (List.append_nil _)).trans (locRegs_tileLocs _ _)) (ws := []) rfl rfl
  exact hx

theorem exec_maddt (h : Issues s (.maddt v t n f x) c) :
    let tv := 32 + t.toNat
    let sh := asRead (tileOf (c.k.arch.view tv)) (x == 1)
    let rs := (tileF32 c.k.gallery (tileOf (c.k.arch.view tv)) (c.k.arch.fmt f.toNat) (x == 1)).zipIdx.map (fun r =>
      r.1.zipIdx.map (fun y => addRne ((c.k.acc (48 + v.toNat)).getD (64 * r.2 + y.2) 0) y.1))
    exec (.maddt v t n f x) s = .next (c.matrixLater (beatsOf n)
      ([viewBay tv (c.k.arch.view tv)] ++ [accBay (c.k.arch.view (48 + v.toNat))]).eraseDups [] []
      [accPend c .matrix (48 + v.toNat) (beatsOf n) (rowsSegs c.k.arch (48 + v.toNat) sh.1 sh.2)
        (rs.flatMap (fun row => row.flatMap (fun r => leBytes 4 r.code)))
        (statusBits (rs.foldl (fun f row => row.foldl (fun f r => f ||| r.flags) f) 0)) false]) := by
  have hp := Plan.of_legal (planOf_goes h) rfl
  have hreads : locRegs (tileLocs c.k.arch (32 + t.toNat) ++ accLocs c.k.arch (48 + v.toNat)) = [] := by
    rw [locRegs_append, locRegs_tileLocs]
    rfl
  have hwrites (segs : List (Nat × Nat)) : locRegs (segs.map (fun s => Loc.bytes s.1 s.2) ++ [.status (48 + v.toNat)]) = [] := by
    rw [locRegs_append, locRegs_bytes]
    rfl
  have hx := exec_matrix rfl h hp rfl rfl rfl rfl rfl rfl hreads (hwrites _) rfl
  exact hx

theorem exec_mscl {r : BitVec 6} {st : BitVec 1} (h : Issues s (.mscl v r n st) c) :
    let rs := (c.k.acc (48 + v.toNat)).map (scaleRes (st == 1) (fpReg (c.x r.toNat)))
    exec (.mscl v r n st) s = .next (c.matrixLater (beatsOf n) [accBay (c.k.arch.view (48 + v.toNat))] [r.toNat] []
      [c.wholePend (48 + v.toNat) n (rs.map FRes.code) (statusBits (rs.foldl (fun f r => f ||| r.flags) 0)) false]) := by
  have hx := exec_matrix rfl h (p := planMscl v r n st c) rfl rfl rfl rfl rfl rfl rfl
    (congrArg (r.toNat :: ·) (locRegs_accLocs _ _)) (ws := []) rfl rfl
  exact hx

theorem exec_mxpose (h : Issues s (.mxpose v w n) c) : exec (.mxpose v w n) s =
    .next (c.matrixLater (beatsOf n) [accBay (c.k.arch.view (48 + v.toNat)), accBay (c.k.arch.view (48 + w.toNat))].eraseDups [] []
      [c.wholePend (48 + v.toNat) n ((List.range 4096).map (fun e => (c.k.acc (48 + w.toNat)).getD (64 * (e % 64) + e / 64) 0))
        (accStatus (c.k.arch.view (48 + w.toNat))) false]) := by
  have hx := exec_matrix rfl h (p := planMxpose v w n c) rfl rfl rfl rfl rfl rfl rfl (locRegs_accLocs _ _) (ws := []) rfl
    (eraseDups_eraseDups_pair _ _)
  exact hx

theorem exec_mstat {d : BitVec 6} (h : Issues s (.mstat v d n) c) : exec (.mstat v d n) s = .next (c.matrixLater (beatsOf n) [] [] [d.toNat]
    [c.pend (beatsOf n + 13) .matrix (.reg (physReg c.k.arch.rot d.toNat)) ((accStatus (c.k.arch.view (48 + v.toNat))).setWidth 64) [] 0]) := by
  have hx := exec_matrix rfl h (p := planMstat v d n c) rfl rfl rfl rfl rfl rfl rfl (rs := []) rfl (ws := [d.toNat]) rfl rfl
  exact hx

theorem exec_mdrain {st z : BitVec 1} (h : Issues s (.mdrain v t n f x st z) c) :
    let tT := tileOf (c.k.arch.view (32 + t.toNat))
    let rs := (List.range tT.rows).map (fun i => (List.range tT.cols).map (fun j =>
      convert (c.k.arch.fmt f.toNat) .rne (st == 1) (f32 ((c.k.acc (48 + v.toNat)).getD (if x = 1 then 64 * j + i else 64 * i + j) 0))))
    let fl : Flags := rs.foldl (fun f row => row.foldl (fun f r => f ||| r.flags) f)
      ((fld (accStatus (c.k.arch.view (48 + v.toNat))) 0 3).setWidth 6)
    exec (.mdrain v t n f x st z) s = .next (c.matrixLater (beatsOf n) [tT.bay, accBay (c.k.arch.view (48 + v.toNat))] [] []
      [{ c.pend (beatsOf n + 13) .matrix (.bytes tT.rowSegs) 0 (rs.flatMap (fun row => row.flatMap (fun r => leBytes (tT.width / 8) r.code))) fl with
         accView := if z = 1 then some (48 + v.toNat) else none, accClear := z == 1 }]) := by
  have hp := Plan.of_legal (planOf_goes h) rfl
  have hwrites (segs : List (Nat × Nat)) :
      locRegs (segs.map (fun s => Loc.bytes s.1 s.2) ++ (if (z == 1) = true then [.status (48 + v.toNat)] else [])) = [] := by
    rw [locRegs_append, locRegs_bytes]
    split <;> rfl
  have hx := exec_matrix rfl h hp rfl rfl rfl rfl rfl rfl (rs := []) rfl (hwrites _) rfl
  simp only [beq_iff_eq] at hx
  exact hx

/-! ## MSWAP (R333) -/

theorem locRegs_swapWrites (v w : Nat) (n : BitVec 5) : locRegs (swapPlan c v w n).writes = [] := by
  show locRegs (.bytes _ _ :: (ite _ _ _) ++ ite _ _ _) = []
  split <;> split <;> rfl

/-- An MSWAP that issues, by the bays and the results of its plan. -/
theorem exec_mswap {bays : List Nat} {ps : List Pend} (h : Issues s (.mswap v w n) c)
    (hb : [accBay (c.k.arch.view (48 + v.toNat)), accBay (c.k.arch.view (48 + w.toNat))].eraseDups = bays)
    (hl : (swapPlan c (48 + v.toNat) (48 + w.toNat) n).lands = ps) :
    exec (.mswap v w n) s = .next (c.matrixLater (beatsOf n) bays [] [] ps) := by
  subst hb hl
  exact exec_matrix rfl h (p := swapPlan c (48 + v.toNat) (48 + w.toNat) n) rfl rfl rfl rfl rfl rfl rfl (locRegs_accLocs _ _)
    (locRegs_swapWrites _ _ _) (eraseDups_eraseDups_pair _ _)

/-- Accumulators on two bays change places with their status words. -/
theorem swapPlan_apart {v w : Nat} (hb : accBay (c.k.arch.view v) ≠ accBay (c.k.arch.view w)) : (swapPlan c v w n).lands =
    [accPend c .matrix v (beatsOf n) [accSeg c.k.arch v] (c.k.bytes [accSeg c.k.arch w]) (accStatus (c.k.arch.view w)) true,
     accPend c .matrix w (beatsOf n) [accSeg c.k.arch w] (c.k.bytes [accSeg c.k.arch v]) (accStatus (c.k.arch.view v)) true] := by
  have hvw : v ≠ w := fun e => hb (e ▸ rfl)
  simp [swapPlan, hb, hvw, bne_iff_ne.mpr hvw]

/-- On one bay only the status words change places. -/
theorem swapPlan_together {v w : Nat} (hb : accBay (c.k.arch.view v) = accBay (c.k.arch.view w)) (hvw : v ≠ w) : (swapPlan c v w n).lands =
    [accPend c .matrix v (beatsOf n) [accSeg c.k.arch v] (c.k.bytes [accSeg c.k.arch v]) (accStatus (c.k.arch.view w)) true,
     accPend c .matrix w (beatsOf n) [] [] (accStatus (c.k.arch.view v)) true] := by
  simp [swapPlan, hb, hvw, bne_iff_ne.mpr hvw]

/-- With itself an accumulator changes nothing. -/
theorem swapPlan_self (v : Nat) : (swapPlan c v v n).lands =
    [accPend c .matrix v (beatsOf n) [accSeg c.k.arch v] (c.k.bytes [accSeg c.k.arch v]) 0 false] := by
  simp [swapPlan, accPend]

end

end Sys2Proof.Machine

namespace Sys2Proof

open Machine

/-- Settles O31, an instruction at a time; MSWAP by the bays of its views. -/
theorem matrixResults : Obligations.MatrixResults := by
  unfold Obligations.MatrixResults
  intro s c a acc bay whole flagsOf
  have number {v w : BitVec 3} (h : v ≠ w) : acc v ≠ acc w := fun e => h (BitVec.eq_of_toNat_eq (Nat.add_left_cancel e))
  refine ⟨fun v n z h => exec_mzero h, fun v t n f x h => exec_mload h, fun v t n f x h => exec_maddt h, fun v r n st h => exec_mscl h,
    fun v w n h => exec_mxpose h, fun v w n h hb => exec_mswap h (eraseDups_pair hb) (swapPlan_apart hb), fun v w n h hb hvw => ?_,
    fun v n h => exec_mswap h (eraseDups_pair_same _) (swapPlan_self _), fun v d n h => exec_mstat h,
    fun v t n f x st z h => exec_mdrain h⟩
  exact exec_mswap h ((congrArg (fun y => [bay v, y].eraseDups) hb.symm).trans (eraseDups_pair_same _)) (swapPlan_together hb (number hvw))

end Sys2Proof
end

section
/-! PROOFS. MMA and MMAS (R324, R327 to R331): the products that a multiply puts in flight, over tiles and over streamed records. -/

namespace Sys2Proof.Machine

variable {s : State} {i : Instr} {c : Ctx} {slot : Nat}

/-- The product that a multiply puts in flight: rows by columns over `kk` indices, onto the accumulator's words or onto zeros. -/
def Ctx.productPend (c : Ctx) (v : Nat) (n : BitVec 5) (ints clear : Bool) (kk : Nat) (as bs : List (List Val)) : Pend :=
  let rs := multiply ints kk as bs (if clear then List.replicate 4096 0 else c.k.chained v)
  let fl := rs.foldl (fun f row => row.foldl (fun f r => f ||| r.flags) f) 0
  if clear then accPend c .mma v (beatsOf n) [accSeg c.k.arch v]
    (accBytes ((List.range 4096).map (fun e => ((rs.getD (e / 64) []).getD (e % 64) ⟨0, 0⟩).code))) (statusBits fl) false
  else accPend c .mma v (beatsOf n) (rowsSegs c.k.arch v as.length bs.length)
    (rs.flatMap (fun row => row.flatMap (fun r => leBytes 4 r.code))) (statusBits fl) false

/-- The core behind a multiply: what is in flight of its accumulator is due at the same cycle (R330). -/
def Ctx.chainedDue (c : Ctx) (v : Nat) (n : BitVec 5) (k : Core) : Core :=
  { k with pend := k.pend.map (fun x => if x.accView == some v then { x with due := c.k.vc + beatsOf n + 13 } else x) }

theorem locRegs_mmaReads (a : Arch) (ls : List Loc) (v : Nat) (h : locRegs ls = []) : locRegs (ls ++ accLocs a v) = [] := by
  rw [locRegs_append, h]
  rfl

theorem locRegs_mmaWrites (segs : List (Nat × Nat)) (v : Nat) : locRegs (segs.map (fun s => Loc.bytes s.1 s.2) ++ [.status v]) = [] := by
  rw [locRegs_append, locRegs_bytes]
  rfl

theorem mmaBody_lands {base : Plan} {v kk : Nat} {n : BitVec 5} {ints clear : Bool} {as bs : List (List Val)} :
    (mmaBody c base v (beatsOf n) kk ints clear as bs).lands = [c.productPend v n ints clear kk as bs] := by
  simp only [mmaBody, Ctx.productPend]
  cases clear
  · simp only [Bool.false_eq_true, if_false]
  · simp only [if_true]

theorem mmaBody_imm {base : Plan} {v kk : Nat} {n : BitVec 5} {ints clear : Bool} {as bs : List (List Val)} :
    (mmaBody c base v (beatsOf n) kk ints clear as bs).imm = fun k => c.chainedDue v n (base.imm k) := rfl

/-- A multiply that issues. -/
theorem exec_multiply {base : Plan} {v kk : Nat} {n : BitVec 5} {ints clear : Bool} {as bs : List (List Val)}
    (hs : soloOf i = some (3, false)) (h : Issues s i c) (hp : planOf i c = mmaBody c base v (beatsOf n) kk ints clear as bs)
    (hb : base.beats = beatsOf n) (hg : base.glob = id) (ha : base.after = .go) (hr : base.blocks = []) (hh : base.held = [])
    (h1 : locRegs base.reads = []) :
    exec i s = .next (c.done .fall (c.chainedDue v n (base.imm (((c.begin [] []).later [c.productPend v n ints clear kk as bs]).occupy 3
      (beatsOf n) base.holds)))) := by
  have hx := exec_array hs h hp hb hg ha hr hh (locRegs_mmaReads _ _ _ h1) (locRegs_mmaWrites _ _)
  rw [mmaBody_lands, mmaBody_imm] at hx
  exact hx

/-! ## Tiles (R327, R328) -/

/-- The bays that a multiply of two tiles holds. -/
def Ctx.mmaBays (c : Ctx) (v : Nat) (ts : List Nat) : List Nat :=
  (ts.map (fun t => viewBay t (c.k.arch.view t)) ++ [accBay (c.k.arch.view v)]).eraseDups

theorem exec_mmaTiles {v ta tb f : Nat} {n : BitVec 5} {xa xb clear scaled : Bool} (hs : soloOf i = some (3, false)) (h : Issues s i c)
    (hp : planOf i c = mmaTiles c v ta tb n f xa xb clear scaled) :
    let a := c.k.arch
    let tA := tileOf (a.view (32 + ta))
    let tB := tileOf (a.view (32 + tb))
    exec i s = .next (c.done .fall (c.chainedDue v n (((c.begin [] []).later [c.productPend v n (isIntCode (a.fmt f)) clear (asRead tA xa).2
      (tileVals a c.k.gallery tA (a.fmt f) xa scaled) (columns (asRead tB xb).2 (tileVals a c.k.gallery tB (a.fmt f) xb scaled))]).occupy 3
      (beatsOf n) (c.mmaBays v [32 + ta, 32 + tb].eraseDups)))) := by
  have he := Plan.of_legal (planOf_goes h) hp
  have hreads : locRegs (tileLocs c.k.arch (32 + ta) ++ tileLocs c.k.arch (32 + tb)) = [] := by
    rw [locRegs_append, locRegs_tileLocs, locRegs_tileLocs]
    rfl
  have hx := exec_multiply hs h he rfl rfl rfl rfl rfl hreads
  exact hx

/-! ## Streamed records (R329) -/

/-- What stops the reading of the records is a trap or a freeze. -/
theorem streamRows_stops {n : Nat} {h : Head} {d : Dir} {p : Plan} : ∀ {l : List Nat} {rows : List (List Byte)} {cs : List Carried},
    streamRows c n h d l rows cs = .inl p → (p.late.isSome || p.wait.isSome) = true
  | [], _, _, hp => by cases hp
  | i :: rest, rows, cs, hp => by
    unfold streamRows at hp
    dsimp only at hp
    split at hp
    · cases hp
      rfl
    split at hp
    · next hq =>
      cases hp
      rw [hq, Bool.true_or]
    split at hp
    · split at hp
      · cases hp
        rfl
      · exact streamRows_stops hp
    · cases hp
      rfl
    · cases hp
      rfl

/-- Records of the stream are read: what their releases carry is acquired, and each read is noted. -/
def Ctx.streamed (c : Ctx) (n : Nat) (cs : List Carried) (k : Core) : Core :=
  (List.range 64).foldl (fun k (i : Nat) => c.noteRead n (c.head n) ((c.head n).target i).toNat k) (k.acquire cs)

/-- The plan of a streamed multiply's operand B, ahead of its records. -/
def Ctx.streamBase (c : Ctx) (v hn tb : Nat) (n : BitVec 5) (f : Nat) (xb : Bool) : Plan :=
  let a := c.k.arch
  let tB := tileOf (a.view tb)
  { mxPlan c [tb] [v] (beatsOf n) (mmaNeed (a.fmt f) (asRead tB xb).1)
      (badFmt [1, 2, 3, 4, 6, 9] (a.fmt f) || fmtWidth (a.fmt f) != tB.width || badColumn tB xb || c.noHead hn) with
    reads := tileLocs a tb, poison := viewSegs tb (a.view tb) }

/-- A streamed multiply that stops nothing has its tape and its 64 records. -/
theorem mmaStreamed_goes {v hn tb f : Nat} {n : BitVec 5} {xb clear : Bool} (h : (mmaStreamed c v hn tb n f xb clear).stopped = false) :
    let a := c.k.arch
    let tB := tileOf (a.view (32 + tb))
    let sb := asRead tB xb
    ∃ d rows cs, c.dir (c.head hn).tape = some d ∧ streamRows c hn (c.head hn) d (List.range 64) [] [] = .inr (rows, cs) ∧
      mmaStreamed c v hn tb n f xb clear = mmaBody c { c.streamBase v hn (32 + tb) n f xb with imm := c.streamed hn cs } v (beatsOf n) sb.1
        (isIntCode (a.fmt f)) clear (rows.map (recordVals (a.fmt f) sb.1)) (columns sb.2 (tileVals a c.k.gallery tB (a.fmt f) xb false)) := by
  intro a tB sb
  have he := Plan.of_legal h rfl
  cases hd : c.dir (c.head hn).tape with
  | none =>
    simp only [hd] at he
    rw [he] at h
    simp [Plan.stopped] at h
  | some d =>
    simp only [hd] at he
    obtain ⟨-, he⟩ := Plan.of_else h he (by simp [Plan.stopped])
    obtain ⟨-, he⟩ := Plan.of_else h he (by simp [Plan.stopped, tapeTrap])
    cases hr : streamRows c hn (c.head hn) d (List.range 64) [] [] with
    | inl p =>
      have hp := streamRows_stops hr
      simp only [hr] at he
      rw [he, Plan.stopped, Bool.or_assoc] at h
      obtain ⟨-, hno⟩ := Bool.or_eq_false_iff.mp h
      exact absurd hp (Bool.eq_false_iff.mp hno)
    | inr r =>
      simp only [hr] at he
      exact ⟨d, r.1, r.2, rfl, hr, he⟩

theorem exec_mmaStream {v h : BitVec 3} {tb f : BitVec 4} {n : BitVec 5} {y z : BitVec 1} (hi : Issues s (.mmaStream v h tb n f y z) c) :
    let a := c.k.arch
    let tB := tileOf (a.view (32 + tb.toNat))
    let sb := asRead tB (y == 1)
    ∃ d rows cs, c.dir (c.head h.toNat).tape = some d ∧
      streamRows c h.toNat (c.head h.toNat) d (List.range 64) [] [] = .inr (rows, cs) ∧
      exec (.mmaStream v h tb n f y z) s = .next (c.done .fall (c.chainedDue (48 + v.toNat) n (c.streamed h.toNat cs
        (((c.begin [] []).later [c.productPend (48 + v.toNat) n (isIntCode (a.fmt f.toNat)) (z == 1) sb.1
          (rows.map (recordVals (a.fmt f.toNat) sb.1)) (columns sb.2 (tileVals a c.k.gallery tB (a.fmt f.toNat) (y == 1) false))]).occupy 3
          (beatsOf n) (c.mmaBays (48 + v.toNat) [32 + tb.toNat]))))) := by
  obtain ⟨d, rows, cs, hd, hr, he⟩ := mmaStreamed_goes (planOf_goes hi)
  have hx := exec_multiply rfl hi he rfl rfl rfl rfl rfl (locRegs_tileLocs _ _)
  exact ⟨d, rows, cs, hd, hr, hx⟩

end Sys2Proof.Machine

namespace Sys2Proof

open Machine

/-- Settles O32: the tiles by their shape, then the streamed records. -/
theorem matrixProducts : Obligations.MatrixProducts := by
  unfold Obligations.MatrixProducts
  intro s c a acc bay result product tiles
  exact ⟨fun v ta tb n f x y z h => exec_mmaTiles rfl h rfl, fun v ta tb n f x y z h => exec_mmaTiles rfl h rfl,
    fun v h tb n f y z hi => exec_mmaStream hi⟩

end Sys2Proof
end

section
/-! PROOFS. MSTAT (R335): its field of the destination, the landing of its status word, and the lock of one in flight (R121, R141). -/

namespace Sys2Proof.Machine

variable {s : State} {c : Ctx} {slot : Nat} {v : BitVec 3} {d : BitVec 6} {n : BitVec 5}

/-- An MSTAT's word holds its register in bits 20 to 15. -/
theorem mstat_register {w : W32} (h : decodeSlot 3 w = .ok (.mstat v d n)) : fld w 15 6 = d := by
  obtain ⟨hc, -, -⟩ := decodeSlot_eq_ok_iff.1 h
  have hf := append_eq_iff_fld.1 (List.singleton_inj.1 (encode_of_decodeClass hc))
  simp only [↓fld_eq_append_iff, Nat.reduceAdd] at hf
  simp only [hf]

/-! ## The landing of a register result -/

theorem physReg_eq_zero {rot n : Nat} : physReg rot n = 0 ↔ n = 0 := by
  unfold physReg
  split <;> omega

/-- A register result without flags writes its place and nothing else; s0 discards it. -/
theorem land_reg (a : Arch) {p : Pend} {r : Nat} (hd : p.dest = .reg r) (hv : p.accView = none) (hf : p.flags = 0) (hb : p.absorb = 0) :
    a.land p = { a.setPlace r p.val with fstat := fstatSet (a.setPlace r p.val).fstat 0 } := by
  simp [Arch.land, hd, hv, hf, hb]

theorem setPlace_x (a : Arch) (p : Nat) (v : W64) : (a.setPlace p v).x = if p = 0 then a.x else a.x.set p v := by
  unfold Arch.setPlace
  split <;> rfl

theorem setPlace_rot (a : Arch) (p : Nat) (v : W64) : (a.setPlace p v).rot = a.rot := by
  unfold Arch.setPlace
  split <;> rfl

/-- The register named `n`, other than s0, reads what was written to its place. -/
theorem reg_setPlace (a : Arch) {n : Nat} (hn : n ≠ 0) (hlen : physReg a.rot n < a.x.length) (v : W64) :
    (a.setPlace (physReg a.rot n) v).reg n = v := by
  unfold Arch.reg
  rw [if_neg hn, setPlace_rot, setPlace_x, if_neg (mt physReg_eq_zero.mp hn), List.getD_eq_getElem _ _ (by rwa [List.length_set]),
    List.getElem_set_self]

/-! ## Locks (R121, R270) -/

theorem firstHit_isSome : ∀ {hs : List Hit}, hs ≠ [] → (firstHit hs).isSome = true
  | [], h => absurd rfl h
  | _ :: _, _ => by
    unfold firstHit
    split
    · rfl
    · split <;> rfl

/-- A slot alone that fits, reads no pending token and meets a lock traps 0x05. -/
theorem check_locked {p : Plan} (hs : slot ∈ soloSlots) (hh : c.h = soloHdr slot false) (hslot : c.slot = slot) (hf : p.fits c)
    (htok : c.k.tokenWait p = none) (hhits : c.k.planHits slot p (heldBays [(slot, p)]) [] ≠ []) :
    ∃ hit, c.check [(slot, p)] = some (.inl (c.info 0x05 slot (BitVec.ofNat 64 slot) (hitInfo hit))) := by
  obtain ⟨hit, hhit⟩ := Option.isSome_iff_exists.mp (firstHit_isSome hhits)
  refine ⟨hit, ?_⟩
  have htree := tree_free (fun i hi => hh ▸ solo_test hs false i hi) c.k
  have hfreeze : c.tokenFreeze [(slot, p)] = none := by simp [Ctx.tokenFreeze, firstSlot, htok]
  have hviews : p.views.find? (fun v => !c.k.arch.configured v) = none := by
    simp only [List.find?_eq_none]
    intro v hv
    simp [hf.views v hv]
  have hports : (slot < 7 && hdrPort c.h slot < p.ports : Bool) = false := by
    have := hf.ports
    rw [hslot] at this
    simpa using this
  have hdup : dupSlot [(slot, p)] = none := by simp [dupSlot, dupWrites]
  have hbays : bayClash [(slot, p)] [] = none := by simp [bayClash, hf.bays]
  have hlock : lockSlot c.k (heldBays [(slot, p)]) [(slot, p)] [] = some (slot, hit) := by simp only [lockSlot, hhit]
  unfold Ctx.check
  simp only [hfreeze, firstSlot, List.findSome?_cons, List.findSome?_nil, hf.feature, if_true, Option.map_none, hviews, hf.legal, hports,
    Bool.or_self, Bool.false_eq_true, if_false, hdup, hbays, Option.orElse_none, htree, hlock]
  rfl

/-- A result in flight that changes the accumulator's status word locks it for MSTAT. -/
theorem mstat_locked {x : Pend} {held : List Nat} (hx : x ∈ c.k.pend) (ha : x.accView = some (48 + v.toNat)) :
    c.k.planHits 3 (planMstat v d n c) held [] ≠ [] := by
  have hany : c.k.pend.any (fun y => y.accView == some (48 + v.toNat) && (none : Option Nat) != some (48 + v.toNat)) = true :=
    List.any_eq_true.mpr ⟨x, hx, by simp [ha]⟩
  have hhit : c.k.lockHits none false (.status (48 + v.toNat)) = [(5, 48 + v.toNat, 48 + v.toNat)] := if_pos hany
  have hread : (5, 48 + v.toNat, 48 + v.toNat) ∈ (planMstat v d n c).reads.flatMap (c.k.lockHits (planMstat v d n c).chain false) :=
    List.mem_flatMap.mpr ⟨.status (48 + v.toNat), List.mem_singleton.mpr rfl, hhit ▸ List.mem_singleton.mpr rfl⟩
  refine List.ne_nil_of_mem (a := (5, 48 + v.toNat, 48 + v.toNat)) ?_
  unfold Core.planHits
  simp only [List.mem_append]
  exact .inl (.inl (.inl (.inl hread)))

/-- MSTAT of a status word that a result in flight changes takes trap 0x05. -/
theorem exec_mstat_locked {x : Pend} (hr : Ready s (.mstat v d n) c) (hy : c.k.stage ≠ .syncIssue) (hf : (planOf (.mstat v d n) c).fits c)
    (hx : x ∈ c.k.pend) (ha : x.accView = some (48 + v.toNat)) :
    ∃ info1, exec (.mstat v d n) s = .next (s.trap c.k (c.info 0x05 3 3 info1)) := by
  have hslot : c.slot = 3 := ctx_slot hr.1
  have htok : c.k.tokenWait (planMstat v d n c) = none := rfl
  obtain ⟨hit, hk⟩ := check_locked (slot := 3) (by decide) (ctx_h hr.1) hslot hf htok (mstat_locked hx ha)
  have hcheck : c.check [(c.slot, planOf (.mstat v d n) c)] = _ := (congrArg (fun i => c.check [(i, planMstat v d n c)]) hslot).trans hk
  exact ⟨hitInfo hit, exec_trap rfl hr hcheck hy⟩

end Sys2Proof.Machine

namespace Sys2Proof

open Machine

/-- Settles O42: the register's field, MSTAT where it issues, its landing, and its trap. -/
theorem mstatRule : Obligations.MstatRule := by
  unfold Obligations.MstatRule
  refine ⟨fun w v d n h => mstat_register h, fun s c v d n => ⟨rfl, exec_mstat, fun a hrot => ?_, fun x hr hy hf hx ha =>
    exec_mstat_locked hr hy hf hx ha⟩⟩
  rw [← hrot, land_reg a rfl rfl rfl rfl]
  have hzero : d.toNat = 0 ↔ d = 0 := ⟨fun h => BitVec.eq_of_toNat_eq h, fun h => h ▸ rfl⟩
  exact ⟨(setPlace_x _ _ _).trans (if_congr (physReg_eq_zero.trans hzero) rfl rfl), setPlace_rot _ _ _,
    fun hd hlen => reg_setPlace a (mt hzero.mp hd) hlen _⟩

end Sys2Proof
end

section
/-! PROOFS. A slot instruction alone that breaks no rule of its own: on a core with nothing in flight it issues (R121, R122, R126, R144,
R146, R148, R150), and a result in flight that locks what it names traps it (R121, R122, R141). -/

namespace Sys2Proof.Machine

/-! ## Nothing in flight -/

/-- A slot whose undo lines and held entries find room is within its span; a checkpoint bundle's own writes take no undo line. -/
theorem spanSlot_of_room {k : Core} {p : Plan} (ck : Bool) (slot : Nat)
    (hu : k.undo.length + (unionNat (k.linesNeeded p ++ (k.blocksNeeded p).map (fun b => 1024 + b)) []).length ≤ Config.undoLines)
    (hh : k.held.length + p.held.length ≤ Config.withhold) : spanSlot k ck [(slot, p)] [] k.held.length = none := by
  have hlines : k.undo.length +
      (unionNat (if ck then [] else k.linesNeeded p ++ (k.blocksNeeded p).map (fun b => 1024 + b)) []).length ≤ Config.undoLines := by
    cases ck
    · exact hu
    · exact Nat.le_trans (Nat.le_add_right _ _) hu
  simp [spanSlot, hlines, hh]

/-! ## A result in flight -/

section
variable {k : Core} {x : Pend} (hx : x ∈ k.pend)
include hx

/-- A register in which a result lands is locked, s0 apart. -/
theorem lockHits_reg {n : Nat} (hn : n ≠ 0) (hd : x.dest = .reg (physReg k.arch.rot n)) (ch : Option Nat) (w : Bool) :
    k.lockHits ch w (.reg n) ≠ [] := by
  have hany : k.pend.any (fun x => x.dest == .reg (physReg k.arch.rot n)) = true := List.any_eq_true.mpr ⟨x, hx, by simp [hd]⟩
  simp [Core.lockHits, hn, hany]

/-- Gallery bytes that a result locks are locked for whoever chains to no result. -/
theorem lockHits_bytes {o n : Nat} {r : Nat × Nat} (hr : r ∈ x.lock) (hm : rangesMeet (o, n) r = true) (w : Bool) :
    k.lockHits none w (.bytes o n) ≠ [] := by
  have hmem : (4, max o r.1, max o r.1) ∈ k.lockHits none w (.bytes o n) :=
    List.mem_flatMap.mpr ⟨x, hx, List.mem_map.mpr ⟨r, List.mem_filter.mpr ⟨hr, hm⟩, rfl⟩⟩
  exact List.ne_nil_of_mem hmem

/-- So is the status word of the accumulator that a result changes. -/
theorem lockHits_status {v : Nat} (hv : x.accView = some v) (w : Bool) : k.lockHits none w (.status v) ≠ [] := by
  have hany : k.pend.any (fun x => x.accView == some v && (none : Option Nat) != some v) = true :=
    List.any_eq_true.mpr ⟨x, hx, by simp [hv]⟩
  simp only [Core.lockHits, hany, if_true]
  exact List.cons_ne_nil _ _

end

/-- A locked location among those that a slot reads or writes is a hit of the slot. -/
theorem planHits_of_lock {k : Core} {p : Plan} {l : Loc} (hl : l ∈ p.reads ++ p.writes) (hk : ∀ w, k.lockHits p.chain w l ≠ [])
    (slot : Nat) (held : List Nat) (earlier : List Pend) : k.planHits slot p held earlier ≠ [] := by
  unfold Core.planHits
  simp only [ne_eq, List.append_eq_nil_iff, List.flatMap_eq_nil_iff]
  rcases List.mem_append.mp hl with hr | hw
  · rintro ⟨⟨⟨⟨hreads, -⟩, -⟩, -⟩, -⟩
    exact hk false (hreads l hr)
  · rintro ⟨⟨⟨⟨-, hwrites⟩, -⟩, -⟩, -⟩
    exact hk true (hwrites l hw)

/-- In its own literal bundle, a checkpoint or not, a slot that fits and reads no pending token is stopped by its first lock. -/
theorem check_lock {c : Ctx} {p : Plan} {ck : Bool} (hs : c.slot ∈ soloSlots) (hh : c.h = soloHdr c.slot ck) (hf : p.fits c)
    (htok : c.k.tokenWait p = none) (hhits : c.k.planHits c.slot p (heldBays [(c.slot, p)]) [] ≠ []) :
    ∃ hit, c.check [(c.slot, p)] = some (.inl (c.info 0x05 c.slot (BitVec.ofNat 64 c.slot) (hitInfo hit))) := by
  obtain ⟨hit, hhit⟩ := Option.isSome_iff_exists.mp (firstHit_isSome hhits)
  have htree := tree_free (fun i hi => hh ▸ solo_test hs ck i hi) c.k
  have hviews : p.views.find? (fun v => !c.k.arch.configured v) = none := List.find?_eq_none.mpr fun v hv => by simp [hf.views v hv]
  have hports : (c.slot < 7 && hdrPort c.h c.slot < p.ports : Bool) = false := by simpa using hf.ports
  have hlock : lockSlot c.k (heldBays [(c.slot, p)]) [(c.slot, p)] [] = some (c.slot, hit) := by simp only [lockSlot, hhit]
  refine ⟨hit, ?_⟩
  simp only [Ctx.check, Ctx.tokenFreeze, firstSlot, List.findSome?_cons, List.findSome?_nil, Option.map_none, htok, hf.feature, if_true,
    hviews, hf.legal, hports, Bool.or_self, Bool.false_eq_true, if_false, dupSlot, List.map_cons, List.map_nil, dupWrites, List.any_nil,
    bayClash, htree, hlock]
  simp [hf.bays, firstHit]

end Sys2Proof.Machine

namespace Sys2Proof

open Machine

/-- Settles O10: on a core with nothing in flight a slot that fits is left to its last checks and to the room of its span. -/
theorem quietIssues : Obligations.QuietIssues := by
  unfold Obligations.QuietIssues
  intro s i c p hr hq hf hl hb hw hu hh
  obtain ⟨ck, hs, hhdr, -⟩ := hr.solo
  have hlate : c.lateTrap c.slot p = none := Ctx.lateTrap_none.mpr ⟨hb, hl⟩
  refine ⟨hr, ?_⟩
  rw [quiet_check hq hf (hhdr ▸ solo_sl (soloOf_slot hs) ck), hlate, spanSlot_of_room _ _ hu hh, hw]
  rfl

/-- Settles O37: a register, gallery bytes or a status word that is locked is a hit, and a hit of the slot is its trap. -/
theorem lockedOperandTraps : Obligations.LockedOperandTraps := by
  unfold Obligations.LockedOperandTraps
  intro s i c x p traps hr hy hf htok hx hch
  obtain ⟨ck, hs, hhdr, -⟩ := hr.solo
  have stops {l : Loc} (hl : l ∈ p.reads ++ p.writes) (hk : ∀ w, c.k.lockHits none w l ≠ []) : traps := by
    obtain ⟨hit, hcheck⟩ := check_lock (soloOf_slot hs) hhdr hf htok (planHits_of_lock hl (hch ▸ hk) _ _ _)
    exact ⟨hitInfo hit, exec_trap hs hr hcheck hy⟩
  exact ⟨fun n hn hl hd => stops hl (lockHits_reg hx hn hd none), fun o n r hl hr hm => stops hl (lockHits_bytes hx hr hm),
    fun v hl hv => stops hl (lockHits_status hx hv)⟩

end Sys2Proof
end

section
/-! PROOFS. A bundle of several slots, literal or expanded by a call, that nothing stops: what its issue comes to (R119, R125, R257, R260,
R261, R264 to R267, R269). -/

namespace Sys2Proof.Machine

/-- What a bundle that nothing stops leaves: the slots' effects on the core and outside it, and a checkpoint bundle's release. -/
def Ctx.passed (c : Ctx) (b : Bundle) : State :=
  let ps := c.plans b
  let k := c.issued b ps
  let s := ps.foldl (fun s p => p.2.glob s) (c.st.setCore k)
  (match s.coreAt k.no with
   | some k => if hdrCk b.h then s.release k (afterIssue (afterOf ps)) else s
   | none => s).endTurn

/-- A bundle that passes its checks and raises no SYNC input passes whole. -/
theorem Ctx.issue_passes {c : Ctx} {b : Bundle} (hk : c.check (c.plans b) = none) (hy : syncOf c.k.stage (c.plans b) = none) :
    c.issue b = c.passed b := by
  simp only [Ctx.issue, stops_of_check hk, hy]
  rfl

/-- A bundle whose header is legal and whose slot words decode and write no location twice comes to its issue. -/
theorem Ctx.bundle_issues {c : Ctx} {is : List (Nat × Instr)} (hl : headerLegal c.h = true) (hw : c.words.length = (hdrSlots c.h).length)
    (hd : decodeSlots (slotWords c.h c.words) = .ok is) (ht : (is.any (fun x => isTag x.2) && is.any (fun x => usesStack x.2)) = false)
    (hdup : dupFixed c.k.arch c.h is = none) :
    c.bundle = c.issue { h := c.h, len := c.len, slots := is.map (fun x => (x.1, planOf x.2)), words := c.words } := by
  simp [Ctx.bundle, hl, hw, hd, ht, hdup]

/-- A call whose entry is mapped, cached, valid, within the core's features and legal runs the bundle that the entry expands to. -/
theorem Ctx.call_expands {c : Ctx} {n a va : Nat} (fill : BitVec 50) (hva : (c.k.arch.dictBase.toNat + 64 * n) % 2 ^ 64 = va)
    (hp : c.k.arch.pendBase = none) (hcached : va ∈ c.k.dcache) (ha : c.fl.code va = some a)
    (hvalid : (dictEntryOf (c.st.entryWords a)).eflags.getLsbD 31 = true)
    (hfeat : ((dictEntryOf (c.st.entryWords a)).eflags &&& 0x7FFFFFFF) &&& ~~~c.feats = 0)
    (hlegal : entryLegal (dictEntryOf (c.st.entryWords a)) = true) :
    c.call n fill = ({ c with h := (expand (dictEntryOf (c.st.entryWords a)) fill).1
                              words := (expand (dictEntryOf (c.st.entryWords a)) fill).2 } : Ctx).bundle := by
  unfold Ctx.call
  simp only [hva, hp, ha, List.contains_iff_mem.mpr hcached, hvalid, hfeat, hlegal, Option.isSome_none, Bool.not_true, bne_self_eq_false,
    Bool.false_eq_true, if_false]

/-- A core that no stop holds does with its bundle what it comes to. -/
theorem withCtx_of_ctx {s : State} {h : BitVec 94} {ws : List W32} {len : Nat} {c : Ctx} (hc : s.ctx h ws len 8 = some c)
    (hst : c.k.stops = []) (f : Ctx → State) : s.withCtx h ws len f = .next (f c) := by
  simp [State.withCtx, hc, hst]

end Sys2Proof.Machine

namespace Sys2Proof

open Machine

/-- Settles O44: the checks of Table 14.9 order 5, the issue, and for a call the way to its expansion. -/
theorem bundles : Obligations.Bundles := by
  unfold Obligations.Bundles
  intro s c issues called hst
  have runs {x : Ctx} {t : State} (hx : x.st = s) (hi : issues x t) : x.bundle = t := by
    obtain ⟨hl, hw, is, hd, ht, hdup, hk, hy, rfl⟩ := hi
    rw [Ctx.bundle_issues hl hw hd ht hdup, Ctx.issue_passes hk hy, ← hx]
    rfl
  have calls {n : Nat} {fill : BitVec 50} {t : State} (hx : c.st = s) (hc : called n fill t) : c.call n fill = t := by
    obtain ⟨hp, hcached, a, ha, hvalid, hfeat, hlegal, hi⟩ := hc
    subst hx
    rw [Ctx.call_expands fill rfl hp hcached ha hvalid hfeat hlegal]
    exact runs rfl hi
  exact ⟨fun h ws t hc hi => (withCtx_of_ctx hc hst _).trans (congrArg _ (runs (ctx_st hc) hi)),
    fun n f t hc hcall => (withCtx_of_ctx hc hst _).trans (congrArg _ (calls (ctx_st hc) hcall)),
    fun n f t hc hcall => (withCtx_of_ctx hc hst _).trans (congrArg _ (calls (ctx_st hc) hcall))⟩

end Sys2Proof
end

section
/-! PROOFS. A rollback (R126, R127): what the undo log puts back, byte by byte, and what is left of a core whose results in flight were all
issued behind its checkpoint. -/

namespace Sys2Proof.Machine

/-! ## One entry of the undo log -/

/-- The entry stands for the line, or for the ring block, of a byte. -/
def Undo.holds (u : Undo) (ring : Bool) (a : Nat) : Bool := u.ring == ring && u.index == a / 256

/-- A block written in its place is read back inside, and what stood there outside. -/
theorem read_write_block (m : Mem) (u : Undo) (a : Nat) :
    (m.write (256 * u.index) u.block).read a = if u.index = a / 256 then u.old.getD (a % 256) 0 else m.read a := by
  have hlen : u.block.length = 256 := by simp [Undo.block]
  rw [Mem.read_write, hlen]
  by_cases h : u.index = a / 256
  · have hi : a - 256 * u.index = a % 256 := by omega
    have hlt : a % 256 < 256 := Nat.mod_lt _ (by decide)
    rw [if_pos (by omega), if_pos h, hi]
    simp [Undo.block, hlt]
  · rw [if_neg (by omega), if_neg h]

theorem applyUndo_gallery_read (k : Core) (u : Undo) (a : Nat) :
    (k.applyUndo u).gallery.read a = if u.holds false a then u.old.getD (a % 256) 0 else k.gallery.read a := by
  unfold Core.applyUndo Undo.holds
  cases hr : u.ring
  · simp [read_write_block]
  · simp

theorem applyUndo_ring_read (k : Core) (u : Undo) (a : Nat) :
    (k.applyUndo u).ring.read a = if u.holds true a then u.old.getD (a % 256) 0 else k.ring.read a := by
  unfold Core.applyUndo Undo.holds
  cases hr : u.ring
  · simp
  · simp [read_write_block]

/-- An entry puts back bytes of the gallery or of the ring alone. -/
theorem applyUndo_keeps (k : Core) (u : Undo) :
    ((k.applyUndo u).shadow, (k.applyUndo u).scratch, (k.applyUndo u).history) = (k.shadow, k.scratch, k.history) := by
  unfold Core.applyUndo
  split <;> rfl

/-! ## The whole log -/

/-- The log is applied from its last entry to its first, so that the first of a line has the last word: `view` is the gallery's bytes or
the ring's. -/
theorem read_applyUndo_all {view : Core → Nat → Byte} {ring : Bool}
    (hview : ∀ k u a, view (Core.applyUndo k u) a = if u.holds ring a then u.old.getD (a % 256) 0 else view k a)
    (k : Core) (l : List Undo) (a : Nat) : view (l.reverse.foldl Core.applyUndo k) a =
      match l.find? (fun u => u.ring == ring && u.index == a / 256) with
      | some u => u.old.getD (a % 256) 0
      | none => view k a := by
  rw [List.foldl_reverse]
  induction l with
  | nil => rfl
  | cons u us ih =>
    rw [List.foldr_cons, hview, List.find?_cons]
    unfold Undo.holds
    cases h : (u.ring == ring && u.index == a / 256)
    · exact ih
    · rfl

/-- Results issued behind the checkpoint are cancelled, and raise nothing. -/
theorem settle_of_later {k : Core} (h : ∀ p ∈ k.pend, p.preCk = false) : k.settle = ({ k with pend := [] }, false) := by
  have hpre : k.pend.filter (fun p => p.preCk) = [] := List.filter_eq_nil_iff.mpr fun p hp => by simp [h p hp]
  simp only [Core.settle, hpre, List.foldl_nil]

end Sys2Proof.Machine

namespace Sys2Proof

open Machine

/-- Settles O38: nothing is left of the results to settle, and then the undo log is applied. -/
theorem rollbackRestores : Obligations.RollbackRestores := by
  unfold Obligations.RollbackRestores
  intro k t logged h
  have hsettle := settle_of_later h
  have hkept : ∀ c : Core, _ := fun c => foldl_keeps (fun k : Core => (k.shadow, k.scratch, k.history)) applyUndo_keeps k.undo.reverse c
  obtain ⟨hshadow, hscratch, hhistory⟩ : _ ∧ _ ∧ _ := by simpa only [Prod.mk.injEq] using hkept { k with pend := [] }
  have hg : ∀ a, t.gallery.read a = _ := fun a => by
    simp only [t, Core.rollback, hsettle]
    exact read_applyUndo_all (view := fun k a => k.gallery.read a) applyUndo_gallery_read { k with pend := [] } k.undo a
  have hr : ∀ a, t.ring.read a = _ := fun a => by
    simp only [t, Core.rollback, hsettle]
    exact read_applyUndo_all (view := fun k a => k.ring.read a) applyUndo_ring_read { k with pend := [] } k.undo a
  refine ⟨rfl, ?_, ?_, rfl, rfl, rfl, rfl, ?_, ?_, congrArg Prod.snd hsettle, hg, hr⟩
  all_goals simp only [t, Core.rollback, hsettle]; assumption

end Sys2Proof
end

section
/-! PROOFS. A landing (R121, R127, R128, R141, R147, R148, R195, R200, R332): what it writes of the registers, of the counts, of the
accumulators' status words and of the gallery, and what it leaves. -/

namespace Sys2Proof.Machine

variable {p : Pend} {n v : Nat} {a : Arch}

/-! ## Its destination among the registers, predicates and masks -/

/-- The registers with a result in its destination. -/
def Arch.written (a : Arch) (p : Pend) : Arch :=
  match p.dest with
  | .none => a
  | .reg n => a.setPlace n p.val
  | .pred n => a.setPred n (p.val.getLsbD 0)
  | .mask n => a.setMask n p.val
  | .bytes _ => a

/-- A destination is a register, a predicate or a mask, and nothing else of the registers' state. -/
theorem written_keeps (a : Arch) (p : Pend) : { a.written p with x := a.x, p := a.p, q := a.q } = a := by
  unfold Arch.written
  split
  · rfl
  · unfold Arch.setPlace; split <;> rfl
  · unfold Arch.setPred; split <;> rfl
  · unfold Arch.setMask; split <;> rfl
  · rfl

theorem written_views (a : Arch) (p : Pend) : (a.written p).views = a.views := (congrArg Arch.views (written_keeps a p) :)
theorem written_fstat (a : Arch) (p : Pend) : (a.written p).fstat = a.fstat := (congrArg Arch.fstat (written_keeps a p) :)
theorem written_absorb (a : Arch) (p : Pend) : (a.written p).absorb = a.absorb := (congrArg Arch.absorb (written_keeps a p) :)

theorem written_x_reg (h : p.dest = .reg n) : (a.written p).x = if n = 0 then a.x else a.x.set n p.val := by
  rw [Arch.written, h]
  exact setPlace_x a n p.val

theorem written_x_other (h : p.dest ≠ .reg n) : (a.written p).x.getD n 0 = a.x.getD n 0 := by
  unfold Arch.written
  split
  next => rfl
  next m hm =>
    have hne : m ≠ n := fun e => h (e ▸ hm)
    rw [setPlace_x]
    split
    · rfl
    · simp [List.getElem?_set_ne hne]
  next => unfold Arch.setPred; split <;> rfl
  next => unfold Arch.setMask; split <;> rfl
  next => rfl

theorem written_pred_same (h : p.dest = .pred n) (h0 : 0 < n) (h8 : n < 8) : (a.written p).pred n = p.val.getLsbD 0 := by
  rw [Arch.written, h]
  exact (setPred_pred a _ h0 h8).trans (if_pos rfl)

/-- A write to a predicate leaves the others, and p0. -/
theorem setPred_other (a : Arch) {m : Nat} (b : Bool) (h : m ≠ n) : (a.setPred m b).pred n = a.pred n := by
  by_cases h0 : m = 0
  · simp [Arch.setPred, h0]
  by_cases h8 : n < 8
  · rw [setPred_pred a b (Nat.pos_of_ne_zero h0) h8, if_neg (Ne.symm h)]
  · simp [Arch.pred, BitVec.getLsbD_of_ge _ n (Nat.not_lt.mp h8)]

theorem written_pred_other (h : p.dest ≠ .pred n) : (a.written p).pred n = a.pred n := by
  unfold Arch.written
  split
  next => rfl
  next => unfold Arch.setPlace; split <;> rfl
  next m hm => exact setPred_other a _ fun e => h (e ▸ hm)
  next => unfold Arch.setMask; split <;> rfl
  next => rfl

theorem written_mask_same (h : p.dest = .mask n) (h0 : 0 < n) (hq : n < a.q.length) : (a.written p).mask n = p.val := by
  have hn : n ≠ 0 := Nat.ne_of_gt h0
  simp [Arch.written, h, Arch.setMask, Arch.mask, hn, hq]

theorem written_mask_other (h : p.dest ≠ .mask n) : (a.written p).mask n = a.mask n := by
  unfold Arch.written
  split
  next => rfl
  next => unfold Arch.setPlace; split <;> rfl
  next => unfold Arch.setPred; split <;> rfl
  next m hm =>
    have hne : m ≠ n := fun e => h (e ▸ hm)
    unfold Arch.setMask
    split
    · rfl
    · simp [Arch.mask, List.getElem?_set_ne hne]
  next => rfl

/-! ## The accumulators' status words, the flags and the count of absorbed lanes -/

/-- The views with the status word that a result changes. -/
def Arch.marked (a : Arch) (p : Pend) : List Desc :=
  match p.accView with
  | none => a.views
  | some v => (a.landStatus v p.accClear p.accFlags).views

/-- A landing by what it writes: the destination, a status word, the flags and the count. -/
theorem land_eq (a : Arch) (p : Pend) : a.land p =
    { a.written p with
      views := a.marked p, fstat := fstatSet a.fstat p.flags
      absorb := if p.absorb = 0 then a.absorb else absorbAdd a.absorb p.absorb } := by
  have hland : a.land p = { (match p.accView with
        | none => a.written p
        | some v => (a.written p).landStatus v p.accClear p.accFlags) with
      fstat := fstatSet a.fstat p.flags, absorb := if p.absorb = 0 then a.absorb else absorbAdd a.absorb p.absorb } := by
    rw [← written_fstat a p, ← written_absorb a p]
    unfold Arch.land Arch.written
    cases p.accView <;> rfl
  rw [hland]
  unfold Arch.marked
  cases p.accView with
  | none => rw [← written_views a p]
  | some v => simp only [Arch.landStatus, Arch.view, written_views]

/-- A landing leaves everything else of the registers' state. -/
theorem land_keeps (a : Arch) (p : Pend) :
    { a.land p with x := a.x, p := a.p, q := a.q, views := a.views, fstat := a.fstat, absorb := a.absorb } = a := by
  rw [land_eq]
  refine Eq.trans ?_ (written_keeps a p)
  simp only [written_views, written_fstat, written_absorb]

theorem land_view_other (h : p.accView ≠ some v) : (a.land p).view v = a.view v := by
  rw [land_eq]
  simp only [Arch.view, Arch.marked]
  split
  next => rfl
  next w hw =>
    have hne : w ≠ v := fun e => h (e ▸ hw)
    simp [Arch.landStatus, List.getElem?_set_ne hne]

theorem land_view_same (h : p.accView = some v) (hv : v < a.views.length) :
    (a.land p).view v = accWith (a.view v) ((if p.accClear then 0 else accStatus (a.view v)) ||| p.accFlags) := by
  rw [land_eq]
  simp [Arch.view, Arch.marked, h, Arch.landStatus, hv]

/-- A descriptor with another status word has that word, and above it what it had. -/
theorem accStatus_accWith (d : Desc) (st : W32) : accStatus (accWith d st) = st :=
  (fld_append_right (fld d 32 96) st 0 32 (by decide)).trans (fld_self st)

theorem fld_accWith (d : Desc) (st : W32) : fld (accWith d st) 32 96 = fld d 32 96 :=
  (fld_append_left (fld d 32 96) st 32 96 (by decide)).trans (fld_self _)

/-- The count of absorbed lanes saturates. -/
theorem land_absorb (a : Arch) (p : Pend) : (a.land p).absorb.toNat = min (a.absorb.toNat + p.absorb) (2 ^ 32 - 1) := by
  have hlt := a.absorb.isLt
  rw [land_eq]
  by_cases h : p.absorb = 0
  · simp only [h, if_true]
    omega
  · simp only [h, if_false, absorbAdd, BitVec.toNat_ofNat]
    omega

/-! ## The gallery -/

/-- Data written over ranges in order changes no byte outside them. -/
theorem read_writeAll_other {y : Nat} : ∀ {segs : List (Nat × Nat)} (data : List Byte) (g : Mem),
    (∀ s ∈ segs, y < s.1 ∨ s.1 + s.2 ≤ y) → ((splitData segs data).foldl (fun g x => g.write x.1 x.2) g).read y = g.read y
  | [], _, _, _ => rfl
  | (o, n) :: rest, data, g, h => by
    have hlen : (data.take n).length ≤ n := List.length_take_le n data
    have ho : y < o ∨ o + n ≤ y := h (o, n) (List.mem_cons_self ..)
    rw [splitData, List.foldl_cons, read_writeAll_other (data.drop n) _ fun s hs => h s (List.mem_cons_of_mem _ hs)]
    exact Mem.read_write_other g (by simp only; omega)

/-- The ranges behind others take the data behind theirs. -/
theorem splitData_append (l rest : List (Nat × Nat)) (data : List Byte) :
    splitData (l ++ rest) data = splitData l data ++ splitData rest (data.drop (l.map Prod.snd).sum) := by
  induction l generalizing data with
  | nil => rfl
  | cons s l ih => simp [splitData, ih, List.drop_drop]

/-- A byte of a range that no later one holds is the range's own part of the data. -/
theorem read_writeAll_same {before after : List (Nat × Nat)} {data : List Byte} {o n i : Nat} (g : Mem)
    (hlen : (before.map Prod.snd).sum + n ≤ data.length) (hi : i < n) (ha : ∀ s ∈ after, o + i < s.1 ∨ s.1 + s.2 ≤ o + i) :
    ((splitData (before ++ (o, n) :: after) data).foldl (fun g x => g.write x.1 x.2) g).read (o + i) =
      data.getD ((before.map Prod.snd).sum + i) 0 := by
  have hin : o ≤ o + i ∧ o + i < o + ((data.drop (before.map Prod.snd).sum).take n).length := by
    simp only [List.length_take, List.length_drop]
    omega
  rw [splitData_append, List.foldl_append, splitData, List.foldl_cons, read_writeAll_other _ _ ha, Mem.read_write, if_pos hin,
    Nat.add_sub_cancel_left]
  simp [hi, List.getElem?_drop]

theorem poisonFrom_gallery (k : Core) (src : Option (BitVec 20 × Nat)) (by_ : Nat × Nat) (bad segs : List (Nat × Nat)) (at_ : Nat) :
    (k.poisonFrom src by_ bad segs at_).gallery = k.gallery := by
  refine foldl_keeps Core.gallery (fun k l => ?_) _ _
  rfl

/-- A landing writes its data over its ranges. -/
theorem landBytes_gallery (k : Core) (p : Pend) :
    (k.landBytes p).gallery = (splitData p.segs p.data).foldl (fun g x => g.write x.1 x.2) k.gallery := by
  unfold Core.landBytes
  split
  next h => rw [List.isEmpty_iff.mp h]; rfl
  next => exact poisonFrom_gallery _ _ _ _ _ _

/-! ## The core -/

/-- The core but for its gallery with its poison, tags and dirty bits. -/
def Core.offGallery (k : Core) : Core := { k with gallery := Mem.empty 0, dirty := 0, poison := [], tags := [] }

theorem poisonFrom_offGallery (k : Core) (src : Option (BitVec 20 × Nat)) (by_ : Nat × Nat) (bad segs : List (Nat × Nat)) (at_ : Nat) :
    (k.poisonFrom src by_ bad segs at_).offGallery = k.offGallery := by
  refine foldl_keeps Core.offGallery (fun k l => ?_) _ _
  rfl

theorem landBytes_offGallery (k : Core) (p : Pend) : (k.landBytes p).offGallery = k.offGallery := by
  unfold Core.landBytes
  split
  · rfl
  · exact poisonFrom_offGallery _ _ _ _ _ _

theorem landInto_gallery (k : Core) (p : Pend) : (k.landInto p).gallery = (k.landBytes p).gallery := by
  unfold Core.landInto
  split <;> rfl

/-- A landing's bytes change the gallery and, behind an older checkpoint, the undo log. -/
theorem landInto_offGallery (k : Core) (p : Pend) : { (k.landInto p).offGallery with undo := k.undo } = k.offGallery := by
  have h : { (k.landBytes p).offGallery with undo := k.undo } = k.offGallery := by rw [landBytes_offGallery]; rfl
  unfold Core.landInto
  split
  · exact h
  · exact h

theorem landInto_undo (k : Core) (h : p.preCk = false) : (k.landInto p).undo = k.undo := by
  simp only [Core.landInto, h, Bool.not_false, if_true]
  exact (congrArg Core.undo (landBytes_offGallery k p) :)

/-- A result that has not landed before is written into the registers, into the shadow too where the rollback keeps it, and its bytes. -/
theorem landed_of_fresh (k : Core) (h : p.spent = false) : k.landed p = ({ k with
    pend := k.pend.filter (fun q => q != p), arch := k.arch.land p
    shadow := if p.preCk then k.shadow.land p else k.shadow } : Core).landInto p := by
  simp only [Core.landed, h, Bool.false_eq_true, if_false]

end Sys2Proof.Machine

namespace Sys2Proof

open Machine

/-- Settles O48: what is in flight, then the gallery, the registers, and the rest of the core. -/
theorem landingFrame : Obligations.LandingFrame := by
  unfold Obligations.LandingFrame
  intro k p t
  refine ⟨?_, Core.landed_spent k p, fun hs => ?_⟩
  · cases hs : p.spent with
    | true => exact congrArg Core.pend (Core.landed_spent k p hs)
    | false =>
      rw [show t = _ from landed_of_fresh k hs]
      exact (congrArg Core.pend (landInto_offGallery _ p) :)
  have ht : t = _ := landed_of_fresh k hs
  have hoff := landInto_offGallery ({ k with
    pend := k.pend.filter (fun q => q != p), arch := k.arch.land p
    shadow := if p.preCk then k.shadow.land p else k.shadow } : Core) p
  rw [← ht] at hoff
  have hg : t.gallery = (splitData p.segs p.data).foldl (fun g x => g.write x.1 x.2) k.gallery := by
    rw [ht, landInto_gallery, landBytes_gallery]
  have harch : t.arch = k.arch.land p := (congrArg Core.arch hoff :)
  have hx : t.arch.x = (k.arch.written p).x := by rw [harch, land_eq]
  have hp : ∀ n, t.arch.pred n = (k.arch.written p).pred n := fun n => by rw [harch, land_eq]; rfl
  have hq : ∀ n, t.arch.mask n = (k.arch.written p).mask n := fun n => by rw [harch, land_eq]; rfl
  refine ⟨fun y hy => hg ▸ read_writeAll_other p.data k.gallery hy, fun before o n after hd hlen i hi ha => ?_,
    fun n hd hn => (hx.trans (written_x_reg hd)).trans (if_neg hn), fun hd => hx.trans (written_x_reg hd),
    fun n hd h0 h8 => (hp n).trans (written_pred_same hd h0 h8), fun n hd h0 hlen => (hq n).trans (written_mask_same hd h0 hlen),
    fun n hd => hx ▸ written_x_other hd, fun n hd => (hp n).trans (written_pred_other hd),
    fun n hd => (hq n).trans (written_mask_other hd), fun v hv => harch ▸ land_view_other hv, fun v hv hlen => ?_, harch ▸ land_keeps k.arch p,
    ?_, harch ▸ land_absorb k.arch p, congrArg (fun c : Core => { c with
      pend := k.pend, arch := k.arch, gallery := k.gallery, dirty := k.dirty, poison := k.poison, tags := k.tags
      shadow := k.shadow, undo := k.undo }) hoff, fun hpre => ⟨?_, ?_⟩⟩
  · rw [hg, show p.segs = before ++ (o, n) :: after by simp only [Pend.segs, hd]]
    exact read_writeAll_same k.gallery hlen hi ha
  · rw [harch, land_view_same hv hlen]
    exact ⟨accStatus_accWith _ _, fld_accWith _ _⟩
  · rw [harch, land_eq]
    rfl
  · exact (congrArg Core.shadow hoff :).trans (if_neg (by simp [hpre]))
  · rw [ht, landInto_undo _ hpre]

end Sys2Proof
end

section
/-! SUPPORT. Frames (R119): what any next state that a slot instruction answers leaves of the package, of the other cores and of the acting
core, whether it issues, traps, waits or finds no task. -/

namespace Sys2Proof.Machine

/-! ## The sequencer's own state (R285 to R290) -/

/-- The registers' state but for what the sequencer moves: the pc, the loop stack, the rotation and the stage predicates p4 to p7. -/
def Arch.offSequencer (a : Arch) : Arch :=
  { a with pc := 0, loops := [], rot := 0, p := a.p &&& 0x0F, solve := { a.solve with loops := 0 } }

section
variable {a b : Arch} (h : a.offSequencer = b.offSequencer)
include h

theorem eq_of_offSequencer : { a with pc := b.pc, loops := b.loops, rot := b.rot, p := b.p
                                      solve := { a.solve with loops := b.solve.loops } } = b :=
  (congrArg (fun x : Arch => { x with pc := b.pc, loops := b.loops, rot := b.rot, p := b.p
                                      solve := { x.solve with loops := b.solve.loops } }) h :)

theorem pred_of_offSequencer {n : Nat} (hn : n < 4) : a.pred n = b.pred n := by
  have hlow : ∀ x : BitVec 8, (x &&& 0x0F).getLsbD n = x.getLsbD n := fun x => by
    have hbit : (0x0F : BitVec 8).getLsbD n = true := by
      match n, hn with
      | 0, _ | 1, _ | 2, _ | 3, _ => rfl
    rw [BitVec.getLsbD_and, hbit, Bool.and_true]
  have hp : a.p &&& 0x0F = b.p &&& 0x0F := (congrArg Arch.p h :)
  rw [Arch.pred, Arch.pred, ← hlow a.p, hp, hlow]

end

/-- A stage predicate is none of p0 to p3. -/
theorem setPred_low (a : Arch) {n : Nat} (hn : n ∈ [4, 5, 6, 7]) (v : Bool) : (a.setPred n v).p &&& 0x0F = a.p &&& 0x0F := by
  have hbits : ∀ n ∈ [4, 5, 6, 7], ~~~(1#8 <<< n) &&& 0x0F = 0x0F ∧ (1#8 <<< n) &&& 0x0F = 0 := by decide
  obtain ⟨hclear, hset⟩ := hbits n hn
  have h0 : n ≠ 0 := by rintro rfl; simp at hn
  simp only [Arch.setPred, if_neg h0]
  cases v
  · rw [if_neg (by decide), BitVec.and_assoc, hclear]
  · rw [if_pos rfl, BitVec.and_or_distrib_right, hset]
    exact BitVec.or_zero

theorem stage_offSequencer (a : Arch) (e : LoopEntry) : (a.stage e).offSequencer = a.offSequencer := by
  have hlow : (a.stage e).p &&& 0x0F = a.p &&& 0x0F := by
    rw [stage_unfold, setPred_low _ (by decide), setPred_low _ (by decide), setPred_low _ (by decide), setPred_low _ (by decide)]
  rw [stage_eq, Arch.offSequencer, hlow]
  rfl

theorem popped_offSequencer (a : Arch) (e : LoopEntry) : (a.popped e).offSequencer = a.offSequencer := by
  have hlow : a.p &&& 0x0F &&& 0x0F = a.p &&& 0x0F := by rw [BitVec.and_assoc, BitVec.and_self]
  rw [popped_if]
  split
  · rw [Arch.offSequencer, hlow]
    rfl
  · rfl

theorem turned_offSequencer (a : Arch) (e : LoopEntry) : (a.turned e).offSequencer = a.offSequencer := by
  unfold Arch.turned
  split <;> rfl

theorem iterEnd_offSequencer (body : Bodies) (pc : Nat) (l : List LoopEntry) (a : Arch) (next : Nat) :
    (iterEnd body pc l a next).1.offSequencer = a.offSequencer := by
  induction l generalizing a next with
  | nil => rfl
  | cons e rest ih =>
    by_cases h : (body e).1.getLast? = some pc
    · rcases Nat.lt_or_ge (e.index + 1).toNat e.limit with hi | hi
      · rw [iterEnd_again h hi]
        split
        · exact (stage_offSequencer _ _).trans (turned_offSequencer a e)
        · rfl
      · rw [iterEnd_last h hi, ih, popped_offSequencer, turned_offSequencer]
    · rw [iterEnd_inside h]
      rfl

/-- A bundle behind which control falls through moves the sequencer's own state alone. -/
theorem advance_arch (c : Ctx) (k : Core) : (c.advance .fall k).arch.offSequencer = k.arch.offSequencer :=
  iterEnd_offSequencer c.bodies c.pc k.arch.loops k.arch (c.pc + c.len)

/-! ## What a plan does at issue -/

theorem logLine_keeps (k : Core) (l : Nat) : { k.logLine l with undo := [] } = { k with undo := [] } := by
  unfold Core.logLine
  split <;> rfl

theorem logRing_keeps (k : Core) (b : Nat) : { k.logRing b with undo := [] } = { k with undo := [] } := by
  unfold Core.logRing
  split <;> rfl

/-- At issue old contents enter the undo log, results are in flight, work is held, the pipe may be occupied, and then the plan's own effect
follows. -/
theorem onCore_parts (p : Plan) (slot : Nat) (k : Core) : ∃ u b,
    p.onCore slot k = p.imm { k with undo := u, pend := k.pend ++ p.lands, held := k.held ++ p.held, busy := b } ∧
      (p.beats = 0 → b = k.busy) := by
  have hlog : ∃ u, (k.blocksNeeded p).foldl Core.logRing ((k.linesNeeded p).foldl Core.logLine k) = { k with undo := u } := by
    have h := (foldl_keeps (fun k : Core => { k with undo := [] }) logRing_keeps (k.blocksNeeded p) _).trans
      (foldl_keeps (fun k : Core => { k with undo := [] }) logLine_keeps (k.linesNeeded p) k)
    exact ⟨_, (congrArg (fun x : Core => { x with
      undo := ((k.blocksNeeded p).foldl Core.logRing ((k.linesNeeded p).foldl Core.logLine k)).undo }) h :)⟩
  obtain ⟨u, hu⟩ := hlog
  refine ⟨u, if 0 < p.beats then k.busy.filter (fun b => k.vc < b.until_) ++ [⟨slot, k.vc + p.beats, p.holds⟩] else k.busy, ?_,
    fun h => if_neg (by omega)⟩
  simp only [Plan.onCore, Core.issueSlot, Bool.false_eq_true, if_false, hu]

/-! ## What a step leaves of the package -/

/-- The package but for its cores and the turn. -/
def State.outside (s : State) : State := { s with cores := [], turn := [] }

@[simp] theorem setCore_outside (s : State) (k : Core) : (s.setCore k).outside = s.outside := rfl

@[simp] theorem passTurn_outside (s : State) (n : Nat) : (s.passTurn n).outside = s.outside := by
  unfold State.passTurn
  split <;> rfl

/-- A plan whose effects outside its core touch no core and leave what `f` sees of the package; on its own core it keeps the number. -/
structure Plan.Within {α : Type} (f : State → α) (p : Plan) : Prop where
  glob : ∀ u, (p.glob u).cores = u.cores ∧ f (p.glob u).outside = f u.outside
  starts : ∀ u, (p.starts u).cores = u.cores ∧ f (p.starts u).outside = f u.outside
  no : ∀ k, (p.imm k).no = k.no

/-- A plan without effects outside its core leaves the whole package. -/
theorem Plan.within_of_local {p : Plan} (hg : p.glob = id) (hs : p.starts = id) (hn : ∀ k, (p.imm k).no = k.no) :
    p.Within (id : State → State) :=
  ⟨fun u => by rw [hg]; exact ⟨rfl, rfl⟩, fun u => by rw [hs]; exact ⟨rfl, rfl⟩, hn⟩

/-- The step took `s` to `t`: the acting core stands as `k`, the others as they were, and so does what `f` sees of the rest. -/
structure Acted {α : Type} (f : State → α) (s t : State) (k : Core) : Prop where
  no : k.no = s.cur
  cores : t.cores = (s.setCore k).cores
  outside : f t.outside = f s.outside

section
variable {α : Type} {f : State → α} {s t : State} {k k' : Core}

theorem Acted.coreAt_cur (h : Acted f s t k') (hk : s.coreAt s.cur = some k) : t.coreAt s.cur = some k' :=
  (coreAt_congr h.cores _).trans (coreAt_setCore hk h.no)

theorem Acted.coreAt_other (h : Acted f s t k') {n : Nat} (hn : n ≠ s.cur) : t.coreAt n = s.coreAt n := by
  have hset : (s.setCore k').coreAt n = s.coreAt n := by
    unfold State.coreAt State.setCore
    simp only
    induction s.cores with
    | nil => rfl
    | cons x xs ih =>
      rw [List.map_cons, List.find?_cons, List.find?_cons, ih]
      by_cases hx : x.no = k'.no
      · have hne : k'.no ≠ n := h.no ▸ hn.symm
        simp [hx, beq_eq_false_iff_ne.mpr hne]
      · simp [hx]
  exact (coreAt_congr h.cores n).trans hset

/-- What a turn that ends leaves. -/
theorem Acted.passTurn (h : Acted f s t k) (n : Nat) : Acted f s (t.passTurn n) k :=
  ⟨h.no, (State.passTurn_cores t n).trans h.cores, (congrArg f (passTurn_outside t n)).trans h.outside⟩

/-- A turn that ends with the acting core in another stage, in a package that `f` sees as it was. -/
theorem acted_stage (hno : k.no = s.cur) (hc : t.cores = s.cores) (ho : f t.outside = f s.outside) (st : Stage) (n : Nat) :
    Acted f s ((t.setCore { k with stage := st }).passTurn n) { k with stage := st } := by
  have h : Acted f s (t.setCore { k with stage := st }) { k with stage := st } := ⟨hno, congrArg (List.map _) hc, ho⟩
  exact h.passTurn n

end

/-! ## What a slot instruction answers -/

section
variable {α : Type} {f : State → α} {s t : State} {i : Instr} {slot : Nat} {k : Core} {c : Ctx}

/-- What the bundle of a plan alone, outside BR, leaves of its core where it issues. -/
def Ctx.issuedAlone (c : Ctx) (slot : Nat) (p : Plan) : Core :=
  c.advance .fall (p.onCore slot (c.begin (locRegs p.reads) (locRegs p.writes)))

theorem issuedAlone_no {p : Plan} (hn : ∀ k, (p.imm k).no = k.no) : (c.issuedAlone slot p).no = c.k.no :=
  issueSlot_no p hn false slot (c.begin (locRegs p.reads) (locRegs p.writes))

/-- The issue of such a bundle traps, waits or passes; each leaves the package to `f` as it was. -/
theorem issue_acts {len : Nat} {ws : List W32} (hs : slot ∈ soloSlots) (h7 : slot ≠ 7)
    (hc : s.ctx (soloHdr slot false) ws len slot = some c) (hp : (planOf i c).Within f) :
    ∃ k', Acted f s (c.issue { h := c.h, len := c.len, slots := [(slot, planOf i)], words := c.words }) k' ∧
      ((∃ st, k' = { c.k with stage := st }) ∨ k' = c.issuedAlone slot (planOf i c)) := by
  have hno : c.k.no = s.cur := coreAt_no (ctx_core hc)
  have hst : c.st = s := ctx_st hc
  have hgo : syncOf c.k.stage [(slot, planOf i c)] = none := by
    have ha : afterOf [(slot, planOf i c)] = .go := by simp [afterOf, h7]
    unfold syncOf
    split
    · rfl
    · next hl _ => rw [ha] at hl; cases hl
    · rfl
  have hck : hdrCk c.h = false := ctx_h hc ▸ solo_ck hs false
  unfold Ctx.issue
  simp only [plans_solo (i := i) hs hc, hgo, hck, Bool.false_eq_true, if_false]
  split
  next tr _ => exact ⟨_, acted_stage hno (congrArg State.cores hst) (congrArg (fun u => f u.outside) hst) _ _, .inl ⟨_, rfl⟩⟩
  next cause _ =>
    have hstart : (c.started [(slot, planOf i c)]).cores = s.cores ∧ f (c.started [(slot, planOf i c)]).outside = f s.outside := by
      unfold Ctx.started
      split
      · exact hst ▸ ⟨rfl, rfl⟩
      · exact hst ▸ hp.starts c.st
    exact ⟨_, acted_stage hno hstart.1 hstart.2 _ _, .inl ⟨_, rfl⟩⟩
  next _ =>
    have hiss := advance_issued (c := c) hs (ctx_h hc) (planOf i c) (planOf i)
    rw [ctlOf_solo, if_neg h7] at hiss
    have hglob := hp.glob (s.setCore (c.issuedAlone slot (planOf i c)))
    refine ⟨c.issuedAlone slot (planOf i c), ?_, .inr rfl⟩
    have hacted : Acted f s ((planOf i c).glob (s.setCore (c.issuedAlone slot (planOf i c)))) (c.issuedAlone slot (planOf i c)) :=
      ⟨(issuedAlone_no hp.no).trans hno, hglob.1, hglob.2⟩
    rw [hiss, hst]
    simp only [List.foldl_cons, List.foldl_nil]
    split <;> exact hacted.passTurn _

/-- The frame of a slot instruction outside BR that is no checkpoint: what holds of the core with its stage alone changed, and of the core
behind the issue, holds of the acting core in every next state. -/
theorem exec_frame {Q : Core → Prop} (hs : soloOf i = some (slot, false)) (h7 : slot ≠ 7) (hk : s.coreAt s.cur = some k)
    (hp : ∀ c, (planOf i c).Within f) (hstay : ∀ st, Q { k with stage := st })
    (hissue : ∀ c : Ctx, c.k = k → Q (c.issuedAlone slot (planOf i c))) (h : exec i s = .next t) :
    f t.outside = f s.outside ∧ (∀ n, n ≠ s.cur → t.coreAt n = s.coreAt n) ∧ ∃ k', t.coreAt s.cur = some k' ∧ Q k' := by
  have of_acted {k' : Core} (ha : Acted f s t k') (hq : Q k') :
      f t.outside = f s.outside ∧ (∀ n, n ≠ s.cur → t.coreAt n = s.coreAt n) ∧ ∃ k', t.coreAt s.cur = some k' ∧ Q k' :=
    ⟨ha.outside, fun _ hn => ha.coreAt_other hn, k', ha.coreAt_cur hk, hq⟩
  have hsame : Q k := hstay k.stage
  rw [exec_solo hs, issueAlone] at h
  cases hc : s.ctx (soloHdr slot false) (encode i) (s.lenHere 16) slot with
  | none =>
    simp only [hc, Host.Outcome.next.injEq] at h
    exact h ▸ ⟨rfl, fun _ _ => rfl, k, hk, hsame⟩
  | some c =>
    have hck : c.k = k := Option.some_inj.mp ((ctx_core hc).symm.trans hk)
    simp only [hc] at h
    split at h
    · cases h
      obtain ⟨k', ha, ⟨st, rfl⟩ | rfl⟩ := issue_acts (soloOf_slot hs) h7 hc (hp c)
      · exact of_acted ha (hck ▸ hstay st)
      · exact of_acted ha (hissue c hck)
    · cases h
      unfold State.endTurn
      exact ⟨congrArg f (passTurn_outside s _), fun n _ => coreAt_congr (State.passTurn_cores s _) n, k,
        (coreAt_congr (State.passTurn_cores s _) _).trans hk, hsame⟩

end

/-- A package that is the same outside differs in its cores and the turn alone. -/
theorem eq_of_outside {s t : State} (h : t.outside = s.outside) : { t with cores := s.cores, turn := s.turn } = s :=
  (congrArg (fun u : State => { u with cores := s.cores, turn := s.turn }) h :)

end Sys2Proof.Machine
end

section
/-! PROOFS. The frames of the one-cycle integer instructions (R119, R273, R274) and of the scratch stores (R119, R277). -/

namespace Sys2Proof.Machine

variable {c : Ctx} {p : Plan}

/-- A plan that lands nothing, holds nothing and occupies nothing is its own effect alone. -/
theorem issuedAlone_of_imm (slot : Nat) (hl : p.lands = []) (hh : p.held = []) (hb : p.beats = 0) (hr : p.blocks = []) :
    c.issuedAlone slot p = c.advance .fall (p.imm (c.begin (locRegs p.reads) (locRegs p.writes))) := by
  rw [Ctx.issuedAlone, onCore_eq p slot _ hb hr, hl, hh, later_nil, hold_nil]

theorem setReg_x (a : Arch) (d : Nat) (v : W64) : (a.setReg d v).x = if d = 0 then a.x else a.x.set (physReg a.rot d) v := by
  rw [Arch.setReg, setPlace_x]
  exact if_congr physReg_eq_zero rfl rfl

/-- A write to a register writes its place alone. -/
theorem setReg_eq (a : Arch) (d : Nat) (v : W64) : a.setReg d v = { a with x := (a.setReg d v).x } := by
  unfold Arch.setReg Arch.setPlace
  split <;> rfl

/-- A register result of latency 1, whatever else its plan reads. -/
def aluPlanReading (ls : List Loc) (d : Nat) (v : W64) : Plan := { aluPlan [] d v with reads := ls }

theorem aluPlanReading_within (ls : List Loc) (d : Nat) (v : W64) : (aluPlanReading ls d v).Within (id : State → State) :=
  Plan.within_of_local rfl rfl fun _ => rfl

/-- Where it issues, the acting core has the sequencer's step and one register written. -/
theorem alu_issued (slot : Nat) (ls : List Loc) (d : Nat) (v : W64) :
    c.issuedAlone slot (aluPlanReading ls d v) =
      c.advance .fall ((c.begin (locRegs ls) [d]).withArch (fun a => a.setReg d v)) :=
  issuedAlone_of_imm slot rfl rfl rfl rfl

theorem storePlan_within (n d a : Nat) (j : BitVec 12) : (storePlan c n d a j).Within (id : State → State) :=
  Plan.within_of_local rfl rfl fun _ => rfl

/-- Where it issues, the acting core has the sequencer's step and the bytes stored. -/
theorem store_issued (slot n d a : Nat) (j : BitVec 12) :
    c.issuedAlone slot (storePlan c n d a j) = c.advance .fall { c.begin [a, d] [] with
      scratch := c.k.scratch.put (scratchAt (c.k.arch.reg a + j.signExtend 64) n) n ((c.k.arch.reg d).toNat % 2 ^ (8 * n)) } :=
  issuedAlone_of_imm slot rfl rfl rfl rfl

end Sys2Proof.Machine

namespace Sys2Proof

open Machine

/-- Each of them is a register result of latency 1 in SA. -/
theorem oneCycle_alu (d a b : BitVec 6) (j : BitVec 12) (m : BitVec 18) (ng : BitVec 1) (pd : BitVec 3) (sh ps ln : BitVec 6) :
    ∀ i ∈ ([.add d a b, .sub d a b, .and d a b, .or d a b, .xor d a b, .shl d a b, .shr d a b, .sar d a b, .min d a b, .max d a b,
      .minu d a b, .maxu d a b, .clz d a, .popc d a, .sel d a b ng pd, .addi d a j, .andi d a j, .ori d a j, .xori d a j, .shli d a sh,
      .shri d a sh, .sari d a sh, .bfx d a ps ln, .bfi d a ps ln, .movi d m, .movhi d m] : List Instr),
    soloOf i = some (0, false) ∧ ∀ c, ∃ ls v, planOf i c = aluPlanReading ls d.toNat v := by
  repeat refine List.forall_mem_cons.mpr ⟨⟨rfl, fun c => ⟨_, _, rfl⟩⟩, ?_⟩
  exact List.forall_mem_nil _

/-- Settles O45: the write leaves every place but its own, and the sequencer's step no register at all. -/
theorem registerFrame : Obligations.RegisterFrame := by
  unfold Obligations.RegisterFrame
  intro s t k d a b j m ng pd sh ps ln i hi hk h
  obtain ⟨hs, hp⟩ := oneCycle_alu d a b j m ng pd sh ps ln i hi
  have hwithin : ∀ c, (planOf i c).Within (id : State → State) := fun c => by
    obtain ⟨ls, v, hv⟩ := hp c
    exact hv ▸ aluPlanReading_within ls d.toNat v
  obtain ⟨hout, hothers, k', hk', hframe, x, harch, hx⟩ := exec_frame (Q := fun k' =>
      { k' with arch := k.arch, stage := k.stage, vc := k.vc, loopBuf := k.loopBuf, synced := k.synced, syncExtents := k.syncExtents
                tokensIn := k.tokensIn, acquired := k.acquired } = k ∧
      ∃ x, k'.arch.offSequencer = { k.arch with x := x }.offSequencer ∧ (x = k.arch.x ∨ ∃ v, x = (k.arch.setReg d.toNat v).x))
    hs (by decide) hk hwithin (fun st => ⟨rfl, k.arch.x, rfl, .inl rfl⟩) (fun c hc => by
      obtain ⟨ls, v, hv⟩ := hp c
      rw [hv, alu_issued]
      subst hc
      exact ⟨rfl, _, (advance_arch c _).trans (congrArg Arch.offSequencer (setReg_eq c.k.arch d.toNat v)), .inr ⟨v, rfl⟩⟩) h
  have hall := eq_of_offSequencer harch
  have hxs : k'.arch.x = x := (congrArg Arch.x harch :)
  refine ⟨eq_of_outside hout, hothers, k', hk', hframe, (congrArg (fun y : Arch => { y with x := k.arch.x }) hall :), ?_, ?_, ?_⟩
  · intro n hn
    rw [hxs]
    obtain rfl | ⟨v, rfl⟩ := hx
    · rfl
    · rw [setReg_x]
      split
      · rfl
      · rw [List.getD_eq_getElem?_getD, List.getD_eq_getElem?_getD, List.getElem?_set_ne hn.symm]
  · rintro rfl
    rw [hxs]
    obtain rfl | ⟨v, rfl⟩ := hx
    · rfl
    · rw [setReg_x]
      exact if_pos rfl
  · exact fun n hn => pred_of_offSequencer harch hn

/-- Each of them stores the width's bytes in SA. -/
theorem scratchStores_plan (d a : BitVec 6) (j : BitVec 12) :
    ∀ i ∈ ([(.stB d a j, 1), (.stH d a j, 2), (.stW d a j, 4), (.stD d a j, 8)] : List (Instr × Nat)),
    soloOf i.1 = some (0, false) ∧ ∀ c, planOf i.1 c = storePlan c i.2 d.toNat a.toNat j := by
  repeat refine List.forall_mem_cons.mpr ⟨⟨rfl, fun c => rfl⟩, ?_⟩
  exact List.forall_mem_nil _

/-- Settles O47: the store's one write to scratch is the width's bytes at its address. -/
theorem storeFrame : Obligations.StoreFrame := by
  unfold Obligations.StoreFrame
  intro s t k d a j i hi hk h
  obtain ⟨hs, hp⟩ := scratchStores_plan d a j i hi
  have hwithin : ∀ c, (planOf i.1 c).Within (id : State → State) := fun c => hp c ▸ storePlan_within i.2 d.toNat a.toNat j
  obtain ⟨hout, hothers, k', hk', hframe, harch, hbytes⟩ := exec_frame (Q := fun k' =>
      { k' with arch := k.arch, scratch := k.scratch, stage := k.stage, vc := k.vc, loopBuf := k.loopBuf
                synced := k.synced, syncExtents := k.syncExtents, tokensIn := k.tokensIn, acquired := k.acquired } = k ∧
      k'.arch.offSequencer = k.arch.offSequencer ∧
      ∀ y, (y < scratchAt (k.arch.reg a.toNat + j.signExtend 64) i.2 ∨ scratchAt (k.arch.reg a.toNat + j.signExtend 64) i.2 + i.2 ≤ y) →
        k'.scratch.read y = k.scratch.read y)
    hs (by decide) hk hwithin (fun st => ⟨rfl, rfl, fun _ _ => rfl⟩) (fun c hc => by
      rw [hp c, store_issued]
      subst hc
      exact ⟨rfl, advance_arch c _, fun y hy => Mem.read_write_other _ ((leBytes_length _ _).symm ▸ hy)⟩) h
  exact ⟨eq_of_outside hout, hothers, k', hk', hframe, eq_of_offSequencer harch, hbytes⟩

end Sys2Proof
end

section
/-! PROOFS. The frames at issue of instructions whose results land later (R119, R121, R126, R194): what their plans do to the core at
issue, shape by shape, and what an issue of such a plan leaves. -/

namespace Sys2Proof.Machine

/-- Two cores agree in all architectural state but the sequencer's own and %rngstep. -/
def ArchKept (k k' : Core) : Prop :=
  { k'.arch with pc := k.arch.pc, loops := k.arch.loops, rot := k.arch.rot, p := k.arch.p, rngStep := k.arch.rngStep
                 solve := { k'.arch.solve with loops := k.arch.solve.loops } } = k.arch ∧
  ∀ n, n < 4 → k'.arch.pred n = k.arch.pred n

/-- A result in flight but for when it is due and what it waits for. -/
def Pend.timeless (p : Pend) : Pend := { p with due := 0, need := .ready }

theorem archKept_of_offSequencer {k k' : Core} {r : W64} (h : k'.arch.offSequencer = { k.arch with rngStep := r }.offSequencer) :
    ArchKept k k' :=
  ⟨(congrArg (fun x : Arch => { x with rngStep := k.arch.rngStep }) (eq_of_offSequencer h) :), fun _ hn => pred_of_offSequencer h hn⟩

/-- Rounding steps %rngstep at most. -/
theorem rounded_eq (k : Core) (sr : Bool) : ∃ r, k.rounded sr = { k with arch := { k.arch with rngStep := r } } := by
  cases sr
  · exact ⟨k.arch.rngStep, rfl⟩
  · exact ⟨k.arch.rngStep + 1, rfl⟩

/-- A plan whose effects at issue are on its own core alone, and none of which is held. -/
structure Plan.Local (p : Plan) : Prop where
  glob : p.glob = id
  starts : p.starts = id
  held : p.held = []

section
variable {c : Ctx} {p : Plan} {k : Core}

/-- The core as a plan that holds nothing finds it for its own effect: its results in flight behind the old, the lines they will write in
the undo log, the pipe occupied. -/
def Ctx.launched (c : Ctx) (p : Plan) (u : List Undo) (b : List Busy) : Core :=
  { c.begin (locRegs p.reads) (locRegs p.writes) with undo := u, pend := c.k.pend ++ p.lands, busy := b }

theorem issuedAlone_launched (slot : Nat) (hh : p.held = []) : ∃ u b,
    c.issuedAlone slot p = c.advance .fall (p.imm (c.launched p u b)) ∧ (p.beats = 0 → b = c.k.busy) := by
  obtain ⟨u, b, heq, hb⟩ := onCore_parts p slot (c.begin (locRegs p.reads) (locRegs p.writes))
  rw [hh, List.append_nil] at heq
  exact ⟨u, b, congrArg (c.advance .fall) heq, hb⟩

/-! ## Results of the scalar and vector units and of reads -/

/-- A plan whose effect at issue is its results in flight and at most a step of %rngstep. -/
structure Plan.Flies (p : Plan) : Prop extends p.Local where
  beats : p.beats = 0
  imm : ∃ sr, p.imm = fun k => k.rounded sr

/-- A core behind the issue of such a plan. -/
def Core.Flown (k k' : Core) : Prop :=
  ArchKept k k' ∧ (∃ ps, k'.pend = k.pend ++ ps) ∧
  { k' with arch := k.arch, pend := k.pend, undo := k.undo, stage := k.stage, vc := k.vc, loopBuf := k.loopBuf
            synced := k.synced, syncExtents := k.syncExtents, tokensIn := k.tokensIn, acquired := k.acquired } = k

theorem flown_stage (k : Core) (st : Stage) : k.Flown { k with stage := st } :=
  ⟨⟨rfl, fun _ _ => rfl⟩, ⟨[], (List.append_nil _).symm⟩, rfl⟩

theorem Plan.Flies.within (h : p.Flies) : p.Within (id : State → State) := by
  obtain ⟨sr, himm⟩ := h.imm
  exact Plan.within_of_local h.glob h.starts fun _ => by rw [himm]; rfl

theorem Plan.Flies.issued (h : p.Flies) (slot : Nat) : c.k.Flown (c.issuedAlone slot p) := by
  obtain ⟨u, b, heq, hbusy⟩ := issuedAlone_launched (c := c) slot h.held
  obtain rfl := hbusy h.beats
  obtain ⟨sr, himm⟩ := h.imm
  obtain ⟨r, hr⟩ := rounded_eq (c.launched p u c.k.busy) sr
  rw [heq, congrFun himm, hr]
  exact ⟨archKept_of_offSequencer (r := r) (advance_arch c _), ⟨p.lands, rfl⟩, rfl⟩

theorem Plan.flies_of_idle {p : Plan} (hg : p.glob = id) (hs : p.starts = id) (hh : p.held = []) (hb : p.beats = 0) (hi : p.imm = id) : p.Flies :=
  ⟨⟨hg, hs, hh⟩, hb, false, hi⟩

theorem latePlan_flies {l : Nat} {srcs : List Nat} {d : Nat} {v : W64} {fl : Flags} : (latePlan c l srcs d v fl).Flies :=
  Plan.flies_of_idle rfl rfl rfl rfl rfl

theorem fpPlan_flies {srcs : List Nat} {d m : Nat} {x : XRes} : (fpPlan c srcs d m x).Flies := ⟨⟨rfl, rfl, rfl⟩, rfl, _, rfl⟩

theorem planFcvt_flies {d a : BitVec 6} {u : BitVec 1} {m : BitVec 3} : (planFcvt d a u m c).Flies := ⟨⟨rfl, rfl, rfl⟩, rfl, _, rfl⟩

theorem planFcmpCc_flies {d : BitVec 3} {a b cc : BitVec 6} : (planFcmpCc d a b cc c).Flies := Plan.flies_of_idle rfl rfl rfl rfl rfl

theorem vecPlan_flies {l : Nat} {srcs regs masks : List Nat} {d : Nat} {m : W64} {ws : List Nat} {fl : Flags} :
    (vecPlan c l srcs regs masks d m ws fl).Flies := Plan.flies_of_idle rfl rfl rfl rfl rfl

theorem vecPlan_rounding_flies {l : Nat} {srcs regs masks : List Nat} {d : Nat} {m : W64} {ws : List Nat} {fl : Flags} {sr : Bool} :
    ((vecPlan c l srcs regs masks d m ws fl).rounding sr).Flies := ⟨⟨rfl, rfl, rfl⟩, rfl, sr, rfl⟩

theorem arith2_flies {l d x y q m f : Nat} {zeroOnly : Bool} {fv : Val → Val → Bool → XRes} {fi : Int → Int → Int} :
    (arith2 c l d x y q m f zeroOnly fv fi).Flies := by
  unfold arith2
  dsimp only
  split
  · exact Plan.flies_of_idle rfl rfl rfl rfl rfl
  · exact vecPlan_rounding_flies

theorem arith1_flies {d x q m f : Nat} {fv : Val → Val} {fi : Int → Int} : (arith1 c d x q m f fv fi).Flies := by
  unfold arith1
  dsimp only
  split
  · exact Plan.flies_of_idle rfl rfl rfl rfl rfl
  · exact vecPlan_rounding_flies

theorem sliceLoad_flies {d tv b q f : Nat} {col : Bool} : (sliceLoad c d tv b q f col).Flies := by
  unfold sliceLoad
  dsimp only
  split <;> exact Plan.flies_of_idle rfl rfl rfl rfl rfl

theorem sliceStore_flies {v tv b q f : Nat} {col : Bool} : (sliceStore c v tv b q f col).Flies := by
  unfold sliceStore
  dsimp only
  split <;> exact Plan.flies_of_idle rfl rfl rfl rfl rfl

theorem Plan.Flies.zeroMode (h : p.Flies) (m : BitVec 3) : (p.zeroMode m).Flies := by
  unfold Plan.zeroMode
  split
  · exact h
  · exact ⟨⟨h.glob, h.starts, h.held⟩, h.beats, h.imm⟩

theorem onCells_flies {reg : Nat} {base : Plan} {offs : List Nat} {f : Nat → Nat → W64 → Plan} (hb : base.Flies)
    (hf : ∀ array cell d, (f array cell d).Flies) : (onCells c reg base offs f).Flies := by
  unfold onCells
  dsimp only
  split
  · exact ⟨⟨hb.glob, hb.starts, hb.held⟩, hb.beats, hb.imm⟩
  · have hcells := hf (fld (c.k.arch.reg reg) 0 12).toNat (fld (c.k.arch.reg reg) 12 20).toNat
      ((c.cellDesc (fld (c.k.arch.reg reg) 0 12).toNat).getD 0)
    split
    · exact ⟨⟨hb.glob, hb.starts, hcells.held⟩, hb.beats, hcells.imm⟩
    · split <;> exact ⟨⟨hb.glob, hb.starts, hcells.held⟩, hb.beats, hcells.imm⟩

theorem crdPlan_flies {v reg q : Nat} {bf : Bool} : (crdPlan c v reg q bf).Flies := by
  unfold crdPlan
  exact onCells_flies (Plan.flies_of_idle rfl rfl rfl rfl rfl) fun _ _ _ => Plan.flies_of_idle rfl rfl rfl rfl rfl

theorem crdStatPlan_flies {reg rd : Nat} : (crdStatPlan c reg rd).Flies := by
  unfold crdStatPlan
  exact onCells_flies (Plan.flies_of_idle rfl rfl rfl rfl rfl) fun _ _ _ => Plan.flies_of_idle rfl rfl rfl rfl rfl

/-! ## Matrix instructions on tiles and accumulators (R324, R330) -/

/-- A plan whose effect at issue is its results in flight, and at most that older ones come due at another time. -/
structure Plan.Multiplies (p : Plan) : Prop extends p.Local where
  imm : ∃ g : Pend → Pend, (∀ x, (g x).timeless = x.timeless) ∧ p.imm = fun k => { k with pend := k.pend.map g }

/-- A core behind the issue of such a plan. -/
def Core.Multiplied (k k' : Core) : Prop :=
  ArchKept k k' ∧ (∃ ps, k'.pend.map Pend.timeless = k.pend.map Pend.timeless ++ ps) ∧
  { k' with arch := k.arch, pend := k.pend, undo := k.undo, busy := k.busy, stage := k.stage, vc := k.vc, loopBuf := k.loopBuf
            synced := k.synced, syncExtents := k.syncExtents, tokensIn := k.tokensIn, acquired := k.acquired } = k

theorem multiplied_stage (k : Core) (st : Stage) : k.Multiplied { k with stage := st } :=
  ⟨⟨rfl, fun _ _ => rfl⟩, ⟨[], (List.append_nil _).symm⟩, rfl⟩

theorem Plan.Multiplies.within (h : p.Multiplies) : p.Within (id : State → State) := by
  obtain ⟨g, -, himm⟩ := h.imm
  exact Plan.within_of_local h.glob h.starts fun _ => by rw [himm]

theorem map_timeless {g : Pend → Pend} (hg : ∀ x, (g x).timeless = x.timeless) (l : List Pend) :
    (l.map g).map Pend.timeless = l.map Pend.timeless := by
  rw [List.map_map]
  exact List.map_congr_left fun x _ => hg x

theorem Plan.Multiplies.issued (h : p.Multiplies) (slot : Nat) : c.k.Multiplied (c.issuedAlone slot p) := by
  obtain ⟨u, b, heq, -⟩ := issuedAlone_launched (c := c) slot h.held
  obtain ⟨g, hg, himm⟩ := h.imm
  rw [heq, himm]
  exact ⟨archKept_of_offSequencer (r := c.k.arch.rngStep) (advance_arch c _),
    ⟨p.lands.map Pend.timeless, (map_timeless hg _).trans List.map_append⟩, rfl⟩

theorem Plan.multiplies_of_idle {p : Plan} (hg : p.glob = id) (hs : p.starts = id) (hh : p.held = []) (hi : p.imm = id) : p.Multiplies :=
  ⟨⟨hg, hs, hh⟩, id, fun _ => rfl, by rw [hi]; funext k; simp⟩

theorem mxPlan_multiplies {tiles accs : List Nat} {b need : Nat} {bad : Bool} : (mxPlan c tiles accs b need bad).Multiplies :=
  Plan.multiplies_of_idle rfl rfl rfl rfl

theorem tileIntoAcc_multiplies {v t : Nat} {n : BitVec 5} {f : Nat} {transposed add : Bool} :
    (tileIntoAcc c v t n f transposed add).Multiplies := by
  unfold tileIntoAcc
  dsimp only
  split
  · exact mxPlan_multiplies
  · split <;> exact Plan.multiplies_of_idle rfl rfl rfl rfl

theorem drainPlan_multiplies {v t : Nat} {n : BitVec 5} {f : Nat} {transposed sat clear : Bool} :
    (drainPlan c v t n f transposed sat clear).Multiplies := by
  unfold drainPlan
  dsimp only
  split <;> exact Plan.multiplies_of_idle rfl rfl rfl rfl

/-- What a multiply does to a result in flight that it continues (R330). -/
def Pend.chainedTo (v due : Nat) (x : Pend) : Pend := if x.accView == some v then { x with due := due } else x

theorem chainedTo_timeless (v due : Nat) (x : Pend) : (x.chainedTo v due).timeless = x.timeless := by
  unfold Pend.chainedTo
  split <;> rfl

theorem mmaBody_multiplies {base : Plan} {v b kk : Nat} {ints clear : Bool} {as bs : List (List Val)} (h : base.Local) (hi : base.imm = id) :
    (mmaBody c base v b kk ints clear as bs).Multiplies := by
  refine ⟨⟨h.glob, h.starts, h.held⟩, Pend.chainedTo v (c.k.vc + (b + 13)), chainedTo_timeless _ _, ?_⟩
  unfold mmaBody
  simp only [hi]
  rfl

theorem Plan.multiplies_ite {q : Plan} {b : Prop} [Decidable b] (hp : p.Multiplies) (hq : q.Multiplies) : (if b then p else q).Multiplies := by
  split
  · exact hp
  · exact hq

theorem mmaTiles_multiplies {v ta tb : Nat} {n : BitVec 5} {f : Nat} {xa xb clear scaled : Bool} :
    (mmaTiles c v ta tb n f xa xb clear scaled).Multiplies :=
  Plan.multiplies_ite mxPlan_multiplies (mmaBody_multiplies ⟨rfl, rfl, rfl⟩ rfl)

/-! ## NEXTT (R374) -/

/-- A core behind the issue of NEXTT: its requests and counts may have changed. -/
def Core.Tiled (k k' : Core) : Prop :=
  ArchKept k k' ∧ (∃ ps, k'.pend = k.pend ++ ps) ∧
  { k' with arch := k.arch, pend := k.pend, tiles := k.tiles, tilesTaken := k.tilesTaken, nextts := k.nextts, tileReq := k.tileReq
            undo := k.undo, stage := k.stage, vc := k.vc, loopBuf := k.loopBuf
            synced := k.synced, syncExtents := k.syncExtents, tokensIn := k.tokensIn, acquired := k.acquired } = k

theorem tiled_stage (k : Core) (st : Stage) : k.Tiled { k with stage := st } :=
  ⟨⟨rfl, fun _ _ => rfl⟩, ⟨[], (List.append_nil _).symm⟩, rfl⟩

/-- A plan whose effect at issue is its results in flight and the counts and requests of tiles. -/
structure Plan.Requests (p : Plan) : Prop extends p.Local where
  beats : p.beats = 0
  imm : ∀ k, ∃ n taken req, p.imm k = { k with nextts := n, tilesTaken := taken, tileReq := req }

theorem Plan.Requests.within (h : p.Requests) : p.Within (id : State → State) :=
  Plan.within_of_local h.glob h.starts fun k => by
    obtain ⟨n, taken, req, himm⟩ := h.imm k
    rw [himm]

theorem Plan.Requests.issued (h : p.Requests) (slot : Nat) : c.k.Tiled (c.issuedAlone slot p) := by
  obtain ⟨u, b, heq, hbusy⟩ := issuedAlone_launched (c := c) slot h.held
  obtain rfl := hbusy h.beats
  obtain ⟨n, taken, req, himm⟩ := h.imm (c.launched p u c.k.busy)
  rw [heq, himm]
  exact ⟨archKept_of_offSequencer (r := c.k.arch.rngStep) (advance_arch c _), ⟨p.lands, rfl⟩, rfl⟩

theorem nexttPlan_requests {rd : Nat} : (nexttPlan c rd).Requests := by
  unfold nexttPlan
  dsimp only
  split
  · exact ⟨⟨rfl, rfl, rfl⟩, rfl, fun _ => ⟨_, _, _, rfl⟩⟩
  · split
    · exact ⟨⟨rfl, rfl, rfl⟩, rfl, fun _ => ⟨_, _, _, rfl⟩⟩
    · split <;> exact ⟨⟨rfl, rfl, rfl⟩, rfl, fun _ => ⟨_, _, _, rfl⟩⟩

end

end Sys2Proof.Machine
end

section
/-! PROOFS. The frame at issue of reads through heads (R329, R359), and of every instruction whose results land later. -/

namespace Sys2Proof.Machine

/-! ## What a read through a head may change of the package -/

/-- The package but for the halls, which hold the extent caches and the walks. -/
def State.offHalls (s : State) : State := { s with halls := [] }

theorem touchExtent_offHalls (s : State) (c run : Nat) (t : BitVec 20) (i : Nat) : (s.touchExtent c run t i).offHalls = s.offHalls := by
  unfold State.touchExtent
  dsimp only
  split <;> rfl

theorem startWalk_offHalls (s : State) (c run : Nat) (t : BitVec 20) (i : Nat) (w : Option (Nat × Nat)) :
    (s.startWalk c run t i w).offHalls = s.offHalls := by
  unfold State.startWalk
  dsimp only
  split <;> rfl

/-! ## What it may change of its core -/

/-- A core but for head `n`, the windows, what was read and acquired, and when results in flight are due and what they wait for. -/
def Core.offHead (n : Nat) (k : Core) : Core :=
  { k with arch := { k.arch with heads := k.arch.heads.set n Head.detached }
           pend := k.pend.map Pend.timeless, windows := [], floors := [], acquired := [] }

theorem moveHead_offHead (k : Core) (n : Nat) (d : Dir) (p : Nat) : (k.moveHead n d p).offHead n = k.offHead n := by
  simp only [Core.moveHead, Core.withHead, Core.offHead, List.set_set]

theorem acquire_offHead (k : Core) (n : Nat) (cs : List Carried) : (k.acquire cs).offHead n = k.offHead n := rfl

theorem note_offHead (k : Core) (n : Nat) (t : BitVec 20) (r v : Nat) : (k.note t r v).offHead n = k.offHead n := rfl

theorem capReads_offHead (k : Core) (n : Nat) (t : BitVec 20) (r v : Nat) : (k.capReads t r v).offHead n = k.offHead n := by
  have hpend : (k.capReads t r v).pend.map Pend.timeless = k.pend.map Pend.timeless := by
    simp only [Core.capReads, List.map_map]
    exact List.map_congr_left fun _ _ => rfl
  rw [Core.offHead, hpend]
  rfl

section
variable {c : Ctx} {p q : Plan} {n : Nat} {k : Core}

theorem noteRead_offHead (m : Nat) (h : Head) (r : Nat) (k : Core) : (c.noteRead m h r k).offHead n = k.offHead n := by
  unfold Ctx.noteRead
  split
  · rfl
  · split
    · exact (capReads_offHead _ n _ _ _).trans (note_offHead _ n _ _ _)
    · rfl

/-! ## Plans that read through a head -/

/-- A plan that reads through head `n`: it holds nothing, and its effects stay within the halls and what `Core.offHead` leaves out. -/
structure Plan.Reads (n : Nat) (p : Plan) : Prop where
  glob : ∀ u, (p.glob u).offHalls = u.offHalls
  starts : ∀ u, (p.starts u).offHalls = u.offHalls
  held : p.held = []
  imm : ∀ k, (p.imm k).offHead n = k.offHead n

/-- A core behind the issue of such a plan. -/
def Core.HasRead (n : Nat) (k k' : Core) : Prop :=
  ArchKept k { k' with arch := { k'.arch with heads := k.arch.heads } } ∧
  (∀ m, m ≠ n → k'.arch.heads.getD m Head.detached = k.arch.heads.getD m Head.detached) ∧
  (∃ ps, k'.pend.map Pend.timeless = k.pend.map Pend.timeless ++ ps) ∧
  { k' with arch := k.arch, pend := k.pend, undo := k.undo, busy := k.busy, windows := k.windows, floors := k.floors
            stage := k.stage, vc := k.vc, loopBuf := k.loopBuf
            synced := k.synced, syncExtents := k.syncExtents, tokensIn := k.tokensIn, acquired := k.acquired } = k

theorem hasRead_stage (n : Nat) (k : Core) (st : Stage) : k.HasRead n { k with stage := st } :=
  ⟨⟨rfl, fun _ _ => rfl⟩, fun _ _ => rfl, ⟨[], (List.append_nil _).symm⟩, rfl⟩

theorem Plan.Reads.within (h : p.Reads n) : p.Within State.offHalls :=
  ⟨fun u => ⟨(congrArg State.cores (h.glob u) :), (congrArg State.outside (h.glob u) :)⟩,
    fun u => ⟨(congrArg State.cores (h.starts u) :), (congrArg State.outside (h.starts u) :)⟩,
    fun k => (congrArg Core.no (h.imm k) :)⟩

theorem getD_of_set_eq {α : Type} {l l' : List α} {n m : Nat} {x y : α} (h : l.set n x = l'.set n x) (hm : m ≠ n) :
    l.getD m y = l'.getD m y := by
  have hget := congrArg (fun l : List α => l[m]?) h
  simp only [List.getElem?_set_ne hm.symm] at hget
  rw [List.getD_eq_getElem?_getD, List.getD_eq_getElem?_getD, hget]

theorem Plan.Reads.issued (h : p.Reads n) (slot : Nat) : c.k.HasRead n (c.issuedAlone slot p) := by
  obtain ⟨u, b, heq, -⟩ := issuedAlone_launched (c := c) slot h.held
  have himm := h.imm (c.launched p u b)
  have hseq := advance_arch c (p.imm (c.launched p u b))
  have hheads : (c.issuedAlone slot p).arch.heads = (p.imm (c.launched p u b)).arch.heads := by
    rw [heq]
    exact (congrArg Arch.heads hseq :)
  have harch : { (p.imm (c.launched p u b)).arch with heads := c.k.arch.heads } = c.k.arch :=
    (congrArg (fun x : Core => { x.arch with heads := c.k.arch.heads }) himm :)
  have hpend : (p.imm (c.launched p u b)).pend.map Pend.timeless = (c.k.pend ++ p.lands).map Pend.timeless := (congrArg Core.pend himm :)
  refine ⟨archKept_of_offSequencer (r := c.k.arch.rngStep) ?_, fun m hm => ?_, ⟨p.lands.map Pend.timeless, ?_⟩, ?_⟩
  · rw [heq]
    exact (congrArg (fun x : Arch => { x with heads := c.k.arch.heads }) hseq :).trans (congrArg Arch.offSequencer harch)
  · rw [hheads]
    exact getD_of_set_eq (congrArg (fun x : Core => x.arch.heads) himm :) hm
  · rw [heq]
    exact hpend.trans List.map_append
  · rw [heq]
    exact (congrArg (fun x : Core => { x with
      arch := c.k.arch, pend := c.k.pend, undo := c.k.undo, busy := c.k.busy, windows := c.k.windows, floors := c.k.floors
      stage := c.k.stage, vc := c.k.vc, loopBuf := c.k.loopBuf
      synced := c.k.synced, syncExtents := c.k.syncExtents, tokensIn := c.k.tokensIn, acquired := c.k.acquired }) himm :)

theorem Plan.reads_of_idle (hg : p.glob = id) (hs : p.starts = id) (hh : p.held = []) (hi : p.imm = id) : p.Reads n :=
  ⟨fun _ => by rw [hg]; rfl, fun _ => by rw [hs]; rfl, hh, fun _ => by rw [hi]; rfl⟩

theorem tapeTrap_reads {t : BitVec 20} {i : W64} : (tapeTrap t i).Reads n := Plan.reads_of_idle rfl rfl rfl rfl

theorem rangeTrap_reads {m : Nat} {i : W64} : (rangeTrap m i).Reads n := Plan.reads_of_idle rfl rfl rfl rfl

theorem Plan.Reads.and (hp : p.Reads n) (hq : q.Reads n) : (p.and q).Reads n := by
  unfold Plan.and
  split
  · exact hp
  · exact ⟨fun u => (hq.glob _).trans (hp.glob u), hq.starts, hq.held, hq.imm⟩

theorem enter_reads {t : BitVec 20} {d : Dir} {r : Nat} : (c.enter t d r).Reads n := by
  unfold Ctx.enter
  dsimp only
  split
  · exact Plan.reads_of_idle rfl rfl rfl rfl
  · split
    · exact tapeTrap_reads
    · split
      · exact ⟨fun u => touchExtent_offHalls u _ _ _ _, fun _ => rfl, rfl, fun _ => rfl⟩
      · exact ⟨fun _ => rfl, fun u => startWalk_offHalls u _ _ _ _ _, rfl, fun _ => rfl⟩

theorem present_reads {t : BitVec 20} {d : Dir} {r : Nat} : (c.present t d r).Reads n := by
  unfold Ctx.present
  split
  · exact tapeTrap_reads
  · exact Plan.reads_of_idle rfl rfl rfl rfl

theorem move_reads {d : Dir} {r : Int} : (c.move n d r).Reads n := by
  have hgo : Plan.Reads n { imm := fun k => k.moveHead n d r.toNat } :=
    ⟨fun _ => rfl, fun _ => rfl, rfl, fun k => moveHead_offHead k n d _⟩
  unfold Ctx.move
  dsimp only
  split
  · exact rangeTrap_reads
  · split
    · exact hgo
    · split
      · exact hgo
      · exact enter_reads.and hgo

theorem onHead_reads {m : Nat} {base : Plan} {f : Head → Dir → Plan} (hb : base.Reads n) (hf : ∀ h d, (f h d).Reads n) :
    (onHead c m base f).Reads n := by
  unfold onHead
  dsimp only
  split
  · exact ⟨hb.glob, hb.starts, hb.held, hb.imm⟩
  · split
    · exact ⟨hb.glob, hb.starts, hb.held, hb.imm⟩
    · next d _ => exact ⟨(hf _ d).glob, (hf _ d).starts, (hf _ d).held, (hf _ d).imm⟩

theorem Plan.Reads.landing (h : p.Reads n) (l : List Pend) : (if p.lands.isEmpty then { p with lands := l } else p).Reads n := by
  split
  · exact ⟨h.glob, h.starts, h.held, h.imm⟩
  · exact h

/-- A plan's effect on the core behind that of a move. -/
theorem Plan.Reads.behind (hq : q.Reads n) (hp : p.Reads n) : Plan.Reads n { q with imm := fun k => q.imm (p.imm k) } :=
  ⟨hq.glob, hq.starts, hq.held, fun k => (hq.imm _).trans (hp.imm k)⟩

theorem step_reads {step : Bool} {d : Dir} {r : Int} : (if step then c.move n d r else {} : Plan).Reads n := by
  split
  · exact move_reads
  · exact Plan.reads_of_idle rfl rfl rfl rfl

theorem readPlan_reads {v : Nat} {step : Bool} : (readPlan c n v step).Reads n := by
  unfold readPlan
  refine onHead_reads (Plan.reads_of_idle rfl rfl rfl rfl) fun h d => ?_
  dsimp only
  split
  · exact Plan.reads_of_idle rfl rfl rfl rfl
  · refine Plan.Reads.landing ?_ _
    split
    · exact rangeTrap_reads
    · split
      · exact tapeTrap_reads
      · refine Plan.Reads.behind (step_reads.and (present_reads.and ?_)) step_reads
        split
        · refine ⟨fun _ => rfl, fun _ => rfl, rfl, fun k => (noteRead_offHead _ _ _ _).trans ?_⟩
          split
          · exact acquire_offHead k n _
          · rfl
        · exact Plan.reads_of_idle rfl rfl rfl rfl
        · exact Plan.reads_of_idle rfl rfl rfl rfl

theorem mxPlan_reads {tiles accs : List Nat} {b need : Nat} {bad : Bool} : (mxPlan c tiles accs b need bad).Reads n :=
  Plan.reads_of_idle rfl rfl rfl rfl

theorem mmaBody_reads {base : Plan} {v b kk : Nat} {ints clear : Bool} {as bs : List (List Val)} (h : base.Reads n) :
    (mmaBody c base v b kk ints clear as bs).Reads n := by
  refine ⟨h.glob, h.starts, h.held, fun k => ?_⟩
  have hpend := map_timeless (chainedTo_timeless v (c.k.vc + (b + 13))) (base.imm k).pend
  exact (congrArg (fun l => { (base.imm k).offHead n with pend := l }) hpend).trans (h.imm k)

theorem mmaStreamed_reads {v tb : Nat} {m : BitVec 5} {f : Nat} {xb clear : Bool} : (mmaStreamed c v n tb m f xb clear).Reads n := by
  have hrows : ∀ (cs : List Carried) (k : Core), ((List.range 64).foldl (fun k (i : Nat) => c.noteRead n (c.head n) ((c.head n).target i).toNat k)
      (k.acquire cs)).offHead n = k.offHead n := fun cs k =>
    (foldl_keeps (Core.offHead n) (fun b (i : Nat) => noteRead_offHead n (c.head n) _ b) _ _).trans (acquire_offHead k n cs)
  unfold mmaStreamed
  dsimp only
  split
  · exact mxPlan_reads
  · split
    · exact Plan.reads_of_idle rfl rfl rfl rfl
    · split
      · exact Plan.reads_of_idle rfl rfl rfl rfl
      · split
        · exact Plan.reads_of_idle rfl rfl rfl rfl
        · split
          · exact Plan.reads_of_idle rfl rfl rfl rfl
          · exact mmaBody_reads ⟨fun _ => rfl, fun _ => rfl, rfl, hrows _⟩

end

end Sys2Proof.Machine

namespace Sys2Proof

open Machine

section
variable (d a b : BitVec 6) (j : BitVec 12) (m : BitVec 3) (u v w : BitVec 5) (q : BitVec 2) (f : BitVec 4) (cc : BitVec 6)
  (b1 b2 b3 : BitVec 1) (ta tb : BitVec 4) (c e h : BitVec 3) (n : BitVec 5) (pd : BitVec 3)

theorem lateResults_fly :
    ∀ i ∈ ([.mul d a b, .mulh d a b, .mulhu d a b, .divu d a b, .remu d a b, .ldB d a j, .ldH d a j, .ldW d a j, .ldD d a j,
      .faddS d a b m, .fmulS d a b m, .ffmaS d a b m, .fminS d a b, .fmaxS d a b, .icvt d a b1 m, .fcvt d a b1 m, .fcmpCc pd a b cc,
      .vadd u v w q m f, .vsub u v w q m f, .vmul u v w q m f,
      .vmin u v w q m f, .vmax u v w q m f, .vabs u v q m f, .vneg u v q m f, .vand u v w q, .vor u v w q, .vxor u v w q, .vsel u v w q,
      .vmov u v q, .trowLd u ta v q ⟨m, f⟩, .tcolLd u ta v q ⟨m, f⟩, .trowSt u ta v q ⟨m, f⟩, .tcolSt u ta v q ⟨m, f⟩, .crd u a q b1, .crdStat a d] :
      List Instr),
    ∃ slot, soloOf i = some (slot, false) ∧ slot ≠ 7 ∧ ∀ c, (planOf i c).Flies := by
  iterate 9 refine List.forall_mem_cons.mpr ⟨⟨0, rfl, by decide, fun _ => latePlan_flies⟩, ?_⟩
  iterate 3 refine List.forall_mem_cons.mpr ⟨⟨0, rfl, by decide, fun _ => fpPlan_flies⟩, ?_⟩
  iterate 2 refine List.forall_mem_cons.mpr ⟨⟨0, rfl, by decide, fun _ => latePlan_flies⟩, ?_⟩
  refine List.forall_mem_cons.mpr ⟨⟨0, rfl, by decide, fun _ => fpPlan_flies⟩, ?_⟩
  refine List.forall_mem_cons.mpr ⟨⟨0, rfl, by decide, fun _ => planFcvt_flies⟩, ?_⟩
  refine List.forall_mem_cons.mpr ⟨⟨0, rfl, by decide, fun _ => planFcmpCc_flies⟩, ?_⟩
  iterate 5 refine List.forall_mem_cons.mpr ⟨⟨2, rfl, by decide, fun _ => arith2_flies⟩, ?_⟩
  iterate 2 refine List.forall_mem_cons.mpr ⟨⟨2, rfl, by decide, fun _ => arith1_flies⟩, ?_⟩
  iterate 5 refine List.forall_mem_cons.mpr ⟨⟨2, rfl, by decide, fun _ => vecPlan_flies⟩, ?_⟩
  iterate 2 refine List.forall_mem_cons.mpr ⟨⟨2, rfl, by decide, fun _ => sliceLoad_flies.zeroMode m⟩, ?_⟩
  iterate 2 refine List.forall_mem_cons.mpr ⟨⟨2, rfl, by decide, fun _ => sliceStore_flies.zeroMode m⟩, ?_⟩
  refine List.forall_mem_cons.mpr ⟨⟨4, rfl, by decide, fun _ => crdPlan_flies⟩, ?_⟩
  refine List.forall_mem_cons.mpr ⟨⟨4, rfl, by decide, fun _ => crdStatPlan_flies⟩, ?_⟩
  exact List.forall_mem_nil _

theorem tileMatrix_multiplies :
    ∀ i ∈ ([.mzero c n b1, .mload c ta n f b1, .maddt c ta n f b1, .mscl c a n b1, .mxpose c e n, .mswap c e n, .mstat c d n,
      .mdrain c ta n f b1 b2 b3, .mmaTile c ta tb n f b1 b2 b3, .mmas c ta tb n f b1 b2 b3] : List Instr),
    soloOf i = some (3, false) ∧ ∀ c, (planOf i c).Multiplies := by
  refine List.forall_mem_cons.mpr ⟨⟨rfl, fun _ => Plan.multiplies_of_idle rfl rfl rfl rfl⟩, ?_⟩
  iterate 2 refine List.forall_mem_cons.mpr ⟨⟨rfl, fun _ => tileIntoAcc_multiplies⟩, ?_⟩
  iterate 4 refine List.forall_mem_cons.mpr ⟨⟨rfl, fun _ => Plan.multiplies_of_idle rfl rfl rfl rfl⟩, ?_⟩
  refine List.forall_mem_cons.mpr ⟨⟨rfl, fun _ => drainPlan_multiplies⟩, ?_⟩
  iterate 2 refine List.forall_mem_cons.mpr ⟨⟨rfl, fun _ => mmaTiles_multiplies⟩, ?_⟩
  exact List.forall_mem_nil _

theorem headReads_read :
    ∀ i ∈ ([.hrd h u b1, .hrds h u b1, .mmaStream c h tb n f b1 b2] : List Instr),
    ∃ slot, soloOf i = some (slot, false) ∧ slot ≠ 7 ∧ ∀ c, (planOf i c).Reads h.toNat := by
  iterate 2 refine List.forall_mem_cons.mpr ⟨⟨4, rfl, by decide, fun _ => readPlan_reads⟩, ?_⟩
  refine List.forall_mem_cons.mpr ⟨⟨3, rfl, by decide, fun _ => mmaStreamed_reads⟩, ?_⟩
  exact List.forall_mem_nil _

end

/-- Settles O46, by the four shapes of effect at issue: results in flight, chained multiplies, requests of tiles, reads through a head. -/
theorem flightFrame : Obligations.FlightFrame := by
  unfold Obligations.FlightFrame
  intro s t k d a b j m u v w q f cc b1 b2 b3 ta tb c e h n pd
  dsimp only
  intro hk
  refine ⟨fun i hi hx => ?_, fun i hi hx => ?_, fun hx => ?_, fun i hi hx => ?_⟩
  · obtain ⟨slot, hs, h7, hp⟩ := lateResults_fly d a b j m u v w q f cc b1 ta pd i hi
    obtain ⟨hout, hothers, hcore⟩ :=
      exec_frame hs h7 hk (fun c => (hp c).within) (flown_stage k) (fun c hc => hc ▸ (hp c).issued slot) hx
    exact ⟨eq_of_outside hout, hothers, hcore⟩
  · obtain ⟨hs, hp⟩ := tileMatrix_multiplies d a f b1 b2 b3 ta tb c e n i hi
    obtain ⟨hout, hothers, hcore⟩ :=
      exec_frame hs (by decide) hk (fun c => (hp c).within) (multiplied_stage k) (fun c hc => hc ▸ (hp c).issued 3) hx
    exact ⟨eq_of_outside hout, hothers, hcore⟩
  · have hp : ∀ c, (planOf (.nextt d) c).Requests := fun _ => nexttPlan_requests
    obtain ⟨hout, hothers, hcore⟩ :=
      exec_frame (slot := 6) rfl (by decide) hk (fun c => (hp c).within) (tiled_stage k) (fun c hc => hc ▸ (hp c).issued 6) hx
    exact ⟨eq_of_outside hout, hothers, hcore⟩
  · obtain ⟨slot, hs, h7, hp⟩ := headReads_read u f b1 b2 tb c h n i hi
    obtain ⟨hout, hothers, hcore⟩ :=
      exec_frame hs h7 hk (fun c => (hp c).within) (hasRead_stage h.toNat k) (fun c hc => hc ▸ (hp c).issued slot) hx
    exact ⟨(congrArg (fun x : State => { x with cores := s.cores, turn := s.turn, halls := s.halls }) hout :), hothers, hcore⟩

end Sys2Proof
end
